-- ==== Sys2Proof/Word.lean ====
section
/-!
DEFINITION. Trits and balanced ternary words.

A word of n trits is held as the integer it denotes (R11): every integer within
(3^n - 1)/2 of zero has exactly one n-trit string, so nothing is lost, and the
pseudocode of the manual, which is exact integer arithmetic narrowed by named
helpers (R7), reads the same here.
-/

namespace Sys2Proof

/-- A trit (R3): the values -1, 0 and +1. -/
inductive Trit where
  | neg | zero | pos
  deriving DecidableEq, Repr

/-- A T27 value: an integer within `maxTrits 27` of zero. DESIGN CHOICE, safe (log 58). -/
abbrev Word := Int
/-- A T9 value. -/
abbrev Tryte := Int
/-- A 54-trit address pair. -/
abbrev Pair := Int

namespace Trit

def toInt : Trit → Int
  | neg => -1
  | zero => 0
  | pos => 1

/-- The trit of an integer in -1..+1; other values do not occur where it is used. -/
def ofInt (x : Int) : Trit :=
  if x < 0 then neg else if x = 0 then zero else pos

def isPos (t : Trit) : Bool := t == pos
def isNeg (t : Trit) : Bool := t == neg

end Trit

/-- 3^n as an integer. -/
def p3 (n : Nat) : Int := 3 ^ n

/-- The largest n-trit value, (3^n - 1)/2 (R11). -/
def maxTrits (n : Nat) : Int := (p3 n - 1) / 2

/-- wrap(x, n): the low n trits of x (R21). -/
def wrap (n : Nat) (x : Int) : Int := (x + maxTrits n) % p3 n - maxTrits n

/-- sat(x, n): x clamped to the n-trit range (R21). -/
def sat (n : Nat) (x : Int) : Int :=
  if x > maxTrits n then maxTrits n else if x < -maxTrits n then -maxTrits n else x

/-- trunc(x, n): the integer nearest to x/3^n, dropping n trits (R19). -/
def trunc (n : Nat) (x : Int) : Int := (x + maxTrits n) / p3 n

/-- Whether x has an n-trit string. -/
def fits (n : Nat) (x : Int) : Bool := decide (-maxTrits n ≤ x) && decide (x ≤ maxTrits n)

/-- The sign of x as -1, 0 or +1. -/
def sgn (x : Int) : Int := if x < 0 then -1 else if x = 0 then 0 else 1

end Sys2Proof
end

