-- ==== Sys2Proof/Config.lean ====
section
/-!
DEFINITION. What one device fixes and what the manual leaves open.

The constants are the capacities of the part (R9, R430). The opaque constants are
the free values: the manual bounds or names them and states no value, so no proof
may know one. Each has its entry in notes/assumptions.
-/

namespace Sys2Proof.Config

/-- Compute dies (R430). -/
def dies : Nat := 27
/-- Cores of one die, and of the package (R430). -/
def coresPerDie : Nat := 18
def cores : Nat := 486
/-- Lanes of a core (R170). -/
def lanes : Nat := 81
/-- Lines of one L1, of one instruction cache and of one slice; clauses of a loop buffer (R247). -/
def l1Lines : Nat := 81
def icacheLines : Nat := 27
def sliceLines : Nat := 729
def loopClauses : Nat := 27
/-- Scratchpad sectors of one core (R248). -/
def scratchSectors : Int := 2187
/-- Trytes of the HBM range with every channel pair in service (R250, R475). -/
def hbmTrytes : Int := 388800000000
/-- HBM channel pairs, and the trytes withdrawn with one of them (R472, R475). DEDUCED, unsafe (log 39). -/
def channelPairs : Nat := 192
def channelPairTrytes : Int := 2025000000
/-- Table sizes: range locks of a core (R291), boardings of a tap (R368), forwarding entries of a
pair (R425), chains of a core on one engine (R319), records of a launch queue (R197). -/
def rangeLocks : Nat := 27
def tapBoardings : Nat := 27
def forwardEntries : Nat := 27
def chainPlaces : Nat := 9
def queueRecords : Nat := 243
/-- Base of the control window, -3^29 (R445). -/
def windowBase : Int := -68630377364883

/-- The units of time in one REFTIME tick: 100 MHz and every clock of R436 divide them evenly. -/
def tickUnits : Nat := 41580
/-- Units of time that pass in the k-th step: no duration of a step is stated (R480).
DESIGN CHOICE, safe (log 7). DESIGN CHOICE, unsafe (log 70). -/
opaque elapsed : Nat → Nat
/-- The output of the decoder of CCSDS 123.0-B-2, which R331 names and the manual does not print: `decoded stream` is the
samples in stream order and whether the stream keeps its format. DESIGN CHOICE, safe (log 8). -/
opaque decoded : List Int → List Int × Bool
/-- The samples of a pairing of R330 that the bytes of a deflated stream make, by the format of the destination: R331 does
not say which raw format they stand in. DESIGN CHOICE, safe (log 8). -/
opaque sampled : Int → List Int → List Int
/-- The residue of a CONV element that is a NaN or infinite, for which e of R381 has no value.
DESIGN CHOICE, safe (log 9). -/
opaque residueOf : Int → Int → Int
/-- The 160 bytes in which a device returns a sector that the k-th step reads through a peer window, at its first sending
and at its second (R451, R452). DESIGN CHOICE, safe (log 10). -/
opaque peerSector : Nat → Int → Int → Bool → List (BitVec 8)
/-- The UALink port, from 0 to 8, through which a device is reached (R451, R474). DESIGN CHOICE, safe (log 10). -/
opaque portOf : Int → Nat
/-- A participant of another device that joins a collective: its device, whether it executed MCAST, and the sendings of the
sector that holds its record and of each sector of its source, 160 bytes each (R401, R451, R455). -/
structure RemoteJoin where
  device : Int
  mcast : Bool
  record : List (List (BitVec 8))
  sources : List (List (List (BitVec 8)))
  deriving DecidableEq, Repr
/-- The participants of other devices that join as the k-th step ends, at this device or at the one whose collective unit
their identifier names (R455). DESIGN CHOICE, safe (log 10). -/
opaque arrivingJoins : Nat → List RemoteJoin
/-- The bits of 160 bytes that differ as a sector of a result comes from the collective unit of another device, at its first
sending and at its second: step, identifier and sector (R451, R455). DESIGN CHOICE, safe (log 10). -/
opaque linkNoise : Nat → Int → Nat → Bool → List (BitVec 8)
/-- The SHAKE256 digest of the firmware key, fused at manufacture, and whether a signature holds for an image under a key
(R476). DESIGN CHOICE, safe (log 11). -/
opaque fusedDigest : List (BitVec 8)
opaque signatureHolds : List (BitVec 8) → List (BitVec 8) → List (BitVec 8) → Bool
/-- The device identity of 32 bytes, fused at manufacture, and a byte of the signature that the attestation unit makes of
a digest (R477). DESIGN CHOICE, safe (log 12). -/
opaque identity : List (BitVec 8)
opaque signatureByte : List (BitVec 8) → Nat → BitVec 8
/-- The check code of a beam tile and its header word; the function is internal to the device (R359).
DESIGN CHOICE, safe (log 13). -/
opaque beamCheck : Int → List Int → Int
/-- A tryte of a context that the k-th step writes to a spool slot: its layout is internal (R422).
DESIGN CHOICE, unsafe (log 14). -/
opaque contextTryte : Nat → Nat → Int
/-- Whether the core captures a loop whose clause leaves LOOPB at 0, at the k-th step (R271).
DESIGN CHOICE, safe (log 15). -/
opaque captures : Nat → Bool
/-- Whether the next step that comes from outside comes as the k-th step: the manual times none (R480).
DESIGN CHOICE, unsafe (log 2). -/
opaque arrives : Nat → Bool
/-- The k-th choice the manual leaves to the device, among lines of one priority that a full cache
may replace (R260); taken modulo the number of candidates. DESIGN CHOICE, unsafe (log 16). -/
opaque choose : Nat → Nat
/-- The energy in nanojoules that a die uses in the 100 REFTIME ticks before the k-th step (R205).
DESIGN CHOICE, safe (log 104). -/
opaque measured : Nat → Nat → Nat
/-- Whether a step of the units inside goes before the gangs after the k-th step (R177).
DESIGN CHOICE, unsafe (log 3). -/
opaque insideFirst : Nat → Bool
/-- The certificate of the attestation key, stored at manufacture (R477). DESIGN CHOICE, safe (log 12). -/
opaque certificate : List (BitVec 8)
/-- The places in the staging memory of the data and of the PRP list of the k-th Read command of a storage-table entry,
the PRP entries that its submission queue entry (0 and 1) and that list hold, which are bus addresses of BAR4, and what
the drive writes into its completion queue entry before the command identifier (R442, R449).
DESIGN CHOICE, safe (log 90). -/
opaque readBuffer : Nat → Nat → Nat
opaque prpPlace : Nat → Nat → Nat
opaque prpEntry : Nat → Nat → Nat → BitVec 64
opaque completionHead : Nat → Nat → BitVec 96
/-- Which of the channel pairs in service holds an HBM sector, taken modulo their number: a fixed function of the pairs
withdrawn that the manual does not give (R250, R475). DESIGN CHOICE, unsafe (log 17). -/
opaque channelOf : List Nat → Nat → Nat
/-- Whether a dirty sector cannot be read as the lines of a fenced slice move, at the k-th step (R474).
DESIGN CHOICE, safe (log 103). -/
opaque unreadable : Nat → Nat → Bool
/-- The format, taken modulo 9, in which an IO die stores a sector of a page whose COMP is not 0 (R269).
DESIGN CHOICE, safe (log 87). -/
opaque format : Nat → Nat → Nat
/-- The first 1,215 bits of a sector in a layout of formats 1 to 8, which is internal to the device, and the trytes that
such a sector holds when some of its bits were read wrong (R265, R269). DESIGN CHOICE, safe (log 87). -/
opaque compressed : Nat → List Int → Nat
opaque expanded : List (BitVec 8) → List Int

end Sys2Proof.Config
end

