-- ==== Sys2Proof/Syntax.lean ====
section
/-!
DEFINITION. The steps of the machine as syntax: one constructor for each row of the
table of operations and events.

A constructor of an instruction carries its guard, its shape where it has one, the
indices of its registers after R53, and its literals. A constructor of an event
carries what reaches the step from outside: which thread, core or unit it befalls,
and what the host, a link or a sensor delivered with it.
-/

namespace Sys2Proof

/-- A guard: a condition register and the sense it must equal (R33). -/
structure Guard where
  reg : Nat
  sense : Trit
  deriving DecidableEq, Repr

/-- The guard under which an instruction always executes. -/
def Guard.always : Guard := ⟨0, .zero⟩

/-- Element shape (R55). -/
inductive Shape where
  | trytes | word | halves
  deriving DecidableEq, Repr

/-- Cache hint of a load or store (R60). -/
inductive Hint where
  | default | na | by
  deriving DecidableEq, Repr

/-- Ordering of an atomic (R60). -/
inductive Order where
  | rlx | acq | rel | sc
  deriving DecidableEq, Repr

/-- Routing of the halves of the second operand (R114). -/
inductive Route where
  | straight | sw | bl | bh
  deriving DecidableEq, Repr

/-- Operation of RED, SCAN and REDUCE (R220). -/
inductive RedOp where
  | add | adds | min | max | tsum
  deriving DecidableEq, Repr

/-- Element formats of FCVT (R161), of tensor records and of chain entries (R325, R329). -/
inductive Fmt where
  | tf9 | t9 | t27 | tf27 | h13 | t3 | byte | raw16u | raw16s | raw32
  deriving DecidableEq, Repr

/-- An operand that names scratchpad by a g register or translated memory by an a register (R376). -/
inductive Place where
  | g (i : Nat)
  | a (i : Nat)
  deriving DecidableEq, Repr

/-- The special registers of R35. -/
inductive Special where
  | threadid | laneid | groupid | teamid | boltid | flags | status | splimit | trapvec
  | trappc | trapinfo | trapaddr | rsdepth | cycles | reftime | probeflag
  deriving DecidableEq, Repr

/-- A thread by its bolt and THREADID. -/
structure ThreadId where
  bolt : Nat
  tid : Nat
  deriving DecidableEq, Repr

/-- A team by its bolt and TEAMID. -/
structure TeamId where
  bolt : Nat
  team : Nat
  deriving DecidableEq, Repr

/-- How the Read command of a storage entry ends: its status (0 when good), and the bytes that the drive wrote into the
staging memory (R333, R442). -/
structure ReadAnswer where
  status : Nat
  bytes : List (BitVec 8)
  deriving DecidableEq, Repr

/-- What the checks of a beat find: whether it passes its check at the tap, and whether the feeder that placed it found
its tile to pass the feeder's own check (R370, R371). -/
structure BeatCheck where
  intact : Bool
  fed : Bool
  deriving DecidableEq, Repr

/-- Where a soft error is found (R426). -/
inductive SoftSite where
  | cleanLine (core : Nat) (sector : Int)
  | dirtyL1 (core : Nat) (sector : Int)
  | slice (home : Nat) (sector : Int)
  | scratch (team : TeamId) (offset : Int)
  | scrubbed (team : TeamId)
  | transfer (team : TeamId)
  | tile (team : TeamId)
  | registers (team : TeamId)
  deriving DecidableEq, Repr

/-- The steps. Those that carry nothing stand last: they find what they act on in the state. -/
inductive Instr where
  -- group 0: integer arithmetic (R93 to R100)
  | nop (gd : Guard)
  | add (gd : Guard) (sh : Shape) (d b c : Nat)
  | adds (gd : Guard) (sh : Shape) (d b c : Nat)
  | addi (gd : Guard) (sh : Shape) (d b : Nat) (lit : Int)
  | sub (gd : Guard) (sh : Shape) (d b c : Nat)
  | subs (gd : Guard) (sh : Shape) (d b c : Nat)
  | neg (gd : Guard) (sh : Shape) (d b : Nat)
  | abs (gd : Guard) (sh : Shape) (d b : Nat)
  | mul (gd : Guard) (sh : Shape) (d b c : Nat)
  | mulh (gd : Guard) (sh : Shape) (d b c : Nat)
  | div (gd : Guard) (sh : Shape) (d b c : Nat)
  | mod (gd : Guard) (sh : Shape) (d b c : Nat)
  | min (gd : Guard) (sh : Shape) (d b c : Nat)
  | max (gd : Guard) (sh : Shape) (d b c : Nat)
  | clamp (gd : Guard) (sh : Shape) (d b c : Nat)
  | sht (gd : Guard) (sh : Shape) (d b : Nat) (lit : Int)
  | shtReg (gd : Guard) (sh : Shape) (d b e : Nat)
  | rot (gd : Guard) (sh : Shape) (d b : Nat) (lit : Int)
  | rotReg (gd : Guard) (sh : Shape) (d b e : Nat)
  | trn (gd : Guard) (sh : Shape) (d b : Nat) (lit : Int)
  | trnReg (gd : Guard) (sh : Shape) (d b e : Nat)
  | nrw9 (gd : Guard) (d b : Nat)
  | sat9 (gd : Guard) (d b : Nat)
  | sgn (gd : Guard) (sh : Shape) (d b : Nat)
  | lead (gd : Guard) (sh : Shape) (d b : Nat)
  | cnt (gd : Guard) (sh : Shape) (d b : Nat)
  -- group +1: logic, fields, conditions, moves, addresses (R101 to R112)
  | tmin (gd : Guard) (d b c : Nat)
  | tmax (gd : Guard) (d b c : Nat)
  | tsum (gd : Guard) (d b c : Nat)
  | tmul (gd : Guard) (d b c : Nat)
  | cons (gd : Guard) (d b c : Nat)
  | field (gd : Guard) (d b hi lo : Nat)
  | deposit (gd : Guard) (d b hi lo : Nat)
  | cmp (gd : Guard) (d b c : Nat)
  | cmpi (gd : Guard) (d b : Nat) (lit : Int)
  | cset (gd : Guard) (d b : Nat)
  | cand (gd : Guard) (d b c : Nat)
  | cor (gd : Guard) (d b c : Nat)
  | sel3 (gd : Guard) (d m b c e : Nat)
  | mov (gd : Guard) (d b : Nat)
  | movi (gd : Guard) (d : Nat) (lit : Int)
  | movcG (gd : Guard) (d b : Nat)
  | movcC (gd : Guard) (d b : Nat)
  | movs (gd : Guard) (d : Nat) (sp : Special)
  | movsA (gd : Guard) (d : Nat) (sp : Special)
  | sets (gd : Guard) (sp : Special) (b : Nat)
  | setsA (gd : Guard) (sp : Special) (b : Nat)
  | movx (gd : Guard) (d b : Nat)
  | movy (gd : Guard) (d b : Nat)
  | aadd (gd : Guard) (d b c : Nat)
  | asub (gd : Guard) (d b c : Nat)
  | amov (gd : Guard) (d b : Nat)
  | amovPair (gd : Guard) (d b c : Nat)
  | amovLo (gd : Guard) (d b : Nat)
  | amovHi (gd : Guard) (d b : Nat)
  | alea (gd : Guard) (d b e k : Nat)
  -- group -1: packed halves and control (R113 to R128)
  | hadd (gd : Guard) (r : Route) (d b c : Nat)
  | hsub (gd : Guard) (r : Route) (d b c : Nat)
  | hmin (gd : Guard) (r : Route) (d b c : Nat)
  | hmax (gd : Guard) (r : Route) (d b c : Nat)
  | hcmp (gd : Guard) (r : Route) (d b c : Nat)
  | hacs (gd : Guard) (d b c k : Nat)
  | hpack (gd : Guard) (d b c : Nat)
  | hunpk (gd : Guard) (d c b : Nat)
  | pxin (gd : Guard) (d b : Nat)
  | pxinS (gd : Guard) (d b : Nat)
  | j (gd : Guard) (lit : Int)
  | jx (gd : Guard) (b : Nat)
  | bc (gd : Guard) (b : Nat) (lit : Int)
  | bcase (gd : Guard) (b : Nat) (tneg tpos : Int)
  | call (gd : Guard) (lit : Int)
  | callx (gd : Guard) (b : Nat)
  | ret (gd : Guard)
  | loop (gd : Guard) (d : Nat) (lit : Int)
  | yield (gd : Guard)
  | exit (gd : Guard)
  | brk (gd : Guard)
  -- group +2: real arithmetic (R148 to R163)
  | fadd (gd : Guard) (sh : Shape) (d b c : Nat)
  | fsub (gd : Guard) (sh : Shape) (d b c : Nat)
  | fmul (gd : Guard) (sh : Shape) (d b c : Nat)
  | ffma (gd : Guard) (sh : Shape) (d b c : Nat)
  | ffmaE (gd : Guard) (sh : Shape) (d b c e : Nat)
  | fmin (gd : Guard) (sh : Shape) (d b c : Nat)
  | fmax (gd : Guard) (sh : Shape) (d b c : Nat)
  | fcmp (gd : Guard) (d b c : Nat)
  | fcmpQ (gd : Guard) (d b c e : Nat)
  | fabs (gd : Guard) (sh : Shape) (d b : Nat)
  | fabsNeg (gd : Guard) (sh : Shape) (d b : Nat)
  | fabsNabs (gd : Guard) (sh : Shape) (d b : Nat)
  | frcp (gd : Guard) (sh : Shape) (d b : Nat)
  | frsq (gd : Guard) (sh : Shape) (d b : Nat)
  | fexp3 (gd : Guard) (sh : Shape) (d b : Nat)
  | flog3 (gd : Guard) (sh : Shape) (d b : Nat)
  | fscl (gd : Guard) (sh : Shape) (d b : Nat) (lit : Int)
  | fsclReg (gd : Guard) (sh : Shape) (d b e : Nat)
  | fclass (gd : Guard) (sh : Shape) (d b : Nat)
  | fcvt (gd : Guard) (sh : Shape) (tryte d b : Nat) (dst src : Fmt) (scale : Int)
  -- group -2: tiles, matrix engine, lanes (R210, R234)
  | arow (gd : Guard) (rs : Trit) (d q c e : Nat)
  | arowClr (gd : Guard) (rs : Trit) (d q c e : Nat)
  | drain (gd : Guard) (rs : Trit) (d q c e : Nat)
  | drainF (gd : Guard) (rs : Trit) (d q c e : Nat)
  | mbs (gd : Guard) (rs : Trit) (q a b e : Nat)
  | mspa (gd : Guard) (rs : Trit) (q a b e : Nat)
  | mshaW3 (gd : Guard) (rs : Trit) (q a b : Nat)
  | mshaW6 (gd : Guard) (rs : Trit) (q a b e : Nat)
  | mmaf (gd : Guard) (rs : Trit) (q a b : Nat)
  | mma9 (gd : Guard) (rs : Trit) (q a b : Nat)
  | tzero (gd : Guard) (rs : Trit) (m c : Nat)
  | tzeroQ (gd : Guard) (rs : Trit) (q c : Nat)
  | tst (gd : Guard) (rs : Trit) (m a c : Nat)
  | tld (gd : Guard) (rs : Trit) (m a c : Nat)
  | tldX (gd : Guard) (rs : Trit) (m a c : Nat)
  | tget (gd : Guard) (d m : Nat)
  | tset (gd : Guard) (m b : Nat)
  | perm (gd : Guard) (d b c m cd : Nat)
  | shuf (gd : Guard) (d b c m cd : Nat)
  | bcast (gd : Guard) (d b m cd : Nat)
  | vote (gd : Guard) (d b m cd : Nat)
  | ballot (gd : Guard) (d b m cd : Nat)
  | red (gd : Guard) (sh : Shape) (op : RedOp) (d b m cd : Nat)
  | scan (gd : Guard) (sh : Shape) (op : RedOp) (d b m cd : Nat)
  | zip (gd : Guard) (sh : Shape) (d b m cd k : Nat)
  | unzip (gd : Guard) (sh : Shape) (d b m cd k : Nat)
  | gbar (gd : Guard) (m cd : Nat)
  | tbar (gd : Guard) (b : Nat)
  /-- A group by its bolt, TEAMID and GROUPID, and the address of the instruction at which its threads wait (R213). -/
  | crossLaneCompletion (bolt team grp : Nat) (addr : Int)
  | barrierCompletion (t : TeamId) (bar : Nat)
  -- group +3: memory (R297)
  | probe (gd : Guard) (rs : Trit) (d b : Nat)
  | cpri (gd : Guard) (b : Nat) (p : Trit)
  | cdrop (gd : Guard) (rs : Trit) (b c : Nat)
  | cdropCode (gd : Guard) (rs : Trit) (b c : Nat)
  | cflush (gd : Guard) (rs : Trit) (b c : Nat)
  | cflushMem (gd : Guard) (rs : Trit) (b c : Nat)
  | cfence (gd : Guard)
  | rel (gd : Guard)
  | acq (gd : Guard)
  | fence (gd : Guard)
  | ld9 (gd : Guard) (h : Hint) (rs : Trit) (d b : Nat) (off : Int)
  | ld27 (gd : Guard) (h : Hint) (rs : Trit) (d b : Nat) (off : Int)
  | ldh (gd : Guard) (h : Hint) (rs : Trit) (d b : Nat) (off : Int)
  | lda (gd : Guard) (h : Hint) (rs : Trit) (d b : Nat) (off : Int)
  | st9 (gd : Guard) (h : Hint) (rs : Trit) (d b : Nat) (off : Int)
  | st27 (gd : Guard) (h : Hint) (rs : Trit) (d b : Nat) (off : Int)
  | sth (gd : Guard) (h : Hint) (rs : Trit) (d b : Nat) (off : Int)
  | sta (gd : Guard) (h : Hint) (rs : Trit) (d b : Nat) (off : Int)
  | lds9 (gd : Guard) (rs : Trit) (d b : Nat) (off : Int)
  | lds27 (gd : Guard) (rs : Trit) (d b : Nat) (off : Int)
  | sts9 (gd : Guard) (rs : Trit) (d b : Nat) (off : Int)
  | sts27 (gd : Guard) (rs : Trit) (d b : Nat) (off : Int)
  | pf (gd : Guard) (h : Hint) (b : Nat) (off : Int)
  | xadd (gd : Guard) (o : Order) (rs : Trit) (d b c : Nat)
  | xmin (gd : Guard) (o : Order) (rs : Trit) (d b c : Nat)
  | xmax (gd : Guard) (o : Order) (rs : Trit) (d b c : Nat)
  | xswp (gd : Guard) (o : Order) (rs : Trit) (d b c : Nat)
  | xcas (gd : Guard) (o : Order) (rs : Trit) (d b c e : Nat)
  | xsum (gd : Guard) (o : Order) (rs : Trit) (d b c : Nat)
  | longLatencyCompletion (id : ThreadId) (op : Nat)
  /-- `noise` gives the bits in which the first and the second reading of the sector from HBM differ from what is
  stored there (R267). -/
  | sectorFill (home : Nat) (sector : Int) (noise : List (List (BitVec 8)))
  -- group -3: engines, knots, beam, launch (R376)
  | reduce (gd : Guard) (b : Nat)
  | mcast (gd : Guard) (b : Nat)
  | launch (gd : Guard) (d b : Nat)
  | qdone (gd : Guard) (b : Nat)
  | take (gd : Guard) (d b c : Nat)
  | append (gd : Guard) (d b c : Nat)
  | kyld (gd : Guard)
  | kret (gd : Guard)
  | kwait (gd : Guard) (w : Nat) (arg : Int)
  | kwaitR (gd : Guard) (w b : Nat)
  | kwake (gd : Guard) (d b c : Nat)
  | sweep (gd : Guard) (d b : Nat)
  | blockRead (core : Nat)
  | heddleWrite (core : Nat) (block : Int)
  | engage (gd : Guard) (d b : Nat) (eng : Int)
  | epoll (gd : Guard) (d b : Nat)
  | sarm (gd : Guard) (s : Place) (c : Nat)
  | sadd (gd : Guard) (s : Place) (n : Int)
  | saddReg (gd : Guard) (s : Place) (e : Nat)
  | sget (gd : Guard) (d : Nat) (s : Place)
  | swait (gd : Guard) (d : Nat) (s : Place) (c : Nat)
  | rlock (gd : Guard) (d : Nat) (l : Place) (c : Nat)
  | rlockRd (gd : Guard) (d : Nat) (l : Place) (c : Nat)
  | runlock (gd : Guard) (d b : Nat)
  | runlockTorn (gd : Guard) (d : Nat) (l : Place)
  | board (gd : Guard) (d b : Nat) (s : Place)
  | boardTile (gd : Guard) (d b : Nat) (s : Place)
  | unboard (gd : Guard) (d b : Nat)
  | beamst (gd : Guard) (d b : Nat)
  | beamstLap (gd : Guard) (d : Nat)
  -- group +4: system (R411)
  | trap (gd : Guard) (n : Int)
  | rett (gd : Guard)
  | halt (gd : Guard) (b : Nat)
  | pmode (gd : Guard) (m : Int)
  | spool (gd : Guard) (d : Nat) (s : Place) (c : Nat)
  -- the thread's fetch and the picker
  | clauseFetch (id : ThreadId)
  | gangFormation (core : Nat) (ids : List ThreadId)
  | completionCounterAdd (id : ThreadId)
  | teamEnd (t : TeamId)
  | teamCommit (t : TeamId)
  -- chains
  | chainEntryIssue (t : TeamId) (seq : Int)
  | copy (t : TeamId) (seq : Int) (off : Int)
  | conv (t : TeamId) (seq : Int) (off : Int)
  | decomp (t : TeamId) (seq : Int) (off : Int)
  | fill (t : TeamId) (seq : Int) (off : Int)
  | chainLoop (t : TeamId) (seq : Int)
  | cond (t : TeamId) (seq : Int)
  | signal (t : TeamId) (seq : Int)
  | stop (t : TeamId) (seq : Int)
  | entryPartWritten (t : TeamId) (seq : Int) (off : Int)
  | entryCompletion (t : TeamId) (seq : Int) (off : Int)
  /-- The Read command of a number of a storage entry ends (R333). -/
  | nvmeCommandCompletion (t : TeamId) (seq : Int) (off : Int) (cmd : Nat) (answer : ReadAnswer)
  -- launch unit and power
  | qflush (n : Int)
  | lrec (port : Nat) (high : Int)
  /-- The energy each die used since the last evaluation, in nanojoules (R205). -/
  | headroomEvaluation (energy : List Nat)
  | fctl (die : Nat) (v : Int)
  | preemptRequeue (core : Nat)
  | preemptHold (core : Nat)
  | bresume (bolt : Int)
  | softError (correctable : Bool) (site : SoftSite)
  -- host
  | tinval (n : Int)
  | hraise (n : Int)
  | hostLowWordRead (port : Nat) (w : Int)
  /-- Writes of the eight bytes 8w to 8w + 7 of BAR0 (R441). -/
  | hostLowWordWrite (port : Nat) (w : Int) (bytes : List (BitVec 8))
  | hostHighWordWrite (port : Nat) (w : Int) (bytes : List (BitVec 8))
  | registerWrite (w v : Int)
  | bar2Read (k : Int) (n : Nat)
  /-- Bytes written from a byte offset of BAR2 (R443). -/
  | bar2Write (at_ : Nat) (bytes : List (BitVec 8))
  /-- A write of bytes, or with none a read of n bytes, at an offset of BAR4 (R442). -/
  | bar4Access (at_ : Nat) (bytes : List (BitVec 8)) (n : Nat)
  -- beam
  | beamnext (v : Int)
  | beamctlStep (minstep fixstep : Int)
  /-- The next beat of the lap reaches a tap (R370). -/
  | beatArrival (die pair : Nat) (found : BeatCheck)
  | beamLinkFailure (link : Nat)
  -- links and peers
  /-- The 240 bytes of a flit body and whether its CRC holds (R432). -/
  | flitReceive (link : Nat) (body : List (BitVec 8)) (crc : Bool)
  /-- A peer's write of the masked trytes of a sector: the 160 bytes as they arrive, the first time and when they are
  sent again (R451). -/
  | peerSectorReceive (dev : Nat) (win : Nat) (sector : Int) (mask : List Nat) (sent : List (List (BitVec 8)))
  | selfTestResult (w : Int) (trit : Nat) (ok : Bool)
  | unitFence (w : Int) (trit : Nat)
  | readinessFence (w : Int) (trit : Nat)
  | linkFence (link : Nat)
  | fwgo (v : Int)
  | attgo (v : Int)
  | undefinedOpcode (gd : Guard)
  | peerReadTransaction (dev : Nat) (sector : Int)
  | peerDeviceFailure (dev : Nat)
  | engineReset (t : TeamId) (seq : Int) (off : Int)
  -- steps that find their subject in the state (the head of a queue, or every unit that qualifies)
  | collectiveProceed
  | appendAnswer
  | waveStart
  | sweepCompletion
  | engineCauseArrival
  | admission
  | priorityPromotion
  | governedStep
  | frequencyStep
  | relockEnd
  | spoolByWaiting
  | spoolContextWritten
  | forwardedRaise
  | scrub
  | beamProgramCheck
  | beamEnableRun
  | beamEnableIdle
  | beamEnableStop
  | lapMark
  | beamStop
  | coldStart
  | firmwareVerified
  | attestationDone
  | translationInvalidationDone
  deriving DecidableEq, Repr

end Sys2Proof
end

