-- ==== Sys2Proof/Decode.lean ====
section
/-!
DEFINITION. Words, clauses and instructions: decoding and encoding.

A start word and its continuation words are split into fields once (R50 to R59), the
opcode map turns the opcode into a name, and the fields become the operands of one
constructor of `Instr`. Everything that is not an instruction is rejected with the
cause that R70 gives it.
-/

namespace Sys2Proof

/-- trits(x, hi, lo): the balanced integer in trits hi..lo of x (R7). -/
def trits (x : Int) (hi lo : Nat) : Int := wrap (hi + 1 - lo) (trunc lo x)

/-- Trit i of x. -/
def tritAt (x : Int) (i : Nat) : Trit := Trit.ofInt (trits x i i)

/-- A register file named by a field. -/
inductive RegFile where
  | g | a | c | m | q
  deriving DecidableEq, Repr

/-- A register named by an instruction. -/
structure RegUse where
  file : RegFile
  idx : Nat
  deriving DecidableEq, Repr

/-- What a register field names: nothing, one register, three general registers, or a member mask. -/
inductive Kind where
  | none | g | a | c | m | q | g3 | mask
  deriving DecidableEq, Repr

/-- The fields one form of an opcode uses. -/
structure Form where
  fd : Kind
  fb : Kind
  fc : Kind
  fe : Kind
  lit : Bool
  deriving DecidableEq, Repr

/-- The opcodes of the map (R74 to R81). -/
inductive Op where
  | nop | add | adds | addi | sub | subs | neg | abs | mul | mulh
  | div | mod | min | max | clamp | sht | rot | trn | nrw9 | sat9
  | sgn | lead | cnt | tmin | tmax | tsum | tmul | cons | field | deposit
  | cmp | cmpi | cset | cand | cor | sel3 | mov | movi | movc | movs
  | sets | movx | movy | aadd | asub | amov | alea | brk | exit | yield
  | loop | ret | callx | call | bcase | bc | jx | j | hadd | hsub
  | hmin | hmax | hcmp | hacs | hpack | hunpk | pxin | fadd | fsub | fmul
  | ffma | fmin | fmax | fcmp | fabs | frcp | frsq | fexp3 | flog3 | fscl
  | fclass | fcvt | arow | drain | mbs | mspa | msha | mmaf | mma9 | tzero
  | tst | tld | tget | tset | perm | shuf | bcast | vote | ballot | red
  | scan | zip | unzip | gbar | tbar | probe | cpri | cdrop | cflush | cfence
  | rel | acq | fence | ld9 | ld27 | ldh | lda | st9 | st27 | sth
  | sta | lds9 | lds27 | sts9 | sts27 | pf | xadd | xmin | xmax | xswp
  | xcas | xsum | reduce | mcast | launch | qdone | take | append | kyld | kret
  | kwake | kwait | sweep | engage | epoll | sarm | sadd | sget | swait | rlock
  | runlock | board | unboard | beamst | trap | rett | halt | pmode | spool
  deriving DecidableEq, Repr

/-- OPC of each opcode (R73 to R81). -/
def Op.code : Op → Int
  | .nop => 0
  | .add => 1
  | .adds => 2
  | .addi => 3
  | .sub => 4
  | .subs => 5
  | .neg => 6
  | .abs => 7
  | .mul => 8
  | .mulh => 9
  | .div => 10
  | .mod => 11
  | .min => 12
  | .max => 13
  | .clamp => 14
  | .sht => 15
  | .rot => 16
  | .trn => 17
  | .nrw9 => 18
  | .sat9 => 19
  | .sgn => 20
  | .lead => 21
  | .cnt => 22
  | .tmin => 82
  | .tmax => 83
  | .tsum => 84
  | .tmul => 85
  | .cons => 86
  | .field => 87
  | .deposit => 88
  | .cmp => 89
  | .cmpi => 90
  | .cset => 91
  | .cand => 92
  | .cor => 93
  | .sel3 => 94
  | .mov => 95
  | .movi => 96
  | .movc => 97
  | .movs => 98
  | .sets => 99
  | .movx => 100
  | .movy => 101
  | .aadd => 102
  | .asub => 103
  | .amov => 104
  | .alea => 105
  | .brk => -92
  | .exit => -91
  | .yield => -90
  | .loop => -89
  | .ret => -88
  | .callx => -87
  | .call => -86
  | .bcase => -85
  | .bc => -84
  | .jx => -83
  | .j => -82
  | .hadd => -80
  | .hsub => -79
  | .hmin => -78
  | .hmax => -77
  | .hcmp => -76
  | .hacs => -75
  | .hpack => -74
  | .hunpk => -73
  | .pxin => -72
  | .fadd => 163
  | .fsub => 164
  | .fmul => 165
  | .ffma => 166
  | .fmin => 167
  | .fmax => 168
  | .fcmp => 169
  | .fabs => 170
  | .frcp => 171
  | .frsq => 172
  | .fexp3 => 173
  | .flog3 => 174
  | .fscl => 175
  | .fclass => 176
  | .fcvt => 177
  | .arow => -174
  | .drain => -173
  | .mbs => -172
  | .mspa => -171
  | .msha => -170
  | .mmaf => -169
  | .mma9 => -168
  | .tzero => -167
  | .tst => -166
  | .tld => -165
  | .tget => -164
  | .tset => -163
  | .perm => -161
  | .shuf => -160
  | .bcast => -159
  | .vote => -158
  | .ballot => -157
  | .red => -156
  | .scan => -155
  | .zip => -154
  | .unzip => -153
  | .gbar => -152
  | .tbar => -151
  | .probe => 235
  | .cpri => 236
  | .cdrop => 237
  | .cflush => 238
  | .cfence => 239
  | .rel => 240
  | .acq => 241
  | .fence => 242
  | .ld9 => 244
  | .ld27 => 245
  | .ldh => 246
  | .lda => 247
  | .st9 => 248
  | .st27 => 249
  | .sth => 250
  | .sta => 251
  | .lds9 => 252
  | .lds27 => 253
  | .sts9 => 254
  | .sts27 => 255
  | .pf => 256
  | .xadd => 257
  | .xmin => 258
  | .xmax => 259
  | .xswp => 260
  | .xcas => 261
  | .xsum => 262
  | .reduce => -254
  | .mcast => -253
  | .launch => -252
  | .qdone => -251
  | .take => -250
  | .append => -249
  | .kyld => -248
  | .kret => -247
  | .kwake => -246
  | .kwait => -245
  | .sweep => -244
  | .engage => -242
  | .epoll => -241
  | .sarm => -240
  | .sadd => -239
  | .sget => -238
  | .swait => -237
  | .rlock => -236
  | .runlock => -235
  | .board => -234
  | .unboard => -233
  | .beamst => -232
  | .trap => 325
  | .rett => 326
  | .halt => 327
  | .pmode => 328
  | .spool => 329

/-- Every opcode of the map. -/
def Op.all : List Op :=
  List.flatten [
    [.nop, .add, .adds, .addi, .sub, .subs, .neg, .abs, .mul, .mulh],
    [.div, .mod, .min, .max, .clamp, .sht, .rot, .trn, .nrw9, .sat9],
    [.sgn, .lead, .cnt, .tmin, .tmax, .tsum, .tmul, .cons, .field, .deposit],
    [.cmp, .cmpi, .cset, .cand, .cor, .sel3, .mov, .movi, .movc, .movs],
    [.sets, .movx, .movy, .aadd, .asub, .amov, .alea, .brk, .exit, .yield],
    [.loop, .ret, .callx, .call, .bcase, .bc, .jx, .j, .hadd, .hsub],
    [.hmin, .hmax, .hcmp, .hacs, .hpack, .hunpk, .pxin, .fadd, .fsub, .fmul],
    [.ffma, .fmin, .fmax, .fcmp, .fabs, .frcp, .frsq, .fexp3, .flog3, .fscl],
    [.fclass, .fcvt, .arow, .drain, .mbs, .mspa, .msha, .mmaf, .mma9, .tzero],
    [.tst, .tld, .tget, .tset, .perm, .shuf, .bcast, .vote, .ballot, .red],
    [.scan, .zip, .unzip, .gbar, .tbar, .probe, .cpri, .cdrop, .cflush, .cfence],
    [.rel, .acq, .fence, .ld9, .ld27, .ldh, .lda, .st9, .st27, .sth],
    [.sta, .lds9, .lds27, .sts9, .sts27, .pf, .xadd, .xmin, .xmax, .xswp],
    [.xcas, .xsum, .reduce, .mcast, .launch, .qdone, .take, .append, .kyld, .kret],
    [.kwake, .kwait, .sweep, .engage, .epoll, .sarm, .sadd, .sget, .swait, .rlock],
    [.runlock, .board, .unboard, .beamst, .trap, .rett, .halt, .pmode, .spool]]

/-- The Shapes column of the opcode map. -/
def Op.shapes : Op → List Shape
  | .add | .adds | .addi | .sub | .subs | .neg | .abs | .mul | .mulh | .div
  | .mod | .min | .max | .clamp | .sht | .rot | .trn | .sgn | .lead | .cnt
  | .red | .scan | .zip | .unzip => [.trytes, .word, .halves]
  | .fadd | .fsub | .fmul | .ffma | .fmin | .fmax | .fabs | .frcp | .frsq | .fexp3
  | .flog3 | .fscl | .fclass | .fcvt => [.trytes, .word]
  | _ => [.word]

/-- The Literal column of the opcode map (R58). -/
def Op.takesLit : Op → Bool
  | .addi | .sht | .rot | .trn | .field | .deposit | .cmpi | .movi | .movs | .sets
  | .alea | .loop | .call | .bcase | .bc | .j | .fscl | .fcvt | .zip | .unzip
  | .cpri | .ld9 | .ld27 | .ldh | .lda | .st9 | .st27 | .sth | .sta | .lds9
  | .lds27 | .sts9 | .sts27 | .pf | .kwait | .engage | .sadd | .trap | .pmode => true
  | _ => false

/-- The Long-latency column of the opcode map (R68). -/
def Op.longLatency : Op → Bool
  | .arow | .drain | .mbs | .mspa | .msha | .mmaf | .mma9 | .tzero | .tst | .tld
  | .probe | .cdrop | .cflush | .ld9 | .ld27 | .ldh | .lda | .st9 | .st27 | .sth
  | .sta | .lds9 | .lds27 | .sts9 | .sts27 | .xadd | .xmin | .xmax | .xswp | .xcas
  | .xsum => true
  | _ => false

/-- The register files of the fields FD, FB, FC and FE and whether the literal is used, for one
value of MODIF; none where the instruction's description does not admit that value (R60). -/
def Op.form (o : Op) (md : Int) : Option Form :=
  match o with
  | .nop | .brk | .exit | .yield | .ret | .cfence | .rel | .acq | .fence | .kyld
  | .kret | .rett =>
    if md = 0 then some ⟨.none, .none, .none, .none, false⟩ else none
  | .add | .adds | .sub | .subs | .mul | .mulh | .div | .mod | .min | .max
  | .clamp | .tmin | .tmax | .tsum | .tmul | .cons | .hpack | .hunpk | .fadd | .fsub
  | .fmul | .fmin | .fmax =>
    if md = 0 then some ⟨.g, .g, .g, .none, false⟩ else none
  | .addi | .field | .deposit | .lds9 | .lds27 | .sts9 | .sts27 | .engage =>
    if md = 0 then some ⟨.g, .g, .none, .none, true⟩ else none
  | .neg | .abs | .nrw9 | .sat9 | .sgn | .lead | .cnt | .mov | .movx | .movy
  | .frcp | .frsq | .fexp3 | .flog3 | .fclass | .sweep | .epoll =>
    if md = 0 then some ⟨.g, .g, .none, .none, false⟩ else none
  | .sht | .rot | .trn | .fscl =>
    if md = 0 then some ⟨.g, .g, .none, .none, true⟩ else if md = 1 then some ⟨.g, .g, .none, .g, false⟩ else none
  | .cmp | .kwake =>
    if md = 0 then some ⟨.c, .g, .g, .none, false⟩ else none
  | .cmpi =>
    if md = 0 then some ⟨.c, .g, .none, .none, true⟩ else none
  | .cset | .unboard =>
    if md = 0 then some ⟨.c, .g, .none, .none, false⟩ else none
  | .cand | .cor =>
    if md = 0 then some ⟨.c, .c, .c, .none, false⟩ else none
  | .sel3 => some ⟨.g, .g, .g, .g, false⟩
  | .movi | .loop =>
    if md = 0 then some ⟨.g, .none, .none, .none, true⟩ else none
  | .movc =>
    if md = 0 then some ⟨.g, .c, .none, .none, false⟩ else if md = 1 then some ⟨.c, .c, .none, .none, false⟩ else none
  | .movs =>
    if md = 0 then some ⟨.g, .none, .none, .none, true⟩ else if md = 1 then some ⟨.a, .none, .none, .none, true⟩ else none
  | .sets =>
    if md = 0 then some ⟨.none, .g, .none, .none, true⟩ else if md = 1 then some ⟨.none, .a, .none, .none, true⟩ else none
  | .aadd | .asub =>
    if md = 0 then some ⟨.a, .a, .g, .none, false⟩ else none
  | .amov =>
    if md = 0 then some ⟨.a, .a, .none, .none, false⟩ else if md = 1 then some ⟨.a, .g, .g, .none, false⟩ else if md = 2 ∨ md = 3 then some ⟨.g, .a, .none, .none, false⟩ else none
  | .alea =>
    if md = 0 then some ⟨.a, .a, .none, .g, true⟩ else none
  | .callx | .jx | .qdone =>
    if md = 0 then some ⟨.none, .a, .none, .none, false⟩ else none
  | .call | .j | .trap | .pmode =>
    if md = 0 then some ⟨.none, .none, .none, .none, true⟩ else none
  | .bcase | .bc =>
    if md = 0 then some ⟨.none, .c, .none, .none, true⟩ else none
  | .hadd | .hsub | .hmin | .hmax | .hcmp =>
    if md = 0 ∨ md = 1 ∨ md = 2 ∨ md = 3 then some ⟨.g, .g, .g, .none, false⟩ else none
  | .hacs =>
    if md = 0 then some ⟨.g, .g, .g, .c, false⟩ else none
  | .pxin =>
    if md = 0 ∨ md = 1 then some ⟨.g, .g, .none, .none, false⟩ else none
  | .ffma =>
    if md = 0 then some ⟨.g, .g, .g, .none, false⟩ else if md = 1 then some ⟨.g, .g, .g, .g, false⟩ else none
  | .fcmp =>
    if md = 0 then some ⟨.c, .g, .g, .none, false⟩ else if md = 1 then some ⟨.c, .g, .g, .c, false⟩ else none
  | .fabs =>
    if md = 0 ∨ md = 1 ∨ md = 2 then some ⟨.g, .g, .none, .none, false⟩ else none
  | .fcvt =>
    if md = 0 ∨ md = 1 ∨ md = 2 then some ⟨.g, .g, .none, .none, true⟩ else none
  | .arow =>
    if md = 0 ∨ md = 1 then some ⟨.g, .q, .g, .c, false⟩ else none
  | .drain =>
    if md = 0 ∨ md = 1 then some ⟨.a, .q, .g, .a, false⟩ else none
  | .mbs | .mspa =>
    if md = 0 then some ⟨.q, .m, .m, .m, false⟩ else none
  | .msha =>
    if md = 0 then some ⟨.q, .m, .m, .none, false⟩ else if md = 1 then some ⟨.q, .m, .m, .m, false⟩ else none
  | .mmaf | .mma9 =>
    if md = 0 then some ⟨.q, .m, .m, .none, false⟩ else none
  | .tzero =>
    if md = 0 then some ⟨.m, .none, .g, .none, false⟩ else if md = 1 then some ⟨.q, .none, .g, .none, false⟩ else none
  | .tst =>
    if md = 0 then some ⟨.m, .a, .g, .none, false⟩ else none
  | .tld =>
    if md = 0 ∨ md = 1 then some ⟨.m, .a, .g, .none, false⟩ else none
  | .tget =>
    if md = 0 then some ⟨.g, .m, .none, .none, false⟩ else none
  | .tset =>
    if md = 0 then some ⟨.m, .g, .none, .none, false⟩ else none
  | .perm | .shuf => some ⟨.g, .g, .g, .mask, false⟩
  | .bcast => some ⟨.g, .g, .none, .mask, false⟩
  | .vote => some ⟨.g, .c, .none, .mask, false⟩
  | .ballot => some ⟨.g3, .c, .none, .mask, false⟩
  | .red | .scan =>
    if md = 0 ∨ md = 1 ∨ md = 2 ∨ md = 3 ∨ md = 4 then some ⟨.g, .g, .c, .mask, false⟩ else none
  | .zip | .unzip => some ⟨.g, .g, .none, .mask, true⟩
  | .gbar => some ⟨.none, .none, .none, .mask, false⟩
  | .tbar | .reduce | .mcast | .halt =>
    if md = 0 then some ⟨.none, .g, .none, .none, false⟩ else none
  | .probe | .launch =>
    if md = 0 then some ⟨.g, .a, .none, .none, false⟩ else none
  | .cpri =>
    if md = 0 then some ⟨.none, .a, .none, .none, true⟩ else none
  | .cdrop | .cflush =>
    if md = 0 ∨ md = 1 then some ⟨.none, .a, .g, .none, false⟩ else none
  | .ld9 | .ld27 | .ldh | .st9 | .st27 | .sth =>
    if md = 0 ∨ md = 1 ∨ md = 2 then some ⟨.g, .a, .none, .none, true⟩ else none
  | .lda | .sta =>
    if md = 0 ∨ md = 1 ∨ md = 2 then some ⟨.a, .a, .none, .none, true⟩ else none
  | .pf =>
    if md = 0 ∨ md = 1 ∨ md = 2 then some ⟨.none, .a, .none, .none, true⟩ else none
  | .xadd | .xmin | .xmax | .xswp | .xsum =>
    if md = 0 ∨ md = 1 ∨ md = 2 ∨ md = 3 then some ⟨.g, .a, .g, .none, false⟩ else none
  | .xcas =>
    if md = 0 ∨ md = 1 ∨ md = 2 ∨ md = 3 then some ⟨.g, .a, .g, .g, false⟩ else none
  | .take =>
    if md = 0 then some ⟨.g, .a, .c, .none, false⟩ else none
  | .append =>
    if md = 0 then some ⟨.c, .a, .g, .none, false⟩ else none
  | .kwait =>
    if md = 0 then some ⟨.none, .none, .none, .none, true⟩ else if md = 1 then some ⟨.none, .g, .none, .none, true⟩ else none
  | .sarm =>
    if md = 0 then some ⟨.none, .g, .g, .none, false⟩ else if md = 1 then some ⟨.none, .a, .g, .none, false⟩ else none
  | .sadd =>
    if md = 0 then some ⟨.none, .g, .none, .none, true⟩ else if md = 1 then some ⟨.none, .a, .none, .none, true⟩ else if md = 2 then some ⟨.none, .g, .none, .g, false⟩ else if md = 3 then some ⟨.none, .a, .none, .g, false⟩ else none
  | .sget =>
    if md = 0 then some ⟨.g3, .g, .none, .none, false⟩ else if md = 1 then some ⟨.g3, .a, .none, .none, false⟩ else none
  | .swait | .spool =>
    if md = 0 then some ⟨.c, .g, .g, .none, false⟩ else if md = 1 then some ⟨.c, .a, .g, .none, false⟩ else none
  | .rlock =>
    if md = 0 ∨ md = 2 then some ⟨.g, .a, .g, .none, false⟩ else if md = 1 ∨ md = 3 then some ⟨.g, .g, .g, .none, false⟩ else none
  | .runlock =>
    if md = 0 ∨ md = 2 then some ⟨.c, .g, .none, .none, false⟩ else if md = 1 then some ⟨.c, .a, .none, .none, false⟩ else none
  | .board =>
    if md = 0 ∨ md = 1 then some ⟨.g, .g3, .g, .none, false⟩ else if md = 2 ∨ md = 3 then some ⟨.g, .g3, .a, .none, false⟩ else none
  | .beamst =>
    if md = 0 then some ⟨.g, .g, .none, .none, false⟩ else if md = 1 then some ⟨.g, .none, .none, .none, false⟩ else none

/-- The opcode of an OPC value. -/
def Op.ofCode (n : Int) : Option Op := Op.all.find? fun o => decide (o.code = n)

/-- The role of a code word (R50). -/
inductive Role where
  | continuation | header | short | reserved | long2 | long3
  deriving DecidableEq, Repr

def role (w : Word) : Role :=
  match tritAt w 26, tritAt w 25 with
  | .neg, _ => .continuation
  | .zero, .neg => .header
  | .zero, .zero => .short
  | .zero, .pos => .reserved
  | .pos, .neg => .reserved
  | .pos, .zero => .long2
  | .pos, .pos => .long3

/-- Words of an instruction by the role of its start word; 0 for a word that starts none. -/
def Role.length : Role → Nat
  | .short => 1
  | .long2 => 2
  | .long3 => 3
  | _ => 0

/-- The fields of an instruction as they stand in its words (R52, R56, R57). -/
structure Raw where
  len : Nat
  opc : Int
  greg : Int
  gsense : Trit
  fd : Int
  fb : Int
  fc : Int
  shape : Trit
  fe : Int
  modif : Int
  rs : Trit
  lit18 : Int
  lithi : Int
  resv : Int
  deriving DecidableEq, Repr

/-- The fields of an instruction of the given words; none unless they are one instruction's. -/
def Raw.ofWords : List Word → Option Raw
  | [] => none
  | w :: rest =>
    let base (n : Nat) (c1 c2 : Word) : Raw :=
      { len := n, opc := trits w 24 19, greg := trits w 18 17, gsense := tritAt w 16,
        fd := trits w 15 11, fb := trits w 10 6, fc := trits w 5 1, shape := tritAt w 0,
        fe := trits c1 25 21, modif := trits c1 20 19, rs := tritAt c1 18, lit18 := trits c1 17 0,
        lithi := trits c2 8 0, resv := trits c2 25 9 }
    match role w, rest with
    | .short, [] => some (base 1 0 0)
    | .long2, [c1] => if role c1 = .continuation then some (base 2 c1 0) else none
    | .long3, [c1, c2] =>
      if role c1 = .continuation ∧ role c2 = .continuation then some (base 3 c1 c2) else none
    | _, _ => none

/-- Register index of a field value (R53). -/
def regIndex (v : Int) : Nat := if v < 0 then (v + 243).toNat else v.toNat
/-- Condition register of GREG, or of MODIF where it names one (R54). -/
def condIndex (v : Int) : Nat := if v < 0 then (v + 9).toNat else v.toNat

/-- The registers a field names. -/
def Kind.uses (k : Kind) (i : Nat) : List RegUse :=
  match k with
  | .none => []
  | .g => [⟨.g, i⟩]
  | .a => [⟨.a, i⟩]
  | .c => [⟨.c, i⟩]
  | .m => [⟨.m, i⟩]
  | .q => [⟨.q, i⟩]
  | .g3 => [⟨.g, i⟩, ⟨.g, i + 1⟩, ⟨.g, i + 2⟩]
  | .mask => if i = 0 then [] else [⟨.g, i⟩, ⟨.g, i + 1⟩, ⟨.g, i + 2⟩]

/-- The literal operand (R57, R58). -/
def Raw.literal (r : Raw) : Int :=
  if r.len = 1 then r.fc else if r.len = 2 then r.lit18 else r.lit18 + p3 18 * r.lithi

def Raw.shapeOf (r : Raw) : Shape :=
  match r.shape with
  | .neg => .trytes
  | .zero => .word
  | .pos => .halves

def Raw.guard (r : Raw) : Guard := ⟨condIndex r.greg, r.gsense⟩

/-- Why words at a start position are no instruction that executes (R70): an opcode that is
undefined, or a field that raises illegal instruction with the subcode given once the
registers named are known to be allocated. -/
inductive DecodeFault where
  | undefinedOpcode (gd : Guard)
  | illegal (gd : Guard) (uses : List RegUse) (sub : Nat)
  | notAnInstruction
  deriving DecidableEq, Repr

def hintOf (m : Int) : Hint := if m = 1 then .na else if m = 2 then .by else .default
def orderOf (m : Int) : Order := if m = 1 then .acq else if m = 2 then .rel else if m = 3 then .sc else .rlx
def routeOf (m : Int) : Route := if m = 1 then .sw else if m = 2 then .bl else if m = 3 then .bh else .straight
def redOpOf (m : Int) : RedOp :=
  if m = 1 then .adds else if m = 2 then .min else if m = 3 then .max else if m = 4 then .tsum else .add

/-- Format code of FCVT (R161). -/
def fmtOf (v : Int) : Option Fmt :=
  if v = -2 then some .tf9 else if v = -1 then some .t9 else if v = 1 then some .t27
  else if v = 2 then some .tf27 else none

def Fmt.narrow : Fmt → Bool
  | .tf9 | .t9 => true
  | _ => false

/-- The placements of FCVT that R162 admits. -/
def fcvtPlaced (sh : Shape) (tryte : Int) (dst src : Fmt) : Bool :=
  match sh with
  | .trytes => tryte == 0 && dst.narrow && src.narrow
  | .word => dst.narrow || src.narrow || tryte == 0
  | .halves => false

/-- Special register of an index (R35). -/
def specialOf (n : Int) : Option Special :=
  if n = 1 then some .threadid else if n = 2 then some .laneid else if n = 3 then some .groupid
  else if n = 4 then some .teamid else if n = 5 then some .boltid else if n = 6 then some .flags
  else if n = 7 then some .status else if n = 8 then some .splimit else if n = 9 then some .trapvec
  else if n = 10 then some .trappc else if n = 11 then some .trapinfo else if n = 12 then some .trapaddr
  else if n = 13 then some .rsdepth else if n = 14 then some .cycles else if n = 15 then some .reftime
  else if n = 16 then some .probeflag else none

def Special.code : Special → Int
  | .threadid => 1 | .laneid => 2 | .groupid => 3 | .teamid => 4 | .boltid => 5 | .flags => 6
  | .status => 7 | .splimit => 8 | .trapvec => 9 | .trappc => 10 | .trapinfo => 11 | .trapaddr => 12
  | .rsdepth => 13 | .cycles => 14 | .reftime => 15 | .probeflag => 16

/-- Largest element of a shape, the bound of ADDI's literal (R95). -/
def Shape.width : Shape → Nat
  | .trytes => 9
  | .word => 27
  | .halves => 13

/-- The place named by an S or L operand (R376). -/
def placeOf (isA : Bool) (i : Nat) : Place := if isA then .a i else .g i

/-- The instruction of checked fields, or the subcode its literal raises (R58 to R60 and the
descriptions of the instructions). -/
def Raw.build (r : Raw) (o : Op) : Except Nat Instr :=
  let gd := r.guard
  let sh := r.shapeOf
  let d := regIndex r.fd
  let b := regIndex r.fb
  let c := regIndex r.fc
  let e := regIndex r.fe
  let l := r.literal
  let m := r.modif
  let k := condIndex r.modif
  let rs := r.rs
  let h := hintOf m
  let ord := orderOf m
  let ro := routeOf m
  let lo := (l % 27).toNat
  let hi := (l / 27).toNat
  match o with
  | .nop => .ok (.nop gd)
  | .add => .ok (.add gd sh d b c)
  | .adds => .ok (.adds gd sh d b c)
  | .addi => if fits sh.width l then .ok (.addi gd sh d b l) else .error 5
  | .sub => .ok (.sub gd sh d b c)
  | .subs => .ok (.subs gd sh d b c)
  | .neg => .ok (.neg gd sh d b)
  | .abs => .ok (.abs gd sh d b)
  | .mul => .ok (.mul gd sh d b c)
  | .mulh => .ok (.mulh gd sh d b c)
  | .div => .ok (.div gd sh d b c)
  | .mod => .ok (.mod gd sh d b c)
  | .min => .ok (.min gd sh d b c)
  | .max => .ok (.max gd sh d b c)
  | .clamp => .ok (.clamp gd sh d b c)
  | .sht => .ok (if m = 1 then .shtReg gd sh d b e else .sht gd sh d b l)
  | .rot => .ok (if m = 1 then .rotReg gd sh d b e else .rot gd sh d b l)
  | .trn => .ok (if m = 1 then .trnReg gd sh d b e else .trn gd sh d b l)
  | .nrw9 => .ok (.nrw9 gd d b)
  | .sat9 => .ok (.sat9 gd d b)
  | .sgn => .ok (.sgn gd sh d b)
  | .lead => .ok (.lead gd sh d b)
  | .cnt => .ok (.cnt gd sh d b)
  | .tmin => .ok (.tmin gd d b c)
  | .tmax => .ok (.tmax gd d b c)
  | .tsum => .ok (.tsum gd d b c)
  | .tmul => .ok (.tmul gd d b c)
  | .cons => .ok (.cons gd d b c)
  | .field => if 0 ≤ l ∧ l ≤ 728 ∧ lo ≤ hi then .ok (.field gd d b hi lo) else .error 5
  | .deposit => if 0 ≤ l ∧ l ≤ 728 ∧ lo ≤ hi then .ok (.deposit gd d b hi lo) else .error 5
  | .cmp => .ok (.cmp gd d b c)
  | .cmpi => .ok (.cmpi gd d b l)
  | .cset => .ok (.cset gd d b)
  | .cand => .ok (.cand gd d b c)
  | .cor => .ok (.cor gd d b c)
  | .sel3 => .ok (.sel3 gd d k b c e)
  | .mov => .ok (.mov gd d b)
  | .movi => .ok (.movi gd d l)
  | .movc => .ok (if m = 1 then .movcC gd d b else .movcG gd d b)
  | .movs =>
    match specialOf l with
    | some sp => .ok (if m = 1 then .movsA gd d sp else .movs gd d sp)
    | none => .error 4
  | .sets =>
    match specialOf l with
    | some sp => .ok (if m = 1 then .setsA gd sp b else .sets gd sp b)
    | none => .error 4
  | .movx => .ok (.movx gd d b)
  | .movy => .ok (.movy gd d b)
  | .aadd => .ok (.aadd gd d b c)
  | .asub => .ok (.asub gd d b c)
  | .amov =>
    .ok (if m = 1 then .amovPair gd d b c else if m = 2 then .amovLo gd d b
      else if m = 3 then .amovHi gd d b else .amov gd d b)
  | .alea => if 0 ≤ l ∧ l ≤ 26 then .ok (.alea gd d b e l.toNat) else .error 5
  | .brk => .ok (.brk gd)
  | .exit => .ok (.exit gd)
  | .yield => .ok (.yield gd)
  | .loop => .ok (.loop gd d l)
  | .ret => .ok (.ret gd)
  | .callx => .ok (.callx gd b)
  | .call => .ok (.call gd l)
  | .bcase => .ok (.bcase gd b (trits l 12 0) (trits l 26 13))
  | .bc => .ok (.bc gd b l)
  | .jx => .ok (.jx gd b)
  | .j => .ok (.j gd l)
  | .hadd => .ok (.hadd gd ro d b c)
  | .hsub => .ok (.hsub gd ro d b c)
  | .hmin => .ok (.hmin gd ro d b c)
  | .hmax => .ok (.hmax gd ro d b c)
  | .hcmp => .ok (.hcmp gd ro d b c)
  | .hacs => .ok (.hacs gd d b c e)
  | .hpack => .ok (.hpack gd d b c)
  | .hunpk => .ok (.hunpk gd d c b)
  | .pxin => .ok (if m = 1 then .pxinS gd d b else .pxin gd d b)
  | .fadd => .ok (.fadd gd sh d b c)
  | .fsub => .ok (.fsub gd sh d b c)
  | .fmul => .ok (.fmul gd sh d b c)
  | .ffma => .ok (if m = 1 then .ffmaE gd sh d b c e else .ffma gd sh d b c)
  | .fmin => .ok (.fmin gd sh d b c)
  | .fmax => .ok (.fmax gd sh d b c)
  | .fcmp => .ok (if m = 1 then .fcmpQ gd d b c e else .fcmp gd d b c)
  | .fabs =>
    .ok (if m = 1 then .fabsNeg gd sh d b else if m = 2 then .fabsNabs gd sh d b else .fabs gd sh d b)
  | .frcp => .ok (.frcp gd sh d b)
  | .frsq => .ok (.frsq gd sh d b)
  | .fexp3 => .ok (.fexp3 gd sh d b)
  | .flog3 => .ok (.flog3 gd sh d b)
  | .fscl => .ok (if m = 1 then .fsclReg gd sh d b e else .fscl gd sh d b l)
  | .fclass => .ok (.fclass gd sh d b)
  | .fcvt =>
    match fmtOf (trits l 1 0), fmtOf (trits l 3 2) with
    | some dst, some src =>
      if trits l 26 13 = 0 ∧ fcvtPlaced sh m dst src then
        .ok (.fcvt gd sh m.toNat d b dst src (trits l 12 4))
      else .error 5
    | _, _ => .error 5
  | .arow => .ok (if m = 1 then .arowClr gd rs d b c e else .arow gd rs d b c e)
  | .drain => .ok (if m = 1 then .drainF gd rs d b c e else .drain gd rs d b c e)
  | .mbs => .ok (.mbs gd rs d b c e)
  | .mspa => .ok (.mspa gd rs d b c e)
  | .msha => .ok (if m = 1 then .mshaW6 gd rs d b c e else .mshaW3 gd rs d b c)
  | .mmaf => .ok (.mmaf gd rs d b c)
  | .mma9 => .ok (.mma9 gd rs d b c)
  | .tzero => .ok (if m = 1 then .tzeroQ gd rs d c else .tzero gd rs d c)
  | .tst => .ok (.tst gd rs d b c)
  | .tld => .ok (if m = 1 then .tldX gd rs d b c else .tld gd rs d b c)
  | .tget => .ok (.tget gd d b)
  | .tset => .ok (.tset gd d b)
  | .perm => .ok (.perm gd d b c e k)
  | .shuf => .ok (.shuf gd d b c e k)
  | .bcast => .ok (.bcast gd d b e k)
  | .vote => .ok (.vote gd d b e k)
  | .ballot => .ok (.ballot gd d b e k)
  | .red => .ok (.red gd sh (redOpOf m) d b e c)
  | .scan => .ok (.scan gd sh (redOpOf m) d b e c)
  | .zip => if 2 ≤ l ∧ l ≤ 4 then .ok (.zip gd sh d b e k l.toNat) else .error 5
  | .unzip => if 2 ≤ l ∧ l ≤ 4 then .ok (.unzip gd sh d b e k l.toNat) else .error 5
  | .gbar => .ok (.gbar gd e k)
  | .tbar => .ok (.tbar gd b)
  | .probe => .ok (.probe gd rs d b)
  | .cpri => if -1 ≤ l ∧ l ≤ 1 then .ok (.cpri gd b (Trit.ofInt l)) else .error 5
  | .cdrop => .ok (if m = 1 then .cdropCode gd rs b c else .cdrop gd rs b c)
  | .cflush => .ok (if m = 1 then .cflushMem gd rs b c else .cflush gd rs b c)
  | .cfence => .ok (.cfence gd)
  | .rel => .ok (.rel gd)
  | .acq => .ok (.acq gd)
  | .fence => .ok (.fence gd)
  | .ld9 => .ok (.ld9 gd h rs d b l)
  | .ld27 => .ok (.ld27 gd h rs d b l)
  | .ldh => .ok (.ldh gd h rs d b l)
  | .lda => .ok (.lda gd h rs d b l)
  | .st9 => .ok (.st9 gd h rs d b l)
  | .st27 => .ok (.st27 gd h rs d b l)
  | .sth => .ok (.sth gd h rs d b l)
  | .sta => .ok (.sta gd h rs d b l)
  | .lds9 => .ok (.lds9 gd rs d b l)
  | .lds27 => .ok (.lds27 gd rs d b l)
  | .sts9 => .ok (.sts9 gd rs d b l)
  | .sts27 => .ok (.sts27 gd rs d b l)
  | .pf => .ok (.pf gd h b l)
  | .xadd => .ok (.xadd gd ord rs d b c)
  | .xmin => .ok (.xmin gd ord rs d b c)
  | .xmax => .ok (.xmax gd ord rs d b c)
  | .xswp => .ok (.xswp gd ord rs d b c)
  | .xcas => .ok (.xcas gd ord rs d b c e)
  | .xsum => .ok (.xsum gd ord rs d b c)
  | .reduce => .ok (.reduce gd b)
  | .mcast => .ok (.mcast gd b)
  | .launch => .ok (.launch gd d b)
  | .qdone => .ok (.qdone gd b)
  | .take => .ok (.take gd d b c)
  | .append => .ok (.append gd d b c)
  | .kyld => .ok (.kyld gd)
  | .kret => .ok (.kret gd)
  | .kwake => .ok (.kwake gd d b c)
  | .kwait =>
    let w := trits l 1 0
    if trits l 26 11 = 0 ∧ 1 ≤ w ∧ w ≤ 3 then
      if m = 1 then (if trits l 10 2 = 0 then .ok (.kwaitR gd w.toNat b) else .error 5)
      else .ok (.kwait gd w.toNat (trits l 10 2))
    else .error 5
  | .sweep => .ok (.sweep gd d b)
  | .engage => if -1 ≤ l ∧ l ≤ 1 then .ok (.engage gd d b l) else .error 5
  | .epoll => .ok (.epoll gd d b)
  | .sarm => .ok (.sarm gd (placeOf (m == 1) b) c)
  | .sadd =>
    if m = 2 ∨ m = 3 then .ok (.saddReg gd (placeOf (m == 3) b) e)
    else if 1 ≤ l then .ok (.sadd gd (placeOf (m == 1) b) l) else .error 5
  | .sget => .ok (.sget gd d (placeOf (m == 1) b))
  | .swait => .ok (.swait gd d (placeOf (m == 1) b) c)
  | .rlock =>
    let p := placeOf (m == 0 || m == 2) b
    .ok (if m = 0 ∨ m = 1 then .rlock gd d p c else .rlockRd gd d p c)
  | .runlock => .ok (if m = 0 then .runlock gd d b else .runlockTorn gd d (placeOf (m == 1) b))
  | .board =>
    let p := placeOf (m == 2 || m == 3) c
    .ok (if m = 0 ∨ m = 2 then .board gd d b p else .boardTile gd d b p)
  | .unboard => .ok (.unboard gd d b)
  | .beamst => .ok (if m = 1 then .beamstLap gd d else .beamst gd d b)
  | .trap => if fits 9 l then .ok (.trap gd l) else .error 5
  | .rett => .ok (.rett gd)
  | .halt => .ok (.halt gd b)
  | .pmode => if l = 0 ∨ l = 1 then .ok (.pmode gd l) else .error 5
  | .spool => .ok (.spool gd d (placeOf (m == 1) b) c)

/-- Registers beyond those of the fields: the second condition of HACS, the runs of ZIP and UNZIP, of which a literal above
4 gives four registers. DEDUCED, unsafe (log 91). -/
def Raw.moreUses (r : Raw) (o : Op) : List RegUse :=
  match o with
  | .hacs => [⟨.c, regIndex r.fe + 1⟩]
  | .zip | .unzip =>
    (List.range (min 4 r.literal.toNat)).flatMap fun i =>
      [⟨.g, regIndex r.fd + i⟩, ⟨.g, regIndex r.fb + i⟩]
  | .sel3 => [⟨.c, condIndex r.modif⟩]
  | _ => []

/-- The registers an instruction's words name, for the checks of R53 and the interlock of R68. -/
def Raw.uses (r : Raw) (o : Op) (f : Form) : List RegUse :=
  f.fd.uses (regIndex r.fd) ++ f.fb.uses (regIndex r.fb) ++ f.fc.uses (regIndex r.fc) ++
    f.fe.uses (regIndex r.fe) ++ r.moreUses o

/-- Whether every field the form does not use holds 0 (R58, R59) and SHAPE is accepted (R55). -/
def Raw.clean (r : Raw) (o : Op) (f : Form) : Bool :=
  (f.fd != .none || r.fd == 0) && (f.fb != .none || r.fb == 0) &&
  (f.fc != .none || r.fc == 0 || (f.lit && r.len == 1)) && (f.fe != .none || r.fe == 0) &&
  (o.longLatency || r.rs == .zero) && (f.lit || (r.lit18 == 0 && r.lithi == 0)) &&
  r.resv == 0 && o.shapes.contains r.shapeOf

/-- The form that an opcode's first admissible MODIF gives it: where MODIF is not admissible, its register fields are
still checked (R49, R60). DEDUCED, unsafe (log 51). -/
def Op.baseForm (o : Op) : Option Form := (List.range 9).findSome? fun k : Nat => o.form (k : Int)

/-- The registers of an instruction whose MODIF is not admissible. -/
def Raw.baseUses (r : Raw) (o : Op) : List RegUse :=
  match o.baseForm with
  | none => []
  | some f => r.uses o f

/-- The subcode that the literal and the fields outside the registers raise: an undefined special-register index goes
before every other of them (R36, R49, R109). -/
def Raw.literalSub (r : Raw) (o : Op) : Nat :=
  match r.build o with
  | .error 4 => 4
  | _ => 5

/-- Decodes the fields of one instruction. -/
def Raw.decode (r : Raw) : Except DecodeFault Instr :=
  match Op.ofCode r.opc with
  | none => .error (.undefinedOpcode r.guard)
  | some o =>
    if r.len = 3 ∧ o.takesLit = false then .error (.undefinedOpcode r.guard)
    else
      match o.form r.modif with
      | none => .error (.illegal r.guard (r.baseUses o) (r.literalSub o))
      | some f =>
        match r.build o with
        | .error _ => .error (.illegal r.guard (r.uses o f) (r.literalSub o))
        | .ok i => if r.clean o f then .ok i else .error (.illegal r.guard (r.uses o f) 5)

/-- Decodes the words of one instruction, its start word first. DEDUCED, unsafe (log 51). -/
def decode (ws : List Word) : Except DecodeFault Instr :=
  match Raw.ofWords ws with
  | none => .error .notAnInstruction
  | some r => r.decode

/-- The registers the words of an instruction name; an opcode that is undefined, or undefined for its length, names
none (R71). Where MODIF is not admissible they are those that the checks of the issue read. DEDUCED, unsafe (log 51). -/
def usesOf (ws : List Word) : List RegUse :=
  match Raw.ofWords ws with
  | none => []
  | some r =>
    match Op.ofCode r.opc with
    | none => []
    | some o =>
      if r.len = 3 ∧ o.takesLit = false then []
      else match o.form r.modif with | none => r.baseUses o | some f => r.uses o f

/-- The word, counted from the start word, that holds the field for which an instruction raises illegal instruction
with a subcode, the first where several do; `ok` tells the registers that are allocated (R70). DEDUCED, unsafe (log 50). -/
def Raw.badWord (r : Raw) (ok : RegUse → Bool) (sub : Int) : Nat :=
  match Op.ofCode r.opc with
  | none => 0
  | some o =>
    if r.len = 1 ∨ sub = 1 then 0
    else
      match (o.form r.modif).or o.baseForm with
      | none => 0
      | some f =>
        if sub = 3 then
          let runs := match o with
            | .zip | .unzip => r.moreUses o
            | _ => []
          if (f.fd.uses (regIndex r.fd) ++ f.fb.uses (regIndex r.fb) ++ f.fc.uses (regIndex r.fc) ++ runs).all ok then 1
          else 0
        else if sub = 4 then 1
        else
          let first := (f.fd != .none || r.fd == 0) && (f.fb != .none || r.fb == 0) &&
            (f.fc != .none || r.fc == 0) && o.shapes.contains r.shapeOf
          let second := (o.form r.modif).isSome && (f.fe != .none || r.fe == 0) && (o.longLatency || r.rs == .zero) &&
            (f.lit || r.lit18 == 0) && (r.build o).toOption.isSome
          if !first then 0 else if second && (r.resv != 0 || (!f.lit && r.lithi != 0)) then 2 else 1

/-- Branch-class instructions (R63). -/
def Op.branch : Op → Bool
  | .j | .jx | .bc | .bcase | .call | .callx | .ret | .loop | .rett => true
  | _ => false

/-- Whether the words are a branch-class instruction defined for its length (R63). -/
def isBranch (ws : List Word) : Bool :=
  match Raw.ofWords ws with
  | none => false
  | some r =>
    match Op.ofCode r.opc with
    | none => false
    | some o => o.branch && (decide (r.len < 3) || o.takesLit)

/-! Clause headers (R61). -/

/-- WAIT trit of flag k. -/
def hdrWait (h : Word) (k : Nat) : Trit := tritAt h (13 + k)
def hdrRaiseA (h : Word) : Int := trits h 12 10
def hdrRaiseB (h : Word) : Int := trits h 9 7
def hdrLen (h : Word) : Int := trits h 6 4
def hdrLoop (h : Word) : Trit := tritAt h 3
/-- The header's own checks (R70): LEN, RAISEA, RAISEB and the reserved trits. -/
def hdrOk (h : Word) : Bool :=
  decide (1 ≤ hdrLen h) && decide (hdrLen h ≤ 9) && decide (-1 ≤ hdrRaiseA h) && decide (hdrRaiseA h ≤ 11) &&
  decide (-1 ≤ hdrRaiseB h) && decide (hdrRaiseB h ≤ 11) && trits h 1 0 == 0

/-- The words of the instructions of a clause body, n instructions at most. -/
def splitBody : Nat → List Word → List (List Word)
  | 0, _ => []
  | _, [] => []
  | n + 1, w :: ws =>
    let l := (role w).length - 1
    (w :: ws.take l) :: splitBody n (ws.drop l)

/-- The words of the instruction in slot k (from 1) of a clause, its header first. -/
def slotWords (clause : List Word) (k : Nat) : List Word :=
  match clause with
  | [] => []
  | _ :: body => (splitBody 9 body).getD (k - 1) []

/-! The encoder. -/

def regField (i : Nat) : Int := if i ≤ 121 then i else (i : Int) - 243
def condField (i : Nat) : Int := if i ≤ 4 then i else (i : Int) - 9

def Shape.trit : Shape → Trit
  | .trytes => .neg
  | .word => .zero
  | .halves => .pos

def Hint.code : Hint → Int
  | .default => 0 | .na => 1 | .by => 2
def Order.code : Order → Int
  | .rlx => 0 | .acq => 1 | .rel => 2 | .sc => 3
def Route.code : Route → Int
  | .straight => 0 | .sw => 1 | .bl => 2 | .bh => 3
def RedOp.code : RedOp → Int
  | .add => 0 | .adds => 1 | .min => 2 | .max => 3 | .tsum => 4
def Fmt.cvtCode : Fmt → Int
  | .tf9 => -2 | .t9 => -1 | .t27 => 1 | .tf27 => 2 | _ => 0
def Place.idx : Place → Nat
  | .g i => i
  | .a i => i
def Place.isA : Place → Bool
  | .g _ => false
  | .a _ => true

/-- Fields of an instruction without a literal, in the shortest length that holds them (R86). -/
def rawOf (o : Op) (gd : Guard) (sh : Shape) (fd fb fc fe : Int) (modif : Int) (rs : Trit) : Raw :=
  { len := if fe = 0 ∧ modif = 0 ∧ rs = .zero then 1 else 2, opc := o.code, greg := condField gd.reg,
    gsense := gd.sense, fd, fb, fc, shape := sh.trit, fe, modif, rs, lit18 := 0, lithi := 0, resv := 0 }

/-- Fields of an instruction with a literal, in the shortest length that holds them (R58, R86). -/
def rawLit (o : Op) (gd : Guard) (sh : Shape) (fd fb fe : Int) (modif : Int) (rs : Trit) (lit : Int) : Raw :=
  let base : Raw :=
    { len := 1, opc := o.code, greg := condField gd.reg, gsense := gd.sense, fd, fb, fc := 0,
      shape := sh.trit, fe, modif, rs, lit18 := 0, lithi := 0, resv := 0 }
  if fe = 0 ∧ modif = 0 ∧ rs = .zero ∧ fits 5 lit then { base with fc := lit }
  else if fits 18 lit then { base with len := 2, lit18 := lit }
  else { base with len := 3, lit18 := wrap 18 lit, lithi := trunc 18 lit }

def roleTrits (len : Nat) : Int := if len = 1 then 0 else if len = 2 then 3 else 4

/-- The words of fields (R52, R56, R57). -/
def Raw.words (r : Raw) : List Word :=
  let w := roleTrits r.len * p3 25 + r.opc * p3 19 + r.greg * p3 17 + r.gsense.toInt * p3 16 +
    r.fd * p3 11 + r.fb * p3 6 + r.fc * p3 1 + r.shape.toInt
  let c1 := -(p3 26) + r.fe * p3 21 + r.modif * p3 19 + r.rs.toInt * p3 18 + r.lit18
  let c2 := -(p3 26) + r.resv * p3 9 + r.lithi
  if r.len = 1 then [w] else if r.len = 2 then [w, c1] else [w, c1, c2]

/-- The fields of an instruction; none for an event, which no program word encodes. -/
def Instr.toRaw (i : Instr) : Option Raw :=
  let R := regField
  let K := condField
  let z := Trit.zero
  let W := Shape.word
  match i with
  | .nop gd => some (rawOf .nop gd W 0 0 0 0 0 z)
  | .add gd sh d b c => some (rawOf .add gd sh (R d) (R b) (R c) 0 0 z)
  | .adds gd sh d b c => some (rawOf .adds gd sh (R d) (R b) (R c) 0 0 z)
  | .addi gd sh d b l => some (rawLit .addi gd sh (R d) (R b) 0 0 z l)
  | .sub gd sh d b c => some (rawOf .sub gd sh (R d) (R b) (R c) 0 0 z)
  | .subs gd sh d b c => some (rawOf .subs gd sh (R d) (R b) (R c) 0 0 z)
  | .neg gd sh d b => some (rawOf .neg gd sh (R d) (R b) 0 0 0 z)
  | .abs gd sh d b => some (rawOf .abs gd sh (R d) (R b) 0 0 0 z)
  | .mul gd sh d b c => some (rawOf .mul gd sh (R d) (R b) (R c) 0 0 z)
  | .mulh gd sh d b c => some (rawOf .mulh gd sh (R d) (R b) (R c) 0 0 z)
  | .div gd sh d b c => some (rawOf .div gd sh (R d) (R b) (R c) 0 0 z)
  | .mod gd sh d b c => some (rawOf .mod gd sh (R d) (R b) (R c) 0 0 z)
  | .min gd sh d b c => some (rawOf .min gd sh (R d) (R b) (R c) 0 0 z)
  | .max gd sh d b c => some (rawOf .max gd sh (R d) (R b) (R c) 0 0 z)
  | .clamp gd sh d b c => some (rawOf .clamp gd sh (R d) (R b) (R c) 0 0 z)
  | .sht gd sh d b l => some (rawLit .sht gd sh (R d) (R b) 0 0 z l)
  | .shtReg gd sh d b e => some (rawOf .sht gd sh (R d) (R b) 0 (R e) 1 z)
  | .rot gd sh d b l => some (rawLit .rot gd sh (R d) (R b) 0 0 z l)
  | .rotReg gd sh d b e => some (rawOf .rot gd sh (R d) (R b) 0 (R e) 1 z)
  | .trn gd sh d b l => some (rawLit .trn gd sh (R d) (R b) 0 0 z l)
  | .trnReg gd sh d b e => some (rawOf .trn gd sh (R d) (R b) 0 (R e) 1 z)
  | .nrw9 gd d b => some (rawOf .nrw9 gd W (R d) (R b) 0 0 0 z)
  | .sat9 gd d b => some (rawOf .sat9 gd W (R d) (R b) 0 0 0 z)
  | .sgn gd sh d b => some (rawOf .sgn gd sh (R d) (R b) 0 0 0 z)
  | .lead gd sh d b => some (rawOf .lead gd sh (R d) (R b) 0 0 0 z)
  | .cnt gd sh d b => some (rawOf .cnt gd sh (R d) (R b) 0 0 0 z)
  | .tmin gd d b c => some (rawOf .tmin gd W (R d) (R b) (R c) 0 0 z)
  | .tmax gd d b c => some (rawOf .tmax gd W (R d) (R b) (R c) 0 0 z)
  | .tsum gd d b c => some (rawOf .tsum gd W (R d) (R b) (R c) 0 0 z)
  | .tmul gd d b c => some (rawOf .tmul gd W (R d) (R b) (R c) 0 0 z)
  | .cons gd d b c => some (rawOf .cons gd W (R d) (R b) (R c) 0 0 z)
  | .field gd d b hi lo => some (rawLit .field gd W (R d) (R b) 0 0 z (27 * hi + lo))
  | .deposit gd d b hi lo => some (rawLit .deposit gd W (R d) (R b) 0 0 z (27 * hi + lo))
  | .cmp gd d b c => some (rawOf .cmp gd W (R d) (R b) (R c) 0 0 z)
  | .cmpi gd d b l => some (rawLit .cmpi gd W (R d) (R b) 0 0 z l)
  | .cset gd d b => some (rawOf .cset gd W (R d) (R b) 0 0 0 z)
  | .cand gd d b c => some (rawOf .cand gd W (R d) (R b) (R c) 0 0 z)
  | .cor gd d b c => some (rawOf .cor gd W (R d) (R b) (R c) 0 0 z)
  | .sel3 gd d m b c e => some { rawOf .sel3 gd W (R d) (R b) (R c) (R e) (K m) z with len := 2 }
  | .mov gd d b => some (rawOf .mov gd W (R d) (R b) 0 0 0 z)
  | .movi gd d l => some (rawLit .movi gd W (R d) 0 0 0 z l)
  | .movcG gd d b => some (rawOf .movc gd W (R d) (R b) 0 0 0 z)
  | .movcC gd d b => some (rawOf .movc gd W (R d) (R b) 0 0 1 z)
  | .movs gd d sp => some (rawLit .movs gd W (R d) 0 0 0 z sp.code)
  | .movsA gd d sp => some (rawLit .movs gd W (R d) 0 0 1 z sp.code)
  | .sets gd sp b => some (rawLit .sets gd W 0 (R b) 0 0 z sp.code)
  | .setsA gd sp b => some (rawLit .sets gd W 0 (R b) 0 1 z sp.code)
  | .movx gd d b => some (rawOf .movx gd W (R d) (R b) 0 0 0 z)
  | .movy gd d b => some (rawOf .movy gd W (R d) (R b) 0 0 0 z)
  | .aadd gd d b c => some (rawOf .aadd gd W (R d) (R b) (R c) 0 0 z)
  | .asub gd d b c => some (rawOf .asub gd W (R d) (R b) (R c) 0 0 z)
  | .amov gd d b => some (rawOf .amov gd W (R d) (R b) 0 0 0 z)
  | .amovPair gd d b c => some (rawOf .amov gd W (R d) (R b) (R c) 0 1 z)
  | .amovLo gd d b => some (rawOf .amov gd W (R d) (R b) 0 0 2 z)
  | .amovHi gd d b => some (rawOf .amov gd W (R d) (R b) 0 0 3 z)
  | .alea gd d b e k => some (rawLit .alea gd W (R d) (R b) (R e) 0 z k)
  | .hadd gd r d b c => some (rawOf .hadd gd W (R d) (R b) (R c) 0 r.code z)
  | .hsub gd r d b c => some (rawOf .hsub gd W (R d) (R b) (R c) 0 r.code z)
  | .hmin gd r d b c => some (rawOf .hmin gd W (R d) (R b) (R c) 0 r.code z)
  | .hmax gd r d b c => some (rawOf .hmax gd W (R d) (R b) (R c) 0 r.code z)
  | .hcmp gd r d b c => some (rawOf .hcmp gd W (R d) (R b) (R c) 0 r.code z)
  | .hacs gd d b c k => some { rawOf .hacs gd W (R d) (R b) (R c) (R k) 0 z with len := 2 }
  | .hpack gd d b c => some (rawOf .hpack gd W (R d) (R b) (R c) 0 0 z)
  | .hunpk gd d c b => some (rawOf .hunpk gd W (R d) (R b) (R c) 0 0 z)
  | .pxin gd d b => some (rawOf .pxin gd W (R d) (R b) 0 0 0 z)
  | .pxinS gd d b => some (rawOf .pxin gd W (R d) (R b) 0 0 1 z)
  | .j gd l => some (rawLit .j gd W 0 0 0 0 z l)
  | .jx gd b => some (rawOf .jx gd W 0 (R b) 0 0 0 z)
  | .bc gd b l => some (rawLit .bc gd W 0 (R b) 0 0 z l)
  | .bcase gd b tn tp => some (rawLit .bcase gd W 0 (R b) 0 0 z (tn + p3 13 * tp))
  | .call gd l => some (rawLit .call gd W 0 0 0 0 z l)
  | .callx gd b => some (rawOf .callx gd W 0 (R b) 0 0 0 z)
  | .ret gd => some (rawOf .ret gd W 0 0 0 0 0 z)
  | .loop gd d l => some (rawLit .loop gd W (R d) 0 0 0 z l)
  | .yield gd => some (rawOf .yield gd W 0 0 0 0 0 z)
  | .exit gd => some (rawOf .exit gd W 0 0 0 0 0 z)
  | .brk gd => some (rawOf .brk gd W 0 0 0 0 0 z)
  | .fadd gd sh d b c => some (rawOf .fadd gd sh (R d) (R b) (R c) 0 0 z)
  | .fsub gd sh d b c => some (rawOf .fsub gd sh (R d) (R b) (R c) 0 0 z)
  | .fmul gd sh d b c => some (rawOf .fmul gd sh (R d) (R b) (R c) 0 0 z)
  | .ffma gd sh d b c => some (rawOf .ffma gd sh (R d) (R b) (R c) 0 0 z)
  | .ffmaE gd sh d b c e => some (rawOf .ffma gd sh (R d) (R b) (R c) (R e) 1 z)
  | .fmin gd sh d b c => some (rawOf .fmin gd sh (R d) (R b) (R c) 0 0 z)
  | .fmax gd sh d b c => some (rawOf .fmax gd sh (R d) (R b) (R c) 0 0 z)
  | .fcmp gd d b c => some (rawOf .fcmp gd W (R d) (R b) (R c) 0 0 z)
  | .fcmpQ gd d b c e => some (rawOf .fcmp gd W (R d) (R b) (R c) (R e) 1 z)
  | .fabs gd sh d b => some (rawOf .fabs gd sh (R d) (R b) 0 0 0 z)
  | .fabsNeg gd sh d b => some (rawOf .fabs gd sh (R d) (R b) 0 0 1 z)
  | .fabsNabs gd sh d b => some (rawOf .fabs gd sh (R d) (R b) 0 0 2 z)
  | .frcp gd sh d b => some (rawOf .frcp gd sh (R d) (R b) 0 0 0 z)
  | .frsq gd sh d b => some (rawOf .frsq gd sh (R d) (R b) 0 0 0 z)
  | .fexp3 gd sh d b => some (rawOf .fexp3 gd sh (R d) (R b) 0 0 0 z)
  | .flog3 gd sh d b => some (rawOf .flog3 gd sh (R d) (R b) 0 0 0 z)
  | .fscl gd sh d b l => some (rawLit .fscl gd sh (R d) (R b) 0 0 z l)
  | .fsclReg gd sh d b e => some (rawOf .fscl gd sh (R d) (R b) 0 (R e) 1 z)
  | .fclass gd sh d b => some (rawOf .fclass gd sh (R d) (R b) 0 0 0 z)
  | .fcvt gd sh t d b dst src sc =>
    some (rawLit .fcvt gd sh (R d) (R b) 0 t z (dst.cvtCode + 9 * src.cvtCode + 81 * sc))
  | .arow gd rs d q c e => some (rawOf .arow gd W (R d) (R q) (R c) (R e) 0 rs)
  | .arowClr gd rs d q c e => some (rawOf .arow gd W (R d) (R q) (R c) (R e) 1 rs)
  | .drain gd rs d q c e => some (rawOf .drain gd W (R d) (R q) (R c) (R e) 0 rs)
  | .drainF gd rs d q c e => some (rawOf .drain gd W (R d) (R q) (R c) (R e) 1 rs)
  | .mbs gd rs q a b e => some (rawOf .mbs gd W (R q) (R a) (R b) (R e) 0 rs)
  | .mspa gd rs q a b e => some (rawOf .mspa gd W (R q) (R a) (R b) (R e) 0 rs)
  | .mshaW3 gd rs q a b => some (rawOf .msha gd W (R q) (R a) (R b) 0 0 rs)
  | .mshaW6 gd rs q a b e => some (rawOf .msha gd W (R q) (R a) (R b) (R e) 1 rs)
  | .mmaf gd rs q a b => some (rawOf .mmaf gd W (R q) (R a) (R b) 0 0 rs)
  | .mma9 gd rs q a b => some (rawOf .mma9 gd W (R q) (R a) (R b) 0 0 rs)
  | .tzero gd rs m c => some (rawOf .tzero gd W (R m) 0 (R c) 0 0 rs)
  | .tzeroQ gd rs q c => some (rawOf .tzero gd W (R q) 0 (R c) 0 1 rs)
  | .tst gd rs m a c => some (rawOf .tst gd W (R m) (R a) (R c) 0 0 rs)
  | .tld gd rs m a c => some (rawOf .tld gd W (R m) (R a) (R c) 0 0 rs)
  | .tldX gd rs m a c => some (rawOf .tld gd W (R m) (R a) (R c) 0 1 rs)
  | .tget gd d m => some (rawOf .tget gd W (R d) (R m) 0 0 0 z)
  | .tset gd m b => some (rawOf .tset gd W (R m) (R b) 0 0 0 z)
  | .perm gd d b c m cd => some (rawOf .perm gd W (R d) (R b) (R c) (R m) (K cd) z)
  | .shuf gd d b c m cd => some (rawOf .shuf gd W (R d) (R b) (R c) (R m) (K cd) z)
  | .bcast gd d b m cd => some (rawOf .bcast gd W (R d) (R b) 0 (R m) (K cd) z)
  | .vote gd d b m cd => some (rawOf .vote gd W (R d) (R b) 0 (R m) (K cd) z)
  | .ballot gd d b m cd => some (rawOf .ballot gd W (R d) (R b) 0 (R m) (K cd) z)
  | .red gd sh op d b m cd => some (rawOf .red gd sh (R d) (R b) (R cd) (R m) op.code z)
  | .scan gd sh op d b m cd => some (rawOf .scan gd sh (R d) (R b) (R cd) (R m) op.code z)
  | .zip gd sh d b m cd k => some (rawLit .zip gd sh (R d) (R b) (R m) (K cd) z k)
  | .unzip gd sh d b m cd k => some (rawLit .unzip gd sh (R d) (R b) (R m) (K cd) z k)
  | .gbar gd m cd => some (rawOf .gbar gd W 0 0 0 (R m) (K cd) z)
  | .tbar gd b => some (rawOf .tbar gd W 0 (R b) 0 0 0 z)
  | .probe gd rs d b => some (rawOf .probe gd W (R d) (R b) 0 0 0 rs)
  | .cpri gd b p => some (rawLit .cpri gd W 0 (R b) 0 0 z p.toInt)
  | .cdrop gd rs b c => some (rawOf .cdrop gd W 0 (R b) (R c) 0 0 rs)
  | .cdropCode gd rs b c => some (rawOf .cdrop gd W 0 (R b) (R c) 0 1 rs)
  | .cflush gd rs b c => some (rawOf .cflush gd W 0 (R b) (R c) 0 0 rs)
  | .cflushMem gd rs b c => some (rawOf .cflush gd W 0 (R b) (R c) 0 1 rs)
  | .cfence gd => some (rawOf .cfence gd W 0 0 0 0 0 z)
  | .rel gd => some (rawOf .rel gd W 0 0 0 0 0 z)
  | .acq gd => some (rawOf .acq gd W 0 0 0 0 0 z)
  | .fence gd => some (rawOf .fence gd W 0 0 0 0 0 z)
  | .ld9 gd h rs d b l => some (rawLit .ld9 gd W (R d) (R b) 0 h.code rs l)
  | .ld27 gd h rs d b l => some (rawLit .ld27 gd W (R d) (R b) 0 h.code rs l)
  | .ldh gd h rs d b l => some (rawLit .ldh gd W (R d) (R b) 0 h.code rs l)
  | .lda gd h rs d b l => some (rawLit .lda gd W (R d) (R b) 0 h.code rs l)
  | .st9 gd h rs d b l => some (rawLit .st9 gd W (R d) (R b) 0 h.code rs l)
  | .st27 gd h rs d b l => some (rawLit .st27 gd W (R d) (R b) 0 h.code rs l)
  | .sth gd h rs d b l => some (rawLit .sth gd W (R d) (R b) 0 h.code rs l)
  | .sta gd h rs d b l => some (rawLit .sta gd W (R d) (R b) 0 h.code rs l)
  | .lds9 gd rs d b l => some (rawLit .lds9 gd W (R d) (R b) 0 0 rs l)
  | .lds27 gd rs d b l => some (rawLit .lds27 gd W (R d) (R b) 0 0 rs l)
  | .sts9 gd rs d b l => some (rawLit .sts9 gd W (R d) (R b) 0 0 rs l)
  | .sts27 gd rs d b l => some (rawLit .sts27 gd W (R d) (R b) 0 0 rs l)
  | .pf gd h b l => some (rawLit .pf gd W 0 (R b) 0 h.code z l)
  | .xadd gd o rs d b c => some (rawOf .xadd gd W (R d) (R b) (R c) 0 o.code rs)
  | .xmin gd o rs d b c => some (rawOf .xmin gd W (R d) (R b) (R c) 0 o.code rs)
  | .xmax gd o rs d b c => some (rawOf .xmax gd W (R d) (R b) (R c) 0 o.code rs)
  | .xswp gd o rs d b c => some (rawOf .xswp gd W (R d) (R b) (R c) 0 o.code rs)
  | .xcas gd o rs d b c e => some { rawOf .xcas gd W (R d) (R b) (R c) (R e) o.code rs with len := 2 }
  | .xsum gd o rs d b c => some (rawOf .xsum gd W (R d) (R b) (R c) 0 o.code rs)
  | .reduce gd b => some (rawOf .reduce gd W 0 (R b) 0 0 0 z)
  | .mcast gd b => some (rawOf .mcast gd W 0 (R b) 0 0 0 z)
  | .launch gd d b => some (rawOf .launch gd W (R d) (R b) 0 0 0 z)
  | .qdone gd b => some (rawOf .qdone gd W 0 (R b) 0 0 0 z)
  | .take gd d b c => some (rawOf .take gd W (R d) (R b) (R c) 0 0 z)
  | .append gd d b c => some (rawOf .append gd W (R d) (R b) (R c) 0 0 z)
  | .kyld gd => some (rawOf .kyld gd W 0 0 0 0 0 z)
  | .kret gd => some (rawOf .kret gd W 0 0 0 0 0 z)
  | .kwait gd w arg => some (rawLit .kwait gd W 0 0 0 0 z (w + 9 * arg))
  | .kwaitR gd w b => some (rawLit .kwait gd W 0 (R b) 0 1 z w)
  | .kwake gd d b c => some (rawOf .kwake gd W (R d) (R b) (R c) 0 0 z)
  | .sweep gd d b => some (rawOf .sweep gd W (R d) (R b) 0 0 0 z)
  | .engage gd d b eng => some (rawLit .engage gd W (R d) (R b) 0 0 z eng)
  | .epoll gd d b => some (rawOf .epoll gd W (R d) (R b) 0 0 0 z)
  | .sarm gd s c => some (rawOf .sarm gd W 0 (R s.idx) (R c) 0 (if s.isA then 1 else 0) z)
  | .sadd gd s n => some (rawLit .sadd gd W 0 (R s.idx) 0 (if s.isA then 1 else 0) z n)
  | .saddReg gd s e => some (rawOf .sadd gd W 0 (R s.idx) 0 (R e) (if s.isA then 3 else 2) z)
  | .sget gd d s => some (rawOf .sget gd W (R d) (R s.idx) 0 0 (if s.isA then 1 else 0) z)
  | .swait gd d s c => some (rawOf .swait gd W (R d) (R s.idx) (R c) 0 (if s.isA then 1 else 0) z)
  | .rlock gd d l c => some (rawOf .rlock gd W (R d) (R l.idx) (R c) 0 (if l.isA then 0 else 1) z)
  | .rlockRd gd d l c => some (rawOf .rlock gd W (R d) (R l.idx) (R c) 0 (if l.isA then 2 else 3) z)
  | .runlock gd d b => some (rawOf .runlock gd W (R d) (R b) 0 0 0 z)
  | .runlockTorn gd d l => some (rawOf .runlock gd W (R d) (R l.idx) 0 0 (if l.isA then 1 else 2) z)
  | .board gd d b s => some (rawOf .board gd W (R d) (R b) (R s.idx) 0 (if s.isA then 2 else 0) z)
  | .boardTile gd d b s => some (rawOf .board gd W (R d) (R b) (R s.idx) 0 (if s.isA then 3 else 1) z)
  | .unboard gd d b => some (rawOf .unboard gd W (R d) (R b) 0 0 0 z)
  | .beamst gd d b => some (rawOf .beamst gd W (R d) (R b) 0 0 0 z)
  | .beamstLap gd d => some (rawOf .beamst gd W (R d) 0 0 0 1 z)
  | .trap gd n => some (rawLit .trap gd W 0 0 0 0 z n)
  | .rett gd => some (rawOf .rett gd W 0 0 0 0 0 z)
  | .halt gd b => some (rawOf .halt gd W 0 (R b) 0 0 0 z)
  | .pmode gd m => some (rawLit .pmode gd W 0 0 0 0 z m)
  | .spool gd d s c => some (rawOf .spool gd W (R d) (R s.idx) (R c) 0 (if s.isA then 1 else 0) z)
  | _ => none

/-- The words of an instruction; none for an event. DESIGN CHOICE, safe (log 69). -/
def encode (i : Instr) : Option (List Word) := i.toRaw.map Raw.words

/-! Words as bits: a word is eight bytes, the little-endian two's complement of its value (R458). -/

/-- The word held in a 64-bit numeral; none where its value is no T27 value. PRESUMED, safe (log 72). -/
def wordOfBits (n : Nat) : Option Word :=
  let u : Int := (n % 18446744073709551616 : Nat)
  let v := if u < 9223372036854775808 then u else u - 18446744073709551616
  if fits 27 v then some v else none

/-- The words of a numeral, as many as its start word says. PRESUMED, safe (log 72). -/
def wordsOfBits (w : Nat) : Option (List Word) :=
  match wordOfBits w with
  | none => none
  | some w0 =>
    match (role w0).length with
    | 1 => some [w0]
    | 2 => (wordOfBits (w / 2 ^ 64)).map fun w1 => [w0, w1]
    | 3 =>
      match wordOfBits (w / 2 ^ 64), wordOfBits (w / 2 ^ 128) with
      | some w1, some w2 => some [w0, w1, w2]
      | _, _ => none
    | _ => none

/-- The instruction the decoder reads from nbits bits, the first word lowest. An undefined opcode
is a step of the table itself (R70). PRESUMED, safe (log 72). -/
def decodeTableWord (nbits w : Nat) : Option Instr :=
  match wordsOfBits (w % 2 ^ nbits) with
  | none => none
  | some ws =>
    match decode ws with
    | .ok i => some i
    | .error (.undefinedOpcode gd) => some (.undefinedOpcode gd)
    | .error _ => none

end Sys2Proof
end

