-- ==== Sys2Proof/Machine/State.lean ====
section
/-!
DEFINITION. The state of one device, as plain data, and the state after a cold start.

What a rule of the manual names has one home here. Words are the integers they denote.
Memories are sparse lists in one canonical form: addresses strictly rising, no entry
equal to 0, which is what an unlisted tryte reads as.
-/

namespace Sys2Proof.Machine

/-- A memory of trytes or words: (address, value) with addresses strictly rising and no zero value.
DESIGN CHOICE, safe (log 58). -/
abbrev Mem := List (Nat × Int)

/-- Why a step can stop with a fault. -/
inductive Fault where
  /-- Raised by nothing: every stop of an instruction that the manual describes is a cause delivered
  inside the machine (R46, R406), so a step always has a next state. Safe: no run reaches it. -/
  | none
  deriving DecidableEq, Repr

/-- Why a step can be refused. -/
inductive Refusal where
  /-- Raised by an arm of `exec` whose instruction has no meaning yet; unsafe for no claim, since
  nothing follows it. No arm raises it. -/
  | notModelled (mnemonic : String)
  deriving DecidableEq, Repr

/-! ### Threads -/

/-- A group by its bolt, team and GROUPID. -/
structure GroupId where
  bolt : Nat
  team : Nat
  grp : Nat
  deriving DecidableEq, Repr

/-- The sticky real flags of FLAGS (R38). -/
structure RealFlags where
  inv : Bool
  ofl : Bool
  ufl : Bool
  inx : Bool
  deriving DecidableEq, Repr

/-- The fields of STATUS (R40); `system` is PRIV +. -/
structure Status where
  width : Int
  det : Bool
  intrap : Bool
  pm : Bool
  system : Bool
  deriving DecidableEq, Repr

/-- A cause with its subcode and the address for TRAPADDR (R46, R406). -/
structure Cause where
  code : Int
  sub : Int
  addr : Int
  deriving DecidableEq, Repr

/-- A deferred or engine-borne cause on a pending list, with the destinations of the access that
raised it (R407, R408). -/
structure Pending where
  cause : Cause
  dests : List RegUse
  deriving DecidableEq, Repr

/-- The cause that ended a thread with failure, with the slot and header address that a delivery would
have saved (R48, R421). -/
structure Failure where
  cause : Cause
  slot : Nat
  pc : Int
  deriving DecidableEq, Repr

/-- How control came to a clause boundary, which fixes the checks of the fetch (R65, R120, R479); `resumeWait` is a
resumption within the flag waits that RETT applies (R413, R424). -/
inductive Via where
  | entry | fall | taken | trapvec | rett | handler | resume | resumeWait
  deriving DecidableEq, Repr

/-- A long-latency operation between its issue and its completion (R68, R233, R300): the flag it
raised, the results it will write, the flags it will set and the cause it will report.
DESIGN CHOICE, unsafe (log 56). -/
structure LongOp where
  num : Nat
  flag : Option Nat
  gs : List (Nat × Int)
  prs : List (Nat × Int)
  cs : List (Nat × Trit)
  dests : List RegUse
  sets : RealFlags
  cause : Option Cause
  tileOp : Option Nat
  /-- whether its instruction can set a real flag (R147) -/
  flagging : Bool
  /-- whether it is a load, whose return is counted when its destination is no more (R323) -/
  load : Bool
  deriving DecidableEq, Repr

/-- An arrival at a cross-lane instruction (R181, R213): the instruction, its effective mask and the
values of its sources. `at_` is the address of its start word. -/
structure Arrival where
  instr : Instr
  at_ : Int
  mask : List Int
  vals : List Int
  index : Int
  cond : Trit
  deriving DecidableEq, Repr

/-- Where a tryte that a unit reads or writes, or the word that follows from it, lies once its operand is resolved: an
offset of the team's scratchpad, or a physical address at a home slice, with the leaf of the page that named it, which
places a write (R258, R320). Of a word that a page boundary cuts, the first n trytes lie at one address and the others
from a second on (R251). -/
inductive SyncLoc where
  | scratch (team : TeamId) (off : Int)
  | memory (home : Nat) (pa : Int) (leaf : Word)
  | cut (home : Nat) (pa : Int) (leaf : Word) (n : Nat) (home2 : Nat) (pa2 : Int) (leaf2 : Word)
  deriving DecidableEq, Repr

/-- What keeps a thread from issuing, or lets it. -/
inductive Run where
  /-- at a clause boundary, its next clause not fetched -/
  | boundary (via : Via)
  /-- its clause fetched, waiting for the flags of the header (when `wait`) and for the picker -/
  | ready (wait : Bool)
  /-- in a gang -/
  | ganged
  /-- blocked at a cross-lane instruction -/
  | arrived (a : Arrival)
  /-- blocked at TBAR -/
  | barrier (b : Int)
  /-- deterministic: its quantum has ended before the instruction at its slot (R288) -/
  | quantum
  /-- in SWAIT or SPOOL (R387, R416) -/
  | waiting (cd : Nat) (loc : SyncLoc) (gen : Int) (spool : Bool)
  /-- a crew thread of a sweep, between handler runs (R346) -/
  | crew
  /-- holding in an instruction whose answer has not come (R379) -/
  | answer
  /-- EXIT, or HALT with its operand, has issued and awaits R127 and R188 -/
  | exiting (halt : Option Int)
  | exited
  deriving DecidableEq, Repr

/-- A buffered tryte of deterministic mode (R287); `issue` tells the instructions of the quantum apart, whose stores
are never one write (R315). -/
inductive BufTryte where
  | scratch (off : Nat) (v : Int)
  | memory (home : Nat) (pa : Nat) (va : Int) (leaf : Word) (h : Hint) (issue : Nat) (v : Int)
  | peer (pa : Int) (v : Int)
  | window (pa : Int) (v : Int)
  deriving DecidableEq, Repr

/-- A thread (R30, R35, R44, R66) and what the rules give it beside its registers. -/
structure Thread where
  id : ThreadId
  team : TeamId
  grp : Nat
  member : Nat
  lane : Nat
  core : Nat
  nregs : Nat
  g : List Int
  a : List Int
  c : List Trit
  pc : Int
  slot : Nat
  clause : List Word
  rstack : List Int
  rsdepth : Nat
  flags : RealFlags
  status : Status
  splimit : Int
  trapvec : Int
  trappc : Int
  trapinfo : Int
  trapaddr : Int
  /-- counts of the completion flags f0 to f11 -/
  cflags : List Nat
  ops : List LongOp
  nextOp : Nat
  pend : List Pending
  run : Run
  /-- the instruction at the slot executes once as a NOP (R128, R413) -/
  nopOnce : Bool
  /-- a pending cause is delivered before the first issue, the clause having been resumed (R407) -/
  resumed : Bool
  /-- the step since which the thread has been ready at its place, or none until the step that brought it to a
  boundary is over (R176) -/
  readySince : Option Nat
  /-- the step since which each completion flag has been clear, where it is (R68, R176) -/
  clearSince : List (Option Nat)
  /-- gangs that its core has formed since the thread became ready without placing it (R179) -/
  passed : Nat
  /-- clauses captured in the loop buffer, by header address (R271) -/
  capture : List (Int × List Word)
  /-- a CFENCE has executed in the clause in progress, whose words are not captured again (R310) -/
  fenced : Bool
  buf : List BufTryte
  quantum : Nat
  /-- deterministic: the commit that its next instruction waited for has taken place -/
  committed : Bool
  /-- the element whose handler run the thread performs (R349) -/
  element : Option Int
  /-- how many locks the thread has set, from which it numbers them (R290, R388) -/
  locks : Nat
  /-- a cause that the thread's own step found to end it with failure (R48) -/
  failed : Option Failure
  deriving DecidableEq, Repr

/-! ### Teams and what they hold -/

/-- One tile register: its shape word, and its trytes by 81·row + column. -/
structure Tile where
  shape : Int
  data : Mem
  deriving DecidableEq, Repr

/-- One accumulator: words by 27·row + column, and the rows whose rovf is + . -/
structure Acc where
  data : Mem
  rovf : List Nat
  deriving DecidableEq, Repr

/-- The tiles and accumulators of a team on one core (R228). -/
structure TileCore where
  tiles : List Tile
  accs : List Acc
  deriving DecidableEq, Repr

/-- A LOOP in force in a chain (R325). -/
structure LoopRun where
  first : Int
  n : Int
  k : Int
  iter : Int
  sstep : Int
  dstep : Int
  deriving DecidableEq, Repr

/-- A tryte that a part of an entry will write, its value, and whether the raise counts it: a tryte counts once
(R322). -/
structure PartCell where
  loc : SyncLoc
  v : Int
  counts : Bool
  deriving DecidableEq, Repr

/-- An NVMe Read command of a storage entry (R332, R333): its identifier once it is in the submission queue, its
storage-table entry, first logical block and count of blocks, the bytes of the entry that it reads, and whether it has
completed. -/
structure ReadCommand where
  cid : Option Nat
  drive : Nat
  block : Int
  blocks : Int
  first : Nat
  bytes : Nat
  done : Bool
  deriving DecidableEq, Repr

/-- Kinds of the entries that access memory (R324). -/
inductive EntryKind where
  | copy | conv | decomp | fill
  deriving DecidableEq, Repr

/-- A tensor record (R328). -/
structure Tensor where
  base : Int
  space : Int
  fmt : Int
  rank : Int
  knot : Bool
  ext : List Int
  str : List Int
  htab : Int
  deriving DecidableEq, Repr

/-- What an entry does, as its words and records stood when it was issued (R325, R381). -/
structure Work where
  kind : EntryKind
  src : Option Tensor
  dst : Tensor
  rr : Option Tensor
  value : Int
  scale : Int
  acc : Int
  rsh : Int
  alg : Int
  params : Int
  deriving DecidableEq, Repr

/-- An entry in flight: where it stands, the shifts of its iteration, its sync word and how it raises it, the
trytes its parts will write, and what it has met (R322, R326, R327). -/
structure Flight where
  off : Int
  iter : Int
  work : Work
  sshift : Int
  dshift : Int
  ref : Option SyncLoc
  raise : Int
  /-- the writes still to make, in parts of at most one sector -/
  todo : List (List PartCell)
  /-- trytes written so far -/
  total : Int
  computed : Bool
  /-- a paired write (R295), and whether it has written some of its trytes -/
  paired : Bool
  started : Bool
  stat : Nat
  addr : Int
  /-- the commands of a storage entry -/
  cmds : List ReadCommand
  deriving DecidableEq, Repr

/-! ### Sectors in caches -/

/-- A sector in an L1 (R258, R275): the leaf of the page it was filled under, its trytes, which are valid, which
are dirty, which words the core owns, the priority of its line and its poison mark (0 none, else the subcode of data
poison). -/
structure L1Sector where
  core : Nat
  home : Nat
  sector : Nat
  leaf : Word
  data : List Int
  valid : List Bool
  dirty : List Bool
  owned : List Bool
  prio : Int
  poison : Nat
  /-- the step in which the words that the core does not own were taken from the home slice (R284) -/
  since : Nat
  deriving DecidableEq, Repr

/-- A sector in a slice (R258, R262), with the COMP trit of the page it was allocated under (R269): while its fill
is pending, only written trytes are valid. -/
structure SliceSector where
  home : Nat
  sector : Nat
  comp : Trit
  data : List Int
  valid : List Bool
  dirty : Bool
  pending : Bool
  prio : Int
  poison : Nat
  deriving DecidableEq, Repr

/-- A fill of a core's L1 for which a prefetch asked: the sector, the leaf of the page that the prefetch named, and whether
it fills at low priority (R306). -/
structure Prefetch where
  home : Nat
  sector : Nat
  core : Nat
  leaf : Word
  low : Bool
  deriving DecidableEq, Repr

/-! ### Chains, boardings and sweeps -/

/-- Memory and a team's scratchpad as they stood: HBM, the slices, and the L1s that own words of them (R273, R293). -/
structure Snapshot where
  hbm : Mem
  slices : List SliceSector
  l1 : List L1Sector
  scratch : Mem
  deriving DecidableEq, Repr

/-- A chain (R324, R326, R383). -/
structure Chain where
  seq : Int
  engine : Int
  core : Nat
  issuer : ThreadId
  /-- the privilege of the issuer (R327) -/
  system : Bool
  pos : Int
  lp : Option LoopRun
  flight : List Flight
  state : Int
  stat : Nat
  endPos : Int
  endIter : Int
  /-- the step in which it got its place (R319) -/
  since : Nat
  /-- memory and the team's scratchpad as of the release of its ENGAGE, with what units have written since to ranges
  registered on its cores (R291, R293) -/
  asOf : Snapshot
  deriving DecidableEq, Repr

/-- Destination of a boarding (R369). -/
inductive BoardDest where
  | scratch (off cap : Int)
  | tile (k : Nat)
  deriving DecidableEq, Repr

/-- States of a boarding (R370). -/
inductive BoardState where
  | armed | riding | done | failed | held
  deriving DecidableEq, Repr

/-- A boarding (R368 to R372, R393). -/
structure Boarding where
  num : Int
  core : Nat
  issuer : ThreadId
  layer : Int
  dest : BoardDest
  sync : SyncLoc
  state : BoardState
  stat : Nat
  strike : Nat
  /-- the tile that the strikes count, and the lap of the last of them (R371, R405) -/
  struck : Option (Int × Int)
  /-- the count and the tile as they stood before the lap in progress (R367) -/
  before : Nat × Option (Int × Int)
  deriving DecidableEq, Repr

/-- A crew thread of a sweep and the SWEEP it will continue after (R346). -/
structure Crew where
  id : ThreadId
  pc : Int
  slot : Nat
  clause : List Word
  gd : Nat
  deriving DecidableEq, Repr

/-- A sweep from its SWEEP to its completion (R345 to R352, R357). -/
structure Sweep where
  core : Nat
  issuer : ThreadId
  system : Bool
  /-- the step in which SWEEP issued: a core's shuttle takes its sweeps in this order (R346) -/
  since : Nat
  /-- whether the shuttle has begun it on the core where it is: then it goes on before those that wait (R346) -/
  begun : Bool
  recAt : Int
  scratch : Bool
  base : Int
  fmt : Int
  exts : List Int
  htab : Int
  first : Int
  last : Int
  elems : Int
  stab : Int
  nslot : Int
  full : Bool
  /-- crew threads by rank -/
  crew : List Crew
  /-- the next block to read -/
  next : Int
  queue : List Int
  running : List (ThreadId × Int)
  /-- blocks read whose heddle trit is not yet written -/
  open_ : List Int
  /-- crew threads whose buffers hold the end write of their run (R356) -/
  written : List ThreadId
  runs : Int
  blocks : Int
  result : Int
  firstBad : Int
  stopped : Bool
  deriving DecidableEq, Repr

/-- A KWAKE held from the block read that enqueued its element until the end write of the run (R354): the
thread that waits and its condition register, the knot, the heddle tryte and trit, the addresses of both, and the team,
sweep and element that hold it. -/
structure Wake where
  id : ThreadId
  cd : Nat
  knot : SyncLoc
  heddle : SyncLoc
  bit : Nat
  at_ : Int × Int
  sweeper : TeamId
  issuer : ThreadId
  elem : Int
  deriving DecidableEq, Repr

/-- Where a team stands between admission and its end. -/
inductive TeamState where
  | resident
  /-- pre-empted, or spooled by waiting: its threads stop and its context is being written;
  `hold` when it then waits for BRESUME -/
  | stopping (hold : Bool)
  | spooled (hold : Bool)
  deriving DecidableEq, Repr

/-- An admitted team (R165, R168, R188, R228, R263, R422). -/
structure Team where
  id : TeamId
  state : TeamState
  core : Nat
  pair : Bool
  slots : List Nat
  probe : List Bool
  counter : Nat
  scratch : Mem
  /-- scratchpad offsets whose check trits show an uncorrectable error (R426) -/
  scratchBad : List Nat
  tiles : List TileCore
  chains : List Chain
  nextSeq : Int
  boardings : List Boarding
  nextBoard : Int
  sweeps : List Sweep
  /-- generation tags of its register, scratchpad and tile allocations (R323) -/
  tags : List Int
  /-- accumulated wait in REFTIME ticks (R206) -/
  waited : Nat
  prio : Int
  enq : Nat
  readyAt : Option Nat
  /-- resumed, but its locks and boardings are not registered again: its threads wait (R291, R390, R424) -/
  rejoin : Bool
  deriving DecidableEq, Repr

/-! ### Bolts and the launch unit -/

/-- A predecessor slot of a record and whether it has been met (R195, R198). -/
structure Pred where
  addr : Int
  gen : Int
  met : Bool
  deriving DecidableEq, Repr

/-- A launch record (R191 to R195). -/
structure Record where
  entry : Int
  param : Int
  spoola : Int
  teams : Nat
  threads : Nat
  regs : Nat
  width : Int
  groups : Nat
  tiles : Nat
  accs : Nat
  bars : Nat
  det : Bool
  idem : Bool
  scratch : Int
  queue : Nat
  prio : Int
  eclass : Nat
  spoolt : Int
  preds : List Pred
  deriving DecidableEq, Repr

/-- What the memory plan gives a bolt (R32, R43, R189, R263): private window, private area, stack
limit and top, and the completion sync word. DESIGN CHOICE, unsafe (log 19). -/
structure Plan where
  spoola : Int
  plow : Int
  pwords : Int
  area : Int
  splimit : Int
  top : Int
  done : Option Int
  deriving DecidableEq, Repr

/-- A bolt from its delivery to its end (R165, R197, R421). -/
structure Bolt where
  id : Nat
  record : Record
  qroot : Int
  plan : Plan
  prio : Int
  enq : Nat
  eligible : Option Nat
  /-- the lowest team not yet admitted -/
  nextTeam : Nat
  queued : Bool
  /-- BSTAT of its header -/
  outcome : Int
  ended : Nat
  /-- teams killed and to be relaunched (R429), and how often each has been -/
  again : List Nat
  relaunched : List (Nat × Nat)
  deriving DecidableEq, Repr

/-! ### Instruction caches, translations, locks and collectives -/

/-- A line of an instruction cache: its words as fetched, and the poison marks of its nine sectors (R268, R270). -/
structure ILine where
  core : Nat
  home : Nat
  line : Nat
  words : List Word
  marks : List Nat
  deriving DecidableEq, Repr

/-- A cached translation of a queue (R255). -/
structure TEntry where
  queue : Nat
  qroot : Int
  page : Int
  leaf : Word
  level : Nat
  deriving DecidableEq, Repr

/-- Kinds of range locks (R291, R295). -/
inductive LockKind where
  | dest | src | torn
  deriving DecidableEq, Repr

/-- Who holds a range lock: RLOCK, a chain entry, a boarding or a collective (R291, R368, R388, R402). -/
inductive LockOwner where
  | rlock (num : Int)
  | entry (seq off iter : Int)
  | board (num : Int)
  | collective (cid rank : Int)
  deriving DecidableEq, Repr

/-- A registered range: in virtual addresses, or in the scratchpad offsets of a team (R291). -/
structure Lock where
  core : Nat
  entry : Nat
  team : TeamId
  owner : LockOwner
  scratch : Bool
  lo : Int
  hi : Int
  kind : LockKind
  deriving DecidableEq, Repr

/-- A participant of a collective operation (R401, R402): of this device, or of another, whose thread, team and core mean
nothing here. -/
structure Member where
  /-- the device of the participant, or none for this one (R455) -/
  device : Option Int
  id : ThreadId
  team : TeamId
  core : Nat
  rank : Int
  root : Int
  op : Int
  fmt : Int
  parts : Int
  count : Int
  src : Int
  dst : Int
  sync : Int
  mcast : Bool
  /-- the trytes of SRC as of the release of its join, or none where they could not be read (R268, R402) -/
  source : Option (List Int)
  deriving DecidableEq, Repr

/-- A collective operation on an identifier (R337, R402). -/
structure Collective where
  cid : Int
  gen : Int
  members : List Member
  deriving DecidableEq, Repr

/-- A participant of another device that has joined, with its identifier and generation (R337, R455). -/
structure RemoteMember where
  cid : Int
  gen : Int
  m : Member
  deriving DecidableEq, Repr

/-- What leaves for another device for a collective operation, in sectors of 160 bytes (R451, R455): a join with its record
and source, or what the collective unit gives a participant of that device; `err` says that the operation ends with ERR +. -/
structure CollectiveSend where
  dev : Int
  cid : Int
  gen : Int
  rank : Int
  join : Bool
  err : Bool
  sectors : List (List (BitVec 8))
  deriving DecidableEq, Repr

/-- An item offered to the compaction unit (R335). -/
structure AppendReq where
  id : ThreadId
  cd : Nat
  list : Int
  item : Int
  deriving DecidableEq, Repr

/-- An operation that a forwarding entry awaits: a chain or a boarding of its team, by number, a joined collective
operation, by identifier and rank, or a KWAKE that is held (R354, R404, R425). -/
inductive Awaited where
  | chain (seq : Int)
  | board (num : Int)
  | collective (cid rank : Int)
  | wake (id : ThreadId)
  deriving DecidableEq, Repr

/-- A forwarding entry of a core pair (R425): the operations issued before the spool, and the engine-borne causes held
for a spooled team. -/
structure Forward where
  pair : Nat
  team : TeamId
  awaits : List Awaited
  causes : List (ThreadId × Cause)
  deriving DecidableEq, Repr

/-- Kinds of allocations that carry a generation tag (R323). -/
inductive Alloc where
  | regs | scratch | tiles
  deriving DecidableEq, Repr

/-- The generation tag that the next allocation of a kind on a core carries, where it is not 0 (R323). -/
structure TagCount where
  core : Nat
  kind : Alloc
  tag : Int
  deriving DecidableEq, Repr

/-- A write or raise still on its way to an allocation, with the tag captured when its operation was issued (R323); of
an abandoned boarding, the layer whose beats are still to arrive at its tap (R375). -/
structure Return where
  core : Nat
  kind : Alloc
  tag : Int
  layer : Option Int
  deriving DecidableEq, Repr

/-! ### Beam, dies and host -/

/-- A layer entry of a beam program (R361). -/
structure Layer where
  id : Int
  planes : Int
  tiles : Int
  run1 : Int
  run2 : Int
  deriving DecidableEq, Repr

/-- A beat (R359); `kind` 0 data, 1 poison. -/
structure Beat where
  layer : Int
  plane : Int
  tile : Int
  mark : Bool
  lap : Int
  kind : Int
  data : List Int
  check : Int
  last : Bool
  deriving DecidableEq, Repr

/-- The lap in progress: its layers and the beats placed on the ring so far. -/
structure Lap where
  layers : List Layer
  sent : List Beat
  deriving DecidableEq, Repr

/-- A beat that a tap holds back while its die relocks: the tap, the layer, the beat, whether it came intact, and the lap
that brought it (R438). -/
structure TapBeat where
  tap : Nat
  layer : Layer
  beat : Beat
  good : Bool
  lap : Int
  deriving DecidableEq, Repr

/-- The beam registers (R364), the lap in progress and how many of its beats each tap has passed. -/
structure Beam where
  prog : Int
  next : Int
  nxst : Int
  enable : Int
  minstep : Int
  fixstep : Int
  step : Int
  laps : Int
  seg : Int
  lap : Option Lap
  passed : List (Nat × Nat)
  /-- beats in the buffers of taps, oldest first (R438) -/
  buffered : List TapBeat
  stopAtEnd : Bool
  deriving DecidableEq, Repr

/-- The registers of a compute die (R204, R418, R437, R446) and what steps them. -/
structure Die where
  ebudget : Int
  emeas : Int
  eallow : Int
  headroom : Int
  /-- ninths of full matrix and shuttle rate (R205) -/
  rate : Int
  h : Int
  pstat : List Int
  ffix : Int
  fmax : Int
  fmin : Int
  step : Int
  relock : Bool
  /-- units of time that the relock still takes (R438) -/
  left : Nat
  /-- units of time that have passed of the clock's present cycle (R436) -/
  phase : Nat
  /-- a step requested (R437, R438), and the count of consecutive evaluations of one sign -/
  request : Option Int
  evalSign : Int
  evalCount : Nat
  cycles : Int
  stale : Int
  reuse : Int
  beamflt : Int
  cecount : Int
  uecount : Int
  deriving DecidableEq, Repr

/-- A PCI Express port (R441, R448): status of its last delivery, held low words, latched high words. -/
structure Port where
  lstat : Int
  held : List (Int × Int)
  latch : List (Int × Int)
  deriving DecidableEq, Repr

/-- A flit received on a link: the trytes of its body, or none when it is retried (R432). -/
structure Flit where
  link : Nat
  trytes : Option (List Int)
  deriving DecidableEq, Repr

/-- A sector returned to a peer device, in its 160 bytes (R451, R454). -/
structure PeerRead where
  dev : Nat
  sector : Int
  bytes : List (BitVec 8)
  deriving DecidableEq, Repr

/-- A write to a peer: the device, the sector at it, its 160 bytes and the mask of the trytes written (R451, R452). -/
structure PeerWrite where
  dev : Int
  sector : Int
  bytes : List (BitVec 8)
  mask : List Bool
  deriving DecidableEq, Repr

/-- A write of a doorbell of a drive: PORT, bus address and value (R449, R450). -/
structure Doorbell where
  port : Trit
  addr : Int
  value : Nat
  deriving DecidableEq, Repr

/-- A Read command that a drive still has to complete for an entry that is no more: the chain and entry it was sent for,
its storage-table entry and its identifier (R296, R449). -/
structure Orphan where
  team : TeamId
  seq : Int
  off : Int
  drive : Nat
  cid : Nat
  deriving DecidableEq, Repr

/-- Host registers of the device block of the control window (R445). -/
structure Window where
  qroot : List Int
  lrec : Int
  tinval : Int
  ageguard : Int
  hrsync : Int
  devnum : Int
  /-- STORTAB, PWIN, PIN, CTAB and HNOTE by word number, where they differ from their default -/
  words : List (Int × Int)
  fwlen : Int
  nonce : List Int
  attst : Int
  hbmtop : Int
  deriving DecidableEq, Repr

/-- The state of one device. The fields that log 62 names are the model's own records. DESIGN CHOICE, safe (log 62). -/
structure State where
  /-- steps taken, the index of every free value -/
  tick : Nat
  /-- whether a step of the units inside goes before the gang whose turn it is -/
  turn : Bool
  /-- the package reference timer (R440), and the units of time that have passed of its present tick -/
  reftime : Int
  fine : Nat
  /-- the count of 100 ticks whose evaluation has taken place (R205) -/
  evals : Int
  /-- an access of the step reaches a die whose clock stands still, and waits (R438) -/
  stalled : Bool
  threads : List Thread
  gangs : List (List ThreadId)
  /-- members of the first gang that stand at another slot than those whose turn it is -/
  aside : List ThreadId
  /-- threads whose instructions at the end of a quantum are still to take effect, in order; those of one list issue
  together (R186, R288) -/
  forced : List (List ThreadId)
  teams : List Team
  bolts : List Bolt
  nextBolt : Nat
  plans : List Plan
  hbm : Mem
  /-- HBM sectors whose POISON bit is 1 (R265) -/
  hbmPoison : List Nat
  /-- channel pairs withdrawn at a cold start (R474, R475) -/
  withdrawn : List Nat
  l1 : List L1Sector
  slices : List SliceSector
  /-- fills of L1s that wait for the fill of their sector (R306) -/
  prefetches : List Prefetch
  icache : List ILine
  tcache : List TEntry
  /-- queues whose invalidation is pending (R255), -1 for all -/
  tinvPending : List Int
  /-- trytes held by the last commit of a team: home slice, physical address and team; and those of the commit before it,
  until the last has ended (R289) -/
  heldTrytes : List (Nat × Nat × TeamId)
  heldBefore : List (Nat × Nat × TeamId)
  locks : List Lock
  /-- .sc tickets issued by the sequencer (R285) -/
  tickets : Nat
  /-- instructions that hold for a place, in the order in which they issued (R319, R368) -/
  tokens : List (Int × ThreadId)
  collectives : List Collective
  /-- participants of other devices that have joined, oldest first, and what has left for other devices (R451, R455) -/
  remotes : List RemoteMember
  collSends : List CollectiveSend
  appends : List AppendReq
  wakes : List Wake
  engineCauses : List (TeamId × ThreadId × Cause)
  forwards : List Forward
  /-- raises in transit to scratchpad sync words of spooled teams -/
  transit : List (TeamId × Int × Int)
  /-- generation tags of the cores, and what has been issued toward allocations that are no more (R323) -/
  tags : List TagCount
  returns : List Return
  beam : Beam
  dies : List Die
  window : Window
  ports : List Port
  /-- readiness words 2,187 to 2,259 (R472) -/
  ready : List Int
  linksOut : List Nat
  /-- MSI-X vectors signalled, oldest first (R445, R475) -/
  msix : List Int
  /-- bytes of the staging memory (R442), unlisted bytes 0 -/
  staging : List Host.Cell
  /-- Read commands sent and completed by the queue pair of each storage-table entry (R449) -/
  queues : List (Nat × Nat)
  orphans : List Orphan
  /-- the firmware image as the boot logic read it (R476) -/
  image : List (BitVec 8)
  /-- bytes that the host's reads have returned, newest first (R441, R443, R444) -/
  hostReads : List (List (BitVec 8))
  /-- sectors read by peers, newest first (R454) -/
  peerReads : List PeerRead
  /-- writes sent to peers and to doorbells of drives, oldest first (R449, R452) -/
  peerWrites : List PeerWrite
  doorbells : List Doorbell
  /-- flits received, newest first (R432) -/
  flits : List Flit
  /-- whether the boot logic is checking the staged firmware image (R476) -/
  fwPending : Bool
  /-- the nonce and the readiness words of the quote in progress (R477) -/
  quote : List Int × List Int
  /-- steps that writes of control-window words have started, oldest first: they go before all others -/
  started : List Instr
  /-- steps to come from outside and from the units whose timing the manual leaves open -/
  agenda : List Instr
  deriving DecidableEq, Repr

/-! ### After a cold start -/

def RealFlags.clear : RealFlags := ⟨false, false, false, false⟩

/-- A compute die after a cold start (R204, R418, R437, R446). DESIGN CHOICE, unsafe (log 6). -/
def Die.reset : Die :=
  { ebudget := 74074, emeas := 0, eallow := 1458, headroom := 0, rate := 9, h := 0,
    pstat := List.replicate 18 1, ffix := 0, fmax := 9, fmin := 1, step := 5, relock := false, left := 0, phase := 0,
    request := none, evalSign := 0, evalCount := 0, cycles := 0, stale := 0, reuse := 0,
    beamflt := 0, cecount := 0, uecount := 0 }

/-- The beam after a cold start (R364). DESIGN CHOICE, unsafe (log 6). -/
def Beam.reset : Beam :=
  { prog := 0, next := 0, nxst := 0, enable := 0, minstep := 1, fixstep := 0, step := 9, laps := 0,
    seg := 0, lap := none, passed := [], buffered := [], stopAtEnd := false }

/-- The device block after a cold start (R445, R475, R476, R477). -/
def Window.reset : Window :=
  { qroot := List.replicate 27 0, lrec := 0, tinval := 0, ageguard := 2000, hrsync := 0, devnum := 0,
    words := [], fwlen := 0, nonce := List.replicate 8 0, attst := 1, hbmtop := Config.hbmTrytes }

/-- The machine right after a cold start: every readiness trit pending, nothing launched, memory with
nothing listed (R473). DESIGN CHOICE, unsafe (log 5). DESIGN CHOICE, unsafe (log 6). -/
def State.reset : State :=
  { tick := 0, turn := false, reftime := 0, fine := 0, evals := 0, stalled := false, threads := [], gangs := [], aside := [], forced := [], teams := [], bolts := [],
    nextBolt := 0, plans := [], hbm := [], hbmPoison := [], withdrawn := [], l1 := [], slices := [], prefetches := [],
    icache := [], tcache := [], tinvPending := [], heldTrytes := [], heldBefore := [], locks := [], tickets := 0,
    tokens := [], collectives := [], remotes := [], collSends := [], appends := [], wakes := [], engineCauses := [], forwards := [],
    transit := [], tags := [], returns := [], beam := Beam.reset, dies := List.replicate 27 Die.reset, window := Window.reset,
    ports := List.replicate 2 ⟨0, [], []⟩, ready := List.replicate 73 0, linksOut := [], msix := [],
    staging := [], queues := List.replicate 27 (0, 0), orphans := [], image := [], hostReads := [], peerReads := [], peerWrites := [], doorbells := [], flits := [], fwPending := false, quote := ([], []), started := [], agenda := [] }

end Sys2Proof.Machine
end

