-- ==== Sys2Proof/Machine/Edge.lean ====
section
/-!
DEFINITION. The packings at the binary edges: triad codes and the 160 bytes of a sector with their check code
(R1, R265 to R267, R451), the body of a flit (R432), and the two's-complement bytes of the PCI Express views (R441).
-/

namespace Sys2Proof.Machine

/-! ### SHAKE256, which R267 names: the sponge over the Keccak permutation on 25 lanes of 64 bits -/

/-- The constant that each of the 24 rounds adds to lane 0. -/
def keccakRounds : List (BitVec 64) :=
  [0x0000000000000001, 0x0000000000008082, 0x800000000000808A, 0x8000000080008000,
   0x000000000000808B, 0x0000000080000001, 0x8000000080008081, 0x8000000000008009] ++
  [0x000000000000008A, 0x0000000000000088, 0x0000000080008009, 0x000000008000000A,
   0x000000008000808B, 0x800000000000008B, 0x8000000000008089, 0x8000000000008003] ++
  [0x8000000000008002, 0x8000000000000080, 0x000000000000800A, 0x800000008000000A,
   0x8000000080008081, 0x8000000000008080, 0x0000000080000001, 0x8000000080008008]

/-- How far lane x + 5·y is turned. -/
def keccakTurns : List Nat :=
  [0, 1, 62, 28, 27] ++ [36, 44, 6, 55, 20] ++ [3, 10, 43, 25, 39] ++ [41, 45, 15, 21, 8] ++ [18, 2, 61, 56, 14]

def laneAt (a : List (BitVec 64)) (x y : Nat) : BitVec 64 := a.getD (x % 5 + 5 * (y % 5)) 0

/-- The lanes given by column and row. -/
def keccakLanes (f : Nat → Nat → BitVec 64) : List (BitVec 64) := (List.range 25).map fun i => f (i % 5) (i / 5)

/-- One round: the parity of the columns, the turns and moves of the lanes, the step along the rows, and the constant. -/
def keccakRound (a : List (BitVec 64)) (rc : BitVec 64) : List (BitVec 64) :=
  let par := (List.range 5).map fun x => (List.range 5).foldl (fun v y => v ^^^ laneAt a x y) 0
  let mixed := keccakLanes fun x y => laneAt a x y ^^^ par.getD ((x + 4) % 5) 0 ^^^ (par.getD ((x + 1) % 5) 0).rotateLeft 1
  let moved := keccakLanes fun x y =>
    let from_ := (x + 3 * y) % 5
    (laneAt mixed from_ x).rotateLeft (keccakTurns.getD (from_ + 5 * (x % 5)) 0)
  let rows := keccakLanes fun x y => laneAt moved x y ^^^ (~~~(laneAt moved (x + 1) y) &&& laneAt moved (x + 2) y)
  rows.modify 0 (· ^^^ rc)

def keccak (a : List (BitVec 64)) : List (BitVec 64) := keccakRounds.foldl keccakRound a

/-- The lane of eight bytes, the first lowest. -/
def laneOfBytes (l : List (BitVec 8)) : BitVec 64 :=
  BitVec.ofNat 64 (l.zipIdx.foldl (fun v p => v + p.1.toNat * 256 ^ p.2) 0)

/-- Bytes of one block taken into the state: a block of SHAKE256 is 136 bytes, 17 lanes. -/
def absorb (a : List (BitVec 64)) (block : List (BitVec 8)) : List (BitVec 64) :=
  keccak (a.zipIdx.map fun p => if p.2 < 17 then p.1 ^^^ laneOfBytes ((block.drop (8 * p.2)).take 8) else p.1)

/-- The message with SHAKE's suffix and padding, in n + 1 whole blocks. -/
def shakePad (m : List (BitVec 8)) : List (BitVec 8) :=
  let room := 136 - m.length % 136
  if room = 1 then m ++ [0x9F] else m ++ [0x1F] ++ List.replicate (room - 2) 0 ++ [0x80]

def absorbAll : Nat → List (BitVec 64) → List (BitVec 8) → List (BitVec 64)
  | 0, a, _ => a
  | n + 1, a, l => absorbAll n (absorb a (l.take 136)) (l.drop 136)

/-- The first n output bytes of SHAKE256, n at most 136. -/
def shake256 (m : List (BitVec 8)) (n : Nat) : List (BitVec 8) :=
  let a := absorbAll (m.length / 136 + 1) (List.replicate 25 0) (shakePad m)
  (List.range n).map fun i => BitVec.ofNat 8 ((a.getD (i / 8) 0).toNat / 256 ^ (i % 8))

/-! ### Triads (R266) -/

/-- The three triad codes of a tryte, the lowest trits first. -/
def tryteCodes (v : Int) : List Nat :=
  [(trits v 2 0 + 13).toNat, (trits v 5 3 + 13).toNat, (trits v 8 6 + 13).toNat]

/-- The trytes of triad codes, three codes to a tryte. -/
def codeTrytes : List Nat → List Int
  | a :: b :: c :: rest => (((a : Int) - 13) + 27 * ((b : Int) - 13) + 729 * ((c : Int) - 13)) :: codeTrytes rest
  | _ => []

/-- The number whose bits 5j to 5j + 4 are code j. -/
def packCodes : List Nat → Nat
  | [] => 0
  | c :: cs => c % 32 + 32 * packCodes cs

def unpackCodes : Nat → Nat → List Nat
  | 0, _ => []
  | n + 1, x => x % 32 :: unpackCodes n (x / 32)

/-- n bytes of a number, the first byte lowest. -/
def bytesOf : Nat → Nat → List (BitVec 8)
  | 0, _ => []
  | n + 1, x => BitVec.ofNat 8 x :: bytesOf n (x / 256)

def numOfBytes : List (BitVec 8) → Nat
  | [] => 0
  | b :: bs => b.toNat + 256 * numOfBytes bs

/-! ### The bits of a sector (R265, R267, R269) -/

/-- A sector with its 154 bytes before the check code: triad codes, POISON, CFMT and reserved bits. -/
def sectorBody (trytes : List Int) (poison : Bool) : Nat :=
  packCodes (trytes.flatMap tryteCodes) + (if poison then 2 ^ 1215 else 0)

/-- CHECK of 154 bytes: 48 bits (R267). -/
def checkCode (body : List (BitVec 8)) : Nat := numOfBytes (shake256 (body.take 154) 6)

/-- The 160 bytes with their check code. -/
def withCheck (body : List (BitVec 8)) : List (BitVec 8) := body.take 154 ++ bytesOf 6 (checkCode body)

/-- The plain layout of R265: 160 bytes, CFMT 0. -/
def packSector (trytes : List Int) (poison : Bool) : List (BitVec 8) :=
  withCheck (bytesOf 154 (sectorBody trytes poison))

/-- The fields of 160 bytes. -/
def sectorCodes (b : List (BitVec 8)) : List Nat := unpackCodes 243 (numOfBytes (b.take 154) % 2 ^ 1215)
def sectorPoison (b : List (BitVec 8)) : Bool := numOfBytes (b.take 154) / 2 ^ 1215 % 2 == 1
def sectorFormat (b : List (BitVec 8)) : Nat := numOfBytes (b.take 154) / 2 ^ 1216 % 16
def sectorReserved (b : List (BitVec 8)) : Nat := numOfBytes (b.take 154) / 2 ^ 1220 % 4096
def checkHolds (b : List (BitVec 8)) : Bool := numOfBytes (b.drop 154) == checkCode b

/-- Whether a page's COMP permits a format: 0 always, 1 to 8 where COMP is not 0, 9 to 15 never (R268, R269). -/
def formatPermitted (comp : Trit) (fmt : Nat) : Bool := fmt == 0 || (decide (fmt ≤ 8) && comp != .zero)

/-- Whether 160 bytes whose check code holds read as poisoned on a page (R268). -/
def readsPoisoned (comp : Trit) (b : List (BitVec 8)) : Bool :=
  sectorPoison b || (sectorFormat b == 0 && (sectorCodes b).any fun c => decide (27 ≤ c)) ||
    !(formatPermitted comp (sectorFormat b)) || sectorReserved b != 0

/-- Bits that differ. -/
def flipBits (b noise : List (BitVec 8)) : List (BitVec 8) := b.zipIdx.map fun p => p.1 ^^^ noise.getD p.2 0

/-! ### Flits and the PCI Express views (R432, R441) -/

/-- The 384 codes of a flit body of 240 bytes. -/
def flitCodes (body : List (BitVec 8)) : List Nat := unpackCodes 384 (numOfBytes body)

/-- The body that carries trytes, at most 128 of them. -/
def flitBody (trytes : List Int) : List (BitVec 8) :=
  bytesOf 240 (packCodes ((trytes ++ List.replicate (128 - trytes.length) 0).flatMap tryteCodes))

/-- A sector crosses in one flit with its message header of three trytes (R432). -/
def sectorFlit (hdr : Int) (trytes : List Int) : List (BitVec 8) :=
  flitBody ([trits hdr 8 0, trits hdr 17 9, trits hdr 26 18] ++ trytes)

/-- A two's-complement value of n bytes, the lowest first. -/
def bytesOfInt (n : Nat) (v : Int) : List (BitVec 8) := bytesOf n (v % 256 ^ n).toNat
def intOfBytes (l : List (BitVec 8)) : Int :=
  let x := numOfBytes l
  if 2 * x < 256 ^ l.length then (x : Int) else (x : Int) - 256 ^ l.length

end Sys2Proof.Machine
end

