-- ==== Sys2Proof/Machine/Decompress.lean ====
section
/-!
DEFINITION. The decoders of DECOMP that R331 names by the standards that define them: RFC 1951, and CCSDS 121.0-B-3 with
the parameters of R381. The manual does not print the standards. PRESUMED, unsafe (log 117).
-/

namespace Sys2Proof.Machine

/-! ### Bits -/

/-- The bits of bytes, of each byte the lowest first (RFC 1951). -/
def bitsLow (bytes : List Int) : List Bool := bytes.flatMap fun b => (List.range 8).map fun i => b.toNat.testBit i

/-- The bits of bytes, of each byte the highest first (CCSDS 121.0). -/
def bitsHigh (bytes : List Int) : List Bool := bytes.flatMap fun b => (List.range 8).map fun i => b.toNat.testBit (7 - i)

/-- A number from bits, its lowest first. -/
def numLow : List Bool → Nat
  | [] => 0
  | b :: l => b.toNat + 2 * numLow l

/-- Takes n bits as a number, its lowest bit first. -/
def takeLow (n : Nat) (l : List Bool) : Option (Nat × List Bool) :=
  if l.length < n then none else some (numLow (l.take n), l.drop n)

/-- Takes n bits as a number, its highest bit first. -/
def takeHigh (n : Nat) (l : List Bool) : Option (Nat × List Bool) :=
  if l.length < n then none else some (numLow (l.take n).reverse, l.drop n)

/-- Decoded values, the latest first, the bits left, and whether the stream has kept its format. -/
structure Decoding where
  out : List Int
  bits : List Bool
  ok : Bool
  deriving DecidableEq, Repr

def Decoding.fail (x : Decoding) : Decoding := { x with ok := false }

/-! ### RFC 1951 -/

/-- Whether code lengths make a prefix code: no more codes of a length than are left. -/
def codeFits (lens : List Nat) : Bool :=
  decide (((List.range 15).map fun i => lens.count (i + 1) * 2 ^ (14 - i)).sum ≤ 2 ^ 15)

/-- The symbol of the next bits under the canonical code of code lengths: `code` are the bits read so far, `first` the first
code of this length. -/
def huffSymbol (lens : List Nat) : Nat → Nat → Nat → Nat → List Bool → Option (Nat × List Bool)
  | 0, _, _, _, _ => none
  | _, _, _, _, [] => none
  | n + 1, len, code, first, b :: l =>
    let code := 2 * code + b.toNat
    let here := (List.range lens.length).filter fun k => lens.getD k 0 == len
    match here[code - first]? with
    | some k => if first ≤ code then some (k, l) else none
    | none => huffSymbol lens n (len + 1) code (2 * (first + here.length)) l

def huffNext (lens : List Nat) (l : List Bool) : Option (Nat × List Bool) := huffSymbol lens 15 1 0 0 l

/-- Base and extra bits of length code 257 + k and of distance code k. -/
def lengthCode (k : Nat) : Nat × Nat :=
  if k < 8 then (3 + k, 0) else if k = 28 then (258, 0) else (3 + (4 + k % 4) * 2 ^ (k / 4 - 1), k / 4 - 1)
def distanceCode (k : Nat) : Nat × Nat :=
  if k < 4 then (1 + k, 0) else (1 + (2 + k % 2) * 2 ^ (k / 2 - 1), k / 2 - 1)

/-- Copies n earlier values from a distance back. -/
def copyBack : Nat → Nat → List Int → Option (List Int)
  | 0, _, out => some out
  | n + 1, d, out =>
    match out[d - 1]? with
    | none => none
    | some v => copyBack n d (v :: out)

/-- A length code, then a distance. -/
def inflateCopy (dist : List Nat) (k : Nat) (x : Decoding) : Option Decoding := do
  if 28 < k then none else
  let (e, l) ← takeLow (lengthCode k).2 x.bits
  let (c, l) ← huffNext dist l
  if 29 < c then none else
  let (f, l) ← takeLow (distanceCode c).2 l
  let out ← copyBack ((lengthCode k).1 + e) ((distanceCode c).1 + f) x.out
  some { x with out := out, bits := l }

/-- The symbols of a block, at most n of them, to its end-of-block symbol. -/
def inflateSymbols (lit dist : List Nat) : Nat → Decoding → Decoding
  | 0, x => x.fail
  | n + 1, x =>
    match huffNext lit x.bits with
    | none => x.fail
    | some (s, l) =>
      if s < 256 then inflateSymbols lit dist n { x with out := (s : Int) :: x.out, bits := l }
      else if s = 256 then { x with bits := l }
      else
        match inflateCopy dist (s - 257) { x with bits := l } with
        | none => x.fail
        | some y => inflateSymbols lit dist n y

/-- The code lengths of a dynamic block, `need` in all, under the code of code lengths `cl`; `got` are those read, the latest
first. -/
def readLengths (cl : List Nat) (need : Nat) : Nat → List Nat → List Bool → Option (List Nat × List Bool)
  | 0, _, _ => none
  | n + 1, got, l =>
    if need ≤ got.length then (if need = got.length then some (got.reverse, l) else none)
    else
      match huffNext cl l with
      | none => none
      | some (s, l) =>
        if s < 16 then readLengths cl need n (s :: got) l
        else
          let (bits, base) := if s = 16 then (2, 3) else if s = 17 then (3, 3) else (7, 11)
          match takeLow bits l, if s = 16 then got.head? else some 0 with
          | some (e, l), some v => readLengths cl need n (List.replicate (base + e) v ++ got) l
          | _, _ => none

/-- The order in which a dynamic block gives the lengths of the code of code lengths. -/
def lengthOrder : List Nat := [16, 17, 18, 0, 8, 7, 9, 6, 10, 5] ++ [11, 4, 12, 3, 13, 2, 14, 1, 15]

/-- The codes of a dynamic block. -/
def dynamicCodes (l : List Bool) : Option ((List Nat × List Nat) × List Bool) := do
  let (hlit, l) ← takeLow 5 l
  let (hdist, l) ← takeLow 5 l
  let (hclen, l) ← takeLow 4 l
  let (c, l) ← takeLow (3 * (hclen + 4)) l
  let cl := (lengthOrder.take (hclen + 4)).zipIdx.foldl (fun a p => a.set p.1 (c / 8 ^ p.2 % 8)) (List.replicate 19 0)
  if codeFits cl = false then none else
  let (lens, l) ← readLengths cl (hlit + 257 + (hdist + 1)) 512 [] l
  let lit := lens.take (hlit + 257)
  let dist := lens.drop (hlit + 257)
  if lit.getD 256 0 = 0 ∨ codeFits lit = false ∨ codeFits dist = false then none else
  some ((lit, dist), l)

/-- The codes of a fixed block. -/
def fixedCodes : List Nat × List Nat :=
  (List.replicate 144 8 ++ List.replicate 112 9 ++ List.replicate 24 7 ++ List.replicate 8 8, List.replicate 30 5)

/-- A stored block: the bits to the next byte are skipped. -/
def inflateStored (x : Decoding) : Decoding :=
  match takeLow 32 (x.bits.drop (x.bits.length % 8)) with
  | none => x.fail
  | some (v, l) =>
    if v % 65536 + v / 65536 ≠ 65535 ∨ l.length < 8 * (v % 65536) then x.fail
    else
      { x with out := ((List.range (v % 65536)).map fun i => (numLow ((l.drop (8 * i)).take 8) : Int)).reverse ++ x.out,
               bits := l.drop (8 * (v % 65536)) }

/-- One block, and whether it is the last. -/
def inflateBlock (x : Decoding) : Decoding × Bool :=
  match takeLow 3 x.bits with
  | none => (x.fail, true)
  | some (h, l) =>
    let x := { x with bits := l }
    let y := match h / 2 with
      | 0 => inflateStored x
      | 1 => inflateSymbols fixedCodes.1 fixedCodes.2 (l.length + 1) x
      | 2 =>
        match dynamicCodes l with
        | none => x.fail
        | some (c, l) => inflateSymbols c.1 c.2 (l.length + 1) { x with bits := l }
      | _ => x.fail
    (y, h % 2 == 1)

def inflateBlocks : Nat → Decoding → Decoding
  | 0, x => x.fail
  | n + 1, x =>
    let (y, last) := inflateBlock x
    if last || !y.ok then y else inflateBlocks n y

/-- The bytes of a deflated stream, as far as it keeps its format, and whether it does (R331). -/
def inflate (bytes : List Int) : List Int × Bool :=
  let y := inflateBlocks (8 * bytes.length + 1) ⟨[], bitsLow bytes, true⟩
  (y.out.reverse, y.ok)

/-! ### CCSDS 121.0-B-3 -/

/-- The parameters of word 6 of a DECOMP entry (R381). -/
structure RiceParams where
  res : Nat
  block : Nat
  rsi : Nat
  pre : Bool
  signed : Bool
  deriving DecidableEq, Repr

def riceParams (w6 : Int) : RiceParams :=
  { res := (trits w6 26 23).toNat, block := 8 * 2 ^ (trits w6 22 21 + 1).toNat, rsi := (trits w6 20 12).toNat,
    pre := trits w6 11 11 == 1, signed := trits w6 10 10 == 1 }

/-- A fundamental sequence: how many zeros stand before a one. -/
def takeUnary : List Bool → Option (Nat × List Bool)
  | [] => none
  | true :: l => some (0, l)
  | false :: l => (takeUnary l).map fun p => (p.1 + 1, p.2)

/-- n values that `f` takes one after another. -/
def takeMany (f : List Bool → Option (Nat × List Bool)) : Nat → List Bool → Option (List Nat × List Bool)
  | 0, l => some ([], l)
  | n + 1, l => do
    let (v, l) ← f l
    let (vs, l) ← takeMany f n l
    some (v :: vs, l)

/-- The pair of values of a second-extension codeword. -/
def secondExtension (m : Nat) : List Nat :=
  let b := ((List.range (m + 1)).filter fun b => decide (b * (b + 1) / 2 ≤ m)).foldl max 0
  let y := m - b * (b + 1) / 2
  [b - y, y]

/-- How many blocks of zeros a codeword of the zero-block option stands for: the fifth stands for the rest of the segment
of 64 blocks, or of the reference interval. -/
def zeroRun (p : RiceParams) (at_ m : Nat) : Nat :=
  if m < 4 then m + 1 else if m = 4 then min (p.rsi - at_) (64 - at_ % 64) else m

/-- A coded data set at a block of the reference interval: the reference sample, if the block has one, and the mapped values
of the block, or of the blocks of a run of zeros. -/
def riceSet (p : RiceParams) (at_ : Nat) (l : List Bool) : Option ((Option Nat × List Nat) × List Bool) := do
  let idBits := if p.res ≤ 8 then 3 else 4
  let refs := if p.pre ∧ at_ = 0 then 1 else 0
  let (id, l) ← takeHigh idBits l
  if id = 2 ^ idBits - 1 then
    let (v, l) ← takeMany (takeHigh p.res) p.block l
    some (((v.take refs).head?, v.drop refs), l)
  else
    let (low, l) ← takeHigh (if id = 0 then 1 else 0) l
    let (r, l) ← takeMany (takeHigh p.res) refs l
    if id = 0 ∧ low = 0 then
      let (m, l) ← takeUnary l
      some ((r.head?, List.replicate (zeroRun p at_ m * p.block - refs) 0), l)
    else if id = 0 then
      let (v, l) ← takeMany takeUnary (p.block / 2) l
      some ((r.head?, (v.flatMap secondExtension).drop refs), l)
    else
      let k := id - 1
      let (hi, l) ← takeMany takeUnary (p.block - refs) l
      let (lo, l) ← takeMany (takeHigh k) (p.block - refs) l
      some ((r.head?, (hi.zip lo).map fun x => x.1 * 2 ^ k + x.2), l)

/-- The least and the greatest sample. -/
def RiceParams.least (p : RiceParams) : Int := if p.signed then -(2 ^ (p.res - 1)) else 0
def RiceParams.most (p : RiceParams) : Int := if p.signed then 2 ^ (p.res - 1) - 1 else 2 ^ p.res - 1

/-- A sample of the resolution as its bits stand. -/
def RiceParams.sample (p : RiceParams) (v : Nat) : Int := if p.most < (v : Int) then (v : Int) - 2 ^ p.res else (v : Int)

/-- The sample of a mapped prediction error after a sample. -/
def RiceParams.unmap (p : RiceParams) (prev : Int) (v : Nat) : Int :=
  let theta := min (prev - p.least) (p.most - prev)
  if (v : Int) ≤ 2 * theta then (if v % 2 = 0 then prev + v / 2 else prev - (v + 1) / 2)
  else if theta = prev - p.least then prev + (v - theta) else prev - (v - theta)

/-- The samples of mapped values; with no preprocessor they are the samples. -/
def RiceParams.samples (p : RiceParams) (prev : Int) : List Nat → List Int
  | [] => []
  | v :: l => if p.pre then p.unmap prev v :: p.samples (p.unmap prev v) l else p.sample v :: p.samples prev l

/-- Coded data sets until the bits left hold no whole one; those are fill, which is zero (at most n sets). -/
def riceSets (p : RiceParams) : Nat → Nat → Decoding → Decoding
  | 0, _, x => x.fail
  | n + 1, at_, x =>
    match riceSet p at_ x.bits with
    | none => { x with ok := !(x.bits.any id) }
    | some ((ref, vals), l) =>
      let first := ref.toList.map p.sample
      let prev := (first.head?.or x.out.head?).getD 0
      let got := first ++ p.samples prev vals
      riceSets p n ((at_ + got.length / p.block) % p.rsi) { x with out := got.reverse ++ x.out, bits := l }

/-- The samples of a stream of CCSDS 121.0-B-3, and whether it keeps its format (R331). -/
def riceDecode (p : RiceParams) (bytes : List Int) : List Int × Bool :=
  let y := riceSets p (8 * bytes.length + 1) 0 ⟨[], bitsHigh bytes, true⟩
  (y.out.reverse, y.ok)

end Sys2Proof.Machine
end

