-- ==== Sys2Proof/Machine/Operands.lean ====
section
/-!
DEFINITION. Operands: the registers of a thread, its guards, the elements of packed words,
and where an instruction stands in its clause.
-/

namespace Sys2Proof.Machine

/-- Width of one element of a shape in trits (R91); `Shape.width` of the decoder. -/
def elemWidth (sh : Shape) : Nat :=
  match sh with
  | .trytes => 9
  | .word => 27
  | .halves => 13

/-- Number of elements of a shape (R91). -/
def elemCount (sh : Shape) : Nat :=
  match sh with
  | .trytes => 3
  | .word => 1
  | .halves => 2

/-- elem(x, k) (R91). -/
def elem (sh : Shape) (x : Int) (k : Nat) : Int :=
  wrap (elemWidth sh) (trunc (elemWidth sh * k) x)

/-- The elements of a word, element 0 first. -/
def elems (sh : Shape) (x : Int) : List Int :=
  (List.range (elemCount sh)).map (elem sh x)

/-- The word of the given elements, each already within its width; trit 26 is 0 in shape + (R15). -/
def packElems (sh : Shape) (zs : List Int) : Int :=
  (zs.zipIdx.map fun p => p.1 * p3 (elemWidth sh * p.2)).sum

/-- Applies f to every element (R91). -/
def mapElems (sh : Shape) (f : Int → Int) (x : Int) : Int := packElems sh ((elems sh x).map f)

/-- Applies f to the elements of two words pairwise (R91). -/
def mapElems2 (sh : Shape) (f : Int → Int → Int) (x y : Int) : Int :=
  packElems sh (List.zipWith f (elems sh x) (elems sh y))

/-- Trits 0 to n-1 of x, least significant first (R11). -/
def tritList (n : Nat) (x : Int) : List Int := (List.range n).map fun i => trits x i i

/-- The integer of trits, least significant first (R11). -/
def ofTrits : List Int → Int
  | [] => 0
  | t :: ts => t + 3 * ofTrits ts

/-- Applies f to the trits of two words pairwise (R101). -/
def mapTrits2 (f : Int → Int → Int) (x y : Int) : Int :=
  ofTrits (List.zipWith f (tritList 27 x) (tritList 27 y))

/-- The sum of two trits mod 3, taken in -1..+1 (R102). -/
def tsumTrit (a b : Int) : Int := wrap 1 (a + b)

/-- Register i of the general file: g0 reads as 0 (R30). -/
def Thread.readG (t : Thread) (i : Nat) : Int := if i = 0 then 0 else t.g.getD i 0

/-- Writes a general register; a write to g0 is discarded (R30). -/
def Thread.writeG (t : Thread) (i : Nat) (v : Int) : Thread :=
  if i = 0 then t else { t with g := t.g.set i v }

def Thread.readA (t : Thread) (i : Nat) : Int := t.a.getD i 0

def Thread.writeA (t : Thread) (i : Nat) (v : Int) : Thread := { t with a := t.a.set i v }

/-- Condition register i: c0 reads as 0 (R30). -/
def Thread.readC (t : Thread) (i : Nat) : Trit := if i = 0 then .zero else t.c.getD i .zero

/-- Writes a condition register; a write to c0 is discarded (R30). -/
def Thread.writeC (t : Thread) (i : Nat) (v : Trit) : Thread :=
  if i = 0 then t else { t with c := t.c.set i v }

/-- Writes general registers in order. -/
def Thread.writeGs (t : Thread) (l : List (Nat × Int)) : Thread := l.foldl (fun t p => t.writeG p.1 p.2) t
def Thread.writeAs (t : Thread) (l : List (Nat × Int)) : Thread := l.foldl (fun t p => t.writeA p.1 p.2) t
def Thread.writeCs (t : Thread) (l : List (Nat × Trit)) : Thread := l.foldl (fun t p => t.writeC p.1 p.2) t

/-- Whether the guard holds (R33, R34). -/
def Thread.guardHolds (t : Thread) (gd : Guard) : Bool := t.readC gd.reg == gd.sense

/-- Whether a register lies in its file, within .regs for a general register (R31, R53). -/
def Thread.owns (t : Thread) (u : RegUse) : Bool :=
  match u.file with
  | .g => decide (u.idx < t.nregs)
  | .a => decide (u.idx < 27)
  | .c => decide (u.idx < 9)
  | .m => decide (u.idx < 9)
  | .q => decide (u.idx < 3)

def gUse (i : Nat) : RegUse := ⟨.g, i⟩
def aUse (i : Nat) : RegUse := ⟨.a, i⟩
def cUse (i : Nat) : RegUse := ⟨.c, i⟩
def mUse (i : Nat) : RegUse := ⟨.m, i⟩
def qUse (i : Nat) : RegUse := ⟨.q, i⟩
/-- The registers of a place operand (R376). -/
def placeUse (p : Place) : RegUse :=
  match p with
  | .g i => gUse i
  | .a i => aUse i
/-- The registers of a mask operand; g0 reads none (R180, R211). -/
def maskUses (m : Nat) : List RegUse := if m = 0 then [] else [gUse m, gUse (m + 1), gUse (m + 2)]

/-! Where the instruction stands. -/

def Thread.header (t : Thread) : Word := t.clause.headD 0
/-- LEN of the clause (R61). -/
def Thread.len (t : Thread) : Nat := (hdrLen t.header).toNat
/-- The words of the instruction at the thread's slot. -/
def Thread.words (t : Thread) : List Word := slotWords t.clause t.slot
/-- Words of the clause before slot k. -/
def wordsBefore (clause : List Word) (k : Nat) : Nat :=
  1 + ((splitBody (k - 1) (clause.drop 1)).map List.length).sum
/-- Address of the first word of the instruction at the slot. -/
def Thread.instrAddr (t : Thread) : Int := wrap 54 (t.pc + 3 * (wordsBefore t.clause t.slot : Nat))
/-- Address of the word that follows the clause (R65). -/
def Thread.fallAddr (t : Thread) : Int := wrap 54 (t.pc + 3 * (t.clause.length : Nat))
/-- A clause target written as a count of words (R64). -/
def Thread.target (t : Thread) (lit : Int) : Int := wrap 54 (t.pc + 3 * lit)

/-- Control comes to the clause at an address. -/
def Thread.toBoundary (t : Thread) (pc : Int) (via : Via) : Thread :=
  { t with pc := pc, slot := 1, clause := [], run := .boundary via, nopOnce := false, resumed := false,
           readySince := none, passed := 0 }

/-- The thread's instruction is done: the next slot, or the word after the clause (R65, R287). -/
def Thread.advance (t : Thread) : Thread :=
  let t := { t with nopOnce := false, resumed := t.resumed && t.nopOnce, committed := false,
                    quantum := if t.status.det then t.quantum + 1 else t.quantum }
  if t.slot < t.len then { t with slot := t.slot + 1 } else t.toBoundary t.fallAddr .fall

/-- A taken branch (R120): control passes to the target. -/
def Thread.jump (t : Thread) (pc : Int) : Thread :=
  ({ t with committed := false, quantum := if t.status.det then t.quantum + 1 else t.quantum }).toBoundary
    pc .taken

end Sys2Proof.Machine
end

