-- ==== Sys2Proof/Machine/Flags.lean ====
section
/-!
DEFINITION. Flags and packed status words: the sticky real flags, STATUS and TRAPINFO as words,
and the completion flags.
-/

namespace Sys2Proof.Machine

def boolTrit (b : Bool) : Int := if b then 1 else 0

/-- Flags raised by either (R39): a flag once set stays set. -/
def RealFlags.or (a b : RealFlags) : RealFlags :=
  ⟨a.inv || b.inv, a.ofl || b.ofl, a.ufl || b.ufl, a.inx || b.inx⟩

def RealFlags.any (fs : List RealFlags) : RealFlags := fs.foldl RealFlags.or RealFlags.clear

/-- FLAGS as a word (R38). -/
def RealFlags.word (f : RealFlags) : Int :=
  boolTrit f.inv + 3 * boolTrit f.ofl + 9 * boolTrit f.ufl + 27 * boolTrit f.inx

/-- FLAGS as SETS writes it: a - in a flag trit is stored as 0, reserved trits are ignored (R39). -/
def RealFlags.ofWord (x : Int) : RealFlags :=
  ⟨trits x 0 0 == 1, trits x 1 1 == 1, trits x 2 2 == 1, trits x 3 3 == 1⟩

/-- STATUS as a word (R40). -/
def Status.word (st : Status) : Int :=
  st.width * p3 6 + boolTrit st.det * p3 5 + boolTrit st.intrap * p3 4 + boolTrit st.pm * p3 3 +
    (if st.system then 1 else -1)

/-- STATUS as system SETS writes it: only INTRAP and PM (R417). -/
def Status.set (st : Status) (x : Int) : Status :=
  { st with intrap := trits x 4 4 == 1, pm := trits x 3 3 == 1 }

/-- TRAPINFO (R47). DEDUCED, unsafe (log 50). -/
def trapInfo (slot : Nat) (c : Cause) : Int := (slot : Int) * p3 18 + c.sub * p3 9 + c.code

def infoSlot (x : Int) : Int := trits x 21 18
def infoSub (x : Int) : Int := trits x 17 9
def infoCause (x : Int) : Int := trits x 8 0

/-- A thread raises real flags. -/
def Thread.raise (t : Thread) (f : RealFlags) : Thread := { t with flags := t.flags.or f }

/-- Lanes of a width code (R40). -/
def lanesOf (w : Int) : Nat := if w < 0 then 9 else if w = 0 then 27 else 81

/-! Completion flags (R66 to R69). -/

def Thread.flagCount (t : Thread) (k : Nat) : Nat := t.cflags.getD k 0

/-- Whether every flag that the header waits on is clear (R67). -/
def Thread.flagsClear (t : Thread) : Bool :=
  (List.range 12).all fun k => hdrWait t.header k == .zero || t.flagCount k == 0

/-- Since when each completion flag has been clear, as a step ends. -/
def Thread.clears (t : Thread) (now : Nat) : List (Option Nat) :=
  (List.range 12).map fun k => if t.flagCount k = 0 then some ((t.clearSince.getD k none).getD now) else none

/-- Since when the flags that the header waits on have all been clear, where they are (R67, R176). -/
def Thread.waitClear (t : Thread) : Nat :=
  ((List.range 12).map fun k => if hdrWait t.header k = .zero then 0 else (t.clearSince.getD k none).getD 0).foldl max 0

/-- Whether a flag with a WAIT trit of - is not clear: such a stall is a counted wait, also while a flag with a WAIT trit of
+ is not clear (R61, R206). DEDUCED, unsafe (log 99). -/
def Thread.countedWait (t : Thread) : Bool :=
  (List.range 12).any (fun k => hdrWait t.header k == .neg && t.flagCount k != 0)

/-- The flag that the RAISE trit selects (R68). -/
def Thread.raisedFlag (t : Thread) (rs : Trit) : Option Nat :=
  let f := match rs with
    | .neg => -1
    | .zero => hdrRaiseA t.header
    | .pos => hdrRaiseB t.header
  if f < 0 then none else some f.toNat

def Thread.addFlag (t : Thread) (f : Option Nat) : Thread :=
  match f with
  | none => t
  | some k => { t with cflags := t.cflags.set k (t.flagCount k + 1) }

def Thread.subFlag (t : Thread) (f : Option Nat) : Thread :=
  match f with
  | none => t
  | some k => { t with cflags := t.cflags.set k (t.flagCount k - 1) }

end Sys2Proof.Machine
end

