-- ==== Sys2Proof/Machine/Memory.lean ====
section
/-!
DEFINITION. Memory: the canonical sparse form, home slices, the L1 and slice sectors, and the reads and
writes of physical trytes at the places where the manual orders them (R247 to R268, R275 to R277).
-/

namespace Sys2Proof.Machine

/-! ### The canonical form -/

/-- The value at an address; an unlisted address reads as 0. DESIGN CHOICE, unsafe (log 5). -/
def memGet : Mem → Nat → Int
  | [], _ => 0
  | (a, v) :: m, k => if a = k then v else memGet m k

/-- Writes one address, keeping the canonical form: writing 0 removes the entry. -/
def memSet : Mem → Nat → Int → Mem
  | [], k, v => if v = 0 then [] else [(k, v)]
  | (a, w) :: m, k, v =>
    if k < a then (if v = 0 then (a, w) :: m else (k, v) :: (a, w) :: m)
    else if k = a then (if v = 0 then m else (k, v) :: m)
    else (a, w) :: memSet m k v

/-- Whether the addresses rise strictly from lo and no value is 0. -/
def memWfFrom : Nat → Mem → Bool
  | _, [] => true
  | lo, (a, v) :: m => decide (lo ≤ a) && decide (v ≠ 0) && memWfFrom (a + 1) m

/-- The canonical form of a memory. DESIGN CHOICE, unsafe (log 5). -/
def Memory.wf (m : Mem) : Bool := memWfFrom 0 m

/-- Writes consecutive addresses. -/
def memSetList (m : Mem) (k : Nat) : List Int → Mem
  | [] => m
  | v :: vs => memSetList (memSet m k v) (k + 1) vs

def memGetList (m : Mem) (k n : Nat) : List Int := (List.range n).map fun i => memGet m (k + i)

/-- The word at a tryte address, tryte 0 lowest (R29). -/
def wordOfTrytes (l : List Int) : Int := l.getD 0 0 + p3 9 * l.getD 1 0 + p3 18 * l.getD 2 0
/-- The trytes of a word, tryte 0 first (R4). -/
def trytesOfWord (x : Int) : List Int := [trits x 8 0, trits x 17 9, trits x 26 18]

def memGetWord (m : Mem) (k : Nat) : Int := wordOfTrytes (memGetList m k 3)
def memSetWord (m : Mem) (k : Nat) (x : Int) : Mem := memSetList m k (trytesOfWord x)

/-- A byte of the staging memory. -/
def byteGet : List Host.Cell → Nat → BitVec 8
  | [], _ => 0
  | (a, v) :: m, k => if a = k then v else byteGet m k

def byteSet : List Host.Cell → Nat → BitVec 8 → List Host.Cell
  | [], k, v => if v = 0 then [] else [(k, v)]
  | (a, w) :: m, k, v =>
    if k < a then (if v = 0 then (a, w) :: m else (k, v) :: (a, w) :: m)
    else if k = a then (if v = 0 then m else (k, v) :: m)
    else (a, w) :: byteSet m k v

def byteWfFrom : Nat → List Host.Cell → Bool
  | _, [] => true
  | lo, (a, v) :: m => decide (lo ≤ a) && decide (v ≠ 0) && byteWfFrom (a + 1) m

def byteSetList (m : List Host.Cell) (k : Nat) : List (BitVec 8) → List Host.Cell
  | [] => m
  | v :: vs => byteSetList (byteSet m k v) (k + 1) vs

/-! ### Readiness (R472) -/

/-- The readiness word of a control-window word number. -/
def State.readyWord (s : State) (w : Nat) : Int := s.ready.getD (w - 2187) 0
def State.readyTrit (s : State) (w i : Nat) : Trit := tritAt (s.readyWord w) i

def putTrit (x : Int) (i : Nat) (t : Trit) : Int := x + (t.toInt - trits x i i) * p3 i

def State.setReady (s : State) (w i : Nat) (t : Trit) : State :=
  { s with ready := s.ready.set (w - 2187) (putTrit (s.readyWord w) i t) }

/-- DEDUCED, unsafe (log 35). -/
def State.sliceReady (s : State) (die slice : Nat) : Bool := s.readyTrit (2188 + 2 * die) slice == .pos
/-- DEDUCED, unsafe (log 35). -/
def State.coreReady (s : State) (core : Nat) : Bool :=
  s.readyTrit (2187 + 2 * (core / 18)) (core % 18) == .pos
/-- DEDUCED, unsafe (log 35). -/
def State.tapReady (s : State) (die pair : Nat) : Bool := s.readyTrit (2187 + 2 * die) (18 + pair) == .pos

/-! ### Home slices (R256, R474) -/

/-- fold3 over n fields of three trits (R7, R256). -/
def fold3 (n : Nat) (a : Int) : Int :=
  ((List.range 3).map fun j => wrap 1 ((List.range n).map fun i => trits a (3 * i + j) (3 * i + j)).sum * p3 j).sum

/-- The slice and die that R256 gives for a line base. -/
def homeSlice (line : Int) : Nat := (fold3 8 (trits line 29 6) + 13).toNat
def homeDie (dom : Trit) (line : Int) : Nat :=
  match dom with
  | .zero => (fold3 7 (trits line 29 9) + 13).toNat
  | _ => (trits line 14 12 + 13).toNat

/-- The first ready slice among s, s+1, ... of a die (R474). -/
def State.foldSlice (s : State) (die slice : Nat) : Option Nat :=
  ((List.range 27).map fun i => (slice + i) % 27).find? (s.sliceReady die)

/-- The home index 27·die + slice of a physical tryte (R256), folded past slices not in service. -/
def State.homeOf (s : State) (dom : Trit) (pa : Nat) : Nat :=
  let line : Int := (729 * (pa / 729) : Nat)
  let slice := homeSlice line
  let die := homeDie dom line
  match ((List.range 27).map fun i => (die + i) % 27).find? fun d => (s.foldSlice d slice).isSome with
  | some d => 27 * d + (s.foldSlice d slice).getD slice
  | none => 27 * die + slice

/-! ### Sectors at rest -/

/-- The channel pairs whose trit is not +, of those in words 2,241 to 2,258: two words of 16 for each IO die (R472). -/
def State.channelsOut (s : State) : List Nat :=
  (List.range 12).flatMap fun k =>
    let w := 2241 + 3 * (k / 2) + 1 + k % 2
    if trits (s.readyWord w) 15 0 = maxTrits 16 then []
    else ((List.range 16).filter fun i => s.readyTrit w i != .pos).map fun i => 16 * k + i

/-- The channel pair that holds a sector, one of those that no cold start has withdrawn (R250, R475).
DESIGN CHOICE, unsafe (log 17). -/
def State.channelAt (s : State) (sector : Nat) : Nat :=
  let pairs := (List.range Config.channelPairs).filter fun c => !(s.withdrawn.contains c)
  pairs.getD (Config.channelOf s.withdrawn sector % pairs.length) 0

/-- Whether HBM gives a sector as poisoned: its POISON bit is 1, or its channel pair is not in service (R268, R473, R474).
DESIGN CHOICE, unsafe (log 17). DEDUCED, unsafe (log 35). -/
def State.hbmPoisoned (s : State) (sector : Nat) : Bool :=
  s.hbmPoison.contains sector || s.channelsOut.contains (s.channelAt sector)

/-- A step needs something, or it does not take place and is tried again (R438, R473). DEDUCED, unsafe (log 35). -/
def State.needs (s : State) (ready : Bool) : State := if ready then s else { s with stalled := true }

/-- An access reaches a die, and waits while its clock stands still (R438). -/
def State.visitDie (s : State) (die : Nat) : State := s.needs !(s.dies.getD die Die.reset).relock

/-- An access reaches a home slice, and waits while the clock of its die stands still or, no slice being in service, the
slice that R256 names is not (R438, R473). -/
def State.visit (s : State) (home : Nat) : State :=
  s.needs (!(s.dies.getD (home / 27) Die.reset).relock && s.sliceReady (home / 27) (home % 27))

def State.l1At (s : State) (core home sector : Nat) : Option L1Sector :=
  s.l1.find? fun e => e.core == core && e.home == home && e.sector == sector

def State.sliceAt (s : State) (home sector : Nat) : Option SliceSector :=
  s.slices.find? fun e => e.home == home && e.sector == sector

def L1Sector.same (a b : L1Sector) : Bool := a.core == b.core && a.home == b.home && a.sector == b.sector
def SliceSector.same (a b : SliceSector) : Bool := a.home == b.home && a.sector == b.sector

/-- Puts an L1 sector: in place when held, else as the newest. DEDUCED, unsafe (log 64). -/
def State.putL1 (s : State) (e : L1Sector) : State :=
  if (s.l1At e.core e.home e.sector).isSome then { s with l1 := s.l1.map fun x => if x.same e then e else x }
  else { s with l1 := s.l1 ++ [e] }

/-- The priority of a sector that joins a core's L1: that of its line when it is held, else EVICT (R260). -/
def State.l1Prio (s : State) (core home sector : Nat) (evict : Int) : Int :=
  ((s.l1.find? fun e => e.core == core && e.home == home && e.sector / 9 == sector / 9).map L1Sector.prio).getD evict

/-- The priority of a sector that joins a slice. -/
def State.slicePrio (s : State) (home sector : Nat) (evict : Int) : Int :=
  ((s.slices.find? fun e => e.home == home && e.sector / 9 == sector / 9).map SliceSector.prio).getD evict

/-- Sets the priority of a line in a core's L1, where it is held (R261, R312). -/
def State.setL1Prio (s : State) (core home line : Nat) (p : Int) : State :=
  { s with l1 := s.l1.map fun e =>
      if e.core = core ∧ e.home = home ∧ e.sector / 9 = line then { e with prio := p } else e }

/-- Sets the priority of a line in its home slice, where it is held. -/
def State.setSlicePrio (s : State) (home line : Nat) (p : Int) : State :=
  { s with slices := s.slices.map fun e => if e.home = home ∧ e.sector / 9 = line then { e with prio := p } else e }

def State.dropL1 (s : State) (core home sector : Nat) : State :=
  { s with l1 := s.l1.filter fun e => !(e.core == core && e.home == home && e.sector == sector) }

/-- DEDUCED, unsafe (log 64). -/
def State.putSlice (s : State) (e : SliceSector) : State :=
  if (s.sliceAt e.home e.sector).isSome then
    { s with slices := s.slices.map fun x => if x.same e then e else x }
  else { s with slices := s.slices ++ [e] }

/-- The L1 that owns a word of a sector (R275). DEDUCED, unsafe (log 52). -/
def State.ownerOf (s : State) (home sector word : Nat) : Option L1Sector :=
  s.l1.find? fun e => e.home == home && e.sector == sector && e.owned.getD word false

/-- A tryte as it stands at its home slice: the owner's value, else the slice's, else HBM's (R276). -/
def State.peek (s : State) (home pa : Nat) : Int :=
  let sec := pa / 81
  let k := pa % 81
  match s.ownerOf home sec (k / 3) with
  | some e => e.data.getD k 0
  | none =>
    match s.sliceAt home sec with
    | some e => if e.valid.getD k false then e.data.getD k 0 else memGet s.hbm pa
    | none => memGet s.hbm pa

/-- The L1 that owns every word of a sector, which then supplies it whole (R275). -/
def State.soleOwner (s : State) (home sector : Nat) : Option L1Sector :=
  s.l1.find? fun e => e.home == home && e.sector == sector && (List.range 27).all fun w => e.owned.getD w false

/-- The poison mark that a slice or HBM gives a sector. A sector whose fill is pending takes the mark of HBM, whatever
partial writes it holds (R268). -/
def State.restMark (s : State) (home sector : Nat) : Nat :=
  match s.sliceAt home sector with
  | some e => if e.poison ≠ 0 then e.poison else if e.pending && s.hbmPoisoned sector then 1 else 0
  | none => if s.hbmPoisoned sector then 1 else 0

/-- The highest mark of the copies from which owners supply words of a sector (R275, R426). -/
def State.ownerMark (s : State) (home sector : Nat) : Nat :=
  ((s.l1.filter fun e => e.home == home && e.sector == sector && e.owned.any id).map L1Sector.poison).foldl max 0

/-- The poison mark of a sector as the home slice sees it: 0, or the subcode of data poison (R268). -/
def State.poisonAt (s : State) (home sector : Nat) : Nat :=
  match s.soleOwner home sector with
  | some o => o.poison
  | none => if s.ownerMark home sector ≠ 0 then s.ownerMark home sector else s.restMark home sector

/-- The tryte values of a sector as they stand at the home slice. -/
def State.sectorData (s : State) (home sector : Nat) : List Int :=
  (List.range 81).map fun k => s.peek home (81 * sector + k)

/-! ### Page attributes (R252) -/

def leafPpn (e : Word) : Int := trits e 25 8
def leafCache (e : Word) : Trit := tritAt e 7
def leafWpol (e : Word) : Trit := tritAt e 6
def leafComp (e : Word) : Trit := tritAt e 5
def leafEvict (e : Word) : Int := trits e 4 4
def leafData (e : Word) : Trit := tritAt e 3
def leafExec (e : Word) : Trit := tritAt e 2
def leafDom (e : Word) : Trit := tritAt e 1

/-- A leaf for accesses that allocate in no cache. -/
def uncached : Word := p3 26 - p3 7 + p3 3

/-! ### Writing back, evicting and filling -/

def addSorted (l : List Nat) (k : Nat) : List Nat :=
  match l with
  | [] => [k]
  | a :: t => if k < a then k :: a :: t else if k = a then a :: t else a :: addSorted t k

/-- Writes a dirty slice sector back to HBM (R258, R268). -/
def State.writeBackSlice (s : State) (e : SliceSector) : State :=
  if !e.dirty then s
  else
    let hbm := (List.range 81).foldl
      (fun m k => if e.valid.getD k false then memSet m (81 * e.sector + k) (e.data.getD k 0) else m) s.hbm
    let marks :=
      if e.poison ≠ 0 then addSorted s.hbmPoison e.sector
      else if e.pending then s.hbmPoison
      else s.hbmPoison.filter (· != e.sector)
    { s with hbm := hbm, hbmPoison := marks }

/-- Lines of a list of keys, oldest first. -/
def linesOf (l : List (Nat × Nat)) : List (Nat × Nat) := (l.map fun p => (p.1, p.2 / 9)).eraseDups

/-- The line a full cache replaces: one of those of the lowest priority present (R260).
DESIGN CHOICE, unsafe (log 16). -/
def victim (k : Nat) (lines : List (Nat × Nat)) (prio : Nat × Nat → Int) : Option (Nat × Nat) :=
  let low := (lines.map prio).foldl min 1
  let cands := lines.filter fun l => prio l == low
  cands[Config.choose k % cands.length]?

/-- Makes room for a line in a slice. -/
def State.roomInSlice (s : State) (home sector : Nat) : State :=
  let here := s.slices.filter fun e => e.home == home
  let lines := linesOf (here.map fun e => (e.home, e.sector))
  if lines.contains (home, sector / 9) || lines.length < Config.sliceLines then s
  else
    let prio := fun l => ((here.find? fun e => e.sector / 9 == l.2).map SliceSector.prio).getD 0
    match victim s.tick lines prio with
    | none => s
    | some l =>
      let out := here.filter fun e => e.sector / 9 == l.2
      let s := out.foldl State.writeBackSlice s
      { s with slices := s.slices.filter fun e => !(e.home == home && e.sector / 9 == l.2) }

def emptySlice (home sector : Nat) (leaf : Word) (prio : Int) : SliceSector :=
  { home := home, sector := sector, comp := leafComp leaf, data := List.replicate 81 0, valid := List.replicate 81 false,
    dirty := false, pending := true, prio := prio, poison := 0 }

/-- Allocates a sector in its slice under the leaf of a page, with its fill from HBM pending (R260, R262). -/
def State.allocSlice (s : State) (home sector : Nat) (leaf : Word) : State :=
  if (s.sliceAt home sector).isSome then s
  else
    let s := s.roomInSlice home sector
    s.putSlice (emptySlice home sector leaf (s.slicePrio home sector (leafEvict leaf)))

/-- Writes trytes into the home slice's sector, or into HBM when `alloc` is off and the slice holds
none (R258, R262). A write of all 81 trytes clears the poison mark, and then nothing of the fill is needed (R268). -/
def State.applyHome (s : State) (home sector : Nat) (alloc : Bool) (leaf : Word) (ws : List (Nat × Int)) : State :=
  let full := (List.range 81).all fun k => ws.any fun w => w.1 == k
  let s := if alloc then s.allocSlice home sector leaf else s
  match s.sliceAt home sector with
  | some e =>
    let data := ws.foldl (fun d w => d.set w.1 w.2) e.data
    let valid := ws.foldl (fun d w => d.set w.1 true) e.valid
    s.putSlice { e with data := data, valid := valid, dirty := true, pending := e.pending && !full,
                        poison := if full then 0 else e.poison }
  | none =>
    { s with hbm := ws.foldl (fun m w => memSet m (81 * sector + w.1) w.2) s.hbm,
             hbmPoison := if full then s.hbmPoison.filter (· != sector) else s.hbmPoison }

/-- The dirty trytes of an L1 sector go to its home slice under the leaf of its page, with the mark that the copy
carries (R258, R268, R426). -/
def State.bringHome (s : State) (e : L1Sector) : State :=
  let ws := ((List.range 81).filter fun k => e.dirty.getD k false).map fun k => (k, e.data.getD k 0)
  if ws.isEmpty then s
  else
    let s := s.applyHome e.home e.sector true e.leaf ws
    if e.poison = 0 then s
    else
      match s.sliceAt e.home e.sector with
      | none => s
      | some x => s.putSlice { x with poison := e.poison }

/-- An L1 sector's dirty trytes go to the home slice and the core gives up ownership (R258, R311). -/
def State.cleanL1 (s : State) (e : L1Sector) : State :=
  (s.bringHome e).putL1 { e with dirty := List.replicate 81 false, owned := List.replicate 27 false }

/-- Makes room for a line in an L1. -/
def State.roomInL1 (s : State) (core home sector : Nat) : State :=
  let here := s.l1.filter fun e => e.core == core
  let lines := linesOf (here.map fun e => (e.home, e.sector))
  if lines.contains (home, sector / 9) || lines.length < Config.l1Lines then s
  else
    let prio := fun l => ((here.find? fun e => e.home == l.1 && e.sector / 9 == l.2).map L1Sector.prio).getD 0
    match victim s.tick lines prio with
    | none => s
    | some l =>
      let out := here.filter fun e => e.home == l.1 && e.sector / 9 == l.2
      let s := out.foldl State.cleanL1 s
      { s with l1 := s.l1.filter fun e => !(e.core == core && e.home == l.1 && e.sector / 9 == l.2) }

/-- What 160 bytes read from HBM hold, under a page's COMP: the trytes and whether the sector reads as poisoned
(R267 to R269). `fmt` is the format in which the trytes stand; a layout of formats 1 to 8 is internal to the device. -/
def readBytes (comp : Trit) (trytes : List Int) (b : List (BitVec 8)) : List Int × Bool :=
  if readsPoisoned comp b then (trytes, true)
  else if sectorFormat b = 0 then (codeTrytes (sectorCodes b), false)
  else ((Config.expanded b).map (wrap 9), false)

/-- The 160 bytes as the IO die stored them: in the plain layout, or where COMP is not 0 in a format that it chose, with
POISON, CFMT and the reserved bits where R265 has them (R265, R269). -/
def State.storedBytes (s : State) (comp : Trit) (sector : Nat) : List (BitVec 8) :=
  let trytes := memGetList s.hbm (81 * sector) 81
  let poison := s.hbmPoison.contains sector
  if comp = .zero ∨ Config.format s.tick sector % 9 = 0 then packSector trytes poison
  else
    let fmt := Config.format s.tick sector % 9
    withCheck (bytesOf 154 (Config.compressed fmt trytes % 2 ^ 1215 + (if poison then 2 ^ 1215 else 0) + fmt * 2 ^ 1216))

/-- A reading of a sector from HBM: `noise` gives the bits that differ in the first reading and in the second, which
follows when the check code of the first fails; when both fail the sector reads as poisoned (R267, R268). -/
def State.readHbm (s : State) (comp : Trit) (sector : Nat) (noise : List (List (BitVec 8))) : List Int × Bool :=
  let plain := memGetList s.hbm (81 * sector) 81
  if s.channelsOut.contains (s.channelAt sector) then (plain, true)
  else if (noise.getD 0 []).all (· == 0) then (plain, s.hbmPoison.contains sector)
  else
    let bits := s.storedBytes comp sector
    match [noise.getD 0 [], noise.getD 1 []].find? fun n => checkHolds (flipBits bits n) with
    | none => (plain, true)
    | some n =>
      if n.all (· == 0) then (plain, s.hbmPoison.contains sector) else readBytes comp plain (flipBits bits n)

/-- A core's copy of a sector taken anew: words that it owns stay, every other valid tryte is as the home slice gives
it, so that the copy is the sector as it stood at one moment, which it notes (R276, R284). -/
def State.freshCopy (s : State) (e : L1Sector) : L1Sector :=
  let fresh := s.sectorData e.home e.sector
  let mark := s.poisonAt e.home e.sector
  { e with
    data := (List.range 81).map fun k => if e.owned.getD (k / 3) false then e.data.getD k 0 else fresh.getD k 0
    poison := if e.owned.any id then max e.poison mark else mark
    since := s.tick }

/-- Takes a core's copy of a sector anew, where it holds one. -/
def State.refreshL1 (s : State) (core home sector : Nat) : State :=
  match s.l1At core home sector with
  | none => s
  | some e => s.putL1 (s.freshCopy e)

/-- Brings every tryte of a sector into a core's L1 as it stands at the home slice; words that the core owns stay
(R258, R276). -/
def State.fillL1 (s : State) (core home sector : Nat) (leaf : Word) : State :=
  let s := s.roomInL1 core home sector
  match s.l1At core home sector with
  | some e => s.putL1 { s.freshCopy e with valid := List.replicate 81 true }
  | none =>
    s.putL1 { core := core, home := home, sector := sector, leaf := leaf, data := s.sectorData home sector,
              valid := List.replicate 81 true, dirty := List.replicate 81 false, owned := List.replicate 27 false,
              prio := s.l1Prio core home sector (leafEvict leaf), poison := s.poisonAt home sector, since := s.tick }

/-- A slice sector's pending fill, if any, is over: the written trytes stay over those that a reading from HBM gave (R262,
R267, R268). -/
def State.mergeFill (s : State) (home sector : Nat) (noise : List (List (BitVec 8))) : State :=
  match s.sliceAt home sector with
  | none => s
  | some e =>
    if !e.pending then s
    else
      let got := s.readHbm e.comp sector noise
      let data := (List.range 81).map fun k => if e.valid.getD k false then e.data.getD k 0 else got.1.getD k 0
      s.putSlice { e with data := data, valid := List.replicate 81 true, pending := false,
                          poison := if got.2 = true ∧ e.poison = 0 then 1 else e.poison }

/-- A prefetched copy comes to a core's L1: under the leaf of the page that the prefetch named, and of no sector that reads
as poisoned (R260, R306). -/
def State.fillFor (s : State) (x : Prefetch) : State :=
  if s.poisonAt x.home x.sector ≠ 0 then s
  else
    let s := s.fillL1 x.core x.home x.sector x.leaf
    if x.low then s.setL1Prio x.core x.home (x.sector / 9) (-1) else s

def Prefetch.names (x : Prefetch) (home sector : Nat) : Bool := x.home == home && x.sector == sector

/-- Completes a slice sector's fill, and the prefetches that wait for it (R262, R306). -/
def State.completeFill (s : State) (home sector : Nat) (noise : List (List (BitVec 8))) : State :=
  let s := s.mergeFill home sector noise
  (s.prefetches.filter fun x => x.names home sector).foldl State.fillFor
    { s with prefetches := s.prefetches.filter fun x => !(x.names home sector) }

/-- Brings a sector into its slice, filled. -/
def State.fillSlice (s : State) (home sector : Nat) (leaf : Word) : State :=
  (s.allocSlice home sector leaf).completeFill home sector []

/-- An access reaches the cores that own words of a sector, whose L1s supply them (R275, R438). -/
def State.visitOwners (s : State) (home sector : Nat) (words : List Nat) : State :=
  (s.l1.filter fun e => e.home == home && e.sector == sector && words.any fun w => e.owned.getD w false).foldl
    (fun s e => s.visitDie (e.core / 18)) s

/-- The home slice recalls words from the cores that own them: the owner's dirty trytes are written
back, and its copies of the words are invalidated (R275). -/
def State.recall (s : State) (keep : Option Nat) (home sector : Nat) (words : List Nat) : State :=
  let owners := s.l1.filter fun e =>
    e.home == home && e.sector == sector && some e.core != keep && words.any fun w => e.owned.getD w false
  owners.foldl (fun s e =>
    ((s.visitDie (e.core / 18)).bringHome e).putL1 { e with
      dirty := List.replicate 81 false,
      owned := words.foldl (fun o w => o.set w false) e.owned,
      valid := words.foldl (fun v w => ((v.set (3 * w) false).set (3 * w + 1) false).set (3 * w + 2) false) e.valid }) s

/-- The words of a sector that a list of its trytes lies in. -/
def wordsOf (ws : List (Nat × Int)) : List Nat := (ws.map fun w => w.1 / 3).eraseDups

/-- An acquire by a thread of a core: every word of its L1 that the core does not own is invalidated
(R277). DESIGN CHOICE, unsafe (log 57). -/
def State.acquire (s : State) (core : Nat) : State :=
  { s with l1 := (s.l1.map fun e =>
      if e.core == core then
        { e with valid := (List.range 81).map fun k => e.valid.getD k false && e.owned.getD (k / 3) false }
      else e).filter fun e => e.core != core || e.valid.any id }

/-! ### Loads and stores of one sector (R258, R261, R275, R276) -/

/-- The line of a sector that its home slice holds becomes low (R261). -/
def State.lowerHit (s : State) (home sector : Nat) : State :=
  if (s.sliceAt home sector).isSome then s.setSlicePrio home (sector / 9) (-1) else s

/-- What a load reads of one sector: the values of n trytes from k, and the poison mark met. A copy in the core's L1
serves it when every word that it needs is valid there; else it reads all of them at the home slice (R276). The hint
.by leaves the line that served it at low priority (R261). -/
def State.loadSector (s : State) (core : Nat) (leaf : Word) (h : Hint) (home sector k n : Nat) :
    (List Int × Nat) × State :=
  let served := (s.l1At core home sector).filter fun e =>
    (List.range n).all fun i => e.valid.getD (k + i) false
  match served with
  | some e =>
    (((List.range n).map fun i => e.data.getD (k + i) 0, e.poison),
      if h = .by then s.setL1Prio core home (sector / 9) (-1) else s)
  | none =>
    let s := (s.visit home).visitOwners home sector ((List.range n).map fun i => (k + i) / 3)
    let vals := (List.range n).map fun i => s.peek home (81 * sector + k + i)
    let mark := max (s.poisonAt home sector) (((s.l1At core home sector).map L1Sector.poison).getD 0)
    let s :=
      if leafCache leaf = .neg then s
      else if h = .by then s.lowerHit home sector
      else if h = .na then s
      else
        let s := s.fillSlice home sector leaf
        if leafCache leaf = .pos ∧ core < Config.cores then s.fillL1 core home sector leaf else s
    ((vals, mark), s)

/-- Applies a store or atomic at the home slice (R262, R275): ownership is recalled first. With a hint a sector that
the slice does not hold is not allocated, and with .by the line that it holds becomes low (R261). -/
def State.storeHome (s : State) (core : Nat) (leaf : Word) (h : Hint) (home sector : Nat) (ws : List (Nat × Int)) :
    State :=
  let s := (s.visit home).recall none home sector (wordsOf ws)
  let s := s.applyHome home sector (leafCache leaf != .neg && h == .default) leaf ws
  let s := if h = .by then s.lowerHit home sector else s
  s.refreshL1 core home sector

/-- A write of all 81 trytes leaves a sector unpoisoned at its home slice (R268). -/
def State.clearMark (s : State) (home sector : Nat) : State :=
  match s.sliceAt home sector with
  | some b => s.putSlice { b with poison := 0, pending := b.pending && !(b.valid.all id) }
  | none => s

/-- A store of masked trytes of one sector by a core (R258, R261). A store through a page whose WPOL is 0 or - goes to the
home slice also where the sector is dirty in the core's L1 through another mapping, whose dirty trytes are written back
first. DESIGN CHOICE, unsafe (log 106). The rest of the core's copy is taken anew, so that
a word that the core comes to own stands as at the home slice, since the core then supplies it to the others
(R275, R276). A unit, which has no core, writes at the home slice. -/
def State.storeSector (s : State) (core : Nat) (leaf : Word) (h : Hint) (home sector : Nat)
    (ws : List (Nat × Int)) : State :=
  let hit := (s.l1At core home sector).isSome
  if leafCache leaf = .pos ∧ leafWpol leaf = .pos ∧ core < Config.cores ∧ (hit ∨ h = .default) then
    let s := (s.visit home).recall (some core) home sector (wordsOf ws)
    let s := if hit then s else (s.allocSlice home sector leaf).fillL1 core home sector leaf
    match s.l1At core home sector with
    | none => s
    | some e =>
      let full := (List.range 81).all fun k => ws.any fun w => w.1 == k
      let words := wordsOf ws
      let fresh := s.freshCopy e
      let valid := (List.range 81).map fun k => e.valid.getD k false || words.contains (k / 3)
      let s := if full then s.clearMark home sector else s
      let s := s.putL1 { fresh with
        data := ws.foldl (fun d w => d.set w.1 w.2) fresh.data
        valid := valid
        dirty := ws.foldl (fun d w => d.set w.1 true) e.dirty
        owned := words.foldl (fun o w => o.set w true) e.owned
        poison := if full then 0 else fresh.poison }
      if h = .by then s.setL1Prio core home (sector / 9) (-1) else s
  else
    let s := s.storeHome core leaf h home sector ws
    let s := if h = .by ∧ hit then s.setL1Prio core home (sector / 9) (-1) else s
    if leafCache leaf = .pos ∧ leafWpol leaf = .neg then
      match s.l1At core home sector with
      | none => s
      | some e => (s.cleanL1 e).dropL1 core home sector
    else s

/-- Marks a sector poisoned on chip (R426). -/
def State.poisonSlice (s : State) (home sector : Nat) : State :=
  let s := s.fillSlice home sector uncached
  match s.sliceAt home sector with
  | none => s
  | some e => s.putSlice { e with poison := 2, dirty := true }

/-- Every dirty sector is written back and every copy dropped, so that the lines may be homed anew; a dirty sector of the
slice that leaves service is written as poisoned where it cannot be read (R268, R474). DESIGN CHOICE, safe (log 103). -/
def State.rehome (s : State) (leaves : Option Nat) : State :=
  let s := s.l1.foldl State.cleanL1 s
  let k := s.tick
  let s := s.slices.foldl (fun s e => s.writeBackSlice
    (if some e.home = leaves ∧ e.poison = 0 ∧ Config.unreadable k e.sector = true then { e with poison := 1 } else e)) s
  { s with l1 := [], slices := [], prefetches := [] }

/-! ### Physical accesses of units that allocate in no cache (R443, R454) -/

/-- An access of a unit reaches the home slices of n trytes. -/
def State.visitPhys (s : State) (pa n : Nat) : State :=
  (s.visit (s.homeOf .zero pa)).visit (s.homeOf .zero (pa + n - 1))

def State.readPhys (s : State) (pa : Nat) : Int := s.peek (s.homeOf .zero pa) pa
def State.readPhysWord (s : State) (pa : Nat) : Int :=
  wordOfTrytes ((List.range 3).map fun i => s.readPhys (pa + i))
def State.physPoison (s : State) (pa : Nat) : Nat := s.poisonAt (s.homeOf .zero pa) (pa / 81)

/-- Writes masked trytes of one sector at its home slice without allocation. -/
def State.writePhys (s : State) (sector : Nat) (ws : List (Nat × Int)) : State :=
  let home := s.homeOf .zero (81 * sector)
  ((s.visit home).recall none home sector (wordsOf ws)).applyHome home sector false uncached ws

end Sys2Proof.Machine
end

