-- ==== Sys2Proof/Machine/Translate.lean ====
section
/-!
DEFINITION. Translation and the checks of an access: the walk of R253, permissions, the private window,
range locks, the control window and the peer windows, in the order of R49; and loads through them.
-/

namespace Sys2Proof.Machine

/-! ### Reads of the control window (R445 to R448, R472) -/

def loWord (x : Int) : Int := wrap 27 x
def hiWord (x : Int) : Int := trunc 27 x

/-- Half k (0 low, 1 high) of a 54-trit register. -/
def halfOf (x : Int) (k : Int) : Int := if k = 0 then loWord x else hiWord x

def State.dieAt (s : State) (d : Nat) : Die := s.dies.getD d Die.reset
def State.setDie (s : State) (d : Nat) (f : Die → Die) : State := { s with dies := s.dies.set d (f (s.dieAt d)) }

def beamCtlWord (b : Beam) : Int := b.enable + 3 * b.minstep + p3 5 * b.fixstep + p3 9 * b.nxst
def fctlWord (d : Die) : Int := 3 * d.fmin + p3 5 * d.fmax + p3 9 * d.ffix
def fstepWord (d : Die) : Int := d.step + (if d.relock then -(p3 4) else 0)
def pstatWord (d : Die) : Int := ofTrits d.pstat

/-- Word r of a die's block (R446). -/
def dieWord (d : Die) (r : Int) : Int :=
  if r = 0 then d.ebudget
  else if r = 1 ∨ r = 2 then halfOf d.emeas (r - 1)
  else if r = 3 then d.eallow
  else if r = 4 then d.headroom
  else if r = 6 then pstatWord d
  else if r = 7 then fctlWord d
  else if r = 8 then fstepWord d
  else if r = 9 ∨ r = 10 then halfOf d.stale (r - 9)
  else if r = 11 ∨ r = 12 then halfOf d.reuse (r - 11)
  else if r = 13 ∨ r = 14 then halfOf d.beamflt (r - 13)
  else if r = 15 ∨ r = 16 then halfOf d.cecount (r - 15)
  else if r = 17 ∨ r = 18 then halfOf d.uecount (r - 17)
  else 0

/-- A word of STORTAB, PWIN, PIN, CTAB or HNOTE: 0, or -1 for CTAB, where nothing was written (R445). -/
def Window.word (win : Window) (w : Int) : Int :=
  match win.words.find? fun p => p.1 == w with
  | some p => p.2
  | none => if 972 ≤ w ∧ w ≤ 1700 then -1 else 0

def Window.setWord (win : Window) (w v : Int) : Window :=
  { win with words := (w, v) :: win.words.filter fun p => p.1 != w }

/-- The value of a word of the control window to a reader other than LSTAT's port (R445 to R448). A
write-only register and a word not listed read as 0. -/
def State.windowWord (s : State) (w : Int) : Int :=
  if 0 ≤ w ∧ w ≤ 53 then halfOf (s.window.qroot.getD (w / 2).toNat 0) (w % 2)
  else if w = 57 then s.window.tinval
  else if w = 58 then s.window.ageguard
  else if w = 60 ∨ w = 61 then halfOf s.beam.prog (w - 60)
  else if w = 62 ∨ w = 63 then halfOf s.beam.next (w - 62)
  else if w = 64 then beamCtlWord s.beam
  else if w = 65 then s.beam.step
  else if w = 66 ∨ w = 67 then halfOf s.beam.laps (w - 66)
  else if w = 68 then s.beam.seg
  else if w = 72 then s.window.devnum
  else if 243 ≤ w ∧ w ≤ 1754 then s.window.word w
  else if 2187 ≤ w ∧ w ≤ 2259 then s.readyWord w.toNat
  else if w = 2260 then s.window.fwlen
  else if 2262 ≤ w ∧ w ≤ 2269 then s.window.nonce.getD (w - 2262).toNat 0
  else if w = 2271 then s.window.attst
  else if w = 2272 ∨ w = 2273 then halfOf s.window.hbmtop (w - 2272)
  else if 177147 ≤ w ∧ w < 177147 * 28 then
    dieWord (s.dieAt (w / 177147 - 1).toNat) (w % 177147)
  else 0

/-! ### The walk (R251 to R254) -/

inductive Perm where
  | load | store | atomic | fetch | none
  deriving DecidableEq, Repr

/-- Whether a leaf permits an access (R254). -/
def permits (e : Word) (p : Perm) : Bool :=
  match p with
  | .load => leafData e != .neg && leafExec e != .pos
  | .store | .atomic => leafData e == .pos && leafExec e != .pos
  | .fetch => leafExec e != .neg
  | .none => true

/-- The word of a table, read at its home slice as a relaxed load; a table outside HBM holds none. The home slice is that
of package interleave, and a poison mark of its sector changes nothing. DEDUCED, unsafe (log 97). -/
def State.tableWord (s : State) (pa : Int) : Option Word :=
  if pa < 0 ∨ s.window.hbmtop ≤ pa then none else some (s.readPhysWord pa.toNat)

/-- The leaf that maps v and its level, from the table of a level at a base (R253); the levels still to
read structure the recursion. -/
def State.walkFrom (s : State) (v : Int) : Nat → Int → Option (Word × Nat)
  | 0, _ => none
  | n + 1, base =>
    let level := 4 - n
    match s.tableWord (base + 3 * (trits v (56 - 9 * level) (48 - 9 * level) + 9841)) with
    | none => none
    | some e =>
      match tritAt e 26 with
      | .neg => none
      | .zero =>
        if level = 4 ∨ trits e 7 2 ≠ 0 then none
        else s.walkFrom v n ((9 * leafPpn e + trits e 1 0) * p3 10)
      | .pos =>
        if level < 3 ∨ trits e 0 0 ≠ 0 ∨ leafDom e = .pos then none
        else if level = 3 ∧ trits (leafPpn e) 8 0 ≠ 0 then none
        else some (e, level)

/-- The physical address that a leaf of a level gives v (R253). -/
def leafAddr (e : Word) (level : Nat) (v : Int) : Int :=
  leafPpn e * p3 12 + (if level = 3 then trits v 20 0 else trits v 11 0)

/-- Whether something stands at a physical address: HBM, the control window or a peer window (R250, R445, R452); below
-3^29 nothing does. DEDUCED, unsafe (log 82). -/
def State.backed (s : State) (pa : Int) : Bool := decide (-(p3 29) ≤ pa) && decide (pa < s.window.hbmtop)

/-- The leaf that maps v for a queue, and its level: the cached translation when one is held, else the walk's
(R255). A translation that is held is used and stays until an invalidation. DESIGN CHOICE, unsafe (log 96). -/
def State.mapOf (s : State) (queue : Nat) (qroot v : Int) : Option (Word × Nat) :=
  match s.tcache.find? fun t => t.queue == queue && t.qroot == qroot && t.page == trunc 12 v with
  | some t => some (t.leaf, t.level)
  | none => s.walkFrom v 4 qroot

/-- The leaf of v for a queue, where the physical address that it gives v is backed (R253, R255). -/
def State.leafFor (s : State) (queue : Nat) (qroot v : Int) : Option (Word × Nat) :=
  (s.mapOf queue qroot v).filter fun m => s.backed (leafAddr m.1 m.2 v)

/-- The walk of v reaches the home slices of its table words (R253, R438). -/
def State.visitWalk (s : State) (v : Int) : Nat → Int → State
  | 0, _ => s
  | n + 1, base =>
    let pa := base + 3 * (trits v (56 - 9 * (4 - n)) (48 - 9 * (4 - n)) + 9841)
    match s.tableWord pa with
    | none => s
    | some e =>
      let s := s.visit (s.homeOf .zero pa.toNat)
      if tritAt e 26 = .zero then s.visitWalk v n ((9 * leafPpn e + trits e 1 0) * p3 10) else s

/-- Keeps a translation in the cache (R255). -/
def State.cacheLeaf (s : State) (queue : Nat) (qroot v : Int) : State :=
  if (s.tcache.any fun t => t.queue == queue && t.qroot == qroot && t.page == trunc 12 v) then s
  else
    let s := s.visitWalk v 4 qroot
    match s.leafFor queue qroot v with
    | none => s
    | some (e, level) => { s with tcache := s.tcache ++ [⟨queue, qroot, trunc 12 v, e, level⟩] }

/-! ### Address spaces of agents -/

/-- The private window of a thread (R43, R263): base and length in the address space, the lowest
address allowed, and where its words lie. -/
structure PrivWin where
  plow : Int
  pwords : Int
  splimit : Int
  base : Int
  lane : Int
  deriving DecidableEq, Repr

/-- Whose access it is: its tables, privilege, private window, and the core whose locks it meets. -/
structure Agent where
  queue : Nat
  qroot : Int
  system : Bool
  win : Option PrivWin
  core : Nat
  team : TeamId
  deriving DecidableEq, Repr

def canonical (x : Int) : Bool := fits 48 x

def PrivWin.holds (w : PrivWin) (x : Int) : Bool := decide (w.plow ≤ x) && decide (x < w.plow + 3 * w.pwords)

/-- The virtual address at which an access to a private window address is performed (R263). -/
def PrivWin.remap (w : PrivWin) (x : Int) : Int :=
  w.base + 3 * (81 * ((x - w.plow) / 3) + w.lane) + (x - w.plow) % 3

/-- The ranges of virtual addresses an access of n trytes at ea covers, after the private window; nothing where R264
refuses it: within the window it stands in one private word, or it is an address pair at a private word boundary.
DEDUCED, unsafe (log 73). -/
def rangesOf (a : Agent) (ea : Int) (n : Nat) (pair : Bool) : Option (List (Int × Nat)) :=
  match a.win with
  | none => some [(ea, n)]
  | some w =>
    if !((List.range n).any fun i => w.holds (ea + (i : Int))) then some [(ea, n)]
    else
      let t := (ea - w.plow) % 3
      if w.holds ea ∧ t + n ≤ 3 then some [(w.remap ea, n)]
      else if pair ∧ w.holds ea ∧ t = 0 ∧ w.holds (ea + 5) then some [(w.remap ea, 3), (w.remap (ea + 3), 3)]
      else none

/-- A run of trytes of one page: virtual start, length, physical start and leaf. -/
structure Seg where
  v : Int
  n : Nat
  pa : Int
  leaf : Word
  deriving DecidableEq, Repr

/-- The pieces of a range within half pages of 3^12 trytes, below and from the address that is a multiple of 3^12 on,
so that no piece has trytes on both sides of physical address 0 (at most m + 1 of them). -/
def pagePieces : Nat → Int → Nat → List (Int × Nat)
  | 0, v, n => [(v, n)]
  | m + 1, v, n =>
    let centre := trunc 12 v * p3 12
    let room := if v < centre then (centre - v).toNat else (centre + maxTrits 12 - v + 1).toNat
    if n ≤ room then [(v, n)] else (v, room) :: pagePieces m (v + room) (n - room)

/-- Of two causes of one code the one with the lower subcode, and of equal ones the first (R49). -/
def Cause.first (c : Cause) : Except Cause (List Seg) → Cause
  | .error d => if d.sub < c.sub then d else c
  | .ok _ => c

/-- Translates one piece of a range for a permission (R253, R254). -/
def State.segmentOf (s : State) (a : Agent) (p : Perm) (v : Int) (n : Nat) : Except Cause Seg :=
  match s.leafFor a.queue a.qroot v with
  | none => .error ⟨6, 1, v⟩
  | some (e, level) =>
    let pa := leafAddr e level v
    if permits e p = false then .error ⟨6, 2, v⟩
    else if s.backed (pa + n - 1) = false then .error ⟨6, 1, v + (s.window.hbmtop - pa)⟩
    else .ok ⟨v, n, pa, e⟩

/-- Translates the pieces of a range for a permission; of the pieces refused the first with the lowest subcode gives the
cause and its address (R49, R253, R254). -/
def State.segments (s : State) (a : Agent) (p : Perm) : List (Int × Nat) → Except Cause (List Seg)
  | [] => .ok []
  | (v, n) :: rest =>
    match s.segmentOf a p v n with
    | .error c => .error (Cause.first c (s.segments a p rest))
    | .ok g =>
      match s.segments a p rest with
      | .error c => .error c
      | .ok l => .ok (g :: l)

/-- Translates the pieces of a range; the lowest address that is refused gives the cause (R311). -/
def State.segmentsInOrder (s : State) (a : Agent) (p : Perm) (l : List (Int × Nat)) : Except Cause (List Seg) :=
  l.mapM fun r => s.segmentOf a p r.1 r.2

/-! ### Range locks (R291, R292) -/

/-- The subcode an access takes from a lock of a kind. -/
def lockSub (k : LockKind) (p : Perm) : Option Int :=
  match k, p with
  | .dest, _ => some 1
  | .src, .load => none
  | .src, _ => some 2
  | .torn, _ => some 3

/-- The range-lock fault of an access to ranges, if any: the lowest subcode, at the lowest address
shared with a range of that kind (R292). -/
def lockFault (locks : List Lock) (p : Perm) (rs : List (Int × Nat)) : Option Cause :=
  let hits : List (Int × Int) := locks.flatMap fun l => rs.filterMap fun r =>
    match lockSub l.kind p with
    | none => none
    | some sub =>
      let lo : Int := max l.lo r.1
      if lo ≤ min l.hi (r.1 + (r.2 : Int) - 1) then some (sub, lo) else none
  match hits with
  | [] => none
  | h :: t =>
    let sub := t.foldl (fun m x => min m x.1) h.1
    let at_ := (hits.filter fun x => x.1 == sub).map Prod.snd
    some ⟨16, sub, at_.foldl min (at_.headD 0)⟩

/-- Locks that an agent's accesses to translated memory meet. -/
def State.memLocks (s : State) (core : Nat) : List Lock :=
  s.locks.filter fun l => l.core == core && !l.scratch

/-- Locks on the scratchpad of a team that a core's threads meet. -/
def State.scratchLocks (s : State) (core : Nat) (t : TeamId) : List Lock :=
  s.locks.filter fun l => l.core == core && l.scratch && l.team == t

/-! ### Windows below 0 (R250, R448, R452) -/

def inWindow (pa : Int) : Bool := decide (-(p3 29) ≤ pa) && decide (pa < -(p3 28))
def windowIndex (pa : Int) : Int := (pa + p3 29) / 3

/-- The peer window and offset of a physical address below 0 and outside the control window. -/
def peerOf (pa : Int) : Int × Int := (-(pa / p3 25) - 1, pa % p3 25)

def State.peerServes (s : State) (pa : Int) : Bool :=
  let (w, o) := peerOf pa
  tritAt (s.window.word (486 + 9 * w)) 26 == .pos && decide (o < s.window.word (486 + 9 * w + 3))

/-- The cause of an access to physical addresses below 0, of all its trytes (R49, R307, R448, R452). `whole` says that
the access is LD27, ST27, LDA or STA. -/
def State.windowFault (s : State) (ea : Int) (whole : Bool) (p : Perm) (l : List Seg) : Option Cause :=
  let below := l.flatMap fun g => ((List.range g.n).map fun i : Nat => g.pa + (i : Int)).filter fun x => decide (x < 0)
  if below.isEmpty then none
  else if p = .atomic then some ⟨6, 2, ea⟩
  else if below.any fun x => !(inWindow x) && !(s.peerServes x) then some ⟨6, 1, ea⟩
  else if below.any inWindow && !(whole && l.all fun g => decide (g.pa % 3 = 0)) then some ⟨6, 2, ea⟩
  else none

/-! ### The checks of one access (R49, R298) -/

/-- An alignment requirement: the address is a multiple of k, or the access faults with the subcode. -/
structure Align where
  mult : Int
  sub : Int
  deriving DecidableEq, Repr

/-- The lowest covered address that is not canonical. -/
def nonCanonical (ea : Int) (n : Nat) : Option Int :=
  if !(canonical ea) then some ea
  else if canonical (ea + n - 1) then none else some (maxTrits 48 + 1)

/-- Checks an access of n trytes at ea in the order 4, 5, 7, 8, 6, 16 and gives its pieces. `sector`
asks that the trytes lie in one sector (R298). Of refusals of code 6 that no rule orders, those of pages and permissions go
before those of the windows below 0. DESIGN CHOICE, unsafe (log 107). -/
def State.check (s : State) (a : Agent) (p : Perm) (ea : Int) (n : Nat) (al : Option Align) (sector whole : Bool) :
    Except Cause (List Seg) :=
  if !a.system && decide (ea < 0) then .error ⟨4, 3, ea⟩
  else
    match nonCanonical ea n with
    | some x => .error ⟨5, if p = .fetch then 2 else 1, x⟩
    | none =>
      let bad := match al with
        | none => none
        | some al => if ea % al.mult = 0 then none else some al.sub
      match rangesOf a ea n (whole && n == 6), bad with
      | none, _ => .error ⟨7, 1, ea⟩
      | _, some sub => .error ⟨7, sub, ea⟩
      | some rs, none =>
        if sector ∧ ea / 81 ≠ (ea + n - 1) / 81 then .error ⟨7, 3, ea⟩
        else
          let low := match a.win with
            | none => false
            | some w => w.holds ea && decide (ea < w.splimit)
          if low then .error ⟨8, 1, ea⟩
          else
            match s.segments a p (rs.flatMap fun r => pagePieces (2 * (r.2 / 531441) + 4) r.1 r.2) with
            | .error c => .error c
            | .ok segs =>
              match s.windowFault ea whole p segs with
              | some c => .error c
              | none =>
                match if p = .fetch ∨ p = .none then none else lockFault (s.memLocks a.core) p rs with
                | some c => .error c
                | none => .ok segs

/-- Keeps the translations of an access in the cache. -/
def State.noteSegs (s : State) (a : Agent) (l : List Seg) : State :=
  l.foldl (fun s g => s.cacheLeaf a.queue a.qroot g.v) s

/-! ### Loads -/

/-- Pieces of a physical run within sectors: sector, first tryte, count (at most m + 1 of them). -/
def sectorPieces : Nat → Nat → Nat → List (Nat × Nat × Nat)
  | 0, pa, n => [(pa / 81, pa % 81, n)]
  | m + 1, pa, n =>
    let room := 81 - pa % 81
    if n ≤ room then [(pa / 81, pa % 81, n)] else (pa / 81, pa % 81, room) :: sectorPieces m (pa + room) (n - room)

/-- Loads one piece of HBM: trytes and poison. -/
def State.loadPieces (s : State) (core : Nat) (leaf : Word) (h : Hint) :
    List (Nat × Nat × Nat) → (List Int × Nat) × State
  | [] => (([], 0), s)
  | (sec, k, n) :: rest =>
    let ((v1, p1), s) := s.loadSector core leaf h (s.homeOf (leafDom leaf) (81 * sec)) sec k n
    let ((v2, p2), s) := s.loadPieces core leaf h rest
    ((v1 ++ v2, if p1 ≠ 0 then p1 else p2), s)

/-- Whether 160 bytes from a peer are accepted: every triad code stands for trits and the check code holds (R451). -/
def peerAccepts (b : List (BitVec 8)) : Bool := (sectorCodes b).all (fun c => decide (c ≤ 26)) && checkHolds b

/-- Whether the UALink port through which a device is reached is in service: the first five ports stand on IO die 4 and
the others on IO die 5 (R472, R473). DESIGN CHOICE, safe (log 10). -/
def State.peerReady (s : State) (dev : Int) : Bool :=
  let p := Config.portOf dev % 9
  (if p < 5 then s.readyTrit 2253 (5 + p) else s.readyTrit 2256 p) == .pos

/-- Whether that port has failed. -/
def State.peerFailed (s : State) (dev : Int) : Bool :=
  let p := Config.portOf dev % 9
  (if p < 5 then s.readyTrit 2253 (5 + p) else s.readyTrit 2256 p) == .neg

/-- The device and the physical address there that an address of a peer window names (R452). -/
def State.peerTarget (s : State) (pa : Int) : Int × Int :=
  let (w, o) := peerOf pa
  let e := fun i : Int => s.window.word (486 + 9 * w + i)
  (trits (e 0) 9 0, e 1 + p3 27 * e 2 + o)

/-- A sector that a device returns: the first of two sendings that is accepted; else, and where its port is out of service,
it reads as poisoned (R268, R451, R474). DESIGN CHOICE, safe (log 10). DEDUCED, unsafe (log 38). -/
def State.peerSectorRead (s : State) (dev sector : Int) : List Int × Nat :=
  let sent := fun again => Config.peerSector s.tick dev sector again
  match if s.peerReady dev then [sent false, sent true].find? peerAccepts else none with
  | some b => (codeTrytes (sectorCodes b), if sectorPoison b then 1 else 0)
  | none => (List.replicate 81 0, 1)

/-- A tryte read below 0, and its poison mark: the control window in whole words, or a peer (R448, R452). -/
def State.belowTryte (s : State) (pa : Int) : Int × Nat :=
  if inWindow pa then
    let k := (pa % 3).toNat
    (trits (s.windowWord (windowIndex pa)) (9 * k + 8) (9 * k), 0)
  else
    let (dev, x) := s.peerTarget pa
    let r := s.peerSectorRead dev (x / 81)
    (r.1.getD (x % 81).toNat 0, r.2)

/-- The trytes read below 0 and the highest of their poison marks. -/
def State.readBelow (s : State) (pa : Int) (n : Nat) : List Int × Nat :=
  let l := (List.range n).map fun i : Nat => s.belowTryte (pa + (i : Int))
  (l.map Prod.fst, (l.map Prod.snd).foldl max 0)

/-- Loads the trytes of checked pieces, in order (R302). DESIGN CHOICE, unsafe (log 57). -/
def State.loadSegs (s : State) (core : Nat) (h : Hint) : List Seg → (List Int × Nat) × State
  | [] => (([], 0), s)
  | g :: rest =>
    let ((v1, p1), s) :=
      if g.pa < 0 then (s.readBelow g.pa g.n, s)
      else s.loadPieces core g.leaf (if leafCache g.leaf = .neg then .default else h)
        (sectorPieces (g.n / 81 + 1) g.pa.toNat g.n)
    let ((v2, p2), s) := s.loadSegs core h rest
    ((v1 ++ v2, if p1 ≠ 0 then p1 else p2), s)

/-! ### The locations a thread's own buffer holds (R287) -/

/-- The physical key of each tryte of checked pieces: home index (0 below 0) and address. -/
def State.keysOf (s : State) (l : List Seg) : List (Nat × Int) :=
  l.flatMap fun g => (List.range g.n).map fun i =>
    (if g.pa < 0 then 0 else s.homeOf (leafDom g.leaf) (g.pa.toNat + i), g.pa + i)

/-- The thread's latest buffered value of a tryte of memory. -/
def bufferedAt (buf : List BufTryte) (home : Nat) (pa : Int) : Option Int :=
  buf.foldl (fun r b =>
    match b with
    | .memory h p _ _ _ _ v => if h = home ∧ (p : Int) = pa then some v else r
    | .peer p v => if p = pa then some v else r
    | .window p v => if p = pa then some v else r
    | .scratch _ _ => r) none

def bufferedScratch (buf : List BufTryte) (off : Nat) : Option Int :=
  buf.foldl (fun r b =>
    match b with
    | .scratch o v => if o = off then some v else r
    | _ => r) none

/-- Values read, with the thread's own buffered trytes over them. -/
def overlay (buf : List BufTryte) (keys : List (Nat × Int)) (vals : List Int) : List Int :=
  List.zipWith (fun k v => (bufferedAt buf k.1 k.2).getD v) keys vals

end Sys2Proof.Machine
end

