-- ==== Sys2Proof/Machine/Ops.lean ====
section
/-!
DEFINITION. Taking a cause and returning from one, the wrapper of an instruction of one thread, and the
lookups and updates by name that every family uses.
-/

namespace Sys2Proof.Machine

/-! ### Taking a cause (R48) -/

/-- Delivers a cause: TRAPPC, TRAPINFO and TRAPADDR are written, INTRAP is set and control passes to
TRAPVEC. Inside a handler, or with no handler, the thread ends with failure instead (R48). -/
def Thread.deliver (t : Thread) (slot : Nat) (hdr : Int) (c : Cause) : Thread :=
  if t.status.intrap = true ∨ t.trapvec = 0 then { t with failed := some ⟨c, slot, hdr⟩ }
  else
    ({ t with
        trappc := hdr, trapinfo := trapInfo slot c, trapaddr := c.addr,
        status := { t.status with intrap := true },
        committed := false }).toBoundary t.trapvec .trapvec

/-- A precise cause of the instruction at the slot (R48). -/
def Thread.fault (t : Thread) (c : Cause) : Thread := t.deliver t.slot t.pc c

/-- Illegal instruction with a subcode: TRAPADDR is the address of the offending word (R70). DEDUCED, unsafe (log 50). -/
def Thread.illegalAt (t : Thread) (ok : RegUse → Bool) (sub : Int) : Cause :=
  ⟨1, sub, t.instrAddr + 3 * (((Raw.ofWords t.words).map fun r => r.badWord ok sub).getD 0 : Nat)⟩

def Thread.illegal (t : Thread) (sub : Int) : Cause := t.illegalAt t.owns sub

/-- The instruction of one thread: guarded off it only passes (R33), a named register outside its file
is illegal (R31, R53), and otherwise `f` gives the thread after it or the cause it raises. -/
def Thread.execute (uses : List RegUse) (gd : Guard) (f : Thread → Except Cause Thread) (t : Thread) : Thread :=
  if t.guardHolds gd = false ∨ t.nopOnce = true then t.advance
  else if (uses.all t.owns) = false then t.fault (t.illegal 3)
  else
    match f t with
    | .ok t' => t'
    | .error c => t.fault c

/-- What delivers to a thread its first pending cause at a slot, when one may be delivered (R409). -/
def Thread.takePending (t : Thread) (slot : Nat) : Thread :=
  match t.pend with
  | [] => t
  | p :: rest => ({ t with pend := rest }).deliver slot t.pc p.cause

/-- A cause joins the pending list; the tenth ends the thread with failure (R407). -/
def Thread.addPending (t : Thread) (p : Pending) : Thread :=
  if t.pend.length < 9 then { t with pend := t.pend ++ [p] }
  else { t with failed := some ⟨p.cause, 0, t.pc⟩ }

/-- The return of RETT once its target is checked (R413). -/
def Thread.rettTo (t : Thread) : Thread :=
  let u := t.toBoundary t.trappc .rett
  let slot := (infoSlot t.trapinfo).toNat
  let code := infoCause t.trapinfo
  { u with
    status := { t.status with intrap := false },
    slot := if 1 ≤ slot then slot else 1,
    nopOnce := decide (1 ≤ slot) && (code == 12 || code == 13),
    committed := false,
    quantum := if t.status.det then t.quantum + 1 else t.quantum }

/-! ### Lookups and updates -/

def State.thread? (s : State) (id : ThreadId) : Option Thread := s.threads.find? fun t => t.id == id

def State.mapThread (s : State) (id : ThreadId) (f : Thread → Thread) : State :=
  { s with threads := s.threads.map fun t => if t.id == id then f t else t }

def State.team? (s : State) (id : TeamId) : Option Team := s.teams.find? fun t => t.id == id

def State.mapTeam (s : State) (id : TeamId) (f : Team → Team) : State :=
  { s with teams := s.teams.map fun t => if t.id == id then f t else t }

def State.bolt? (s : State) (id : Nat) : Option Bolt := s.bolts.find? fun b => b.id == id

def State.mapBolt (s : State) (id : Nat) (f : Bolt → Bolt) : State :=
  { s with bolts := s.bolts.map fun b => if b.id == id then f b else b }

/-- The threads of the gang whose turn it is, in increasing LANEID. -/
def State.members (s : State) : List ThreadId := s.gangs.headD []

/-- The die of a core (R430). -/
def dieOfCore (core : Nat) : Nat := core / 18

/-- Whether nothing on the die of a core goes on, its clock being stopped or about to stop (R438). -/
def State.standsStill (s : State) (core : Nat) : Bool :=
  (s.dieAt (dieOfCore core)).relock || (s.dieAt (dieOfCore core)).request.isSome

/-- The core of a group of a team (R168). -/
def coreOfGroup (core grp : Nat) (pair : Bool) : Nat := if pair ∧ 9 ≤ grp then core + 1 else core

/-- The cores of a team. -/
def Team.cores (t : Team) : List Nat := if t.pair then [t.core, t.core + 1] else [t.core]

/-- Threads of a team. -/
def State.teamThreads (s : State) (id : TeamId) : List Thread := s.threads.filter fun t => t.team == id

def Thread.live (t : Thread) : Bool := t.run != .exited

/-- A thread that completes a blocking instruction: it goes on to the next slot, ready for the picker
without the header's flag waits (R213), or to its next clause. One that was spooled while it was blocked and still holds no
words fetches its clause anew and passes the instruction, which is over, at its saved slot (R424, R479). -/
def Thread.resume (t : Thread) (now : Nat) : Thread :=
  if t.clause.isEmpty then
    { t with run := .boundary .resume, nopOnce := true, resumed := false, committed := false, readySince := none }
  else
    let u := t.advance
    match u.run with
    | .boundary _ => u
    | _ => { u with run := .ready false, readySince := some now }

/-- The private window of a thread (R43, R263). -/
def State.privWin (s : State) (t : Thread) : Option PrivWin :=
  match s.bolt? t.id.bolt, s.team? t.team with
  | some b, some team =>
    if b.plan.pwords ≤ 0 then none
    else some { plow := b.plan.plow, pwords := b.plan.pwords, splimit := t.splimit,
                base := b.plan.area + 243 * b.plan.pwords * (team.slots.getD t.grp 0 : Nat), lane := t.lane }
  | _, _ => none

/-- The agent of a thread's accesses. -/
def State.agentOf (s : State) (t : Thread) : Agent :=
  { queue := ((s.bolt? t.id.bolt).map fun b => b.record.queue).getD 0,
    qroot := ((s.bolt? t.id.bolt).map Bolt.qroot).getD 0,
    system := t.status.system, win := s.privWin t, core := t.core, team := t.team }

/-- The agent of an engine, sweep or boarding of a bolt's team on a core (R251); it meets no lock. -/
def State.unitAgent (s : State) (bolt : Nat) (team : TeamId) : Agent :=
  { queue := ((s.bolt? bolt).map fun b => b.record.queue).getD 0,
    qroot := ((s.bolt? bolt).map Bolt.qroot).getD 0,
    system := false, win := none, core := Config.cores, team := team }

/-- Sectors of scratchpad of a team's bolt (R248). -/
def State.scratchSize (s : State) (bolt : Nat) : Int :=
  81 * ((s.bolt? bolt).map fun b => b.record.scratch).getD 0

/-- TILES and ACCS of a bolt (R193). -/
def State.tileCount (s : State) (bolt : Nat) : Nat := ((s.bolt? bolt).map fun b => b.record.tiles).getD 0
def State.accCount (s : State) (bolt : Nat) : Nat := ((s.bolt? bolt).map fun b => b.record.accs).getD 0

/-- Whether a register lies in its file, a tile or an accumulator within the team's counts (R53, R228). -/
def State.ownsOne (s : State) (t : Thread) (u : RegUse) : Bool :=
  match u.file with
  | .m => decide (u.idx < s.tileCount t.id.bolt)
  | .q => decide (u.idx < s.accCount t.id.bolt)
  | _ => t.owns u

def State.owns (s : State) (t : Thread) (uses : List RegUse) : Bool := uses.all (s.ownsOne t)

/-! ### Registers that the instruction at the slot reads or writes -/

/-- Registers that an instruction reads or writes beyond those that its fields name: the register that MOVX and MOVY
name by a value (R110), a1 of a call or return that spills or fills (R45), g1 and g2 of KWAIT, KYLD and KRET (R349), the
run of AROW (R244) and the condition destination that MODIF names (R212). -/
def Thread.hiddenUses (t : Thread) (i : Instr) : List RegUse :=
  match i with
  | .movx _ _ b => [gUse (t.readG b).toNat]
  | .movy _ d _ => [gUse (t.readG d).toNat]
  | .call .. | .callx .. => if t.rsdepth < 9 then [] else [aUse 1]
  | .ret .. => if t.rsdepth ≤ 9 then [] else [aUse 1]
  | .kwait .. | .kwaitR .. | .kyld .. | .kret .. => [gUse 1, gUse 2]
  | .arow _ _ d _ c _ | .arowClr _ _ d _ c _ =>
    (List.range (trits (t.readG c) 17 9).toNat).map fun k => gUse (d + k)
  | .perm _ _ _ _ _ cd | .shuf _ _ _ _ _ cd | .bcast _ _ _ _ cd | .vote _ _ _ _ cd | .ballot _ _ _ _ cd
  | .red _ _ _ _ _ _ cd | .scan _ _ _ _ _ _ cd | .zip _ _ _ _ _ cd _ | .unzip _ _ _ _ _ cd _ | .gbar _ _ cd => [cUse cd]
  | _ => []

/-- The registers among the destinations of an operation: tiles and accumulators are ordered by issue
and hold no later instruction (R232). -/
def interlocked (l : List RegUse) : List RegUse := l.filter fun u => u.file == .g || u.file == .a || u.file == .c

/-- The register that DRAIN names and does not read, with RFMT 0 in its control word (R243). -/
def Thread.idleUses (t : Thread) (i : Instr) : List RegUse :=
  match i with
  | .drain _ _ d _ c e | .drainF _ _ d _ c e => if trits (t.readG c) 14 13 = 0 ∧ e ≠ d then [aUse e] else []
  | _ => []

/-- Registers that the instruction at the slot reads or writes, its guard's among them (R68). -/
def Thread.slotUses (t : Thread) : List RegUse :=
  (match Raw.ofWords t.words with
    | none => []
    | some r => [cUse r.guard.reg]) ++
    match decode t.words with
    | .ok i => ((usesOf t.words).filter fun u => !((t.idleUses i).contains u)) ++ t.hiddenUses i
    | .error _ => usesOf t.words

/-- Whether the instruction at a thread's slot names a register that a pending cause left unwritten, whatever its guard
gives (R33, R68, R299). DEDUCED, unsafe (log 92). -/
def Thread.waitsForPoison (t : Thread) : Bool :=
  t.pend.any fun p => (interlocked p.dests).any fun u => t.slotUses.contains u

/-- Adds to STALE of a die (R323). -/
def State.addStale (s : State) (core : Nat) (n : Int) : State :=
  s.setDie (dieOfCore core) fun d => { d with stale := sat 54 (d.stale + n) }

/-! ### Generation tags (R323) -/

def allocKinds : List Alloc := [.regs, .scratch, .tiles]

/-- The tag that the next allocation of a kind on a core carries. -/
def State.tagOf (s : State) (core : Nat) (kind : Alloc) : Int :=
  ((s.tags.find? fun x => x.core == core && x.kind == kind).map TagCount.tag).getD 0

/-- The tags of a team admitted to a core; the next team's are others, since they advance as they are given
(`State.advanceTags`). -/
def State.freshTags (s : State) (core : Nat) : List Int := allocKinds.map (s.tagOf core)

/-- The tags of a core advance, as an allocation is made, freed, spooled or moved: no two allocations carry one tag.
DEDUCED, unsafe (log 74). -/
def State.advanceTags (s : State) (core : Nat) : State :=
  { s with tags := (s.tags.filter fun x => x.core != core) ++
      allocKinds.map fun k => ⟨core, k, wrap 18 (s.tagOf core k + 1)⟩ }

/-- The tag of one of a team's allocations. -/
def Team.tagOf (t : Team) (kind : Alloc) : Int :=
  t.tags.getD (match kind with | .regs => 0 | .scratch => 1 | .tiles => 2) 0

/-- Whether the allocation that a return was issued toward still stands. -/
def State.tagCurrent (s : State) (x : Return) : Bool :=
  s.teams.any fun t => t.core == x.core && t.tagOf x.kind == x.tag

/-- A write or raise returns: toward an allocation that is no more it performs nothing and is counted. -/
def State.dropReturn (s : State) (x : Return) : State :=
  { (if s.tagCurrent x then s else s.addStale x.core 1) with returns := s.returns.erase x }

end Sys2Proof.Machine
end

