-- ==== Sys2Proof/Machine/Sync.lean ====
section
/-!
DEFINITION. Sync words (R320 to R322): reading, arming and raising them, and what an advance of a
generation does for waiters, predecessor slots and the host.
-/

namespace Sys2Proof.Machine

/-- The three words of a sync word (R320): COUNT, TARGET, and GEN with ERR. -/
structure SyncWord where
  count : Int
  target : Int
  word2 : Int
  deriving DecidableEq, Repr

def SyncWord.gen (w : SyncWord) : Int := trits w.word2 26 9
def SyncWord.err (w : SyncWord) : Trit := tritAt w.word2 8
def SyncWord.setGen (w : SyncWord) (g : Int) : SyncWord := { w with word2 := g * p3 9 + trits w.word2 8 0 }
def SyncWord.setErr (w : SyncWord) (e : Trit) : SyncWord := { w with word2 := putTrit w.word2 8 e }

/-- Whether generation g is reached (R198, R321). -/
def genReached (gen g : Int) : Bool := decide (0 ≤ wrap 18 (gen - g))

/-- A raise by n: the count, and by how many generations it advances (R321). -/
def SyncWord.raise (w : SyncWord) (n : Int) : SyncWord × Nat :=
  let count := sat 27 (w.count + n)
  if 1 ≤ w.target ∧ w.target ≤ count then
    ({ w.setGen (wrap 18 (w.gen + count / w.target)) with count := count % w.target }, (count / w.target).toNat)
  else ({ w with count := count }, 0)

def State.memWordAt (s : State) (home : Nat) (pa : Nat) : Int :=
  wordOfTrytes ((List.range 3).map fun i => s.peek home (pa + i))

/-- The number that stands for no core: a write of a unit leaves every copy in an L1 as it is (R276). -/
def noCore : Nat := Config.cores

/-- Writes words of one sector at its home slice under the leaf of a page, as one step (R258, R262). The writing
thread's core keeps its own copy current: a thread sees its own writes (R282, R284). DEDUCED, unsafe (log 53). -/
def State.putWordsAt (s : State) (core home pa : Nat) (leaf : Word) (ws : List Int) : State :=
  let k := pa % 81
  let l := (ws.flatMap trytesOfWord).zipIdx.map fun p => (k + p.2, p.1)
  s.storeHome core leaf .default home (pa / 81) l

/-- A place without the page that named it: two pages may name one sync word (R257, R320). -/
def SyncLoc.bare (l : SyncLoc) : SyncLoc :=
  match l with
  | .scratch t o => .scratch t o
  | .memory h p _ => .memory h p 0
  | .cut h p _ n h2 p2 _ => .cut h p 0 n h2 p2 0

/-- Whether a place lies below physical address 0. -/
def SyncLoc.below (l : SyncLoc) : Bool :=
  match l with
  | .scratch _ _ => false
  | .memory _ p _ => decide (p < 0)
  | .cut _ p _ _ _ p2 _ => decide (p < 0) || decide (p2 < 0)

/-- Whether two places are one. -/
def SyncLoc.same (a b : SyncLoc) : Bool := a.bare == b.bare

/-- A place n trytes above another. -/
def SyncLoc.up (l : SyncLoc) (n : Nat) : SyncLoc :=
  match l with
  | .scratch t o => .scratch t (o + n)
  | .memory h p e => .memory h (p + n) e
  | .cut h p e m h2 p2 e2 => if n < m then .cut h (p + n) e (m - n) h2 p2 e2 else .memory h2 (p2 + (n - m : Nat)) e2

/-- The place of a word whose first n trytes lie at one place and the others from a second on: one run where they follow
on in memory. -/
def SyncLoc.join (n : Nat) (a b : SyncLoc) : SyncLoc :=
  match a, b with
  | .memory h p e, .memory h2 p2 e2 => if h2 = h ∧ p2 = p + (n : Int) then .memory h p e else .cut h p e n h2 p2 e2
  | _, _ => a

/-- The place of each tryte of checked pieces. -/
def State.placesOf (s : State) (l : List Seg) : List SyncLoc :=
  l.flatMap fun g => (s.keysOf [g]).map fun k => .memory k.1 k.2 g.leaf

/-- The place of a word of one or two pages from its checked pieces, of which the first gives the first trytes; none where
there is none. -/
def State.placeOfSegs (s : State) (l : List Seg) : Option SyncLoc :=
  match l with
  | [] => none
  | g :: rest =>
    (s.placesOf [g]).head?.map fun a =>
      match (s.placesOf rest).head? with
      | none => a
      | some b => SyncLoc.join g.n a b

/-- The place of a word from the places of its trytes. -/
def wordPlace (l : List SyncLoc) : Option SyncLoc :=
  l.head?.map fun a =>
    match l.zipIdx.find? fun x => !(x.1.same (a.up x.2)) with
    | none => a
    | some x => SyncLoc.join x.2 a x.1

/-- An access reaches the home slice of a place (R438). -/
def State.visitLoc (s : State) (l : SyncLoc) : State :=
  match l with
  | .scratch _ _ => s
  | .memory home pa _ => if pa < 0 then s else s.visit home
  | .cut home _ _ _ home2 _ _ => (s.visit home).visit home2

/-- The home slice of a place in memory. -/
def SyncLoc.home? (l : SyncLoc) : Option Nat :=
  match l with
  | .scratch _ _ => none
  | .memory home pa _ | .cut home pa _ _ _ _ _ => if pa < 0 then none else some home

/-- An access reaches the home slices of places (R438). -/
def State.visitAll (s : State) (l : List SyncLoc) : State := ((l.filterMap SyncLoc.home?).eraseDups).foldl State.visit s

/-- The tryte at a place: a team's scratchpad, memory at a home slice, or a peer (R452). -/
def State.tryteAt (s : State) (l : SyncLoc) : Int :=
  match l with
  | .scratch team o => ((s.team? team).map fun t => memGet t.scratch o.toNat).getD 0
  | .memory home pa _ | .cut home pa _ _ _ _ _ => if pa < 0 then (s.belowTryte pa).1 else s.peek home pa.toNat

def State.wordAt (s : State) (l : SyncLoc) : Int :=
  wordOfTrytes [s.tryteAt l, s.tryteAt (l.up 1), s.tryteAt (l.up 2)]

/-- Sends trytes to peers, (address, value) each: those of one sector of a device cross as one packed sector with their
mask; nothing goes out through a port that is out of service (R451, R452, R474). -/
def State.sendPeers (s : State) (l : List (Int × Int)) : State :=
  let cells := l.map fun c => (s.peerTarget c.1, c.2)
  let keys := ((cells.map fun c => (c.1.1, c.1.2 / 81)).eraseDups).filter fun k => s.peerReady k.1
  { s with peerWrites := s.peerWrites ++ keys.map fun k =>
      let mine := cells.filter fun c => c.1.1 == k.1 && c.1.2 / 81 == k.2
      let data := mine.foldl (fun d c => d.set (c.1.2 % 81).toNat c.2) (List.replicate 81 0)
      let mask := mine.foldl (fun m c => m.set (c.1.2 % 81).toNat true) (List.replicate 81 false)
      ⟨k.1, k.2, packSector data false, mask⟩ }

/-- Writes one tryte at a place: of the device, or of a peer (R452). -/
def State.putTryteAt (s : State) (core : Nat) (l : SyncLoc) (v : Int) : State :=
  match l with
  | .scratch team o => s.mapTeam team fun t =>
      { t with scratch := memSet t.scratch o.toNat v, scratchBad := t.scratchBad.filter (· != o.toNat) }
  | .memory home pa leaf | .cut home pa leaf _ _ _ _ =>
    if pa < 0 then s.sendPeers [(pa, v)] else s.storeHome core leaf .default home (pa.toNat / 81) [(pa.toNat % 81, v)]

def State.putTrytesAt (s : State) (core : Nat) (l : SyncLoc) (vs : List Int) : State :=
  vs.zipIdx.foldl (fun s p => s.putTryteAt core (l.up p.2) p.1) s

/-- Writes a word at a place, in one step where it lies in one sector. -/
def State.putWordAt (s : State) (core : Nat) (l : SyncLoc) (x : Int) : State :=
  match l with
  | .memory home pa leaf =>
    if pa < 0 then s.putTrytesAt core l (trytesOfWord x) else s.putWordsAt core home pa.toNat leaf [x]
  | .scratch .. | .cut .. => s.putTrytesAt core l (trytesOfWord x)

/-- The poison mark or soft error met at a tryte: 0, or the subcode of data poison (R268, R426, R451). -/
def State.markAt (s : State) (l : SyncLoc) : Nat :=
  match l with
  | .scratch team o => if ((s.team? team).map fun t => t.scratchBad.contains o.toNat).getD false then 2 else 0
  | .memory home pa _ | .cut home pa _ _ _ _ _ => if pa < 0 then (s.belowTryte pa).2 else s.poisonAt home (pa.toNat / 81)

def State.badAt (s : State) (l : SyncLoc) : Bool := s.markAt l != 0

/-- The highest of the marks of n trytes from a place. -/
def State.markOf (s : State) (l : SyncLoc) (n : Nat) : Nat :=
  ((List.range n).map fun i => s.markAt (l.up i)).foldl max 0

/-- The sync word at a place; none in the scratchpad of a team that is no more. -/
def State.syncAt (s : State) (loc : SyncLoc) : Option SyncWord :=
  match loc with
  | .scratch team off =>
    (s.team? team).map fun t =>
      ⟨memGetWord t.scratch off.toNat, memGetWord t.scratch (off.toNat + 3), memGetWord t.scratch (off.toNat + 6)⟩
  | .memory home pa _ =>
    some ⟨s.memWordAt home pa.toNat, s.memWordAt home (pa.toNat + 3), s.memWordAt home (pa.toNat + 6)⟩
  | .cut .. => some ⟨s.wordAt loc, s.wordAt (loc.up 3), s.wordAt (loc.up 6)⟩

def State.putSync (s : State) (core : Nat) (loc : SyncLoc) (w : SyncWord) : State :=
  match loc with
  | .scratch team off =>
    s.mapTeam team fun t =>
      let m := memSetWord (memSetWord t.scratch off.toNat w.count) (off.toNat + 3) w.target
      { t with scratch := memSetWord m (off.toNat + 6) w.word2 }
  | .memory home pa leaf => s.putWordsAt core home pa.toNat leaf [w.count, w.target, w.word2]
  | .cut .. => s.putTrytesAt core loc ([w.count, w.target, w.word2].flatMap trytesOfWord)

/-- A waiter that is reached returns from SWAIT: an acquire, and ERR to its condition register (R387). -/
def Thread.syncReturn (t : Thread) (now : Nat) (cd : Nat) (err : Trit) : Thread :=
  (t.writeC cd err).resume now

/-- Whether a team's threads are on a core and may go on. -/
def State.teamLive (s : State) (id : TeamId) : Bool :=
  match s.team? id with
  | some t => t.state == .resident
  | none => false

/-- Whether generation g is reached at GEN, or was at some advance of the last n (R321). -/
def genPassed (gen : Int) (n : Nat) (g : Int) : Bool :=
  genReached gen g || decide ((g - (gen - n)) % p3 18 ≤ n)

def Thread.waitsOn (t : Thread) (loc : SyncLoc) (gen : Int) (n : Nat) : Bool :=
  match t.run with
  | .waiting _ l g _ => l.same loc && genPassed gen n g
  | _ => false

/-- Releases the waiters of a sync word whose generation an advance by n has reached (R321). -/
def State.releaseWaiters (s : State) (loc : SyncLoc) (w : SyncWord) (n : Nat) : State :=
  let cores := (s.threads.filter fun t => s.teamLive t.team && t.waitsOn loc w.gen n).map Thread.core
  let ts := s.threads.map fun t =>
    if s.teamLive t.team && t.waitsOn loc w.gen n then
      match t.run with
      | .waiting cd _ _ _ => t.syncReturn s.tick cd w.err
      | _ => t
    else t
  cores.eraseDups.foldl State.acquire { s with threads := ts }

/-- Where a virtual address of a bolt's tables lies: a place below 0 holds no sync word that an advance meets.
DESIGN CHOICE, safe (log 83). -/
def State.locOf (s : State) (queue : Nat) (qroot v : Int) : Option SyncLoc :=
  match (pagePieces 4 v 9).mapM fun p => (s.leafFor queue qroot p.1).map fun m => (⟨p.1, p.2, leafAddr m.1 m.2 p.1, m.1⟩ : Seg) with
  | none => none
  | some segs => (s.placeOfSegs segs).filter fun l => !l.below

/-- Tests one predecessor slot against the sync word it names (R198). A met slot stays met. -/
def State.testPred (s : State) (only : Option SyncLoc) (n : Nat) (b : Bolt) (p : Pred) : Pred :=
  if p.met then p
  else
    match s.locOf b.record.queue b.qroot p.addr with
    | none => p
    | some loc =>
      if (match only with | none => true | some l => l.same loc) then
        match s.syncAt loc with
        | some w => { p with met := genPassed w.gen n p.gen }
        | none => p
      else p

/-- Tests the predecessor slots of queued records, at enqueue or at an advance of one word (R198). -/
def State.testPreds (s : State) (only : Option SyncLoc) (n : Nat) : State :=
  let bs := s.bolts.map fun b =>
    if !b.queued then b
    else { b with record := { b.record with preds := b.record.preds.map (s.testPred only n b) } }
  { s with bolts := bs }

/-- The MSI-X vectors whose HNOTE names a physical address (R445). -/
def State.hnotes (s : State) (pa : Int) : List Int :=
  ((List.range 27).map fun n : Nat => (n : Int)).filter fun n =>
    pa != 0 && s.window.word (1701 + 2 * n) + p3 27 * s.window.word (1702 + 2 * n) == pa

/-- What follows an advance of a sync word by n generations. -/
def State.advanced (s : State) (loc : SyncLoc) (w : SyncWord) (n : Nat) : State :=
  if n = 0 then s
  else
    let s := s.releaseWaiters loc w n
    match loc with
    | .scratch _ _ => s
    | .memory _ pa _ | .cut _ pa _ _ _ _ _ =>
      let s := s.testPreds (some loc) n
      { s with msix := s.msix ++ (List.replicate n (s.hnotes pa)).flatten }

/-- Applies a raise by n at the word (R321). -/
def State.applyRaise (s : State) (core : Nat) (loc : SyncLoc) (n : Int) : State :=
  match s.syncAt loc with
  | none => s
  | some w =>
    let (w', k) := w.raise n
    (s.putSync core loc w').advanced loc w' k

/-- Raises a sync word (R321, R322). A raise toward the scratchpad of a spooled team goes to its
forwarding entry (R425); one toward a team that is no more is dropped and counted on the die of `core` (R323).
`by_` is the core of the thread that raises, or none. -/
def State.raiseBy (s : State) (by_ : Nat) (loc : SyncLoc) (core : Nat) (n : Int) : State :=
  match loc with
  | .memory .. | .cut .. => s.applyRaise by_ loc n
  | .scratch team off =>
    match s.team? team with
    | none => s.addStale core 1
    | some t =>
      match t.state with
      | .spooled _ => { s with transit := s.transit ++ [(team, off, n)] }
      | _ => s.applyRaise by_ loc n

/-- A raise by a unit. DEDUCED, unsafe (log 49). -/
def State.raise (s : State) (loc : SyncLoc) (core : Nat) (n : Int) : State := s.raiseBy noCore loc core n

/-- Sets ERR of a sync word (R327). -/
def State.setErr (s : State) (loc : SyncLoc) : State :=
  match s.syncAt loc with
  | none => s
  | some w => s.putSync noCore loc (w.setErr .pos)

/-! ### Wakes (R353, R354) -/

/-- Whether a knot of this wait kind becomes READY at a wake: SLEEP, SYNC or COUNT (R353). -/
def canWake (k : Int) : Bool := trits k 1 0 == 1 || trits k 1 0 == 2 || trits k 1 0 == 3

/-- A wake takes effect: the knot becomes READY and its block's heddle trit + (R353). -/
def State.wake (s : State) (core : Nat) (w : Wake) : State :=
  let k := s.wordAt w.knot
  let s := s.visitLoc w.knot
  if canWake k then
    (s.putTrytesAt core w.knot (trytesOfWord (k - trits k 1 0))).putTryteAt core w.heddle
      (putTrit (s.tryteAt w.heddle) w.bit .pos)
  else s

/-- The cause that a wake defers: the knot's poison before the heddle tryte's (R308, R396, R426). -/
def State.wakeCause (s : State) (w : Wake) : Option Cause :=
  if s.markOf w.knot 3 ≠ 0 then some ⟨11, (s.markOf w.knot 3 : Nat), w.at_.1⟩
  else if s.markAt w.heddle ≠ 0 then some ⟨11, (s.markAt w.heddle : Nat), w.at_.2⟩
  else none

/-- How KWAKE ends for its thread: the condition register, or the deferred cause that leaves it unwritten. -/
def Thread.wakeEnd (t : Thread) (cd : Nat) (v : Trit) (c : Option Cause) : Thread :=
  match c with
  | none => t.writeC cd v
  | some c => t.addPending ⟨c, [cUse cd]⟩

/-- The wakes held for an element of a sweep. -/
def State.wakesFor (s : State) (team : TeamId) (issuer : ThreadId) (l : Int) : List Wake :=
  s.wakes.filter fun k => k.sweeper == team && k.issuer == issuer && k.elem == l

/-- A held wake takes effect and its thread goes on with + (R354, R396). DEDUCED, unsafe (log 48). -/
def State.answerWake (s : State) (w : Wake) : State :=
  let c := s.wakeCause w
  { s.wake (((s.thread? w.id).map Thread.core).getD noCore) w with
    wakes := s.wakes.filter (· != w) }.mapThread w.id fun t => (t.wakeEnd w.cd .pos c).resume s.tick

end Sys2Proof.Machine
end

