-- ==== Sys2Proof/Machine/Teams.lean ====
section
/-!
DEFINITION. The end of bolts and teams: the bolt header, team kill, relaunch and failure (R421, R427 to
R429), and the runners that apply an instruction to the gang whose turn it is.
-/

namespace Sys2Proof.Machine

/-! ### The bolt header (R421) -/

/-- Writes words of the bolt header, numbered from 0; none where the write takes a translation cause or
meets a poisoned sector. DESIGN CHOICE, unsafe (log 20). -/
def State.writeHeader (s : State) (b : Bolt) (ws : List (Nat × Int)) : Option State :=
  let a : Agent := { s.unitAgent b.id ⟨b.id, 0⟩ with system := true }
  match s.check a .store b.record.spoola 81 none true false with
  | .error _ => none
  | .ok [] => none
  | .ok (g :: _) =>
    if g.pa < 0 then none
    else
      let pa := g.pa.toNat
      let home := s.homeOf (leafDom g.leaf) pa
      if s.poisonAt home (pa / 81) ≠ 0 then none
      else
        let l := ws.flatMap fun w => (trytesOfWord w.2).zipIdx.map fun p => (3 * w.1 + p.2, p.1)
        some (s.storeHome noCore g.leaf .default home (pa / 81) l)

/-- The completion sync word of a bolt, where the memory plan has one (R189, R462). -/
def State.doneLoc (s : State) (b : Bolt) : Option SyncLoc :=
  b.plan.done.bind (s.locOf b.record.queue b.qroot)

/-- Raises the completion sync word by 1, n times. -/
def State.raiseDone (s : State) (b : Bolt) : Nat → State
  | 0 => s
  | n + 1 =>
    match s.doneLoc b with
    | none => s
    | some loc => (s.raise loc Config.cores 1).raiseDone b n

def State.errDone (s : State) (b : Bolt) : State :=
  match s.doneLoc b with
  | none => s
  | some loc => s.setErr loc

/-! ### Team kill (R427) -/

/-- The device at whose collective unit the participants of an identifier join, or -1 where it is local (R455). -/
def State.collHome (s : State) (cid : Int) : Int := s.window.word (972 + cid)

/-- Whether the participants of an identifier join at this device's collective unit (R455). -/
def State.collHere (s : State) (cid : Int) : Bool := s.collHome cid == -1 || s.collHome cid == s.window.devnum

/-- The participants of other devices that have joined with an identifier and a generation. -/
def State.remotesOf (s : State) (cid gen : Int) : List Member :=
  (s.remotes.filter fun x => x.cid == cid && x.gen == gen).map RemoteMember.m

/-- What leaves for other devices as an operation ends: from its collective unit to the participants there, what `give` gives
each of them; from elsewhere, that a participant ends it (R403, R455). -/
def State.collLeaves (s : State) (c : Collective) (err : Bool) (give : Member → List (List (BitVec 8))) :
    List CollectiveSend :=
  if s.collHome c.cid = -1 then []
  else if s.collHere c.cid then
    (s.remotesOf c.cid c.gen).map fun m => ⟨m.device.getD 0, c.cid, c.gen, m.rank, false, err, give m⟩
  else if err then c.members.map fun m => ⟨s.collHome c.cid, c.cid, c.gen, m.rank, true, true, []⟩
  else []

/-- An operation is over: its locks are released, and what it gives other devices leaves, where their ports serve
(R402, R455, R474). -/
def State.closeCollective (s : State) (c : Collective) (err : Bool) (give : Member → List (List (BitVec 8))) : State :=
  { s with
    collectives := s.collectives.filter fun x => x.cid != c.cid
    remotes := s.remotes.filter fun x => !(x.cid == c.cid && x.gen == c.gen)
    collSends := s.collSends ++ (s.collLeaves c err give).filter fun x => s.peerReady x.dev
    locks := s.locks.filter fun l =>
      match l.owner with
      | .collective cid _ => cid != c.cid
      | _ => true }

/-- A collective operation ends for every participant: each SYNC is raised by 1 with ERR + (R403).
DEDUCED, unsafe (log 46). -/
def State.abortCollective (s : State) (c : Collective) : State :=
  c.members.foldl (fun s m => (s.setErr (.scratch m.team m.sync)).raise (.scratch m.team m.sync) m.core 1)
    (s.closeCollective c true fun _ => [])

/-- Whether a kill marks the locks of an entry TORN: a paired write part way (R295). -/
def Flight.torn (f : Flight) : Bool := f.paired && f.started

/-- What remains of a lock whose entry does not complete: a destination of a paired write part way stays locked and
TORN, and a TORN mark stands (R295). -/
def Lock.abandoned (l : Lock) (torn : Bool) : Option Lock :=
  if l.kind = .torn then some l else if torn ∧ l.kind = .dest then some { l with kind := .torn } else none

/-- What becomes of a lock when its team is killed. -/
def releaseLock (chains : List Chain) (l : Lock) : Option Lock :=
  l.abandoned <| match l.owner with
    | .entry seq off iter =>
      chains.any fun c => c.seq == seq && c.flight.any fun f => f.off == off && f.iter == iter && f.torn
    | _ => false

/-- The writes and raises that a part of an entry still has to make to the team's own scratchpad. -/
def Flight.stray (f : Flight) (x : Return) : List Return :=
  let here := fun l : SyncLoc => match l with
    | .scratch _ _ => true
    | .memory .. | .cut .. => false
  let raises := (f.ref.map here).getD false
  (f.todo.flatMap fun p =>
    (if p.any fun c => here c.loc then [x] else []) ++ if raises = true ∧ f.raise = 0 then [x] else []) ++
    (if f.work.dst.space = -1 then (f.cmds.filter fun r => r.cid.isSome && !r.done).map fun _ => x else []) ++
    if raises = true ∧ f.raise = 1 then [x] else []

/-- The commands of an entry that a drive still has to complete. -/
def Flight.orphans (f : Flight) (team : TeamId) (seq : Int) : List Orphan :=
  f.cmds.filterMap fun r => if r.done then none else r.cid.map fun k => ⟨team, seq, f.off, r.drive, k⟩

/-- What a killed team had issued toward its allocations and has not returned: loads, parts of entries, the beats of the
layers that its boardings ride, and the record of each sweep (R245, R314, R323, R338, R375). DEDUCED, unsafe (log 74). -/
def State.strays (s : State) (t : Team) : List Return :=
  let toward := fun (core : Nat) (k : Alloc) => Return.mk core k (t.tagOf k) none
  ((s.teamThreads t.id).flatMap fun th => (th.ops.filter LongOp.load).map fun o =>
      toward t.core (if o.tileOp.isSome then .tiles else .regs)) ++
    (t.chains.flatMap fun c => c.flight.flatMap fun f => f.stray (toward t.core .scratch)) ++
    ((t.boardings.filter fun b => b.state == .riding).map fun b =>
      { toward b.core (match b.dest with | .scratch _ _ => .scratch | .tile _ => .tiles) with layer := some b.layer }) ++
    t.sweeps.map fun _ => toward t.core .scratch

/-- The allocations of a team are freed: their tags advance on its cores, and raises that its forwarding entry held are
dropped and counted (R323). -/
def State.freeAllocs (s : State) (t : Team) : State :=
  let held := s.transit.filter fun x => x.1 == t.id
  let s := t.cores.foldl State.advanceTags s
  ({ s with transit := s.transit.filter fun x => x.1 != t.id }).addStale t.core (held.length : Nat)

/-- Stops every thread of a team, abandons its work and frees its allocations (R427). DEDUCED, unsafe (log 49). -/
def State.killTeam (s : State) (id : TeamId) : State :=
  match s.team? id with
  | none => s
  | some t =>
    let late := s.strays t
    let s := s.freeAllocs t
    let locks := s.locks.filterMap fun l => if l.team == id then releaseLock t.chains l else some l
    let gone := (s.teamThreads id).map Thread.id
    let s : State := { s with
      threads := s.threads.filter fun th => th.team != id
      gangs := (s.gangs.map fun g : List ThreadId => g.filter fun i => !gone.contains i).filter fun g : List ThreadId => !g.isEmpty
      forced := (s.forced.map fun l : List ThreadId => l.filter fun i => !gone.contains i).filter fun l : List ThreadId => !l.isEmpty
      aside := s.aside.filter fun i => !gone.contains i
      teams := s.teams.filter fun x => x.id != id
      locks := locks
      tokens := s.tokens.filter fun x => !gone.contains x.2
      appends := s.appends.filter fun r => !gone.contains r.id
      engineCauses := s.engineCauses.filter fun x => x.1 != id
      forwards := s.forwards.filter fun f => f.team != id
      orphans := s.orphans ++ t.chains.flatMap fun c : Chain => c.flight.flatMap fun f => f.orphans id c.seq
      returns := s.returns ++ late }
    let s := (s.wakes.filter fun w => w.sweeper == id && !gone.contains w.id).foldl State.answerWake s
    let s := { s with wakes := s.wakes.filter fun w => !gone.contains w.id }
    (s.collectives.filter fun c : Collective => c.members.any fun m => m.team == id).foldl State.abortCollective s

/-- No team of a bolt holds a tryte any more. -/
def State.dropHolds (s : State) (bolt : Nat) : State :=
  { s with heldTrytes := s.heldTrytes.filter (fun x => x.2.2.bolt != bolt),
           heldBefore := s.heldBefore.filter fun x => x.2.2.bolt != bolt }

/-- Ends a bolt with an outcome: its teams are killed, the header is written, and the completion sync
word gets ERR and one raise for each team that had not ended (R209, R421). -/
def State.endBolt (s : State) (bid : Nat) (outcome : Int) (header : List (Nat × Int)) : State :=
  match s.bolt? bid with
  | none => s
  | some b =>
    if b.outcome ≠ 0 then s
    else
      let left := b.record.teams - b.ended
      let s := s.mapBolt bid fun b =>
        { b with outcome := outcome, queued := false, ended := b.record.teams, again := [] }
      let s := ((s.teams.filter fun t : Team => t.id.bolt == bid).map Team.id).foldl State.killTeam s
      let s := s.dropHolds bid
      match s.writeHeader b ((0, outcome) :: header) with
      | some s => (s.errDone b).raiseDone b left
      | none =>
        ((s.mapBolt bid fun b => { b with outcome := -1 }).errDone b).raiseDone b left

/-- FINFO to FADDR of the header (R421). -/
def failWords (info thread team pc addr : Int) : List (Nat × Int) :=
  [(1, info), (2, thread), (3, team), (4, loWord pc), (5, hiWord pc), (6, loWord addr), (7, hiWord addr)]

/-- A kill reason of R406 befalls a team (R427, R429). -/
def State.killFor (s : State) (id : TeamId) (sub : Int) : State :=
  match s.bolt? id.bolt with
  | none => s.killTeam id
  | some b =>
    let soft := decide (1 ≤ sub) && decide (sub ≤ 3) && b.record.idem
    let times := ((b.relaunched.find? fun p => p.1 == id.team).map Prod.snd).getD 0
    if soft ∧ times < 3 ∧ b.outcome = 0 then
      let s := s.killTeam id
      let counts := (id.team, times + 1) :: b.relaunched.filter fun p => p.1 != id.team
      let s := s.mapBolt id.bolt fun b => { b with again := b.again ++ [id.team], relaunched := counts }
      match s.writeHeader b [(9, ((counts.map Prod.snd).sum : Nat))] with
      | some s => s
      | none => s.endBolt id.bolt (-1) (failWords (trapInfo 0 ⟨22, 5, 0⟩) (-1) id.team 0 0)
    else
      s.endBolt id.bolt (-1) (failWords (trapInfo 0 ⟨22, if soft then 4 else sub, 0⟩) (-1) id.team 0 0)

/-- A thread ends with failure under R48: its bolt ends and the cause is recorded (R189, R421). -/
def State.failThread (s : State) (t : Thread) (f : Failure) : State :=
  s.endBolt t.id.bolt (-1) (failWords (trapInfo f.slot f.cause) t.id.tid t.team.team f.pc f.cause.addr)

/-- Ends the bolts of the threads whose last step ended them with failure. -/
def State.settle (s : State) : State :=
  (s.threads.filter fun t => t.failed.isSome).foldl
    (fun s t => match t.failed with | some f => s.failThread t f | none => s) s

/-! ### Runners -/

/-- Replaces the threads of the gang whose turn it is. -/
def State.mapGang (s : State) (f : Thread → Thread) : State :=
  { s with threads := s.threads.map fun t => if s.members.contains t.id then f t else t }

/-- Applies a step of each thread to the members of the gang whose turn it is. -/
def State.runThreads (s : State) (f : Thread → Thread) : State := (s.mapGang f).settle

/-- An instruction whose effect is confined to its own thread (R129). DESIGN CHOICE, unsafe (log 55). -/
def State.runLocal (s : State) (gd : Guard) (uses : List RegUse) (f : Thread → Except Cause Thread) :
    Host.Outcome State Fault Refusal :=
  .next (s.runThreads (Thread.execute uses gd f))

/-- Applies a step of each member of the gang to the machine, in increasing LANEID. -/
def State.runLanes (s : State) (f : Thread → State → State) : State :=
  (s.members.foldl (fun s id => match s.thread? id with | none => s | some t => f t s) s).settle

/-- One lane's part of an instruction that reaches beyond its thread: the guard and the registers first,
then `f`, whose cause leaves the machine as it was (R33, R49). -/
def State.lane (uses : List RegUse) (gd : Guard) (f : Thread → State → Except Cause State) (t : Thread)
    (s : State) : State :=
  if t.guardHolds gd = false ∨ t.nopOnce = true then s.mapThread t.id Thread.advance
  else if s.owns t uses = false then s.mapThread t.id fun u => u.fault (t.illegalAt (s.ownsOne t) 3)
  else
    match f t s with
    | .ok s' => s'
    | .error c => s.mapThread t.id fun t => t.fault c

/-- An instruction of each lane of the gang. DESIGN CHOICE, unsafe (log 55). -/
def State.lanes (s : State) (gd : Guard) (uses : List RegUse) (f : Thread → State → Except Cause State) :
    Host.Outcome State Fault Refusal :=
  .next (s.runLanes (State.lane uses gd f))

/-- The groups of a list of threads, each with its threads in order (R186). -/
def groupsOf (ts : List Thread) : List (List Thread) :=
  ((ts.map fun t => (t.team, t.grp)).eraseDups).map fun k => ts.filter fun t => (t.team, t.grp) == k

/-- An instruction that acts for the group (R186, R187): for each group of the gang, `f` gets the
executing thread of lowest LANEID and all executing threads; a cause is raised by every one.
DESIGN CHOICE, unsafe (log 55). -/
def State.forGroups (s : State) (gd : Guard) (uses : List RegUse)
    (f : Thread → List Thread → State → Except Cause State) : Host.Outcome State Fault Refusal :=
  let ts := s.members.filterMap s.thread?
  let off := ts.filter fun t => t.guardHolds gd = false || t.nopOnce
  let on := ts.filter fun t => !(t.guardHolds gd = false || t.nopOnce)
  let s := off.foldl (fun s t => s.mapThread t.id Thread.advance) s
  .next ((groupsOf on).foldl (fun s ts =>
    match ts with
    | [] => s
    | t :: _ =>
      let r := if s.owns t uses then f t ts s else .error (t.illegalAt (s.ownsOne t) 3)
      match r with
      | .ok s' => s'
      | .error c => ts.foldl (fun s t => s.mapThread t.id fun t => t.fault c) s) s).settle

/-- Advances threads whose instruction is done. -/
def State.advanceAll (s : State) (ts : List Thread) : State :=
  ts.foldl (fun s t => s.mapThread t.id Thread.advance) s

end Sys2Proof.Machine
end

