-- ==== Sys2Proof/Machine/Integer.lean ====
section
/-!
DEFINITION. Integer arithmetic, the instructions of opcode group 0 (R93 to R100).
-/

namespace Sys2Proof.Machine

/-- The thread writes gd and goes on. -/
def Thread.put (t : Thread) (d : Nat) (v : Int) : Except Cause Thread := .ok (t.writeG d v).advance

/-- divq(a, b): the integer nearest to a/b, a tie going toward zero (R21, R26). -/
def divq (a b : Int) : Int :=
  sgn a * sgn b * ((2 * (a.natAbs : Int) + b.natAbs - 1) / (2 * (b.natAbs : Int)))

/-- divm(a, b) (R21). -/
def divm (a b : Int) : Int := a - b * divq a b

/-- CLAMP: x bounded to the symmetric range of |y| (R94). -/
def clampTo (x y : Int) : Int := max (-(y.natAbs : Int)) (min x y.natAbs)

/-- The largest i below n with trit i of x non-zero, or -1 (R97). -/
def leadTrit : Nat → Int → Int
  | 0, _ => -1
  | n + 1, x => if trits x n n ≠ 0 then n else leadTrit n x

/-- The number of non-zero trits of x below n (R97). -/
def countTrits (n : Nat) (x : Int) : Int := ((tritList n x).countP fun t => t != 0 : Nat)

/-- SHT by n (R99): left shifts wrap, right shifts round. Shifts by w or more give 0. -/
def shiftElem (w : Nat) (x n : Int) : Int :=
  if 0 ≤ n then wrap w (x * p3 (min n.toNat w)) else trunc (min (-n).toNat w) x

/-- TRN by n (R99): narrowing rounds, scaling up saturates. -/
def truncElem (w : Nat) (x n : Int) : Int :=
  if 0 ≤ n then trunc (min n.toNat w) x else sat w (x * p3 (min (-n).toNat w))

/-- ROT by n (R99): trit i of the result is trit (i - n) mod w. -/
def rotElem (w : Nat) (x n : Int) : Int :=
  let j := (n % (w : Int)).toNat
  ofTrits ((List.range w).map fun i => trits x ((i + w - j) % w) ((i + w - j) % w))

/-- A binary instruction on the elements of gb and gc (R94). -/
def binaryElems (gd : Guard) (sh : Shape) (d b c : Nat) (f : Int → Int → Int) (s : State) :
    Host.Outcome State Fault Refusal :=
  s.runLocal gd [gUse d, gUse b, gUse c] fun t => t.put d (mapElems2 sh f (t.readG b) (t.readG c))

/-- A unary instruction on the elements of gb (R97). -/
def unaryElems (gd : Guard) (sh : Shape) (d b : Nat) (f : Int → Int) (s : State) :
    Host.Outcome State Fault Refusal :=
  s.runLocal gd [gUse d, gUse b] fun t => t.put d (mapElems sh f (t.readG b))

def execNop (gd : Guard) (s : State) : Host.Outcome State Fault Refusal :=
  s.runLocal gd [] fun t => .ok t.advance

def execAdd (gd : Guard) (sh : Shape) (d b c : Nat) (s : State) : Host.Outcome State Fault Refusal :=
  binaryElems gd sh d b c (fun x y => wrap (elemWidth sh) (x + y)) s

def execAdds (gd : Guard) (sh : Shape) (d b c : Nat) (s : State) : Host.Outcome State Fault Refusal :=
  binaryElems gd sh d b c (fun x y => sat (elemWidth sh) (x + y)) s

/-- A literal outside the width of the shape is illegal (R95). -/
def execAddi (gd : Guard) (sh : Shape) (d b : Nat) (lit : Int) (s : State) : Host.Outcome State Fault Refusal :=
  s.runLocal gd [gUse d, gUse b] fun t =>
    if fits (elemWidth sh) lit then t.put d (mapElems sh (fun x => wrap (elemWidth sh) (x + lit)) (t.readG b))
    else .error (t.illegal 5)

def execSub (gd : Guard) (sh : Shape) (d b c : Nat) (s : State) : Host.Outcome State Fault Refusal :=
  binaryElems gd sh d b c (fun x y => wrap (elemWidth sh) (x - y)) s

def execSubs (gd : Guard) (sh : Shape) (d b c : Nat) (s : State) : Host.Outcome State Fault Refusal :=
  binaryElems gd sh d b c (fun x y => sat (elemWidth sh) (x - y)) s

def execNeg (gd : Guard) (sh : Shape) (d b : Nat) (s : State) : Host.Outcome State Fault Refusal :=
  unaryElems gd sh d b (fun x => -x) s

def execAbs (gd : Guard) (sh : Shape) (d b : Nat) (s : State) : Host.Outcome State Fault Refusal :=
  unaryElems gd sh d b (fun x => x.natAbs) s

def execMul (gd : Guard) (sh : Shape) (d b c : Nat) (s : State) : Host.Outcome State Fault Refusal :=
  binaryElems gd sh d b c (fun x y => wrap (elemWidth sh) (x * y)) s

def execMulh (gd : Guard) (sh : Shape) (d b c : Nat) (s : State) : Host.Outcome State Fault Refusal :=
  binaryElems gd sh d b c (fun x y => trunc (elemWidth sh) (x * y)) s

/-- Division by any zero divisor raises divide by zero and writes nothing (R96). -/
def divideElems (gd : Guard) (sh : Shape) (d b c : Nat) (sub : Int) (f : Int → Int → Int) (s : State) :
    Host.Outcome State Fault Refusal :=
  s.runLocal gd [gUse d, gUse b, gUse c] fun t =>
    if (elems sh (t.readG c)).any (· == 0) then .error ⟨10, sub, 0⟩
    else t.put d (mapElems2 sh f (t.readG b) (t.readG c))

def execDiv (gd : Guard) (sh : Shape) (d b c : Nat) (s : State) : Host.Outcome State Fault Refusal :=
  divideElems gd sh d b c 1 divq s

def execMod (gd : Guard) (sh : Shape) (d b c : Nat) (s : State) : Host.Outcome State Fault Refusal :=
  divideElems gd sh d b c 2 divm s

def execMin (gd : Guard) (sh : Shape) (d b c : Nat) (s : State) : Host.Outcome State Fault Refusal :=
  binaryElems gd sh d b c min s

def execMax (gd : Guard) (sh : Shape) (d b c : Nat) (s : State) : Host.Outcome State Fault Refusal :=
  binaryElems gd sh d b c max s

def execClamp (gd : Guard) (sh : Shape) (d b c : Nat) (s : State) : Host.Outcome State Fault Refusal :=
  binaryElems gd sh d b c clampTo s

/-- A shift by the literal, one amount for every element (R99). -/
def shiftLit (gd : Guard) (sh : Shape) (d b : Nat) (lit : Int) (f : Nat → Int → Int → Int) (s : State) :
    Host.Outcome State Fault Refusal :=
  s.runLocal gd [gUse d, gUse b] fun t => t.put d (mapElems sh (fun x => f (elemWidth sh) x lit) (t.readG b))

/-- A shift by the elements of ge (R99). -/
def shiftReg (gd : Guard) (sh : Shape) (d b e : Nat) (f : Nat → Int → Int → Int) (s : State) :
    Host.Outcome State Fault Refusal :=
  s.runLocal gd [gUse d, gUse b, gUse e] fun t =>
    t.put d (mapElems2 sh (fun x n => f (elemWidth sh) x n) (t.readG b) (t.readG e))

def execSht (gd : Guard) (sh : Shape) (d b : Nat) (lit : Int) (s : State) : Host.Outcome State Fault Refusal :=
  shiftLit gd sh d b lit shiftElem s

def execShtReg (gd : Guard) (sh : Shape) (d b e : Nat) (s : State) : Host.Outcome State Fault Refusal :=
  shiftReg gd sh d b e shiftElem s

def execRot (gd : Guard) (sh : Shape) (d b : Nat) (lit : Int) (s : State) : Host.Outcome State Fault Refusal :=
  shiftLit gd sh d b lit rotElem s

def execRotReg (gd : Guard) (sh : Shape) (d b e : Nat) (s : State) : Host.Outcome State Fault Refusal :=
  shiftReg gd sh d b e rotElem s

def execTrn (gd : Guard) (sh : Shape) (d b : Nat) (lit : Int) (s : State) : Host.Outcome State Fault Refusal :=
  shiftLit gd sh d b lit truncElem s

def execTrnReg (gd : Guard) (sh : Shape) (d b e : Nat) (s : State) : Host.Outcome State Fault Refusal :=
  shiftReg gd sh d b e truncElem s

/-- NRW9 keeps the low tryte (R100). -/
def execNrw9 (gd : Guard) (d b : Nat) (s : State) : Host.Outcome State Fault Refusal :=
  s.runLocal gd [gUse d, gUse b] fun t => t.put d (wrap 9 (t.readG b))

/-- SAT9 clamps to a tryte (R100). -/
def execSat9 (gd : Guard) (d b : Nat) (s : State) : Host.Outcome State Fault Refusal :=
  s.runLocal gd [gUse d, gUse b] fun t => t.put d (sat 9 (t.readG b))

def execSgn (gd : Guard) (sh : Shape) (d b : Nat) (s : State) : Host.Outcome State Fault Refusal :=
  unaryElems gd sh d b sgn s

def execLead (gd : Guard) (sh : Shape) (d b : Nat) (s : State) : Host.Outcome State Fault Refusal :=
  unaryElems gd sh d b (leadTrit (elemWidth sh)) s

def execCnt (gd : Guard) (sh : Shape) (d b : Nat) (s : State) : Host.Outcome State Fault Refusal :=
  unaryElems gd sh d b (countTrits (elemWidth sh)) s

end Sys2Proof.Machine
end

