-- ==== Sys2Proof/Machine/RealFmt.lean ====
section
/-!
DEFINITION. The real formats TF27 and TF9, exact ternary fractions, the rounding of R135 and R136, the
special functions of R158, block scales and twin-power weights (R130 to R141, R163).
-/

namespace Sys2Proof.Machine

/-- A real format: fraction trits, exponent trits and the largest exponent (R130, R134). -/
structure RFmt where
  frac : Nat
  exp : Nat
  lim : Int
  deriving DecidableEq, Repr

def tf27 : RFmt := ⟨21, 6, 364⟩
def tf9 : RFmt := ⟨6, 3, 13⟩

/-- An exact finite value n·3^k. -/
structure TFrac where
  n : Int
  k : Int
  deriving DecidableEq, Repr

/-- An operand by its class (R131); a NaN carries its word. -/
inductive RVal where
  | nan (word : Int)
  | inf (neg : Bool)
  | fin (v : TFrac)
  deriving DecidableEq, Repr

/-! ### Exact fractions -/

/-- 3^j for an exponent known to be at least 0. -/
def p3z (j : Int) : Int := p3 j.toNat

def TFrac.mul (a b : TFrac) : TFrac := ⟨a.n * b.n, a.k + b.k⟩
def TFrac.neg (a : TFrac) : TFrac := ⟨-a.n, a.k⟩
def TFrac.add (a b : TFrac) : TFrac :=
  if a.n = 0 then b else if b.n = 0 then a
  else
    let k := min a.k b.k
    ⟨a.n * p3z (a.k - k) + b.n * p3z (b.k - k), k⟩
def TFrac.scale (a : TFrac) (j : Int) : TFrac := ⟨a.n, a.k + j⟩
def TFrac.sum (l : List TFrac) : TFrac := l.foldl TFrac.add ⟨0, 0⟩
/-- sgn(a - b). -/
def TFrac.cmp (a b : TFrac) : Int := sgn (a.add b.neg).n

/-- The number of trits of n: the least L with an L-trit string for n. -/
def tritLenFrom : Nat → Int → Nat
  | 0, _ => 0
  | f + 1, n => if n = 0 then 0 else 1 + tritLenFrom f (trunc 1 n)

def tritLen (n : Int) : Nat := tritLenFrom (Nat.log2 n.natAbs + 2) n

/-- The integer nearest to a fraction. -/
def TFrac.nearest (a : TFrac) : Int :=
  if 0 ≤ a.k then a.n * p3z a.k else if (tritLen a.n : Int) < -a.k then 0 else trunc (-a.k).toNat a.n

/-- Whether a fraction is the integer y. -/
def TFrac.isInt (a : TFrac) (y : Int) : Bool := a.cmp ⟨y, 0⟩ == 0

/-! ### Words of a format -/

def RFmt.word (f : RFmt) (e F : Int) : Int := e * p3 f.frac + F
/-- The largest fraction and the smallest with a leading trit. -/
def RFmt.maxF (f : RFmt) : Int := maxTrits f.frac
def RFmt.minF (f : RFmt) : Int := (p3 (f.frac - 1) + 1) / 2
def RFmt.zero (f : RFmt) : Int := f.word (-f.lim) 0
def RFmt.inf (f : RFmt) (neg : Bool) : Int := f.word f.lim (if neg then -(p3 (f.frac - 1)) else p3 (f.frac - 1))
/-- The default NaN (R133). -/
def RFmt.nan (f : RFmt) : Int := f.word f.lim (p3 (f.frac - 2))
def RFmt.expOf (f : RFmt) (w : Int) : Int := trits w (f.frac + f.exp - 1) f.frac
def RFmt.fracOf (f : RFmt) (w : Int) : Int := trits w (f.frac - 1) 0

/-- Reads an operand: an unnormal word has its value (R131, R132). -/
def RFmt.read (f : RFmt) (w : Int) : RVal :=
  let e := f.expOf w
  let F := f.fracOf w
  if e = f.lim then
    (if F = p3 (f.frac - 1) then .inf false else if F = -(p3 (f.frac - 1)) then .inf true else .nan w)
  else .fin ⟨F, e - f.frac⟩

/-- Whether a word is unnormal (R131). -/
def RFmt.unnormal (f : RFmt) (w : Int) : Bool :=
  f.expOf w != f.lim && f.expOf w != -f.lim && trits w (f.frac - 1) (f.frac - 1) == 0

/-! ### Rounding (R135, R136) -/

/-- What rounding finds: the word, and whether the result overflows, is tiny, and is inexact. -/
structure Rounded where
  word : Int
  ovf : Bool
  tiny : Bool
  inexact : Bool
  deriving DecidableEq, Repr

/-- Whether |n|·3^k is below the smallest normal, e0 being its exponent in normal form. -/
def RFmt.tiny (f : RFmt) (n k e0 : Int) : Bool :=
  if e0 < -f.lim then true
  else if -f.lim < e0 then false
  else
    let s := -f.lim - f.frac - k
    if 0 ≤ s then decide ((n.natAbs : Int) < f.minF * p3z s) else decide ((n.natAbs : Int) * p3z (-s) < f.minF)

/-- The nearest grid value to n·3^k, at the exponent of its normal form or one below (R136). -/
def RFmt.round (f : RFmt) (x : TFrac) : Rounded :=
  if x.n = 0 then ⟨f.zero, false, false, false⟩
  else
    let e0 := x.k + tritLen x.n
    let e := max e0 (-f.lim)
    let s := e - f.frac - x.k
    let F := if s ≤ 0 then x.n * p3z (-s) else if (tritLen x.n : Int) < s then 0 else trunc s.toNat x.n
    let inexact := decide (0 < s) && (decide ((tritLen x.n : Int) < s) || F * p3z s != x.n)
    let below := decide (0 < s) && decide (-f.lim < e) && (F.natAbs : Int) == f.minF &&
      decide (6 * (x.n.natAbs : Int) < p3z (f.frac + s) + p3z s)
    let e1 := if below then e - 1 else e
    let F1 := if below then sgn x.n * f.maxF else F
    let tiny := f.tiny x.n x.k e0
    if F1 = 0 then ⟨f.zero, false, tiny, inexact⟩
    else if f.lim - 1 < e1 then ⟨f.inf (decide (x.n < 0)), true, tiny, true⟩
    else ⟨f.word e1 F1, false, tiny, inexact⟩

/-- The flags of a rounding (R135). -/
def Rounded.flags (r : Rounded) : RealFlags := ⟨false, r.ovf, r.tiny && r.inexact, r.inexact⟩

/-- A result word with the flags it raises. -/
abbrev RRes := Int × RealFlags

def quiet (w : Int) : RRes := (w, RealFlags.clear)
def invalid (w : Int) : RRes := (w, { RealFlags.clear with inv := true })
def RFmt.rounded (f : RFmt) (x : TFrac) : RRes := ((f.round x).word, (f.round x).flags)
/-- norm of a finite value of the format: exact (R151). -/
def RFmt.norm (f : RFmt) (x : TFrac) : RRes := quiet (f.round x).word

/-! ### Addition and multiplication (R154) -/

/-- The operand with its sign inverted. -/
def RVal.neg : RVal → RVal
  | .nan w => .nan w
  | .inf b => .inf (!b)
  | .fin v => .fin v.neg

def RVal.isZero : RVal → Bool
  | .fin v => v.n == 0
  | _ => false
def RVal.isInf : RVal → Bool
  | .inf _ => true
  | _ => false
def RVal.isNan : RVal → Bool
  | .nan _ => true
  | _ => false
/-- Sign of an infinity or a finite value. -/
def RVal.negative : RVal → Bool
  | .inf b => b
  | .fin v => decide (v.n < 0)
  | .nan _ => false

/-- x·y where neither is a NaN and the product is not 0 × ∞. -/
def RVal.times (x y : RVal) : RVal :=
  match x, y with
  | .fin a, .fin b => .fin (a.mul b)
  | .nan w, _ => .nan w
  | _, .nan w => .nan w
  | a, b => .inf (a.negative != b.negative)

def zeroTimesInf (x y : RVal) : Bool := (x.isZero && y.isInf) || (x.isInf && y.isZero)

/-- The first NaN of a list of operands (R153). -/
def firstNan : List RVal → Option Int
  | [] => none
  | .nan w :: _ => some w
  | _ :: rest => firstNan rest

/-- p + u after the invalid and NaN rows (R154). -/
def RFmt.sumOf (f : RFmt) (p u : RVal) (ops : List RVal) : RRes :=
  if p.isInf ∧ u.isInf ∧ p.negative ≠ u.negative then invalid f.nan
  else
    match firstNan ops with
    | some w => quiet w
    | none =>
      match p, u with
      | .inf b, _ => quiet (f.inf b)
      | _, .inf b => quiet (f.inf b)
      | .fin a, .fin b => f.rounded (a.add b)
      | _, _ => quiet f.nan

def RFmt.addOf (f : RFmt) (x y : Int) : RRes :=
  f.sumOf (f.read x) (f.read y) [f.read x, f.read y]

def RFmt.subOf (f : RFmt) (x y : Int) : RRes :=
  f.sumOf (f.read x) ((f.read y).neg) [f.read x, f.read y]

def RFmt.mulOf (f : RFmt) (x y : Int) : RRes :=
  if zeroTimesInf (f.read x) (f.read y) then invalid f.nan
  else f.sumOf ((f.read x).times (f.read y)) (.fin ⟨0, 0⟩) [f.read x, f.read y]

def RFmt.fmaOf (f : RFmt) (x y u : Int) : RRes :=
  if zeroTimesInf (f.read x) (f.read y) then invalid f.nan
  else f.sumOf ((f.read x).times (f.read y)) (f.read u) [f.read x, f.read y, f.read u]

/-! ### Order, sign and class (R155 to R157, R160) -/

/-- sgn(x - y) of operands that are no NaN, -inf < finite < +inf. -/
def RVal.cmp (x y : RVal) : Int :=
  match x, y with
  | .inf a, .inf b => if a = b then 0 else if a then -1 else 1
  | .inf a, _ => if a then -1 else 1
  | _, .inf b => if b then 1 else -1
  | .fin a, .fin b => a.cmp b
  | _, _ => 0

/-- The word of an operand that is no NaN, in canonical form. -/
def RFmt.canon (f : RFmt) (x : RVal) : RRes :=
  match x with
  | .nan w => quiet w
  | .inf b => quiet (f.inf b)
  | .fin v => f.norm v

def RFmt.minOf (f : RFmt) (x y : Int) : RRes :=
  match firstNan [f.read x, f.read y] with
  | some w => quiet w
  | none => f.canon (if (f.read x).cmp (f.read y) ≤ 0 then f.read x else f.read y)

def RFmt.maxOf (f : RFmt) (x y : Int) : RRes :=
  match firstNan [f.read x, f.read y] with
  | some w => quiet w
  | none => f.canon (if (f.read x).cmp (f.read y) ≤ 0 then f.read y else f.read x)

def RFmt.negOf (f : RFmt) (x : Int) : RRes := f.canon ((f.read x).neg)
def RFmt.absOf (f : RFmt) (x : Int) : RRes :=
  f.canon (if (f.read x).negative then (f.read x).neg else f.read x)
def RFmt.nabsOf (f : RFmt) (x : Int) : RRes :=
  f.canon (if (f.read x).negative then f.read x else (f.read x).neg)

/-- The class code of a word (R160). -/
def RFmt.classOf (f : RFmt) (w : Int) : Int :=
  match f.read w with
  | .nan x => if x = f.nan then 1 else -1
  | .inf b => if b then -4 else 4
  | .fin v =>
    let c := if v.n = 0 then 0
      else sgn v.n * (if f.tiny v.n v.k (v.k + tritLen v.n) then 2 else 3)
    if f.unnormal w then c + 9 else c

/-! ### Special functions (R152, R158) -/

/-- The largest r below 2^b with r·r ≤ n, from the bits of r above b already found. -/
def sqrtFrom (n : Nat) : Nat → Nat → Nat
  | 0, r => r
  | b + 1, r => sqrtFrom n b (if (r + 2 ^ b) * (r + 2 ^ b) ≤ n then r + 2 ^ b else r)

def isqrt (n : Nat) : Nat := sqrtFrom n (Nat.log2 n / 2 + 1) 0

/-- 1/x of a finite non-zero x, to 100 places: past every midpoint of either grid. -/
def recipOf (x : TFrac) : TFrac := ⟨divq (p3 100) x.n, -100 - x.k⟩

/-- 1/√x of a finite positive x, to 140 places: past every midpoint of either grid. -/
def rsqrtOf (x : TFrac) : TFrac :=
  let n := if x.k % 2 = 0 then x.n else 3 * x.n
  let k := if x.k % 2 = 0 then x.k else x.k - 1
  ⟨isqrt ((p3 280).toNat / n.toNat), -140 - k / 2⟩

/-- Places of the fixed-point values below, and the scale they carry. -/
def places : Nat := 150
def unit : Int := p3 places

/-- 2·atanh of a/b by its series, in units of 3^-places; each term is within 2 of its value. -/
def atanh2From (zz : Int) : Nat → Int → Int → Int
  | 0, _, _ => 0
  | m + 1, pow, i => divq (2 * pow) i + atanh2From zz m (divq (pow * zz) unit) (i + 2)

def atanh2 (a b : Int) : Int :=
  let z := divq (a * unit) b
  atanh2From (divq (z * z) unit) 130 z 1

/-- ln 3 = 2·atanh(1/2). -/
def ln3 : Int := atanh2 1 2

/-- e^y by its series, in units of 3^-places. -/
def expFrom (y : Int) : Nat → Int → Int → Int
  | 0, _, _ => 0
  | m + 1, term, i => term + expFrom y m (divq (term * y) (unit * i)) (i + 1)

/-- Slack of the series in units of 3^-places: more than the sum of their rounding errors. -/
def slack : Int := p3 12

/-- Twice the value at which the rounding of neighbours parts: half way between two grid values, the one above the
largest finite one standing for an infinity (R135), or the smallest normal, below which a value is tiny. -/
def RFmt.parting (f : RFmt) (a b : Rounded) : TFrac :=
  let value := fun w : Int => match f.read w with
    | .fin v => v
    | .inf neg => TFrac.mk (if neg then -f.minF else f.minF) (f.lim - f.frac)
    | .nan _ => TFrac.mk 0 0
  if a.word = b.word then ⟨2 * (if (value a.word).n < 0 then -f.minF else f.minF), -f.lim - f.frac⟩
  else (value a.word).add (value b.word)

/-- A result known to be irrational and to lie between two fractions: the rounding both agree on; where they do not
agree, an exact comparison decides, `below c` telling whether the result lies below c/2 (R152). -/
def RFmt.between (f : RFmt) (lo hi : TFrac) (below : TFrac → Bool) : RRes :=
  let a := f.round lo
  let b := f.round hi
  let r := if a.word = b.word ∧ a.tiny = b.tiny then a else if below (f.parting a b) then a else b
  (r.word, ⟨false, r.ovf, r.tiny, true⟩)

/-- Whether 3^x lies below c/2, for a finite x with a negative exponent: both are raised to the power that makes x whole,
and compared as integers. -/
def powBelow (x c : TFrac) : Bool :=
  let d : Nat := 3 ^ (-x.k).toNat
  let e := x.n - c.k * (d : Int)
  decide (0 < c.n) &&
    if 0 ≤ e then decide (2 ^ d * p3z e < c.n ^ d) else decide ((2 : Int) ^ d < c.n ^ d * p3z (-e))

/-- Whether the base-3 logarithm of a finite positive x lies below c/2. -/
def logBelow (x c : TFrac) : Bool :=
  let d : Nat := 2 * 3 ^ (-c.k).toNat
  let e := c.n * p3z c.k - x.k * (d : Int)
  decide (0 ≤ e) && decide (x.n ^ d < p3z e)

def RFmt.rcpOf (f : RFmt) (w : Int) : RRes :=
  match f.read w with
  | .nan x => quiet x
  | .inf _ => quiet f.zero
  | .fin v => if v.n = 0 then invalid f.nan else f.rounded (recipOf v)

def overflowTo (w : Int) : RRes := (w, { RealFlags.clear with ofl := true })

def RFmt.rsqOf (f : RFmt) (w : Int) : RRes :=
  match f.read w with
  | .nan x => quiet x
  | .inf b => if b then invalid f.nan else quiet f.zero
  | .fin v =>
    if v.n = 0 then overflowTo (f.inf false)
    else if v.n < 0 then invalid f.nan
    else f.rounded (rsqrtOf v)

/-- 3^x of a finite x. -/
def RFmt.exp3Fin (f : RFmt) (v : TFrac) : RRes :=
  let i := v.nearest
  if v.isInt i ∨ i < -2000 ∨ 2000 < i then f.rounded ⟨1, max (-3000) (min 3000 i)⟩
  else
    let d := v.add ⟨-i, 0⟩
    let y := (TFrac.mk (d.n * ln3) d.k).nearest
    let e := expFrom y 120 unit 1
    f.between ⟨e - slack, i - places⟩ ⟨e + slack, i - places⟩ (powBelow v)

/-- DEDUCED, safe (log 18). -/
def RFmt.exp3Of (f : RFmt) (w : Int) : RRes :=
  match f.read w with
  | .nan x => quiet x
  | .inf b => if b then quiet f.zero else quiet (f.inf false)
  | .fin v => if v.n = 0 then f.norm ⟨1, 0⟩ else f.exp3Fin v

/-- log3 of a finite positive x = n·3^k: n is a power of three, or x = m·3^i with m within (1/2, 3/2). -/
def RFmt.log3Fin (f : RFmt) (v : TFrac) : RRes :=
  let l := tritLen v.n
  let a := l - 1
  if v.n = p3 a then f.rounded ⟨v.k + a, 0⟩
  else
    let lnm := atanh2 (v.n - p3 a) (v.n + p3 a)
    let q := divq (lnm * unit) ln3 + (v.k + a) * unit
    f.between ⟨q - slack, -places⟩ ⟨q + slack, -places⟩ (logBelow v)

/-- DEDUCED, safe (log 18). -/
def RFmt.log3Of (f : RFmt) (w : Int) : RRes :=
  match f.read w with
  | .nan x => quiet x
  | .inf b => if b then invalid f.nan else quiet (f.inf false)
  | .fin v =>
    if v.n = 0 then overflowTo (f.inf true)
    else if v.n < 0 then invalid f.nan
    else f.log3Fin v

/-- x·3^n (R159). -/
def RFmt.sclOf (f : RFmt) (w n : Int) : RRes :=
  match f.read w with
  | .fin v => f.rounded (v.scale n)
  | _ => quiet w

/-! ### Conversion (R163) -/

def realFmt (x : Fmt) : Option RFmt :=
  match x with
  | .tf9 => some tf9
  | .tf27 => some tf27
  | _ => none

/-- Trit width of a ternary format; of the word that holds a binary element's value. -/
def fmtTrits (x : Fmt) : Nat :=
  match x with
  | .tf9 | .t9 => 9
  | .h13 => 13
  | .t3 => 3
  | _ => 27

/-- nan_to (R163). -/
def nanTo (d s : RFmt) (w : Int) : Int :=
  if d = s then w
  else if d = tf27 then tf27.word 364 (tf9.fracOf w * p3 15)
  else
    let p := trits w 20 15
    if p = 243 ∨ p = -243 then tf9.nan else tf9.word 13 p

/-- A real value to an integer of w trits. -/
def toInteger (w : Nat) (v : RVal) : RRes :=
  match v with
  | .nan _ => invalid 0
  | .inf b => invalid (if b then -(maxTrits w) else maxTrits w)
  | .fin x =>
    let y := x.nearest
    if fits w y then (y, { RealFlags.clear with inx := !(x.isInt y) })
    else invalid (sat w y)

/-- Converts the raw value of an element between formats with a scale. -/
def convert (dst src : Fmt) (scale v : Int) : RRes :=
  match realFmt src, realFmt dst with
  | none, none =>
    quiet (sat (fmtTrits dst) (if 0 ≤ scale then v * p3z scale else trunc (-scale).toNat v))
  | none, some d => d.rounded ⟨v, scale⟩
  | some s, some d =>
    match s.read v with
    | .nan w => quiet (nanTo d s w)
    | .inf b => quiet (d.inf b)
    | .fin x => d.rounded (x.scale scale)
  | some s, none =>
    match s.read v with
    | .fin x => toInteger (fmtTrits dst) (.fin (x.scale scale))
    | y => toInteger (fmtTrits dst) y

/-! ### Block scales and weights (R138, R139) -/

/-- The value of a block scale. -/
def scaleOf (w : Int) : TFrac := ⟨243 + trits w 4 0, trits w 8 5 - 5⟩

/-- A weight term of three trits as sign·3^(exponent + 9), an integer (R143). -/
def termOf (t : Int) : Int :=
  let s := trits t 2 2
  if s = 0 then 0 else s * p3z (trits t 1 0 + 9)

end Sys2Proof.Machine
end

