-- ==== Sys2Proof/Machine/Window.lean ====
section
/-!
DEFINITION. Writes of the control window (R445 to R448, R472): which registers take a value as it stands,
and which words start a step of their own, which comes before any other.
-/

namespace Sys2Proof.Machine

/-- Whether w is the low word of a 54-trit register of the device block or of a die's block (R445, R446). -/
def pairLow (w : Int) : Bool :=
  (decide (0 ≤ w) && decide (w ≤ 55) && w % 2 == 0) || w == 60 || w == 62 || w == 66 || w == 69 ||
    (decide (1701 ≤ w) && decide (w ≤ 1754) && w % 2 == 1) || w == 2272 ||
    (decide (177147 ≤ w) && decide (w < 177147 * 28) &&
      [1, 9, 11, 13, 15, 17].contains (w % 177147))

/-- The steps that a write of PREQ starts (R418). -/
def preqSteps (die : Nat) (v : Int) : List Instr :=
  (List.range 18).flatMap fun i =>
    match tritAt v i with
    | .pos => [Instr.preemptRequeue (18 * die + i)]
    | .neg => [Instr.preemptHold (18 * die + i)]
    | .zero => []

/-- The steps that a write of BEAMCTL starts; a write of MINSTEP or FIXSTEP out of range is ignored
whole (R364). -/
def beamctlSteps (v : Int) : List Instr :=
  let lo := trits v 4 1
  let fix := trits v 8 5
  if 1 ≤ lo ∧ lo ≤ 9 ∧ 0 ≤ fix ∧ fix ≤ 9 then
    [Instr.beamctlStep lo fix,
      match tritAt v 0 with
      | .pos => Instr.beamEnableRun
      | .zero => Instr.beamEnableIdle
      | .neg => Instr.beamEnableStop]
  else []

/-- The fences that a write of a readiness word starts: only a trit of - acts (R474). -/
def fenceSteps (w v : Int) : List Instr :=
  (List.range 27).flatMap fun i => if tritAt v i = Trit.neg then [Instr.readinessFence w i] else []

/-- A 54-trit value with one half replaced. -/
def withHalf (x : Int) (k v : Int) : Int := if k = 0 then v + p3 27 * hiWord x else loWord x + p3 27 * v

/-- The steps that a write of one word starts (R445, R446, R474, R476, R477). -/
def State.wordSteps (s : State) (w v : Int) : List Instr :=
  if w = 55 then [.lrec 2 v]
  else if w = 57 then [.tinval v]
  else if w = 59 then [.bresume v]
  else if w = 62 ∨ w = 63 then [.beamnext (withHalf s.beam.next (w - 62) v)]
  else if w = 64 then beamctlSteps v
  else if w = 71 then [.hraise v]
  else if w = 73 then [.qflush v]
  else if 2187 ≤ w ∧ w ≤ 2259 then fenceSteps w v
  else if w = 2261 then [.fwgo v]
  else if w = 2270 then [.attgo v]
  else if 177147 ≤ w ∧ w < 177147 * 28 then
    let die := (w / 177147 - 1).toNat
    if w % 177147 = 5 then preqSteps die v
    else if w % 177147 = 7 then [.fctl die v]
    else []
  else []

/-- What a word of STORTAB, PWIN, PIN, CTAB or HNOTE keeps of a value: reserved trits, and words of an entry that hold
no field, ignore a write and read 0 (R6, R450, R452, R453). DEDUCED, unsafe (log 37). -/
def keptTrits (w v : Int) : Int :=
  let k := (w - 243) % 9
  if w ≤ 485 then (if k = 0 then trits v 26 24 * p3 24 else if k = 8 then 0 else v)
  else if w ≤ 971 then (if k = 0 then trits v 26 26 * p3 26 + trits v 9 0 else if 4 ≤ k then 0 else v)
  else v

/-- The registers of the device block that hold a word as written (R445, R476, R477). -/
def Window.write (win : Window) (w v : Int) : Window :=
  if 0 ≤ w ∧ w ≤ 53 then
    { win with qroot := win.qroot.set (w / 2).toNat (withHalf (win.qroot.getD (w / 2).toNat 0) (w % 2) v) }
  else if w = 54 then { win with lrec := withHalf win.lrec 0 v }
  else if w = 58 then { win with ageguard := v }
  else if w = 69 ∨ w = 70 then { win with hrsync := withHalf win.hrsync (w - 69) v }
  else if w = 72 then { win with devnum := v }
  else if 243 ≤ w ∧ w ≤ 1754 then win.setWord w (keptTrits w v)
  else if w = 2260 then { win with fwlen := v }
  else if 2262 ≤ w ∧ w ≤ 2269 then { win with nonce := win.nonce.set (w - 2262).toNat v }
  else win

/-- The registers of a die's block that hold a word as written (R446). -/
def dieWrite (d : Die) (r v : Int) : Die :=
  if r = 0 then { d with ebudget := v } else if r = 3 then { d with eallow := v } else d

/-- A write of one word as it stands (R447, R448).
DEDUCED, unsafe (log 37). DEDUCED, unsafe (log 43). DEDUCED, safe (log 63). -/
def State.writeWord (s : State) (w v : Int) : State :=
  let steps := s.wordSteps w v
  let s := { s with window := s.window.write w v, started := s.started ++ steps }
  if 177147 ≤ w ∧ w < 177147 * 28 then
    s.setDie (w / 177147 - 1).toNat fun d => dieWrite d (w % 177147) v
  else s

/-- A write of a 54-trit register whole, from its low word w (R448). DEDUCED, safe (log 63). -/
def State.writePair (s : State) (w v : Int) : State :=
  if w = 62 then { s with started := s.started ++ [.beamnext v] }
  else (s.writeWord w (loWord v)).writeWord (w + 1) (hiWord v)

/-- Trytes of the control window gathered into words: (word number, value). -/
def windowWords : List (Int × Int) → List (Int × Int)
  | a :: b :: c :: rest => (windowIndex a.1, wordOfTrytes [a.2, b.2, c.2]) :: windowWords rest
  | _ => []

/-- Writes words of the control window in order, a 54-trit register in one step where both its words
follow each other (R448). -/
def State.writeWords (s : State) : List (Int × Int) → State
  | [] => s
  | [a] => s.writeWord a.1 a.2
  | a :: b :: rest =>
    if pairLow a.1 = true ∧ b.1 = a.1 + 1 then (s.writePair a.1 (a.2 + p3 27 * b.2)).writeWords rest
    else (s.writeWord a.1 a.2).writeWords (b :: rest)

/-- Writes trytes below 0: words of the control window, and trytes of a peer (R448, R452). The list
holds (address, value). -/
def State.writeBelow (s : State) (l : List (Int × Int)) : State :=
  (s.writeWords (windowWords (l.filter fun c => inWindow c.1))).sendPeers (l.filter fun c => !(inWindow c.1))

end Sys2Proof.Machine
end

