-- ==== Sys2Proof/Machine/Access.lean ====
section
/-!
DEFINITION. Accesses of threads: long-latency operations from issue to completion (R68, R69, R300), stores
and the buffer of deterministic mode (R287), scratchpad accesses (R305) and atomics (R307).
-/

namespace Sys2Proof.Machine

/-! ### Long-latency operations -/

/-- An operation that writes nothing when it completes. -/
def LongOp.plain (flag : Option Nat) : LongOp :=
  { num := 0, flag := flag, gs := [], prs := [], cs := [], dests := [], sets := RealFlags.clear,
    cause := none, tileOp := none, flagging := false, load := false }

/-- A long-latency instruction issues: its flag counts one more (R68). -/
def Thread.begin (t : Thread) (o : LongOp) : Thread :=
  { t.addFlag o.flag with ops := t.ops ++ [{ o with num := t.nextOp }], nextOp := t.nextOp + 1 }

/-- An operation completes: results, real flags, its completion flag, and its deferred cause (R69, R299). -/
def Thread.finish (t : Thread) (o : LongOp) : Thread :=
  let u := ((((t.writeGs o.gs).writeAs o.prs).writeCs o.cs).raise o.sets).subFlag o.flag
  let u := { u with ops := u.ops.filter fun x => x.num != o.num }
  match o.cause with
  | none => u
  | some c => u.addPending ⟨c, o.dests⟩

/-- A new pending cause abandons a wait in SWAIT or SPOOL and is delivered there (R409). -/
def Thread.abandon (t : Thread) : Thread :=
  match t.run with
  | .waiting _ _ _ _ => if t.pend ≠ [] ∧ t.status.intrap = false then t.takePending t.slot else t
  | _ => t

/-- Completes one operation of a thread; a tile operation completes for every thread it was issued for (R233). -/
def State.finishOp (s : State) (id : ThreadId) (num : Nat) : State :=
  match s.thread? id with
  | none => s
  | some t =>
    match t.ops.find? fun o => o.num == num with
    | none => s
    | some o =>
      match o.tileOp with
      | none => s.mapThread id fun t => (t.finish o).abandon
      | some k =>
        { s with threads := s.threads.map fun u =>
            match u.ops.find? fun x => x.tileOp == some k with
            | some x => (u.finish x).abandon
            | none => u }

/-- Completes every operation a thread has issued, in order: the waits of a release, an acquire, GBAR,
TBAR and EXIT (R127, R277). DESIGN CHOICE, unsafe (log 56). -/
def State.drainOps (s : State) (id : ThreadId) : State :=
  (((s.thread? id).map Thread.ops).getD []).foldl (fun s o => s.finishOp id o.num) s

/-! ### Loads -/

/-- The pair of six trytes, the low word first (R29, R302). -/
def pairOf (vals : List Int) : Int := wordOfTrytes vals + p3 27 * wordOfTrytes (vals.drop 3)

/-- The sectors of HBM that checked pieces reach: home slice, sector, first tryte and count. -/
def State.sectorsOf (s : State) (l : List Seg) : List (Nat × Nat × Nat × Nat) :=
  l.flatMap fun g =>
    if g.pa < 0 then []
    else (sectorPieces (g.n / 81 + 1) g.pa.toNat g.n).map fun p => (s.homeOf (leafDom g.leaf) (81 * p.1), p)

/-- Whether a core's L1 holds a valid copy of every word of checked pieces, all of one moment (R276, R284).
DEDUCED, unsafe (log 52). -/
def State.heldInL1 (s : State) (core : Nat) (l : List Seg) : Bool :=
  let held := (s.sectorsOf l).map fun p => (s.l1At core p.1 p.2.1).filter fun e =>
    (List.range p.2.2.2).all fun i => e.valid.getD (p.2.2.1 + i) false
  held.all fun x => x.isSome && x.map L1Sector.since == ((held.head?.bind id).map L1Sector.since)

/-- Takes a core's copies of sectors anew. -/
def State.refreshAll (s : State) (core : Nat) (l : List (Nat × Nat)) : State :=
  l.foldl (fun s p => s.refreshL1 core p.1 p.2) s

/-- Takes a core's copies of the sectors of checked pieces anew. -/
def State.refreshSegs (s : State) (core : Nat) (l : List Seg) : State :=
  s.refreshAll core ((s.sectorsOf l).map fun p => (p.1, p.2.1))

/-- The sectors that the accesses of one issue ask their home slices for: those of every access of which some sector is
asked for, at most n rounds on (R276, R315). -/
def askedFor (accesses : List (List (Nat × Nat))) : Nat → List (Nat × Nat) → List (Nat × Nat)
  | 0, l => l
  | n + 1, l =>
    askedFor accesses n (l ++ (accesses.filter fun a => a.any l.contains).flatten).eraseDups

/-- The loads of one gang issue are served alike: L1 asks once for a sector that one of them does not find, and the copy
that the core holds of it is taken anew before they read (R276, R284, R315). -/
def State.freshen (s : State) (core : Nat) (l : List (List Seg)) : State :=
  if l.length ≤ 1 then s
  else
    let names := fun x => (s.sectorsOf x).map fun p => (p.1, p.2.1)
    s.refreshAll core (askedFor (l.map names) l.length ((l.filter fun x => !(s.heldInL1 core x)).flatMap names).eraseDups)

/-- The pieces of one lane's access, none where it does not execute or takes a cause. -/
def State.laneSegs (s : State) (gd : Guard) (uses : List RegUse) (p : Perm) (ea : Int) (n : Nat) (al : Option Align)
    (sector whole : Bool) (t : Thread) : List Seg :=
  if t.guardHolds gd = false ∨ t.nopOnce = true ∨ s.owns t uses = false then []
  else
    match s.check (s.agentOf t) p ea n al sector whole with
    | .error _ => []
    | .ok l => l

/-- A load of each lane of the gang; `acc` gives the pieces that a lane reads. The lanes read memory as it stands at the
issue, which `f` is given beside the machine as the lanes before have left it (R315). -/
def State.loadLanes (s : State) (gd : Guard) (uses : List RegUse) (acc : State → Thread → List Seg)
    (f : State → Thread → State → Except Cause State) : Host.Outcome State Fault Refusal :=
  let ts := s.members.filterMap s.thread?
  let view := s.freshen ((ts.head?.map Thread.core).getD 0) (ts.map (acc s))
  view.lanes gd uses (f view)

/-- Checked pieces as a load meets them: where the core's L1 does not hold every word of one moment they are read at the
home slices whole (R276, R284). -/
def State.meetSegs (s : State) (t : Thread) (h : Hint) (segs : List Seg) : (List Int × Nat) × State :=
  let alone := t.status.det || !(s.heldInL1 t.core segs)
  (if alone then s.refreshSegs t.core segs else s).loadSegs t.core h segs

/-- A checked load of n trytes, of the memory of `view`: values and poison. In deterministic mode it reads the committed
contents of memory under the thread's own buffer (R287). -/
def State.loadFrom (view s : State) (t : Thread) (h : Hint) (ea : Int) (n : Nat) (al : Option Align)
    (sector whole : Bool) : Except Cause ((List Int × Nat) × State) :=
  match s.check (s.agentOf t) .load ea n al sector whole with
  | .error c => .error c
  | .ok segs =>
    let r := (view.meetSegs t h segs).1
    .ok ((overlay t.buf (s.keysOf segs) r.1, r.2), ((s.noteSegs (s.agentOf t) segs).meetSegs t h segs).2)

/-- A checked load of n trytes: values and poison. -/
def State.loadMem (s : State) (t : Thread) (h : Hint) (ea : Int) (n : Nat) (al : Option Align)
    (sector whole : Bool) : Except Cause ((List Int × Nat) × State) :=
  s.loadFrom s t h ea n al sector whole

/-! ### Stores -/

/-- Stores trytes of sector pieces of one page. -/
def State.storePieces (s : State) (core : Nat) (leaf : Word) (h : Hint) :
    List (Nat × Nat × Nat) → List Int → State
  | [], _ => s
  | (sec, k, n) :: rest, vals =>
    let ws := (vals.take n).zipIdx.map fun p => (k + p.2, p.1)
    (s.storeSector core leaf h (s.homeOf (leafDom leaf) (81 * sec)) sec ws).storePieces core leaf h rest (vals.drop n)

/-- Stores trytes of HBM by checked pieces; pieces below 0 are left to `writeBelow`.
DEDUCED, unsafe (log 52). DESIGN CHOICE, unsafe (log 57). -/
def State.storeSegs (s : State) (core : Nat) (h : Hint) : List Seg → List Int → State
  | [], _ => s
  | g :: rest, vals =>
    let s := if g.pa < 0 then s
      else s.storePieces core g.leaf (if leafCache g.leaf = .neg then .default else h)
        (sectorPieces (g.n / 81 + 1) g.pa.toNat g.n) (vals.take g.n)
    s.storeSegs core h rest (vals.drop g.n)

/-- The physical address of each tryte of checked pieces, with its value. -/
def cellsOf (l : List Seg) (vals : List Int) : List (Int × Int) :=
  (l.flatMap fun g => (List.range g.n).map fun i : Nat => g.pa + (i : Int)).zip vals

/-- Stores trytes by checked pieces (R302). -/
def State.storeAll (s : State) (core : Nat) (h : Hint) (l : List Seg) (vals : List Int) : State :=
  (s.storeSegs core h l vals).writeBelow ((cellsOf l vals).filter fun c => decide (c.1 < 0))

/-- What a deterministic thread buffers for a store by its instruction of a number; on a page with CACHE - a hint acts as
the default (R287, R303, R315). -/
def State.bufferOf (s : State) (h : Hint) (issue : Nat) : List Seg → List Int → List BufTryte
  | [], _ => []
  | g :: rest, vals =>
    ((vals.take g.n).zipIdx.map fun p =>
      let pa := g.pa + (p.2 : Int)
      if pa < 0 then (if inWindow pa then BufTryte.window pa p.1 else BufTryte.peer pa p.1)
      else
        BufTryte.memory (s.homeOf (leafDom g.leaf) pa.toNat) pa.toNat (g.v + (p.2 : Int)) g.leaf
          (if leafCache g.leaf = .neg then .default else h) issue p.1) ++
      s.bufferOf h issue rest (vals.drop g.n)

/-- The sector a buffered tryte lies in. -/
def BufTryte.sector (b : BufTryte) : Nat × Nat × Int :=
  match b with
  | .scratch off _ => (0, 0, (off / 81 : Nat))
  | .memory home pa _ _ _ _ _ => (1, home, (pa / 81 : Nat))
  | .peer pa _ => (2, 0, pa / 81)
  | .window pa _ => (3, 0, pa / 81)

/-- Sectors of a buffer. -/
def bufSectors (l : List BufTryte) : Nat := (l.map BufTryte.sector).eraseDups.length

/-- A store that would leave more than 27 sectors buffered ends the quantum first (R287): the thread holds in the
instruction, and a cause that comes meanwhile waits until it has completed (R409). DEDUCED, unsafe (log 44). -/
def Thread.endQuantum (t : Thread) : Thread := { t with run := .quantum, resumed := false }

/-- A plain store of a thread once checked: buffered in deterministic mode, else performed; `fin` is what
the thread does when it is done. -/
def State.plainStore (s : State) (t : Thread) (h : Hint) (segs : List Seg) (vals : List Int)
    (fin : Thread → Thread) : State :=
  if t.status.det then
    let new := s.bufferOf h t.quantum segs vals
    if bufSectors (t.buf ++ new) ≤ 27 then
      s.mapThread t.id fun t => fin { t with buf := t.buf ++ new }
    else s.mapThread t.id Thread.endQuantum
  else (s.storeAll t.core h segs vals).mapThread t.id fin

/-- How a store instruction ends: in deterministic mode it completes as it enters the buffer (R300). -/
def storeDone (flag : Option Nat) (t : Thread) : Thread :=
  (if t.status.det then t else t.begin (LongOp.plain flag)).advance

/-- A checked store of n trytes. -/
def State.storeMem (s : State) (t : Thread) (h : Hint) (ea : Int) (al : Option Align) (sector whole : Bool)
    (vals : List Int) (fin : Thread → Thread) : Except Cause State :=
  match s.check (s.agentOf t) .store ea vals.length al sector whole with
  | .error c => .error c
  | .ok segs => .ok ((s.noteSegs (s.agentOf t) segs).plainStore t h segs vals fin)

/-- The sectors of which a list of places has every tryte. -/
def wholeSectors (keys : List (Nat × Int)) : List (Nat × Nat) :=
  let keys := keys.filter fun k => decide (0 ≤ k.2)
  ((keys.map fun k => (k.1, (k.2 / 81).toNat)).eraseDups).filter fun p =>
    (List.range 81).all fun i => keys.contains (p.1, 81 * (p.2 : Int) + (i : Int))

/-- Whether the trytes of a sector stand in HBM alone: its slice does not hold it, and no L1 holds it dirty. -/
def State.inHbm (s : State) (home sector : Nat) : Bool :=
  (s.sliceAt home sector).isNone &&
    !(s.l1.any fun e => e.home == home && e.sector == sector && e.dirty.any id)

/-- A sector written whole is poisoned no more, at its home slice and in the writing core's copy; the mark in HBM goes
when the trytes are there (R268). -/
def State.cleanSector (s : State) (core : Nat) (p : Nat × Nat) : State :=
  let s := if s.inHbm p.1 p.2 then { s with hbmPoison := s.hbmPoison.filter (· != p.2) } else s.clearMark p.1 p.2
  match s.l1At core p.1 p.2 with
  | none => s
  | some e => s.putL1 { e with poison := 0 }

/-- The sectors that the stores of one issue write whole: `acc` gives the pieces that a lane writes, and what a
deterministic thread stores is buffered. -/
def State.writtenWhole (s : State) (acc : State → Thread → List Seg) : List (Nat × Nat) :=
  wholeSectors (((s.members.filterMap s.thread?).filter fun t => !t.status.det).flatMap fun t => s.keysOf (acc s t))

/-- A store of each lane of the gang. The stores of one issue that fall in one sector are one request: where together
they write all of it, its poison mark is cleared (R268, R315). DEDUCED, unsafe (log 101). -/
def State.storeLanes (s : State) (gd : Guard) (uses : List RegUse) (acc : State → Thread → List Seg)
    (f : Thread → State → Except Cause State) : Host.Outcome State Fault Refusal :=
  let core := ((s.members.head?.bind s.thread?).map Thread.core).getD 0
  .next ((s.writtenWhole acc).foldl (fun s p => s.cleanSector core p) (s.runLanes (State.lane uses gd f)))

/-! ### Scratchpad (R305) -/

/-- The checks of a scratchpad access of n trytes at o. -/
def State.scratchCheck (s : State) (t : Thread) (p : Perm) (o : Int) (n : Nat) : Except Cause Unit :=
  if o < 0 ∨ s.scratchSize t.id.bolt < o + n then .error ⟨6, 3, o⟩
  else if n = 3 ∧ o % 3 ≠ 0 then .error ⟨7, 1, o⟩
  else
    match lockFault (s.scratchLocks t.core t.team) p [(o, n)] with
    | some c => .error c
    | none => .ok ()

/-- Writes trytes of a team's scratchpad. -/
def State.scratchWrite (s : State) (team : TeamId) (o : Nat) (vals : List Int) : State :=
  s.mapTeam team fun m =>
    { m with scratch := memSetList m.scratch o vals,
             scratchBad := m.scratchBad.filter fun k => decide (k < o) || decide (o + vals.length ≤ k) }

/-- The trytes a thread reads from its scratchpad, and whether one of them is uncorrectable. -/
def State.scratchRead (s : State) (t : Thread) (o n : Nat) : List Int × Bool :=
  match s.team? t.team with
  | none => (List.replicate n 0, false)
  | some m =>
    ((List.range n).map fun i => (bufferedScratch t.buf (o + i)).getD (memGet m.scratch (o + i)),
      (List.range n).any fun i => (bufferedScratch t.buf (o + i)).isNone && m.scratchBad.contains (o + i))

/-- A checked scratchpad store of a thread. -/
def State.scratchStore (s : State) (t : Thread) (o : Int) (vals : List Int) (fin : Thread → Thread) : State :=
  if t.status.det then
    let new := vals.zipIdx.map fun p => BufTryte.scratch (o.toNat + p.2) p.1
    if bufSectors (t.buf ++ new) ≤ 27 then
      s.mapThread t.id fun t => fin { t with buf := t.buf ++ new }
    else s.mapThread t.id Thread.endQuantum
  else (s.scratchWrite t.team o.toNat vals).mapThread t.id fin

/-- The place of a code in the order in which the causes of an access are checked: 4, 5, 7, 8, 6, 16 (R49). -/
def accessRank (code : Int) : Int := if code = 6 then 15 else code

/-! ### Atomics (R281, R307) -/

/-- The sequencer, on IO die 0 (R472). -/
def State.sequencerReady (s : State) : Bool := s.readyTrit 2241 2 == .pos

/-- Whether another team of the bolt holds a tryte (R289). -/
def State.heldElsewhere (s : State) (team : TeamId) (home pa : Nat) : Bool :=
  (s.heldTrytes ++ s.heldBefore).any fun h => h.1 == home && h.2.1 == pa && h.2.2.bolt == team.bolt && h.2.2 != team

/-- The trytes of checked pieces: home slice, physical address, virtual address. -/
def State.cellsAt (s : State) (l : List Seg) : List (Nat × Nat × Int) :=
  l.flatMap fun g => (List.range g.n).map fun i : Nat =>
    (s.homeOf (leafDom g.leaf) (g.pa.toNat + i), g.pa.toNat + i, g.v + (i : Int))

/-- The trytes of memory among n from a place, which a virtual address names (R289). -/
def SyncLoc.cells (l : SyncLoc) (va : Int) (n : Nat) : List (Nat × Nat × Int) :=
  (List.range n).filterMap fun i : Nat =>
    match l.up i with
    | .scratch _ _ => none
    | .memory home pa _ | .cut home pa _ _ _ _ _ => if pa < 0 then none else some (home, pa.toNat, va + (i : Int))

/-- The race that writing trytes meets: the lowest address that another team of the bolt holds (R289).
DEDUCED, unsafe (log 32). -/
def State.raceOf (s : State) (team : TeamId) (cells : List (Nat × Nat × Int)) : Option Int :=
  (cells.filter fun x => s.heldElsewhere team x.1 x.2.1).foldl (fun b x => some (match b with
    | none => x.2.2
    | some a => min a x.2.2)) none

/-- Trytes that a commit writes are held by its team (R289). -/
def State.holdTrytes (s : State) (team : TeamId) (cells : List (Nat × Nat)) : State :=
  let new := cells.filter fun k => !(s.heldTrytes.contains (k.1, k.2, team))
  { s with heldTrytes := s.heldTrytes ++ new.map fun k => (k.1, k.2, team) }

/-- The race that a deterministic thread's atomic on trytes meets (R289). -/
def State.race (s : State) (t : Thread) (cells : List (Nat × Nat × Int)) : Option Int :=
  if t.status.det then s.raceOf t.team cells else none

/-- The trytes of an atomic that no other team of the bolt holds are held by the thread's team (R289). -/
def State.holdFree (s : State) (t : Thread) (cells : List (Nat × Nat × Int)) : State :=
  if t.status.det then
    s.holdTrytes t.team ((cells.filter fun x => !(s.heldElsewhere t.team x.1 x.2.1)).map fun x => (x.1, x.2.1)).eraseDups
  else s

/-- After a write in a commit, the trytes that another team of the bolt held before it have their values of before (R289). -/
def State.keepHeld (s s1 : State) (t : Thread) (cells : List (Nat × Nat × Int)) : State :=
  (cells.filter fun x => s.heldElsewhere t.team x.1 x.2.1).foldl (fun s1 x =>
    s1.storeHome t.core uncached .default x.1 (x.2.1 / 81) [(x.2.1 % 81, s.peek x.1 x.2.1)]) s1

/-- An atomic of a thread that writes trytes: `write` makes the writes and `full` all that the atomic does. In deterministic
mode a commit performs it: the trytes that it writes are held by the team; where another team of the bolt holds some of
them, those are not written, the others are, and the thread takes race trap (R288, R289). -/
def State.atomically (s : State) (t : Thread) (cells : List (Nat × Nat × Int)) (write full : State → State) : State :=
  match s.race t cells with
  | none => full (s.holdFree t cells)
  | some a => (s.keepHeld (write (s.holdFree t cells)) t cells).mapThread t.id fun _ =>
      ((s.thread? t.id).getD t).fault ⟨17, 1, a⟩

/-- Writes the word of checked pieces at its home slice, by a core whose own copy follows. -/
def State.putWordSegs (s : State) (core : Nat) : List Seg → List Int → State
  | [], _ => s
  | g :: rest, vals =>
    let pa := g.pa.toNat
    let ws := (vals.take g.n).zipIdx.map fun p => (pa % 81 + p.2, p.1)
    (s.storeHome core g.leaf .default (s.homeOf (leafDom g.leaf) pa) (pa / 81) ws).putWordSegs core rest (vals.drop g.n)

/-- The old word of checked pieces as it stands at its home slice, and the poison mark met. -/
def State.wordAtSegs (s : State) (l : List Seg) : Int × Nat :=
  (wordOfTrytes ((s.keysOf l).map fun k => s.peek k.1 k.2.toNat),
    (l.map fun g => s.poisonAt (s.homeOf (leafDom g.leaf) g.pa.toNat) (g.pa.toNat / 81)).foldl max 0)

/-- One step at the home slice: the word is read, `f` gives what is written, if anything, and the old
word and its poison mark are returned (R281). -/
def State.atomicAt (s : State) (core : Nat) (l : List Seg) (f : Int → Option Int) : (Int × Nat) × State :=
  let (old, mark) := s.wordAtSegs l
  let s := (s.sectorsOf l).foldl (fun s p => s.visit p.1) s
  match f old with
  | none => ((old, mark), s)
  | some v => ((old, mark), s.putWordSegs core l (trytesOfWord v))

def releases (o : Order) : Bool := o == .rel || o == .sc
def acquires (o : Order) : Bool := o == .acq || o == .sc

end Sys2Proof.Machine
end

