-- ==== Sys2Proof/Machine/Locks.lean ====
section
/-!
DEFINITION. The range-lock tables of the cores (R291 to R295) and the instructions that set and clear locks
(R388, R389).
-/

namespace Sys2Proof.Machine

/-- A range to register: in a team's scratchpad or in virtual addresses, from lo to hi, destination or
source (R291). -/
structure LockRange where
  scratch : Bool
  lo : Int
  hi : Int
  dest : Bool
  deriving DecidableEq, Repr

/-- Whether a lock lies in the space of a range and shares a tryte with it (R291). -/
def Lock.meets (l : Lock) (team : TeamId) (r : LockRange) : Bool :=
  l.scratch == r.scratch && (!r.scratch || l.team == team) && decide (l.lo ≤ r.hi) && decide (r.lo ≤ l.hi)

/-- Whether a TORN lock is one that an entry with these ranges clears once it completes: one of its destinations
contains it whole (R295). -/
def Lock.replaced (l : Lock) (team : TeamId) (rs : List LockRange) : Bool :=
  l.kind == .torn && rs.any fun r => r.dest && l.meets team r && decide (r.lo ≤ l.lo) && decide (l.hi ≤ r.hi)

/-- The lowest free entry of a core's table (R291). -/
def State.freeEntry (s : State) (core : Nat) : Option Nat :=
  (List.range Config.rangeLocks).find? fun e => !(s.locks.any fun l => l.core == core && l.entry == e)

/-- Whether ranges may register on a core: an entry is free, and no range meets a destination, nor a
destination any range (R291). With `clears` the ranges may cover whole TORN locks (R295). -/
def State.canLock (s : State) (core : Nat) (team : TeamId) (rs : List LockRange) (clears : Bool) : Bool :=
  ((s.freeEntry core).isSome || (clears && s.locks.any fun l => l.core == core && l.replaced team rs)) &&
    !(s.locks.any fun l =>
      l.core == core && !(clears && l.replaced team rs) &&
        rs.any fun r => l.meets team r && (r.dest || l.kind != .src))

/-- The entry of a core's table that ranges take: the lowest free one, else that of a TORN lock that they replace. -/
def State.entryFor (s : State) (core : Nat) (team : TeamId) (rs : List LockRange) : Option Nat :=
  (s.freeEntry core).or ((s.locks.find? fun l => l.core == core && l.replaced team rs).map Lock.entry)

/-- Registers ranges in one entry of a core's table (R291). -/
def State.lockOn (s : State) (core : Nat) (team : TeamId) (owner : LockOwner) (rs : List LockRange) : State :=
  match s.entryFor core team rs with
  | none => s
  | some e =>
    { s with locks := s.locks ++ rs.map fun r =>
        { core := core, entry := e, team := team, owner := owner, scratch := r.scratch, lo := r.lo,
          hi := r.hi, kind := if r.dest then LockKind.dest else LockKind.src } }

/-- Registers ranges on every core of a list, when all of them have room (R291). -/
def State.lockAll (s : State) (cores : List Nat) (team : TeamId) (owner : LockOwner) (rs : List LockRange)
    (clears : Bool) : Option State :=
  if cores.all fun c => s.canLock c team rs clears then
    some (cores.foldl (fun s c => s.lockOn c team owner rs) s)
  else none

/-- Releases the locks of an owner that are not marked TORN (R293). -/
def State.unlock (s : State) (team : TeamId) (owner : LockOwner) : State :=
  { s with locks := s.locks.filter fun l => !(l.team == team && l.owner == owner && l.kind != .torn) }

/-- The ranges that an owner holds on a core. -/
def State.rangesHeld (s : State) (core : Nat) (team : TeamId) (owner : LockOwner) : List LockRange :=
  (s.locks.filter fun l => l.core == core && l.team == team && l.owner == owner && l.kind != .torn).map fun l =>
    ⟨l.scratch, l.lo, l.hi, l.kind == .dest⟩

/-- An entry has completed: its locks are released, and the TORN marks that its destinations contain whole are cleared
(R293, R295). -/
def State.unlockDone (s : State) (team : TeamId) (owner : LockOwner) : State :=
  { s with locks := s.locks.filter fun l =>
      !(l.replaced team (s.rangesHeld l.core team owner)) &&
        !(l.team == team && l.owner == owner && l.kind != .torn) }

/-! ### Memory as of a release (R293) -/

/-- Memory and a team's scratchpad as they stand; of the L1s what their cores own (R276). -/
def State.snapshot (s : State) (team : TeamId) : Snapshot :=
  ⟨s.hbm, s.slices, s.l1.filter fun e => e.owned.any id, ((s.team? team).map Team.scratch).getD []⟩

/-- The machine with memory and a team's scratchpad as a chain's entries read them (R293). -/
def State.viewOf (s : State) (team : TeamId) (c : Chain) : State :=
  { s with hbm := c.asOf.hbm, slices := c.asOf.slices, l1 := c.asOf.l1 }.mapTeam team fun m =>
    { m with scratch := c.asOf.scratch }

/-- What a chain's snapshot becomes as a unit writes trytes of the device. -/
def State.noteIn (s : State) (team : TeamId) (c : Chain) (l : List (SyncLoc × Int)) : Chain :=
  let mine := l.filter fun x => match x.1 with
    | .scratch t _ => t == team
    | .memory .. | .cut .. => !x.1.below
  { c with asOf := (mine.foldl (fun v x => v.putTryteAt noCore x.1 x.2) (s.viewOf team c)).snapshot team }

/-- The snapshots of the chains of some cores follow what a unit writes to a range registered there: entries take effect in
their order wherever their ranges meet (R291, R326). DEDUCED, unsafe (log 84). -/
def State.noteUnit (s : State) (cores : List Nat) (l : List (SyncLoc × Int)) : State :=
  { s with teams := s.teams.map fun m =>
      if m.cores.any cores.contains then { m with chains := m.chains.map fun c => s.noteIn m.id c l } else m }

/-- The cores of a thread's team. -/
def State.coresOf (s : State) (team : TeamId) : List Nat := ((s.team? team).map Team.cores).getD []

/-- The agent of a thread whose access meets no range lock (R378, R388). -/
def State.freeAgent (s : State) (t : Thread) : Agent := { s.agentOf t with core := Config.cores }

/-! ### Scratchpad operands (R377) -/

/-- The checks of a scratchpad offset that covers n trytes and must be a multiple of k. -/
def State.offsetFault (s : State) (t : Thread) (o : Int) (n k : Int) : Option Cause :=
  if o < 0 ∨ s.scratchSize t.id.bolt < o + n then some ⟨6, 3, o⟩
  else if o % k ≠ 0 then some ⟨7, 3, o⟩
  else none

/-- Word i from a scratchpad offset of a team. -/
def State.scratchWord (s : State) (team : TeamId) (o i : Int) : Int :=
  match s.team? team with
  | none => 0
  | some m => memGetWord m.scratch (o + 3 * i).toNat

/-! ### Instructions that hold for a place (R319, R368, R404) -/

/-- Whether a thread is the first to wait under a mark, or no thread waits. -/
def State.firstFor (s : State) (what : Int) (id : ThreadId) : Bool :=
  match s.tokens.find? fun x => x.1 == what with
  | none => true
  | some x => x.2 == id

/-- A thread begins to wait under a mark, or waits on. DEDUCED, unsafe (log 44). -/
def State.hold (s : State) (what : Int) (id : ThreadId) : State :=
  if s.tokens.contains (what, id) then s else { s with tokens := s.tokens ++ [(what, id)] }

/-- The executing threads of a group hold in their instruction: a cause that joins a list waits until it has completed
(R379, R409). -/
def State.holdHere (s : State) (ts : List Thread) : State :=
  ts.foldl (fun s t => s.mapThread t.id fun t => { t with resumed := false }) s

def State.unhold (s : State) (what : Int) (id : ThreadId) : State :=
  { s with tokens := s.tokens.filter fun x => x != (what, id) }

/-! ### RLOCK and RUNLOCK (R388, R389) -/

/-- The range that RLOCK names, or the cause its address or offset takes. -/
def State.lockRange (s : State) (t : Thread) (l : Place) (n : Int) (dest : Bool) : Except Cause LockRange :=
  match l with
  | .g i =>
    match s.offsetFault t (t.readG i) n 1 with
    | some c => .error c
    | none => .ok ⟨true, t.readG i, t.readG i + n - 1, dest⟩
  | .a i =>
    match s.check (s.freeAgent t) (if dest then .store else .load) (t.readA i) n.toNat none false false with
    | .error c => .error c
    | .ok _ => .ok ⟨false, t.readA i, t.readA i + n - 1, dest⟩

/-- The handle of a lock: its number and its table entry (R388). -/
def lockHandle (num : Int) (entry : Nat) : Int := num * p3 9 + (entry : Int) * p3 4

/-- The mark of an RLOCK that waits for its range. -/
def lockToken : Int := -1000

/-- The number of a thread's next lock among its team's: each thread counts its own, so that a number depends on no other
thread's progress (R290, R388). DESIGN CHOICE, unsafe (log 102). -/
def State.lockNumber (s : State) (t : Thread) : Int :=
  let threads := ((s.bolt? t.id.bolt).map fun b => b.record.threads).getD 1
  wrap 18 (((t.id.tid % threads : Int)) + threads * (t.locks : Int))

/-- The table entry that a handle names: the lowest that is free; in deterministic mode, where what a thread reads may
depend on no other, a number of the thread's own (R290, R388). DESIGN CHOICE, unsafe (log 102). -/
def State.lockEntry (s : State) (t : Thread) : Nat :=
  if t.status.det then t.locks % Config.rangeLocks else (s.freeEntry t.core).getD 0

/-- One lane's RLOCK: it waits in its place while the range cannot register, and a cause pending for the
thread ends the wait (R388, R409). -/
def lockLane (d : Nat) (l : Place) (c : Nat) (dest : Bool) (t : Thread) (s : State) : Except Cause State :=
  let n := t.readG c
  if n < 1 ∨ 531441 < n then .error ⟨1, 5, 0⟩
  else
    match s.lockRange t l n dest with
    | .error e => .error e
    | .ok r =>
      match s.team? t.team with
      | none => .ok s
      | some m =>
        let num := s.lockNumber t
        match s.lockAll m.cores t.team (.rlock num) [r] false with
        | none =>
          if t.pend ≠ [] ∧ t.status.intrap = false then
            .ok ((s.unhold lockToken t.id).mapThread t.id fun t => t.takePending t.slot)
          else .ok (s.hold lockToken t.id)
        | some s' =>
          if t.pend ≠ [] ∧ t.status.intrap = false ∧ s.tokens.contains (lockToken, t.id) = true then
            .ok ((s.unhold lockToken t.id).mapThread t.id fun t => t.takePending t.slot)
          else
            let h := lockHandle num (s.lockEntry t)
            .ok ((s'.unhold lockToken t.id).mapThread t.id
              fun t => { t.writeG d h with locks := t.locks + 1 }.advance)

def execRlock (gd : Guard) (d : Nat) (l : Place) (c : Nat) (s : State) : Host.Outcome State Fault Refusal :=
  s.lanes gd [gUse d, placeUse l, gUse c] (lockLane d l c true)

def execRlockRd (gd : Guard) (d : Nat) (l : Place) (c : Nat) (s : State) : Host.Outcome State Fault Refusal :=
  s.lanes gd [gUse d, placeUse l, gUse c] (lockLane d l c false)

/-- Whether a lock is the one a handle names. -/
def Lock.named (l : Lock) (team : TeamId) (h : Int) : Bool :=
  l.team == team && l.owner == .rlock (trits h 26 9) && trits h 8 8 == 0 && trits h 3 0 == 0

def execRunlock (gd : Guard) (d b : Nat) (s : State) : Host.Outcome State Fault Refusal :=
  s.lanes gd [cUse d, gUse b] fun t s =>
    let held := s.locks.any fun l => l.named t.team (t.readG b)
    let s := { s with locks := s.locks.filter fun l => !(l.named t.team (t.readG b)) }
    .ok (s.mapThread t.id fun t => (t.writeC d (if held then .pos else .zero)).advance)

/-- Whether a TORN lock of the thread's core contains the place that RUNLOCK.torn names (R389). -/
def Lock.tornAt (l : Lock) (t : Thread) (p : Place) : Bool :=
  l.core == t.core && l.kind == .torn &&
    match p with
    | .g i => l.scratch && l.team == t.team && decide (l.lo ≤ t.readG i) && decide (t.readG i ≤ l.hi)
    | .a i => !l.scratch && decide (l.lo ≤ t.readA i) && decide (t.readA i ≤ l.hi)

def execRunlockTorn (gd : Guard) (d : Nat) (l : Place) (s : State) : Host.Outcome State Fault Refusal :=
  s.lanes gd [cUse d, placeUse l] fun t s =>
    let held := s.locks.any fun x => x.tornAt t l
    let s := { s with locks := s.locks.filter fun x => !(x.tornAt t l) }
    .ok (s.mapThread t.id fun t => (t.writeC d (if held then .pos else .zero)).advance)

end Sys2Proof.Machine
end

