-- ==== Sys2Proof/Machine/Tensor.lean ====
section
/-!
DEFINITION. Tensor records (R328, R329, R339), the places of their elements, and the reads and writes of
elements by engines and the shuttle.
-/

namespace Sys2Proof.Machine

/-- Whose access a unit makes: the team, and the agent that translates for it. -/
structure UnitCtx where
  team : TeamId
  agent : Agent
  deriving DecidableEq, Repr

/-- The context of a team's unit with the privilege of the issuer (R251, R327). -/
def State.unitCtx (s : State) (team : TeamId) (system : Bool) : UnitCtx :=
  ⟨team, { s.unitAgent team.bolt team with system := system }⟩

/-- An engine-borne cause on its way to the thread that issued the work (R408). -/
def State.bear (s : State) (team : TeamId) (id : ThreadId) (c : Cause) : State :=
  { s with engineCauses := s.engineCauses ++ [(team, id, c)] }

/-- Elements of a tensor (R328). -/
def Tensor.size (t : Tensor) : Int := t.ext.foldl (· * ·) 1

def isByteFmt (f : Int) : Bool := f == -6 || f == -5 || f == -4 || f == -3

/-- Bytes of an element of a byte format, trytes of one of a ternary format (R329). -/
def fmtSize (f : Int) : Nat :=
  if f = -6 then 1 else if f = -5 ∨ f = -4 then 2 else if f = -3 then 4
  else if f = 1 ∨ f = 2 ∨ f = 3 then 3 else 1

/-- The formats of the FMT codes that CONV converts (R325, R329). -/
def convFmt (f : Int) : Option Fmt :=
  if f = -2 then some .tf9 else if f = -1 then some .t9 else if f = 1 then some .t27
  else if f = 2 then some .tf27 else if f = 3 then some .h13 else if f = 4 then some .t3 else none

/-- The record at a scratchpad offset of a team, as its words stand. -/
def State.tensorAt (s : State) (team : TeamId) (o : Int) : Tensor :=
  let w := s.scratchWord team o
  { base := if trits (w 2) 26 25 = -1 then w 0 else w 0 + p3 27 * w 1
    space := trits (w 2) 26 25
    fmt := trits (w 2) 24 22
    rank := trits (w 2) 21 19
    knot := trits (w 2) 18 18 == 1
    ext := (List.range 9).map fun i : Nat => w (3 + (i : Int))
    str := (List.range 9).map fun i : Nat => w (12 + (i : Int))
    htab := w 21 + p3 27 * w 22 }

/-- Whether dimension d of a record keeps the limits of R328. -/
def Tensor.dimOk (t : Tensor) (d : Nat) : Bool :=
  if (d : Int) < t.rank then decide (1 ≤ t.ext.getD d 1) && decide (t.ext.getD d 1 ≤ 387420489)
  else t.ext.getD d 1 == 1 && t.str.getD d 0 == 0

/-- The additional requirements of a knotted record (R339). -/
def Tensor.knotOk (t : Tensor) : Bool :=
  [-2, -1, 1, 2, 3].contains t.fmt && (t.space == -1 || t.space == 0) && t.base % 81 == 0 &&
    t.str.all (· == 0) && t.htab % 3 == 0

/-- The record at a scratchpad offset, if it is valid (R328, R329, R339). -/
def State.tensor? (s : State) (team : TeamId) (o : Int) : Option Tensor :=
  let w := s.scratchWord team o
  let t := s.tensorAt team o
  let inside := decide (0 ≤ o) && decide (o + 81 ≤ s.scratchSize team.bolt) && o % 3 == 0
  let fields := [-1, 0, 1].contains t.space && [-6, -5, -4, -3, -2, -1, 1, 2, 3, 4].contains t.fmt &&
    decide (1 ≤ t.rank) && decide (t.rank ≤ 9) && trits (w 2) 18 18 != -1 && trits (w 2) 17 0 == 0 &&
    w 24 == 0 && w 25 == 0 && w 26 == 0 && w 23 == 0 && (t.space != -1 || w 1 == 0)
  let dims := (List.range 9).all t.dimOk && decide (t.size ≤ 387420489) && (t.fmt != 4 || t.str.getD 0 0 == 0)
  let knots := if t.knot then t.knotOk else w 21 == 0 && w 22 == 0
  if inside && fields && dims && knots then some t else none

/-- A destination with a stride of 0 in a dimension that extends is invalid, but for knotted records and
STR0 of T3 (R328). -/
def Tensor.destOk (t : Tensor) : Bool :=
  t.knot || (List.range 9).all fun d =>
    t.str.getD d 0 != 0 || decide (t.ext.getD d 1 ≤ 1) || (d == 0 && t.fmt == 4)

/-- Coordinates of the element of a linear index (R341). -/
def coordsOf : List Int → Int → List Int
  | [], _ => []
  | e :: es, l => l % e :: coordsOf es (l / e)

def dot : List Int → List Int → Int
  | a :: as, b :: bs => a * b + dot as bs
  | _, _ => 0

/-- Address of the word of element l of a knotted tensor (R11, R341). -/
def knotAddr (base l : Int) : Int := wrap 54 (base + 243 * (l / 27) + 81 * (l % 27 / 9) + 3 * (l % 9))

/-- Address of the heddle tryte of a block of a knotted tensor of so many elements (R11, R342). -/
def heddleOf (base elems b : Int) : Int := wrap 54 (base + 243 * ((elems + 26) / 27) + b / 9)

/-- Where element l of a record lies: its first tryte, or for a byte format the word of its first byte, and
the number of the T3 element or byte in it (R328, R329, R341). `base` includes the shift of a LOOP. -/
def Tensor.place (t : Tensor) (base l : Int) : Int × Int :=
  if t.knot then (knotAddr base l, 0)
  else
    let c := coordsOf t.ext l
    if isByteFmt t.fmt then (wrap 54 base, dot c t.str)
    else if t.fmt = 4 then (wrap 54 (base + c.headD 0 / 3 + dot c.tail t.str.tail), c.headD 0 % 3)
    else (wrap 54 (base + dot c t.str), 0)

/-! ### Accesses of a unit -/

/-- The status and address with which an entry ends (R327). -/
abbrev Ended := Nat × Int

def badEntry : Ended := (1, 0)

/-- The record at a scratchpad offset: one that reads as uncorrectable is a POISON source, one that is not valid a
BADENT (R327, R426). -/
def State.tensorRecord (s : State) (team : TeamId) (o : Int) : Except Ended Tensor :=
  if 0 ≤ o ∧ o + 81 ≤ s.scratchSize team.bolt ∧
      ((List.range 81).any fun i : Nat => s.badAt (.scratch team (o + (i : Int)))) = true then .error (4, o)
  else
    match s.tensor? team o with
    | some t => .ok t
    | none => .error badEntry

/-- The place that stands where there is none. -/
def noPlace : SyncLoc := .memory 0 0 0

/-- The places of n trytes from an address of a space, wrapped to the 54 trits of an address (R11), or the address that a
cause of R327 reports. DEDUCED, unsafe (log 45). -/
def State.cells (s : State) (c : UnitCtx) (space addr : Int) (n : Nat) (p : Perm) : Except Int (List SyncLoc) :=
  let addr := wrap 54 addr
  if space = -1 then
    if addr < 0 ∨ s.scratchSize c.team.bolt < addr + n then .error addr
    else .ok ((List.range n).map fun i : Nat => .scratch c.team (addr + (i : Int)))
  else
    match s.check c.agent p addr n none false false with
    | .error e => .error e.addr
    | .ok segs =>
      if segs.any fun g => decide (g.pa < 0) && inWindow g.pa then .error addr
      else .ok (s.placesOf segs)

/-- One element of a record in trytes: the places of its trytes, of its words in the byte layout, and where in
them it stands. -/
structure Piece where
  addr : Int
  locs : List SyncLoc
  sub : Int
  deriving DecidableEq, Repr

/-- The pieces of element l: one, or for a byte format one word for each byte (R329). In a knotted tensor the
whole word of the element is written (R341). -/
def State.pieces (s : State) (c : UnitCtx) (t : Tensor) (base l : Int) (p : Perm) : Except Int (List Piece) :=
  let (a, k) := t.place base l
  if isByteFmt t.fmt then
    (List.range (fmtSize t.fmt)).foldlM (fun (acc : List Piece) (i : Nat) =>
      let q := k + (i : Int)
      match s.cells c t.space (a + 3 * (q / 5)) 3 p with
      | .error e => .error e
      | .ok locs => .ok (acc ++ [⟨a + 3 * (q / 5), locs, q % 5⟩])) []
  else
    match s.cells c t.space a (if p = .store ∧ t.knot = true then 3 else fmtSize t.fmt) p with
    | .error e => .error e
    | .ok locs => .ok [⟨a, locs, k⟩]

/-- Values computed so far by an entry, by place. -/
abbrev Out := List PartCell

def Out.get (o : Out) (s : State) (l : SyncLoc) : Int :=
  match o.find? fun c => c.loc.same l with
  | some c => c.v
  | none => s.tryteAt l

def Out.put (o : Out) (l : SyncLoc) (v : Int) : Out :=
  if o.any fun c => c.loc.same l then o.map fun c => if c.loc.same l then { c with v := v } else c
  else o ++ [⟨l, v, true⟩]

def Out.word (o : Out) (s : State) (locs : List SyncLoc) : Int :=
  wordOfTrytes (locs.map fun l => Out.get o s l)

/-- Byte k of a word of the byte layout (R329). -/
def byteOf (w k : Int) : Int := w / 256 ^ k.toNat % 256

/-- Whether a word keeps the byte layout (R329). -/
def byteWord (w : Int) : Bool := decide (0 ≤ w) && decide (w < 2 ^ 40)

/-- Whether a piece reads as poisoned: one of its trytes does, or its word in the view `v` of memory breaks the byte
layout (R268, R329). -/
def State.pieceBad (s v : State) (f : Int) (p : Piece) : Bool :=
  p.locs.any s.badAt || (isByteFmt f && !(byteWord (Out.word [] v p.locs)))

/-- The value of an element from its pieces (R329). -/
def State.readElem (s : State) (o : Out) (f : Int) (ps : List Piece) : Int :=
  if isByteFmt f then
    let v := ps.foldr (fun p acc => byteOf (Out.word o s p.locs) p.sub + 256 * acc) 0
    if f = -4 ∧ 32768 ≤ v then v - 65536 else v
  else
    match ps with
    | [] => 0
    | p :: _ =>
      let v := if p.locs.length = 1 ∨ fmtSize f = 1 then Out.get o s (p.locs.headD noPlace) else Out.word o s p.locs
      if f = 4 then trits v (3 * p.sub.toNat + 2) (3 * p.sub.toNat) else v

/-- Replaces byte k of a word of the byte layout; a word outside it is taken as 0 (R329). -/
def setByte (w k b : Int) : Int :=
  let w := if byteWord w then w else 0
  w + (b - byteOf w k) * 256 ^ k.toNat

/-- Writes an element's value: the trytes that its pieces give (R329, R341). -/
def State.writeElem (s : State) (o : Out) (t : Tensor) (ps : List Piece) (v : Int) : Out :=
  if isByteFmt t.fmt then
    ps.zipIdx.foldl (fun o p =>
      let w := setByte (Out.word o s p.1.locs) p.1.sub (v / 256 ^ p.2 % 256)
      (p.1.locs.zip (trytesOfWord w)).foldl (fun o x => Out.put o x.1 x.2) o) o
  else
    match ps with
    | [] => o
    | p :: _ =>
      if t.fmt = 4 then
        let l := p.locs.headD noPlace
        let k := 3 * p.sub.toNat
        let old := Out.get o s l
        Out.put o l (old + (trits v 2 0 - trits old (k + 2) k) * p3 k)
      else
        let x := if t.fmt = 3 then trits v 25 0 else if fmtSize t.fmt = 1 then trits v 8 0 else v
        (p.locs.zip (trytesOfWord x)).foldl (fun o y => Out.put o y.1 y.2) o

/-- The sector of a place. -/
def sectorKey (l : SyncLoc) : Bool × Nat × Int :=
  match l with
  | .scratch _ o => (true, 0, o / 81)
  | .memory h p _ | .cut h p _ _ _ _ _ => (false, h, p / 81)

/-- Cuts what an entry writes into parts of one sector each (R322). -/
def partsOf (o : Out) : List (List PartCell) :=
  ((o.map fun c => sectorKey c.loc).eraseDups).map fun k => o.filter fun c => sectorKey c.loc == k

/-- Where a tryte of a part lies in memory. -/
def PartCell.addr (x : PartCell) : Int :=
  match x.loc with
  | .memory _ p _ | .cut _ p _ _ _ _ _ => p
  | .scratch _ o => o

/-- Writes a part, the trytes of one sector in one step, under the leaf of the page that names it: places of the device, or
of a peer (R258, R262, R452). -/
def State.writePart (s : State) (core : Nat) (part : List PartCell) : State :=
  match part with
  | [] => s
  | c :: _ =>
    match c.loc with
    | .scratch _ _ => part.foldl (fun s c => s.putTryteAt core c.loc c.v) s
    | .memory home pa leaf | .cut home pa leaf _ _ _ _ =>
      if pa < 0 then s.writeBelow (part.map fun x => (x.addr, x.v))
      else s.storeHome core leaf .default home (pa / 81).toNat (part.map fun x => ((x.addr % 81).toNat, x.v))

/-- Writes trytes, those of one sector together. -/
def State.writeParts (s : State) (core : Nat) (o : Out) : State := (partsOf o).foldl (State.writePart · core) s

/-- The lowest and highest tryte of a list of addresses of a space, as a range to register. -/
def rangeOf (scratch dest : Bool) (l : List (Int × Nat)) : List LockRange :=
  match l with
  | [] => []
  | (a, n) :: rest =>
    let lo := rest.foldl (fun m x => min m x.1) a
    let hi := rest.foldl (fun m x => max m (x.1 + (x.2 : Int) - 1)) (a + (n : Int) - 1)
    [⟨scratch, lo, hi, dest⟩]

end Sys2Proof.Machine
end

