-- ==== Sys2Proof/Machine/Engines.lean ====
section
/-!
DEFINITION. Command chains and the engines that step them (R318 to R333, R338, R381 to R383): ENGAGE and
EPOLL, the entries of a chain from issue to completion, storage reads and engine reset.
-/

namespace Sys2Proof.Machine

/-! ### Chains of a team -/

def Team.chain? (m : Team) (seq : Int) : Option Chain := m.chains.find? fun c => c.seq == seq

def State.mapChain (s : State) (team : TeamId) (seq : Int) (f : Chain → Chain) : State :=
  s.mapTeam team fun m => { m with chains := m.chains.map fun c => if c.seq == seq then f c else c }

/-- Whether a chain still runs or waits to (R383). -/
def Chain.running (c : Chain) : Bool := c.state == 0

/-- A chain that an entry has stopped ends when its entries in flight have (R327). -/
def Chain.settle (c : Chain) : Chain :=
  if c.stat ≠ 0 ∧ c.flight = [] ∧ c.state = 0 then { c with state := -1 } else c

/-- The chains of a core on an engine that hold or await a place: those of its resident teams, and of a team that is
being stopped those whose entries in flight are still to complete (R319, R338). DEDUCED, unsafe (log 66). -/
def State.placed (s : State) (core : Nat) (engine : Int) : List Chain :=
  (s.teams.flatMap fun m : Team =>
    if m.state = .resident then m.chains else m.chains.filter fun c => !c.flight.isEmpty).filter fun c =>
      c.running && c.core == core && c.engine == engine

/-- Whether a chain has one of the places of its core on its engine: they go to the earliest, and among chains that
have awaited one since the same step in the order of the list (R319). DEDUCED, unsafe (log 66). -/
def State.hasPlace (s : State) (c : Chain) : Bool :=
  let l := s.placed c.core c.engine
  let before := (l.filter fun x => decide (x.since < c.since)) ++ (l.filter fun x => x.since == c.since).takeWhile (· != c)
  decide (before.length < Config.chainPlaces)

/-- Whether a chain may go on: its team is on its core with its locks registered, no entry has stopped it, and it has a place.
DEDUCED, safe (log 65). -/
def State.chainLive (s : State) (m : Team) (c : Chain) : Bool :=
  m.state == .resident && !m.rejoin && c.running && c.stat == 0 && s.hasPlace c

/-- The chain of an event, when it may go on. DEDUCED, unsafe (log 66). -/
def State.liveChain (s : State) (team : TeamId) (seq : Int) : Option Chain :=
  match s.team? team with
  | none => none
  | some m =>
    match m.chain? seq with
    | none => none
    | some c => if s.chainLive m c then some c else none

/-! ### ENGAGE and EPOLL (R382, R383) -/

/-- The mark of an ENGAGE that waits for a place of a core on an engine. -/
def placeToken (core : Nat) (engine : Int) : Int := 3 * (core : Int) + engine + 1

/-- Writes a general register of threads and passes their instruction. -/
def State.giveAll (s : State) (ts : List Thread) (d : Nat) (v : Int) : State :=
  ts.foldl (fun s t => s.mapThread t.id fun t => (t.writeG d v).advance) s

/-- The chain handle (R382). -/
def chainHandle (seq engine : Int) : Int := seq * p3 9 + engine * p3 7

/-- Whether chain seq is among the 27 most recent of a team (R383). -/
def Team.recent (m : Team) (seq : Int) : Bool := decide ((m.nextSeq - seq) % p3 18 ≤ 27)

/-- A chain from its entry offset, with its place. -/
def State.newChain (s : State) (t : Thread) (seq engine off : Int) : Chain :=
  { seq := seq, engine := engine, core := t.core, issuer := t.id, system := t.status.system, pos := off,
    lp := none, flight := [], state := 0, stat := 0, endPos := 0, endIter := 0, since := s.tick, asOf := s.snapshot t.team }

/-- ENGAGE: once the chain has a place, the release, as of which its entries read (R293, R382).
DEDUCED, unsafe (log 44). DEDUCED, unsafe (log 84). -/
def execEngage (gd : Guard) (d b : Nat) (eng : Int) (s : State) : Host.Outcome State Fault Refusal :=
  s.forGroups gd [gUse d, gUse b] fun t ts s =>
    if eng < -1 ∨ 1 < eng then .error (t.illegal 5)
    else
      match s.offsetFault t (t.readG b) 81 81, s.team? t.team with
      | some c, _ => .error c
      | none, none => .ok s
      | none, some m =>
        let s := ts.foldl (fun s t => s.drainOps t.id) s
        let key := placeToken t.core eng
        if (s.placed t.core eng).length < Config.chainPlaces ∧ s.firstFor key t.id = true then
          let c := s.newChain t m.nextSeq eng (t.readG b)
          let s := (s.unhold key t.id).mapTeam t.team fun m =>
            { m with nextSeq := wrap 18 (m.nextSeq + 1)
                     chains := (m.chains.filter fun x =>
                       x.running || { m with nextSeq := wrap 18 (m.nextSeq + 1) }.recent x.seq) ++ [c] }
          .ok (s.giveAll ts d (chainHandle m.nextSeq eng))
        else .ok ((s.hold key t.id).holdHere ts)

/-- The state word of a chain (R383). -/
def Chain.word (c : Chain) : Int :=
  if c.state = 0 then
    match c.flight with
    | f :: _ => f.off / 81 * p3 18 + f.iter * p3 9
    | [] => c.pos / 81 * p3 18 + ((c.lp.map LoopRun.iter).getD 0) * p3 9
  else c.endPos * p3 18 + c.endIter * p3 9 + (c.stat : Int) * p3 4 + c.state

def State.pollWord (s : State) (team : TeamId) (h : Int) : Int :=
  match s.team? team with
  | none => 2
  | some m =>
    match m.chain? (trits h 26 9) with
    | none => 2
    | some c =>
      if m.recent c.seq = true ∧ c.engine = trits h 8 7 ∧ trits h 6 0 = 0 then c.word else 2

def execEpoll (gd : Guard) (d b : Nat) (s : State) : Host.Outcome State Fault Refusal :=
  s.lanes gd [gUse d, gUse b] fun t s =>
    let v := s.pollWord t.team (t.readG b)
    .ok (s.mapThread t.id fun t => (t.writeG d v).advance)

/-! ### Entries (R324, R327, R381) -/

/-- The words of the entry at a scratchpad offset. -/
def State.entryWords (s : State) (team : TeamId) (off : Int) : List Int :=
  (List.range 9).map fun i : Nat => s.scratchWord team off (i : Int)

/-- The sync word that an entry names (R324): a page of a window below 0 holds none (R320, R327). -/
def State.entryRef (s : State) (c : UnitCtx) (ws : List Int) : Except Ended (Option SyncLoc) :=
  let w0 := ws.getD 0 0
  let w1 := ws.getD 1 0
  let w2 := ws.getD 2 0
  if trits w0 22 22 = 1 then .error badEntry
  else if trits w0 23 23 = -1 then .ok none
  else if trits w0 22 22 = -1 then
    if w2 ≠ 0 ∨ w1 % 9 ≠ 0 then .error badEntry
    else if w1 < 0 ∨ s.scratchSize c.team.bolt < w1 + 9 then .error (3, w1)
    else .ok (some (.scratch c.team w1))
  else
    let va := w1 + p3 27 * w2
    if va % 9 ≠ 0 then .error badEntry
    else
      match s.cells c 0 va 9 .store with
      | .error a => .error (3, a)
      | .ok l => if l.any SyncLoc.below then .error (3, va) else .ok (wordPlace l)

/-- Kind of an entry; none where word 0 is not valid (R324). STOP ignores trits 23..0 (R381). -/
def entryKind (w0 : Int) : Option Int :=
  let k := trits w0 26 24
  if k = 0 then some 0 else if 1 ≤ k ∧ k ≤ 7 ∧ trits w0 21 0 = 0 then some k else none

def allZero (l : List Int) : Bool := l.all (· == 0)

def tensorsOf (l : List (Option Tensor)) : List Tensor := l.filterMap id

/-- Whether an engine reaches the records of an entry: the transform engines only translated memory (R318). -/
def spacesOk (engine : Int) (l : List Tensor) : Bool :=
  l.all fun t => if engine = 1 then t.space == 0 else t.space == 0 || t.space == -1

def Tensor.sameExt (a b : Tensor) : Bool := a.ext == b.ext

/-- Whether the formats and extents of a COPY pair (R328, R330). -/
def copyPairs (a b : Tensor) : Bool :=
  if (a.fmt = -5 ∨ a.fmt = -4) ∧ b.fmt = 3 then
    a.ext.headD 1 == 2 * b.ext.headD 1 && a.ext.tail == b.ext.tail
  else
    a.sameExt b && (a.fmt == b.fmt || (isByteFmt a.fmt && b.fmt == 1) || (a.fmt == -6 && b.fmt == -1))

/-- Whether a COPY is plain (R328). -/
def plainCopy (a b : Tensor) : Bool := a.fmt == b.fmt && a.str == b.str

def emptyWork (k : EntryKind) (d : Tensor) : Work :=
  { kind := k, src := none, dst := d, rr := none, value := 0, scale := 0, acc := 0, rsh := 0, alg := 0, params := 0 }

/-- The storage-table entry of a drive, when it is used (R450): block size and largest transfer. -/
def State.drive (s : State) (n : Int) : Option (Int × Int) :=
  let w := fun i : Int => s.window.word (243 + 9 * n + i)
  if 0 ≤ n ∧ n ≤ 26 ∧ trits (w 0) 26 26 = 1 ∧ trits (w 0) 25 25 ≠ 0 ∧ trits (w 0) 24 24 ≠ 0 then
    some (if trits (w 0) 24 24 = 1 then 4096 else 512, w 6)
  else none

/-- The drive that a storage record names, and its first logical block in an iteration, whose unit SSTEP counts
(R333, R381). DEDUCED, unsafe (log 45). -/
def Tensor.drive (a : Tensor) : Int := wrap 27 a.base
def Tensor.block (a : Tensor) (shift : Int) : Int := hiWord a.base + shift

/-- A storage COPY (R332, R333). -/
def State.storageOk (s : State) (shift : Int) (a b : Tensor) : Bool :=
  match s.drive a.drive with
  | none => false
  | some (bsz, _) =>
    a.space == 1 && a.fmt == -6 && a.rank == 1 && b.fmt == -6 && b.rank == 1 && !a.knot && a.sameExt b &&
      a.str.headD 0 == 1 && a.ext.headD 1 % bsz == 0 && b.space != 1 && decide (0 ≤ a.block shift)

def State.copyWork (s : State) (engine shift : Int) (a b : Tensor) (ws : List Int) : Option Work :=
  let fits := if engine = -1 then s.storageOk shift a b else copyPairs a b && spacesOk engine [a, b]
  if fits && allZero (ws.drop 5) && b.destOk then some { emptyWork .copy b with src := some a } else none

def convWork (engine : Int) (a b : Tensor) (rr : Option Tensor) (named : Bool) (ws : List Int) : Option Work :=
  let w6 := ws.getD 6 0
  let acc := trits w6 17 16
  let formats := (convFmt a.fmt).isSome && (convFmt b.fmt).isSome && (a.fmt == 3) == (b.fmt == 3)
  let residue := if !named then true
    else match rr with
      | none => false
      | some r => acc == 0 && b.fmt != 3 && (r.fmt == -2 || r.fmt == -1) && r.sameExt b && r.destOk
  if engine != -1 && formats && residue && a.sameExt b && trits w6 10 0 == 0 && allZero (ws.drop 7) &&
      decide (-2 ≤ acc) && decide (acc ≤ 2) && (acc == 0 || engine == 1) && b.destOk &&
      spacesOk engine (a :: b :: rr.toList) then
    some { emptyWork .conv b with src := some a, rr := rr, scale := trits w6 26 18, acc := acc, rsh := trits w6 15 11 }
  else none

/-- DECOMP (R331, R381). -/
def decompWork (engine : Int) (a b : Tensor) (ws : List Int) : Option Work :=
  let alg := trits (ws.getD 5 0) 26 24
  let w6 := ws.getD 6 0
  let params :=
    if alg = 1 then
      decide (1 ≤ trits w6 26 23) && decide (trits w6 26 23 ≤ 16) && decide (-1 ≤ trits w6 22 21) &&
        decide (trits w6 22 21 ≤ 2) && decide (1 ≤ trits w6 20 12) && decide (trits w6 20 12 ≤ 4096) &&
        trits w6 11 11 != 0 && trits w6 10 10 != 0 && trits w6 9 0 == 0
    else w6 == 0
  let dest := [-1, 1, 3].contains b.fmt || (alg == 3 && b.fmt == -6)
  if engine == 0 && decide (1 ≤ alg) && decide (alg ≤ 3) && trits (ws.getD 5 0) 23 0 == 0 && params &&
      (alg != 3 || b.fmt != -1) && dest && a.fmt == -6 && a.rank == 1 && a.space != 1 && b.space == -1 &&
      allZero (ws.drop 7) && b.destOk then
    some { emptyWork .decomp b with src := some a, alg := alg, params := w6 }
  else none

def fillWork (engine : Int) (b : Tensor) (ws : List Int) : Option Work :=
  if engine != -1 && !(isByteFmt b.fmt) && spacesOk engine [b] && allZero (ws.drop 5) && b.destOk then
    some { emptyWork .fill b with value := ws.getD 4 0 }
  else none

/-- What an entry of kind 1 to 4 does, when its fields and records are valid and its engine performs it. A record that
reads as uncorrectable ends it with POISON (R426). -/
def State.workOf (s : State) (team : TeamId) (engine shift : Int) (ws : List Int) : Except Ended Work :=
  let rec_ := fun i => s.tensorRecord team (ws.getD i 0)
  let valid := fun w : Option Work => match w with
    | some w => Except.ok w
    | none => .error badEntry
  let two := fun f : Tensor → Tensor → Except Ended Work =>
    match rec_ 3, rec_ 4 with
    | .error e, .ok _ => .error e
    | .error e, .error e' => .error (if e = badEntry then e else e')
    | .ok _, .error e => .error e
    | .ok a, .ok b => f a b
  match trits (ws.getD 0 0) 26 24 with
  | 1 => two fun a b => valid (s.copyWork engine shift a b ws)
  | 2 => two fun a b =>
    if ws.getD 5 0 = -1 then valid (convWork engine a b none false ws)
    else
      match rec_ 5 with
      | .error e => .error e
      | .ok r => valid (convWork engine a b (some r) true ws)
  | 3 => two fun a b => valid (decompWork engine a b ws)
  | 4 =>
    match rec_ 3 with
    | .error e => .error e
    | .ok b => valid (fillWork engine b ws)
  | _ => .error badEntry

/-! ### The accesses of an entry -/

/-- The pieces that one element reads and writes. -/
structure ElemJob where
  src : List (List Piece)
  dst : List Piece
  rr : List Piece
  deriving DecidableEq, Repr

/-- Whether RAW16 samples pair into halves (R330). -/
def Work.pairs (w : Work) : Bool :=
  match w.src with
  | some a => w.kind == .copy && (a.fmt == -5 || a.fmt == -4) && w.dst.fmt == 3
  | none => false

def State.srcPieces (s : State) (c : UnitCtx) (w : Work) (sshift l : Int) : Except Int (List (List Piece)) :=
  match w.src with
  | none => .ok []
  | some a =>
    if a.space = 1 ∨ w.kind = .decomp then .ok []
    else
      (if w.pairs then [2 * l, 2 * l + 1] else [l]).foldlM (fun acc x =>
        match s.pieces c a (a.base + sshift) x .load with
        | .error e => .error e
        | .ok p => .ok (acc ++ [p])) []

def State.rrPieces (s : State) (c : UnitCtx) (w : Work) (dshift l : Int) : Except Int (List Piece) :=
  match w.rr with
  | none => .ok []
  | some r => s.pieces c r (r.base + dshift) l .store

/-- The accesses of every element, or the first address that takes a cause (R327). -/
def State.jobs (s : State) (c : UnitCtx) (w : Work) (sshift dshift : Int) : Except Int (List ElemJob) :=
  (List.range w.dst.size.toNat).foldlM (fun acc (l : Nat) =>
    match s.srcPieces c w sshift (l : Int) with
    | .error e => .error e
    | .ok a =>
      match s.pieces c w.dst (w.dst.base + dshift) (l : Int) .store with
      | .error e => .error e
      | .ok b =>
        match s.rrPieces c w dshift (l : Int) with
        | .error e => .error e
        | .ok r => .ok (acc ++ [⟨a, b, r⟩])) []

/-- The bytes of the stream of a DECOMP, as pieces. -/
def State.streamPieces (s : State) (c : UnitCtx) (w : Work) (sshift : Int) : Except Int (List (List Piece)) :=
  match w.src with
  | none => .ok []
  | some a =>
    if w.kind = .decomp then
      (List.range a.size.toNat).foldlM (fun acc (l : Nat) =>
        match s.pieces c a (a.base + sshift) (l : Int) .load with
        | .error e => .error e
        | .ok p => .ok (acc ++ [p])) []
    else .ok []

/-- The reserved trytes that a FILL of a knotted tensor writes (R341). -/
def State.reservedCells (s : State) (c : UnitCtx) (w : Work) (dshift : Int) : Except Int (List (Int × SyncLoc)) :=
  if w.kind = .fill ∧ w.dst.knot = true then
    (List.range ((w.dst.size + 8) / 9).toNat).foldlM (fun acc (q : Nat) =>
      let a := w.dst.base + dshift + 81 * (q : Int) + 54
      match s.cells c w.dst.space a 27 .store with
      | .error e => .error e
      | .ok l => .ok (acc ++ l.zipIdx.map fun p => (a + (p.2 : Nat), p.1))) []
  else .ok []

/-- Everything an entry accesses. -/
structure Reach where
  jobs : List ElemJob
  stream : List (List Piece)
  reserved : List (Int × SyncLoc)
  deriving DecidableEq, Repr

def State.reach (s : State) (c : UnitCtx) (w : Work) (sshift dshift : Int) : Except Int Reach :=
  match s.jobs c w sshift dshift with
  | .error e => .error e
  | .ok j =>
    match s.streamPieces c w sshift with
    | .error e => .error e
    | .ok st =>
      match s.reservedCells c w dshift with
      | .error e => .error e
      | .ok r => .ok ⟨j, st, r⟩

def pieceSpan (l : List Piece) : List (Int × Nat) := l.map fun p => (p.addr, p.locs.length)
def Reach.reads (r : Reach) : List Piece := (r.jobs.flatMap fun j => j.src.flatten) ++ r.stream.flatten

/-- The ranges that an entry registers: its source, its destination and its residue, each from the lowest to
the highest tryte (R291). -/
def entryRanges (w : Work) (r : Reach) : List LockRange :=
  let scr := fun (t : Tensor) => t.space == -1
  (match w.src with
    | none => []
    | some a => rangeOf (scr a) false (pieceSpan r.reads)) ++
    rangeOf (scr w.dst) true (pieceSpan (r.jobs.flatMap ElemJob.dst) ++ r.reserved.map fun x => (x.1, 1)) ++
    match w.rr with
    | none => []
    | some t => rangeOf (scr t) true (pieceSpan (r.jobs.flatMap ElemJob.rr))

/-- Whether some tryte is read and written by an entry that is no plain copy (R294). -/
def entryOverlaps (w : Work) (r : Reach) : Bool :=
  let plain : Bool := match w.src with
    | some a => w.kind == .copy && plainCopy a w.dst
    | none => true
  let wrote := (r.jobs.flatMap fun j => j.dst ++ j.rr).flatMap Piece.locs
  !plain && r.reads.any fun p => p.locs.any fun l => wrote.any l.same

/-! ### Stepping a chain (R325, R326) -/

/-- Where control goes after an entry at pos, which skips n of those that follow: on, or round the LOOP in
force. DEDUCED, unsafe (log 45). -/
def Chain.passEntry (c : Chain) (n : Int) : Chain :=
  let next := c.pos + 81 * (1 + n)
  match c.lp with
  | none => { c with pos := next }
  | some l =>
    if next < l.first + 81 * l.n then { c with pos := next }
    else if l.iter + 1 < l.k then { c with pos := l.first, lp := some { l with iter := l.iter + 1 } }
    else { c with pos := l.first + 81 * l.n, lp := none }

def Chain.iter (c : Chain) : Int := (c.lp.map LoopRun.iter).getD 0
def Chain.sshift (c : Chain) : Int := (c.lp.map fun l => l.iter * l.sstep).getD 0
def Chain.dshift (c : Chain) : Int := (c.lp.map fun l => l.iter * l.dstep).getD 0

/-- An entry ends with a status other than OK: its chain is stopped, its sync word gets ERR, and a status that
carries a cause is borne to the issuer (R327, R406). -/
def State.endBad (s : State) (team : TeamId) (c : Chain) (e : Ended) (ref : Option SyncLoc) (off iter : Int) : State :=
  let s := match ref with
    | none => s
    | some l => s.setErr l
  let s := if e.1 = 3 ∨ e.1 = 4 ∨ e.1 = 7 then
      s.bear team c.issuer ⟨20, (e.1 : Int), e.2⟩
    else s
  s.mapChain team c.seq fun c =>
    (if c.stat = 0 then { c with stat := e.1, endPos := off / 81, endIter := iter } else c).settle

/-- The chain's current entry ends with a status before it is issued. -/
def State.endHere (s : State) (team : TeamId) (c : Chain) (e : Ended) (ref : Option SyncLoc) : State :=
  s.endBad team c e ref c.pos c.iter

/-- The entry at which a chain stands: its words, or the status of reading it (R293, R324, R326). -/
def State.current (s : State) (team : TeamId) (c : Chain) : Except Ended (List Int) :=
  if c.pos < 0 ∨ s.scratchSize team.bolt < c.pos + 81 then .error (3, c.pos)
  else if (List.range 81).any fun i : Nat => s.badAt (.scratch team (c.pos + (i : Int))) then .error (4, c.pos)
  else .ok ((s.viewOf team c).entryWords team c.pos)

/-- The kind of step that a chain takes next: 1 for an entry to issue or to end with a status, else the kind of
its LOOP, COND, SIGNAL or STOP. -/
def State.nextKind (s : State) (team : TeamId) (c : Chain) : Int :=
  match s.current team c with
  | .error _ => 1
  | .ok ws =>
    match entryKind (ws.getD 0 0) with
    | some k => if k = 0 ∨ 5 ≤ k then k else 1
    | none => 1

/-- The sync word of an entry that ends with a status, where its fields name one (R327). -/
def State.refOr (s : State) (c : UnitCtx) (ws : List Int) : Option SyncLoc :=
  match s.entryRef c ws with
  | .ok r => r
  | .error _ => none

/-- An entry enters flight with its ranges registered. -/
def newFlight (c : Chain) (w : Work) (ref : Option SyncLoc) (raise : Int) : Flight :=
  { off := c.pos, iter := c.iter, work := w, sshift := c.sshift, dshift := c.dshift, ref := ref,
    raise := raise, todo := [], total := 0, computed := false, paired := w.rr.isSome, started := false,
    stat := 0, addr := 0, cmds := [] }

/-- The current entry of a chain is issued or ends with a status; none where it waits at registration (R291,
R294). -/
def State.issueEntry (s : State) (m : Team) (c : Chain) : Option State :=
  let ctx := s.unitCtx m.id c.system
  match s.current m.id c with
  | .error e => some (s.endHere m.id c e none)
  | .ok ws =>
    match entryKind (ws.getD 0 0) with
    | none => some (s.endHere m.id c badEntry (s.refOr ctx ws))
    | some _ =>
      match s.entryRef ctx ws with
      | .error e => some (s.endHere m.id c e none)
      | .ok ref =>
        match (s.viewOf m.id c).workOf m.id c.engine c.sshift ws with
        | .error e => some (s.endHere m.id c e ref)
        | .ok w =>
          match s.reach ctx w c.sshift c.dshift with
          | .error a => some (s.endHere m.id c (3, a) ref)
          | .ok r =>
            if entryOverlaps w r then some (s.endHere m.id c (2, 0) ref)
            else
              match s.lockAll m.cores m.id (.entry c.seq c.pos c.iter) (entryRanges w r) (w.kind != .decomp) with
              | none => none
              | some s =>
                some (s.mapChain m.id c.seq fun c =>
                  { c.passEntry 0 with flight := c.flight ++ [newFlight c w ref (trits (ws.getD 0 0) 23 23)] })

/-- CHAIN_ENTRY_ISSUE (R291, R326). -/
def execChainEntryIssue (team : TeamId) (seq : Int) (s : State) : Host.Outcome State Fault Refusal :=
  match s.team? team, s.liveChain team seq with
  | some m, some c =>
    if s.nextKind team c = 1 then .next ((s.issueEntry m c).getD s) else .next s
  | _, _ => .next s

/-- A step of a chain at an entry of one of the kinds 0 and 5 to 7. -/
def State.chainStep (s : State) (team : TeamId) (seq k : Int) (f : UnitCtx → Chain → List Int → State) :
    Host.Outcome State Fault Refusal :=
  match s.liveChain team seq with
  | none => .next s
  | some c =>
    match s.current team c with
    | .error _ => .next s
    | .ok ws => if entryKind (ws.getD 0 0) = some k then .next (f (s.unitCtx team c.system) c ws) else .next s

/-- LOOP and COND name no sync word (R381). -/
def namesNone (ws : List Int) : Bool := trits (ws.getD 0 0) 23 23 == -1 && ws.getD 1 0 == 0 && ws.getD 2 0 == 0

/-- CHAIN_LOOP: the entries that follow run k times with stepped bases (R325). -/
def execChainLoop (team : TeamId) (seq : Int) (s : State) : Host.Outcome State Fault Refusal :=
  s.chainStep team seq 5 fun ctx c ws =>
    let n := trits (ws.getD 3 0) 26 24
    let k := trits (ws.getD 3 0) 23 15
    if namesNone ws = true ∧ trits (ws.getD 0 0) 22 22 ≠ 1 ∧ c.lp = none ∧ 1 ≤ n ∧ n ≤ 8 ∧ 1 ≤ k ∧
        trits (ws.getD 3 0) 14 0 = 0 ∧ allZero (ws.drop 6) = true then
      s.mapChain team seq fun c =>
        { c with pos := c.pos + 81
                 lp := some { first := c.pos + 81, n := n, k := k, iter := 0, sstep := ws.getD 4 0, dstep := ws.getD 5 0 } }
    else s.endHere team c badEntry (s.refOr ctx ws)

/-- Whether COND's fields are valid (R381). -/
def condOk (ws : List Int) : Bool :=
  let w3 := ws.getD 3 0
  let test := trits w3 23 23
  namesNone ws && trits (ws.getD 0 0) 22 22 != 1 && decide (1 ≤ trits w3 26 24) && decide (trits w3 26 24 ≤ 8) &&
    test != 0 && trits w3 22 22 != 1 && (test != 1 || trits w3 22 22 == -1) && decide (0 ≤ trits w3 21 18) &&
    decide (trits w3 21 18 ≤ 8) && trits w3 16 0 == 0 && trits (ws.getD 4 0) 26 18 == 0 && allZero (ws.drop 7) &&
    (trits w3 22 22 != -1 || ws.getD 6 0 == 0) &&
    (test == 1 || (if trits w3 22 22 = -1 then ws.getD 5 0 else ws.getD 5 0 + p3 27 * ws.getD 6 0) % 9 == 0)

/-- Whether the test of a COND holds, or the status of its access: a trit is read as of the release, a generation as it
stands. -/
def State.condHolds (s v : State) (c : UnitCtx) (ws : List Int) : Except Ended Bool :=
  let w3 := ws.getD 3 0
  let trit := trits w3 23 23 = 1
  let space := trits w3 22 22
  let addr := if space = -1 then ws.getD 5 0 else ws.getD 5 0 + p3 27 * ws.getD 6 0
  match s.cells c space addr (if trit then 1 else 9) .load with
  | .error a => .error (3, a)
  | .ok l =>
    if l.any s.badAt then .error (4, addr)
    else if !trit && l.any SyncLoc.below then .error (3, addr)
    else
      let loc := (wordPlace l).getD noPlace
      if trit then .ok (trits (v.tryteAt loc) (trits w3 21 18).toNat (trits w3 21 18).toNat == trits w3 17 17)
      else .ok (genReached ((s.syncAt loc).getD ⟨0, 0, 0⟩).gen (trits (ws.getD 4 0) 17 0))

/-- The places that the test of a COND reads (R438). -/
def State.condPlaces (s : State) (c : UnitCtx) (ws : List Int) : List SyncLoc :=
  let space := trits (ws.getD 3 0) 22 22
  match s.cells c space (if space = -1 then ws.getD 5 0 else ws.getD 5 0 + p3 27 * ws.getD 6 0)
      (if trits (ws.getD 3 0) 23 23 = 1 then 1 else 9) .load with
  | .error _ => []
  | .ok l => l

/-- COND: acts once every earlier entry has completed (R325, R326). -/
def execCond (team : TeamId) (seq : Int) (s : State) : Host.Outcome State Fault Refusal :=
  s.chainStep team seq 6 fun ctx c ws =>
    if condOk ws = false then s.endHere team c badEntry (s.refOr ctx ws)
    else if c.flight ≠ [] then s
    else
      match s.condHolds (s.viewOf team c) ctx ws with
      | .error e => s.endHere team c e none
      | .ok b =>
        (s.visitAll (s.condPlaces ctx ws)).mapChain team seq fun c => c.passEntry (if b then 0 else trits (ws.getD 3 0) 26 24)

/-- SIGNAL: acts once every earlier entry has completed (R325, R326). -/
def execSignal (team : TeamId) (seq : Int) (s : State) : Host.Outcome State Fault Refusal :=
  s.chainStep team seq 7 fun ctx c ws =>
    match s.entryRef ctx ws with
    | .error e => s.endHere team c e none
    | .ok none => s.endHere team c badEntry none
    | .ok (some ref) =>
      if ws.getD 3 0 < 1 ∨ allZero (ws.drop 4) = false then s.endHere team c badEntry (some ref)
      else if c.flight ≠ [] then s
      else (s.raise ref c.core (ws.getD 3 0)).mapChain team seq fun c => c.passEntry 0

/-- STOP: the chain completes once every earlier entry has (R326). -/
def execStop (team : TeamId) (seq : Int) (s : State) : Host.Outcome State Fault Refusal :=
  s.chainStep team seq 0 fun _ c _ =>
    if c.flight ≠ [] then s
    else s.mapChain team seq fun c => { c with state := 1, endPos := c.pos / 81, endIter := c.iter }

/-! ### Entries in flight -/

/-- Replaces the first entry in flight of a chain that satisfies p. -/
def updateFirst (p : Flight → Bool) (f : Flight → Flight) : List Flight → List Flight
  | [] => []
  | x :: xs => if p x then f x :: xs else x :: updateFirst p f xs

def State.mapFlight (s : State) (team : TeamId) (seq : Int) (p : Flight → Bool) (f : Flight → Flight) : State :=
  s.mapChain team seq fun c => { c with flight := updateFirst p f c.flight }

/-- The first entry in flight of a chain that satisfies p, with its chain and team. -/
def State.flight? (s : State) (team : TeamId) (seq : Int) (p : Flight → Bool) : Option (Chain × Flight) :=
  match s.team? team with
  | none => none
  | some m =>
    match m.chain? seq with
    | none => none
    | some c => (c.flight.find? p).map fun f => (c, f)

/-- One converted element (R325): H13 half by half. -/
def convElem (sf df : Int) (scale v : Int) : Int :=
  if df = 3 then
    packElems .halves ((List.range 2).map fun k => (convert .h13 .h13 scale (elem .halves v k)).1)
  else
    match convFmt sf, convFmt df with
    | some a, some b => (convert b a scale v).1
    | _, _ => 0

/-- An integer accumulation of width w (R381). -/
def accInt (acc : Int) (w : Nat) (old y : Int) : Int :=
  if acc = 1 then wrap w (old + y) else if acc = 2 then sat w (old + y)
  else if acc = -1 then min old y else max old y

def accReal (f : RFmt) (acc old y : Int) : Int :=
  if acc = 1 ∨ acc = 2 then (f.addOf old y).1 else if acc = -1 then (f.minOf old y).1 else (f.maxOf old y).1

/-- Accumulation of the old element and the converted value (R325, R381). -/
def accElem (acc df old y : Int) : Int :=
  if df = -2 then accReal tf9 acc old y
  else if df = 2 then accReal tf27 acc old y
  else if df = 3 then
    packElems .halves ((List.range 2).map fun k => accInt acc 13 (elem .halves old k) (elem .halves y k))
  else accInt acc (if df = -1 then 9 else if df = 4 then 3 else 27) old y

/-- The exact value of an element of a ternary format other than H13; none for a NaN or an infinity. -/
def exactOf (f v : Int) : Option TFrac :=
  match (convFmt f).bind realFmt with
  | none => some ⟨v, 0⟩
  | some r =>
    match r.read v with
    | .fin x => some x
    | _ => none

/-- The residue of a converted element (R381). DESIGN CHOICE, safe (log 9). -/
def residueElem (w : Work) (sf rf v y : Int) : Int :=
  match exactOf sf v, exactOf w.dst.fmt y with
  | some a, some b =>
    let e := (a.add (b.scale (-w.scale)).neg).scale (-w.rsh)
    if rf = -1 then sat 9 e.nearest else (tf9.rounded e).1
  | _, _ => wrap 9 (Config.residueOf v y)

/-- What one element writes; its sources are read in the view `v` of memory (R293). -/
def State.elemOut (s v : State) (w : Work) (o : Out) (j : ElemJob) : Out :=
  match w.src with
  | none => s.writeElem o w.dst j.dst w.value
  | some a =>
    let xs := j.src.map (v.readElem [] a.fmt)
    let x := if w.pairs then xs.getD 0 0 + p3 13 * xs.getD 1 0 else xs.getD 0 0
    match w.kind with
    | .conv =>
      let y := convElem a.fmt w.dst.fmt w.scale x
      let z := if w.acc = 0 then y else accElem w.acc w.dst.fmt (v.readElem o w.dst.fmt j.dst) y
      let o := s.writeElem o w.dst j.dst z
      match w.rr with
      | none => o
      | some t => s.writeElem o t j.rr (residueElem w a.fmt t.fmt x z)
    | _ => s.writeElem o w.dst j.dst x

/-- The address of the first source of an element that reads as poisoned: among its source, and the destination that
it accumulates into. -/
def State.elemBad (s v : State) (w : Work) (j : ElemJob) : Option Int :=
  let src := w.src.bind fun a => j.src.flatten.find? (s.pieceBad v a.fmt)
  (src.or (if w.acc = 0 then none else j.dst.find? (s.pieceBad v w.dst.fmt))).map Piece.addr

/-- The trytes of a word of halves that tryte k of one feeds: half 0 lies in trytes 0 and 1, half 1 in 1 and 2. -/
def halfFed (l : List SyncLoc) (k : Nat) : List SyncLoc :=
  if k = 0 then l.take 2 else if k = 2 then l.drop 1 else l

/-- The trytes that the poisoned trytes among an element's sources would feed: in a copy of one format the tryte in
the same place, in a word of halves those of the half, else the whole element (R327). DEDUCED, unsafe (log 85). -/
def State.fed (s v : State) (w : Work) (j : ElemJob) : List SyncLoc :=
  let all := (j.dst ++ j.rr).flatMap Piece.locs
  match w.src with
  | none => []
  | some a =>
    let bad := s.pieceBad v a.fmt
    if w.acc ≠ 0 ∧ (j.dst.any (s.pieceBad v w.dst.fmt)) = true then all
    else if w.kind = .copy ∧ a.fmt = w.dst.fmt then
      ((j.src.headD []).zip j.dst).flatMap fun p =>
        if isByteFmt a.fmt then (if bad p.1 then p.2.locs else [])
        else ((p.1.locs.zip p.2.locs).filter fun x => s.badAt x.1).map Prod.snd
    else if w.pairs then
      j.src.zipIdx.flatMap fun p => if p.1.any bad then halfFed all (2 * p.2) else []
    else if a.fmt = 3 then
      j.src.flatten.flatMap fun p => p.locs.zipIdx.flatMap fun x => if s.badAt x.1 then halfFed all x.2 else []
    else if j.src.flatten.any bad then all else []

/-- All that an entry writes, and the first source address that reads as poisoned: the trytes that a poisoned source
would feed stay unwritten (R327). -/
def State.workOut (s v : State) (w : Work) (r : Reach) : Out × Option Int :=
  let o := r.reserved.foldl (fun o x => Out.put o x.2 0) (r.jobs.foldl (s.elemOut v w) [])
  let fed := r.jobs.flatMap (s.fed v w)
  (o.filter fun c => !(fed.any c.loc.same), r.jobs.findSome? (s.elemBad v w))

/-- Pairs samples into halves; an odd last one takes its half of the word `old`. DEDUCED, unsafe (log 85). -/
def pairSamples (old : Int) : List Int → List Int
  | a :: b :: rest => (a + p3 13 * b) :: pairSamples old rest
  | [a] => [a + p3 13 * elem .halves old 1]
  | [] => []

/-- The elements that a decoded stream gives, and whether every sample fits (R331). -/
def decodedElems (fmt old : Int) (samples : List Int) : List Int × Bool :=
  if fmt = -1 then (samples.takeWhile fun v => fits 9 v, samples.all fun v => fits 9 v)
  else if fmt = 3 then (pairSamples old samples, true)
  else (samples, true)

/-- The samples of a stream under the algorithm of an entry, and whether it keeps its format (R331).
PRESUMED, unsafe (log 117). DESIGN CHOICE, safe (log 8). -/
def decodedStream (w : Work) (bytes : List Int) : List Int × Bool :=
  if w.alg = 1 then riceDecode (riceParams w.params) bytes
  else if w.alg = 2 then Config.decoded bytes
  else
    let r := inflate bytes
    (if w.dst.fmt = -6 then r.1 else Config.sampled w.dst.fmt r.1, r.2)

/-- A decompressed stream: what is written, and the status. Of a stream that a poisoned byte cuts, what the bytes
before it give is written (R327, R331). DESIGN CHOICE, safe (log 8). -/
def State.decompOut (s v : State) (w : Work) (r : Reach) : Out × Ended :=
  let bad := fun p : List Piece => p.any (s.pieceBad v (-6))
  let bytes := (r.stream.takeWhile fun p => !bad p).map (v.readElem [] (-6))
  let (samples, ok) := decodedStream w bytes
  let old := ((r.jobs[samples.length / 2]?).map fun j => v.readElem [] w.dst.fmt j.dst).getD 0
  let (vals, fit) := decodedElems w.dst.fmt old samples
  let o := (vals.zip r.jobs).foldl (fun o p => s.writeElem o w.dst p.2.dst p.1) []
  (o, match r.stream.find? bad with
    | some p => (4, (p.map Piece.addr).headD 0)
    | none => if r.jobs.length < vals.length then (6, 0) else if ok && fit then (0, 0) else (5, 0))

/-- An entry's elements are read in the view `v` of memory and computed; its parts are then to be written. A page that no
longer translates ends it with FAULT. -/
def Flight.compute (f : Flight) (s v : State) (c : UnitCtx) : Flight :=
  match s.reach c f.work f.sshift f.dshift with
  | .error a => { f with computed := true, stat := 3, addr := a }
  | .ok r =>
    match f.work.kind with
    | .decomp =>
      let (o, e) := s.decompOut v f.work r
      { f with computed := true, todo := partsOf o, stat := e.1, addr := e.2 }
    | _ =>
      let (o, bad) := s.workOut v f.work r
      { f with computed := true, todo := partsOf o, stat := if bad.isSome then 4 else 0, addr := bad.getD 0 }

/-- The places that an entry's engine reads (R438). -/
def State.readPlaces (s : State) (c : UnitCtx) (f : Flight) : List SyncLoc :=
  match s.reach c f.work f.sshift f.dshift with
  | .error _ => []
  | .ok r => r.reads.flatMap Piece.locs

/-! ### Read commands (R332, R333, R442, R449) -/

/-- The commands of a storage entry: whole blocks within the drive's transfer limit (R333, R450). -/
def readCommands (bsz maxx : Int) (drive : Nat) (block : Int) (bytes : Nat) : List ReadCommand :=
  let chunk := (max bsz (maxx - maxx % bsz)).toNat
  (List.range ((bytes + chunk - 1) / chunk)).map fun i =>
    let n := min chunk (bytes - i * chunk)
    { cid := none, drive := drive, block := block + (i * chunk : Nat) / bsz, blocks := (n : Int) / bsz,
      first := i * chunk, bytes := n, done := false }

/-- The commands of an entry in flight. -/
def State.commandsOf (s : State) (a : Tensor) (shift : Int) : List ReadCommand :=
  let (bsz, maxx) := (s.drive a.drive).getD (512, 512)
  readCommands bsz maxx a.drive.toNat (a.block shift) a.size.toNat

/-- The word of a storage-table entry. -/
def State.stortab (s : State) (n : Nat) (i : Int) : Int := s.window.word (243 + 9 * (n : Int) + i)

/-- Where the queues of a storage-table entry lie in the staging memory (R442, R449). -/
def submissionAt (n : Nat) : Nat := 524288 * n
def completionAt (n : Nat) : Nat := 524288 * n + 262144

/-- A place of n bytes within the staging memory. -/
def stagePlace (p n : Nat) : Nat := p % (16777216 - n)

/-- The submission queue entry of the k-th command of a drive: a Read command, opcode 02h, with its identifier, namespace,
PRP entries, first block and count of blocks, as NVMe 2.0 lays it out (R332). PRESUMED, unsafe (log 86). -/
def readEntry (nsid : Int) (n k : Nat) (c : ReadCommand) : List (BitVec 8) :=
  bytesOf 2 2 ++ bytesOf 2 k ++ bytesOf 4 nsid.toNat ++ bytesOf 16 0 ++ bytesOf 8 (Config.prpEntry n k 0).toNat ++
    bytesOf 8 (Config.prpEntry n k 1).toNat ++ bytesOf 8 c.block.toNat ++ bytesOf 2 (c.blocks - 1).toNat ++ bytesOf 14 0

/-- The PRP list of a command: an entry for each page of 4,096 bytes after the first. PRESUMED, unsafe (log 86). -/
def prpList (n k bytes : Nat) : List (BitVec 8) :=
  (List.range (bytes / 4096)).flatMap fun i => bytesOf 8 (Config.prpEntry n k (i + 2)).toNat

/-- The queue depth of a storage-table entry, and how many commands the pair has had sent and completed. -/
def State.queueDepth (s : State) (n : Nat) : Nat := (s.stortab n 7).toNat
def State.queueAt (s : State) (n : Nat) : Nat × Nat := s.queues.getD n (0, 0)

/-- Commands in flight of every chain, by their entry. -/
def State.commands (s : State) : List (TeamId × Int × Flight × ReadCommand) :=
  s.teams.flatMap fun m => m.chains.flatMap fun c => c.flight.flatMap fun f => f.cmds.map fun r => (m.id, c.seq, f, r)

/-- Commands in a drive's queue that have not completed, those of entries that are no more among them. -/
def State.readsOut (s : State) (n : Nat) : Nat := (s.queueAt n).1 - (s.queueAt n).2

/-- The storage queue engine, on IO die 1, and the PCI Express port of a storage-table entry, are in service (R472). -/
def State.driveReady (s : State) (n : Nat) : Bool :=
  s.readyTrit 2244 2 == .pos &&
    (if trits (s.stortab n 0) 25 25 = 1 then s.readyTrit 2244 1 else s.readyTrit 2241 1) == .pos

/-- The engine writes a doorbell of a drive, whose bus address stands from word i of its storage-table entry (R449,
R450). -/
def State.ringDrive (s : State) (n : Nat) (i : Int) (value : Nat) : State :=
  { s with doorbells := s.doorbells ++
      [⟨tritAt (s.stortab n 0) 25, s.stortab n i + p3 27 * s.stortab n (i + 1), value⟩] }

/-- A command enters the submission queue of its drive, when the queue has room and the drive can be reached: a queue of
QDEP entries holds QDEP - 1. The tail doorbell tells the drive. DEDUCED, unsafe (log 35). -/
def State.sendRead (s : State) (x : TeamId × Int × Flight × ReadCommand) : State :=
  let (team, seq, f, r) := x
  let n := r.drive
  if s.queueDepth n ≤ s.readsOut n + 1 ∨ s.driveReady n = false then s
  else
    let k := (s.queueAt n).1
    let cid := k % 65536
    let staging := byteSetList (byteSetList s.staging (stagePlace (Config.prpPlace n k) (r.bytes / 512)) (prpList n cid r.bytes))
      (submissionAt n + 64 * (k % s.queueDepth n)) (readEntry (s.stortab n 1) n cid r)
    ({ s with staging := staging, queues := s.queues.set n (k + 1, (s.queueAt n).2) }.ringDrive n 2
      ((k + 1) % s.queueDepth n)).mapFlight team seq
      (fun g => g.off == f.off && g.iter == f.iter)
      fun g => { g with cmds := g.cmds.map fun q => if q = r then { q with cid := some cid } else q }

/-- Every command that waits enters its queue, while the queues have room. -/
def State.sendReads (s : State) : State :=
  (s.commands.filter fun x => x.2.2.2.cid.isNone && x.2.2.1.stat == 0).foldl State.sendRead s

/-- The step of an engine that performs an entry of a kind. -/
def State.perform (s : State) (team : TeamId) (seq off : Int) (k : EntryKind) : State :=
  let p := fun f : Flight => f.off == off && f.work.kind == k && !f.computed
  match s.flight? team seq p with
  | none => s
  | some (c, f) =>
    match f.work.src.filter fun a => a.space == 1 with
    | some a =>
      (s.mapFlight team seq p fun f => { f with computed := true, cmds := s.commandsOf a f.sshift }).sendReads
    | none =>
      let ctx := s.unitCtx team c.system
      (s.visitAll (s.readPlaces ctx f)).mapFlight team seq p fun f => f.compute s (s.viewOf team c) ctx

def execCopy (team : TeamId) (seq off : Int) (s : State) : Host.Outcome State Fault Refusal :=
  .next (s.perform team seq off .copy)

def execConv (team : TeamId) (seq off : Int) (s : State) : Host.Outcome State Fault Refusal :=
  .next (s.perform team seq off .conv)

def execDecomp (team : TeamId) (seq off : Int) (s : State) : Host.Outcome State Fault Refusal :=
  .next (s.perform team seq off .decomp)

def execFill (team : TeamId) (seq off : Int) (s : State) : Host.Outcome State Fault Refusal :=
  .next (s.perform team seq off .fill)

/-- The trytes that a part counts toward the raise: each tryte of an entry counts once (R322). -/
def countOf (part : List PartCell) : Int := ((part.filter PartCell.counts).length : Nat)

/-- The places of the word of one byte of a storage entry's destination. -/
def State.bytePlaces (s : State) (c : UnitCtx) (f : Flight) (l : Int) : List SyncLoc :=
  match s.pieces c f.work.dst (f.work.dst.base + f.dshift) l .store with
  | .error _ => []
  | .ok ps => ps.flatMap Piece.locs

/-- Whether a command that has not completed will write in the sector of a part: the sector is written once, with the
bytes of all of them (R296). -/
def State.awaitsMore (s : State) (c : UnitCtx) (f : Flight) (part : List PartCell) : Bool :=
  f.stat == 0 && f.cmds.any fun r => !r.done && (List.range r.bytes).any fun i =>
    (s.bytePlaces c f (r.first + i : Nat)).any fun l => part.any fun x => sectorKey x.loc == sectorKey l

/-- The part of an entry that lands next: the first that may, in the order in which its trytes were computed.
DESIGN CHOICE, unsafe (log 114). -/
def State.ripePart (s : State) (team : TeamId) (c : Chain) (f : Flight) : Option (List PartCell) :=
  if f.computed then f.todo.find? fun part => !(s.awaitsMore (s.unitCtx team c.system) f part) else none

/-- The first entry in flight at an offset that has a part to land. -/
def State.ripeFlight (s : State) (team : TeamId) (seq off : Int) : Option (Chain × Flight × List PartCell) :=
  match (s.team? team).bind fun m => m.chain? seq with
  | none => none
  | some c => (c.flight.filter fun f => f.off == off).findSome? fun f => (s.ripePart team c f).map fun part => (c, f, part)

/-- ENTRY_PART_WRITTEN: a part lands, and an entry that raises in parts raises its sync word (R322). -/
def execEntryPartWritten (team : TeamId) (seq off : Int) (s : State) : Host.Outcome State Fault Refusal :=
  match s.ripeFlight team seq off with
  | none => .next s
  | some (c, f, part) =>
    let s := (s.writePart noCore part).noteUnit (s.coresOf team) (part.map fun x => (x.loc, x.v))
    let s := match f.ref with
      | some l => if f.raise = 0 ∧ 1 ≤ countOf part then s.raise l c.core (countOf part) else s
      | none => s
    .next (s.mapFlight team seq (· == f) fun f =>
      { f with todo := f.todo.erase part, total := f.total + countOf part, started := true })

/-- Whether an entry has done all it does. -/
def Flight.done (f : Flight) : Bool :=
  f.computed && f.todo.isEmpty && (f.cmds.all ReadCommand.done || f.stat != 0)

/-- ENTRY_COMPLETION: the raise of RAISE +, the release of the locks, and the end with a status. The completion of a
COPY, CONV or FILL clears the TORN marks that its destinations contain (R293, R295, R327). -/
def execEntryCompletion (team : TeamId) (seq off : Int) (s : State) : Host.Outcome State Fault Refusal :=
  let p := fun f : Flight => f.off == off && f.done
  match s.flight? team seq p with
  | none => .next s
  | some (c, f) =>
    let owner := LockOwner.entry seq f.off f.iter
    let s := match f.ref with
      | some l => if f.raise = 1 ∧ f.stat = 0 ∧ 1 ≤ f.total then s.raise l c.core f.total else s
      | none => s
    let s := if f.stat = 0 ∧ f.work.kind ≠ .decomp then s.unlockDone team owner else s.unlock team owner
    let s := { s with orphans := s.orphans ++ f.orphans team seq }.mapChain team seq fun c =>
      { c with flight := c.flight.filter fun x => !(x.off == f.off && x.iter == f.iter) }
    .next (if f.stat = 0 then s.mapChain team seq Chain.settle
      else s.endBad team c (f.stat, f.addr) f.ref f.off f.iter)

/-- Places that the commands completed before have counted already among those of the words at the ends of a command's
bytes: a word of the byte layout holds five (R322). -/
def State.countedPlaces (s : State) (c : UnitCtx) (f : Flight) (r : ReadCommand) : List SyncLoc :=
  ([-4, -3, -2, -1].map fun d : Int => (r.first : Int) + d) ++ ([0, 1, 2, 3].map fun d : Int => (r.first + r.bytes : Nat) + d)
  |>.filter (fun q => f.cmds.any fun x => x.done && decide ((x.first : Int) ≤ q) && decide (q < x.first + x.bytes))
  |>.flatMap (s.bytePlaces c f)

/-- The bytes of a command, in the byte layout of the destination, with the parts that are still to be written (R333). -/
def State.storeBytes (s : State) (c : UnitCtx) (f : Flight) (r : ReadCommand) (bytes : List (BitVec 8)) : Except Int Out :=
  let pending := f.todo.flatten
  match bytes.zipIdx.foldlM (m := Except Int) (fun o p =>
      match s.pieces c f.work.dst (f.work.dst.base + f.dshift) ((r.first + p.2 : Nat) : Int) .store with
      | .error e => .error e
      | .ok ps => .ok (s.writeElem o f.work.dst ps (p.1.toNat : Int))) pending with
  | .error e => .error e
  | .ok o =>
    let counted := s.countedPlaces c f r
    .ok (o.map fun x =>
      if (pending.any fun y => y.loc.same x.loc) || !(counted.any x.loc.same) then x else { x with counts := false })

/-- A drive completes a command: the data that it read goes to its place in the staging memory, and the entry of the
completion queue names the command with its status; the engine takes it and tells the drive by the head doorbell (R442,
R449). PRESUMED, unsafe (log 86). -/
def State.stageRead (s : State) (n cid status : Nat) (data : List (BitVec 8)) : State :=
  let k := (s.queueAt n).2
  let depth := max 1 (s.queueDepth n)
  let entry := bytesOf 12 (Config.completionHead n k).toNat ++ bytesOf 2 cid ++
    bytesOf 2 (2 * status + (1 + k / depth) % 2)
  let m := if status = 0 then byteSetList s.staging (stagePlace (Config.readBuffer n cid) data.length) data else s.staging
  State.ringDrive { s with
    staging := byteSetList m (completionAt n + 16 * (k % depth)) entry
    queues := s.queues.set n ((s.queueAt n).1, k + 1) } n 4 ((k + 1) % depth)

/-- A drive completes a command of an entry that is no more: the queue has its place again (R296, R449). -/
def State.orphanRead (s : State) (team : TeamId) (seq off : Int) (cmd status : Nat) : State :=
  match s.orphans.find? fun o => o.team == team && o.seq == seq && o.off == off && o.cid == cmd with
  | none => s
  | some o =>
    if s.driveReady o.drive then
      ({ s with orphans := s.orphans.erase o }.stageRead o.drive cmd status []).sendReads
    else s

/-- NVME_COMMAND_COMPLETION: the bytes of one command arrive in the staging memory and are to be written, or its status
ends the entry (R333, R442). A byte that the drive did not send stands as the staging memory held it. -/
def execNvmeCommandCompletion (team : TeamId) (seq off : Int) (cmd : Nat) (answer : ReadAnswer) (s : State) :
    Host.Outcome State Fault Refusal :=
  let p := fun f : Flight => f.off == off && f.cmds.any fun r => r.cid == some cmd && !r.done
  match s.flight? team seq p with
  | none => .next (s.orphanRead team seq off cmd answer.status)
  | some (c, f) =>
    match f.cmds.find? fun r => r.cid == some cmd && !r.done with
    | none => .next s
    | some r =>
      if s.driveReady r.drive = false then .next s
      else
      let at_ := stagePlace (Config.readBuffer r.drive cmd) r.bytes
      let data := (List.range r.bytes).map fun i => answer.bytes.getD i (byteGet s.staging (at_ + i))
      let s := s.stageRead r.drive cmd answer.status data
      let gone := fun f : Flight => { f with cmds := f.cmds.map fun q => if q = r then { q with done := true } else q }
      let s' := if f.stat ≠ 0 then s.mapFlight team seq p gone
        else if answer.status ≠ 0 then
          s.mapFlight team seq p fun f => { gone f with stat := 7, addr := (answer.status : Int) }
        else
          match s.storeBytes (s.unitCtx team c.system) f r data with
          | .error a => s.mapFlight team seq p fun f => { gone f with stat := 3, addr := a }
          | .ok o => s.mapFlight team seq p fun f => { gone f with todo := partsOf o }
      .next s'.sendReads

/-- What an engine reset leaves of a lock of an entry (R295). -/
def resetLock (team : TeamId) (owner : LockOwner) (torn : Bool) (l : Lock) : Option Lock :=
  if l.team = team ∧ l.owner = owner then l.abandoned torn else some l

/-- ENGINE_RESET: the entry is abandoned; the destinations of a paired write part way stay locked and TORN
(R295). -/
def execEngineReset (team : TeamId) (seq off : Int) (s : State) : Host.Outcome State Fault Refusal :=
  let p := fun f : Flight => f.off == off
  match s.flight? team seq p with
  | none => .next s
  | some (_, f) =>
    let owner := LockOwner.entry seq f.off f.iter
    let s := { s with locks := s.locks.filterMap (resetLock team owner f.torn) }
    .next ({ s with orphans := s.orphans ++ f.orphans team seq }.mapChain team seq fun c =>
      { c with flight := c.flight.filter fun x => !(x.off == f.off && x.iter == f.iter) }.settle)

end Sys2Proof.Machine
end

