-- ==== Sys2Proof/Machine/SyncInstr.lean ====
section
/-!
DEFINITION. The sync-word instructions of opcode groups -3 and +4: SARM, SADD, SGET, SWAIT and SPOOL (R378,
R384 to R387, R416).
-/

namespace Sys2Proof.Machine

/-- Where a sync-word operand lies and the highest poison mark of its trytes, or the cause its place takes (R377, R378): no
range-lock fault, and no word of a window below 0. -/
def State.syncPlace (s : State) (t : Thread) (p : Place) (perm : Perm) : Except Cause (SyncLoc × Nat) :=
  match p with
  | .g i =>
    match s.offsetFault t (t.readG i) 9 9 with
    | some c => .error c
    | none => .ok (.scratch t.team (t.readG i), s.markOf (.scratch t.team (t.readG i)) 9)
  | .a i =>
    match s.check (s.freeAgent t) perm (t.readA i) 9 (some ⟨9, 3⟩) false false with
    | .error c => .error c
    | .ok segs =>
      match s.placeOfSegs segs with
      | none => .error ⟨6, 1, t.readA i⟩
      | some loc => if loc.below then .error ⟨6, 2, t.readA i⟩ else .ok (loc, s.markOf loc 9)

/-- The read of a sync word by SGET, SWAIT or SPOOL: a poisoned sector or a tryte of the scratchpad with an uncorrectable
error raises data poison (R268, R426). -/
def State.syncRead (s : State) (t : Thread) (p : Place) : Except Cause (SyncLoc × SyncWord) :=
  match s.syncPlace t p .load with
  | .error c => .error c
  | .ok (loc, mark) =>
    if mark ≠ 0 then
      .error ⟨11, mark, match p with
        | .g i => t.readG i
        | .a i => t.readA i⟩
    else .ok (loc, (s.syncAt loc).getD ⟨0, 0, 0⟩)

/-- The trytes of a sync word in memory that SARM writes: COUNT, TARGET and ERR (R289, R384). -/
def syncCells (t : Thread) (p : Place) (loc : SyncLoc) : List (Nat × Nat × Int) :=
  match p with
  | .a i => loc.cells (t.readA i) 7
  | .g _ => []

/-- The trytes of a sync word in memory that a raise by n writes: COUNT, and GEN where it advances (R289, R321). -/
def State.raiseCells (s : State) (t : Thread) (p : Place) (loc : SyncLoc) (n : Int) : List (Nat × Nat × Int) :=
  match p with
  | .a i =>
    let l := loc.cells (t.readA i) 9
    let k := ((s.syncAt loc).map fun w => (w.raise n).2).getD 0
    l.take 3 ++ if k = 0 then [] else l.drop 7
  | .g _ => []

/-- The word of SARM (R384). -/
def SyncWord.arm (w : SyncWord) (target : Int) : SyncWord := { w with count := 0, target := target }.setErr .zero

/-- Changes a sync word, by a core whose own copy follows. -/
def State.changeSync (s : State) (core : Nat) (loc : SyncLoc) (f : SyncWord → SyncWord) : State :=
  match s.syncAt loc with
  | none => s
  | some w => s.putSync core loc (f w)

/-- SARM: COUNT 0, TARGET gc and ERR 0 in one step, GEN unchanged (R384). -/
def execSarm (gd : Guard) (p : Place) (c : Nat) (s : State) : Host.Outcome State Fault Refusal :=
  s.lanes gd [placeUse p, gUse c] fun t s =>
    match s.syncPlace t p .store with
    | .error e => .error e
    | .ok (loc, _) =>
      let write := fun s : State => s.changeSync t.core loc fun w => w.arm (t.readG c)
      .ok (s.atomically t (syncCells t p loc) write fun s => (write s).mapThread t.id Thread.advance)

/-- One lane's SADD: a release, then the raise (R385). A register below 1 gives no address to report. -/
def raiseLane (p : Place) (n : Int) (bad : Cause) (t : Thread) (s : State) : Except Cause State :=
  if n < 1 then .error bad
  else
    match s.syncPlace t p .store with
    | .error e => .error e
    | .ok (loc, _) =>
      let s := s.drainOps t.id
      .ok (s.atomically t (s.raiseCells t p loc n) (fun s => s.changeSync t.core loc fun w => (w.raise n).1) fun s =>
        (s.raiseBy t.core loc t.core n).mapThread t.id Thread.advance)

def execSadd (gd : Guard) (p : Place) (n : Int) (s : State) : Host.Outcome State Fault Refusal :=
  s.lanes gd [placeUse p] fun t s => raiseLane p n (t.illegal 5) t s

def execSaddReg (gd : Guard) (p : Place) (e : Nat) (s : State) : Host.Outcome State Fault Refusal :=
  s.lanes gd [placeUse p, gUse e] fun t s => raiseLane p (t.readG e) ⟨1, 5, 0⟩ t s

def execSget (gd : Guard) (d : Nat) (p : Place) (s : State) : Host.Outcome State Fault Refusal :=
  s.lanes gd [gUse d, gUse (d + 1), gUse (d + 2), placeUse p] fun t s =>
    match s.syncRead t p with
    | .error c => .error c
    | .ok (loc, w) =>
      .ok ((s.visitLoc loc).mapThread t.id fun t =>
        (t.writeGs [(d, w.count), (d + 1, w.target), (d + 2, w.word2)]).advance)

/-- One lane's wait for a generation: at once when it is reached, with an acquire and ERR to cd (R387). A
thread that waits with a cause pending abandons the wait (R409). -/
def waitLane (d : Nat) (p : Place) (c : Nat) (spool : Bool) (t : Thread) (s : State) : Except Cause State :=
  match s.syncRead t p with
  | .error e => .error e
  | .ok (loc, w) =>
    let g := wrap 18 (t.readG c)
    let s := s.visitLoc loc
    let s := if spool then s.drainOps t.id else s
    if genReached w.gen g then
      .ok ((s.acquire t.core).mapThread t.id fun t => (t.writeC d w.err).advance)
    else .ok (s.mapThread t.id fun t => { t with run := .waiting d loc g spool }.abandon)

def execSwait (gd : Guard) (d : Nat) (p : Place) (c : Nat) (s : State) : Host.Outcome State Fault Refusal :=
  s.lanes gd [cUse d, placeUse p, gUse c] (waitLane d p c false)

def execSpool (gd : Guard) (d : Nat) (p : Place) (c : Nat) (s : State) : Host.Outcome State Fault Refusal :=
  s.lanes gd [cUse d, placeUse p, gUse c] (waitLane d p c true)

end Sys2Proof.Machine
end

