-- ==== Sys2Proof/Machine/LoadStore.lean ====
section
/-!
DEFINITION. Loads, stores and atomics of opcode group +3 (R297 to R308).
-/

namespace Sys2Proof.Machine

/-- Trits 0 of the address must be 0 (R298): subcode 1 for a word, 2 for a pair. -/
def wordAlign : Option Align := some ⟨3, 1⟩
def pairAlign : Option Align := some ⟨3, 2⟩

/-- The effective address of an access (R298). -/
def Thread.ea (t : Thread) (b : Nat) (off : Int) : Int := wrap 54 (t.readA b + off)

/-- The deferred cause of a poisoned access (R299). -/
def poisonCause (mark : Nat) (ea : Int) : Option Cause := if mark = 0 then none else some ⟨11, mark, ea⟩

/-- The operation of a load into a general register (R299, R302). -/
def loadOpG (flag : Option Nat) (d : Nat) (v : Int) (c : Option Cause) : LongOp :=
  { LongOp.plain flag with gs := if c.isNone then [(d, v)] else [], dests := [gUse d], cause := c, load := true }

def loadOpA (flag : Option Nat) (d : Nat) (v : Int) (c : Option Cause) : LongOp :=
  { LongOp.plain flag with prs := if c.isNone then [(d, v)] else [], dests := [aUse d], cause := c, load := true }

/-- A load of n trytes into a general register; `f` forms the value of the trytes. A deferred data poison reports the
effective address as the program gave it, whichever sector of it is poisoned. DEDUCED, unsafe (log 73). -/
def loadG (gd : Guard) (h : Hint) (rs : Trit) (d b : Nat) (off : Int) (n : Nat) (al : Option Align)
    (sector whole : Bool) (f : List Int → Int) (s : State) : Host.Outcome State Fault Refusal :=
  s.loadLanes gd [gUse d, aUse b] (fun s t => s.laneSegs gd [gUse d, aUse b] .load (t.ea b off) n al sector whole t)
    fun view t s =>
    match view.loadFrom s t h (t.ea b off) n al sector whole with
    | .error c => .error c
    | .ok ((vals, mark), s) =>
      .ok (s.mapThread t.id fun t =>
        (t.begin (loadOpG (t.raisedFlag rs) d (f vals) (poisonCause mark (t.ea b off)))).advance)

def execLd9 (gd : Guard) (h : Hint) (rs : Trit) (d b : Nat) (off : Int) (s : State) :
    Host.Outcome State Fault Refusal :=
  loadG gd h rs d b off 1 none false false (fun l => l.getD 0 0) s

def execLd27 (gd : Guard) (h : Hint) (rs : Trit) (d b : Nat) (off : Int) (s : State) :
    Host.Outcome State Fault Refusal :=
  loadG gd h rs d b off 3 wordAlign false true wordOfTrytes s

def execLdh (gd : Guard) (h : Hint) (rs : Trit) (d b : Nat) (off : Int) (s : State) :
    Host.Outcome State Fault Refusal :=
  loadG gd h rs d b off 2 none true false (packElems .halves) s

def execLda (gd : Guard) (h : Hint) (rs : Trit) (d b : Nat) (off : Int) (s : State) :
    Host.Outcome State Fault Refusal :=
  s.loadLanes gd [aUse d, aUse b]
    (fun s t => s.laneSegs gd [aUse d, aUse b] .load (t.ea b off) 6 pairAlign false true t) fun view t s =>
    match view.loadFrom s t h (t.ea b off) 6 pairAlign false true with
    | .error c => .error c
    | .ok ((vals, mark), s) =>
      .ok (s.mapThread t.id fun t =>
        (t.begin (loadOpA (t.raisedFlag rs) d (pairOf vals)
          (poisonCause mark (t.ea b off)))).advance)

/-- A store of the trytes that `f` takes from the thread. -/
def storeOf (gd : Guard) (h : Hint) (rs : Trit) (src : RegUse) (b : Nat) (off : Int) (al : Option Align)
    (sector whole : Bool) (f : Thread → List Int) (s : State) : Host.Outcome State Fault Refusal :=
  s.storeLanes gd [src, aUse b]
    (fun s t => s.laneSegs gd [src, aUse b] .store (t.ea b off) (f t).length al sector whole t) fun t s =>
    s.storeMem t h (t.ea b off) al sector whole (f t) fun t => storeDone (t.raisedFlag rs) t

def execSt9 (gd : Guard) (h : Hint) (rs : Trit) (d b : Nat) (off : Int) (s : State) :
    Host.Outcome State Fault Refusal :=
  storeOf gd h rs (gUse d) b off none false false (fun t => [trits (t.readG d) 8 0]) s

def execSt27 (gd : Guard) (h : Hint) (rs : Trit) (d b : Nat) (off : Int) (s : State) :
    Host.Outcome State Fault Refusal :=
  storeOf gd h rs (gUse d) b off wordAlign false true (fun t => trytesOfWord (t.readG d)) s

def execSth (gd : Guard) (h : Hint) (rs : Trit) (d b : Nat) (off : Int) (s : State) :
    Host.Outcome State Fault Refusal :=
  storeOf gd h rs (gUse d) b off none true false
    (fun t => [sat 9 (elem .halves (t.readG d) 0), sat 9 (elem .halves (t.readG d) 1)]) s

def execSta (gd : Guard) (h : Hint) (rs : Trit) (d b : Nat) (off : Int) (s : State) :
    Host.Outcome State Fault Refusal :=
  storeOf gd h rs (aUse d) b off pairAlign false true
    (fun t => trytesOfWord (loWord (t.readA d)) ++ trytesOfWord (hiWord (t.readA d))) s

/-! ### Scratchpad (R305) -/

def loadScratch (gd : Guard) (rs : Trit) (d b : Nat) (off : Int) (n : Nat) (s : State) :
    Host.Outcome State Fault Refusal :=
  s.lanes gd [gUse d, gUse b] fun t s =>
    let o := t.readG b + off
    match s.scratchCheck t .load o n with
    | .error c => .error c
    | .ok _ =>
      let (vals, bad) := s.scratchRead t o.toNat n
      .ok (s.mapThread t.id fun t =>
        (t.begin (loadOpG (t.raisedFlag rs) d (wordOfTrytes vals) (poisonCause (if bad then 2 else 0) o))).advance)

def storeScratch (gd : Guard) (rs : Trit) (d b : Nat) (off : Int) (f : Int → List Int) (s : State) :
    Host.Outcome State Fault Refusal :=
  s.lanes gd [gUse d, gUse b] fun t s =>
    let o := t.readG b + off
    let vals := f (t.readG d)
    match s.scratchCheck t .store o vals.length with
    | .error c => .error c
    | .ok _ => .ok (s.scratchStore t o vals fun t => storeDone (t.raisedFlag rs) t)

def execLds9 (gd : Guard) (rs : Trit) (d b : Nat) (off : Int) (s : State) : Host.Outcome State Fault Refusal :=
  loadScratch gd rs d b off 1 s

def execLds27 (gd : Guard) (rs : Trit) (d b : Nat) (off : Int) (s : State) : Host.Outcome State Fault Refusal :=
  loadScratch gd rs d b off 3 s

def execSts9 (gd : Guard) (rs : Trit) (d b : Nat) (off : Int) (s : State) : Host.Outcome State Fault Refusal :=
  storeScratch gd rs d b off (fun x => [trits x 8 0]) s

def execSts27 (gd : Guard) (rs : Trit) (d b : Nat) (off : Int) (s : State) : Host.Outcome State Fault Refusal :=
  storeScratch gd rs d b off trytesOfWord s

/-! ### Atomics (R307, R308) -/

/-- An atomic by one lane: the release first, the word at its home slice, then the acquire. `f` gives the
value written, or nothing where no write takes place. A .sc atomic takes its ticket from the sequencer, and waits where
that is not in service (R285, R473). -/
def atomicLane (o : Order) (rs : Trit) (d b : Nat) (f : Thread → Int → Option Int) (t : Thread) (s : State) :
    Except Cause State :=
  let ea := t.readA b
  match s.check (s.agentOf t) .atomic ea 3 wordAlign false true with
  | .error c => .error c
  | .ok segs =>
    let s := s.noteSegs (s.agentOf t) segs
    let s := if releases o then s.drainOps t.id else s
    let s := if o = .sc then { s.needs s.sequencerReady with tickets := s.tickets + 1 } else s
    .ok (s.atomically t (if (f t (s.wordAtSegs segs).1).isSome then s.cellsAt segs else [])
      (fun s => (s.atomicAt t.core segs (f t)).2) fun s =>
      let ((old, mark), s) := s.atomicAt t.core segs (f t)
      let s := if acquires o then s.acquire t.core else s
      s.mapThread t.id fun t => (t.begin (loadOpG (t.raisedFlag rs) d old (poisonCause mark ea))).advance)

/-- An atomic whose new value comes from the old word and gc. -/
def atomicOf (gd : Guard) (o : Order) (rs : Trit) (d b c : Nat) (f : Int → Int → Int) (s : State) :
    Host.Outcome State Fault Refusal :=
  s.lanes gd [gUse d, aUse b, gUse c] (atomicLane o rs d b fun t old => some (f old (t.readG c)))

def execXadd (gd : Guard) (o : Order) (rs : Trit) (d b c : Nat) (s : State) : Host.Outcome State Fault Refusal :=
  atomicOf gd o rs d b c (fun old x => wrap 27 (old + x)) s

def execXmin (gd : Guard) (o : Order) (rs : Trit) (d b c : Nat) (s : State) : Host.Outcome State Fault Refusal :=
  atomicOf gd o rs d b c min s

def execXmax (gd : Guard) (o : Order) (rs : Trit) (d b c : Nat) (s : State) : Host.Outcome State Fault Refusal :=
  atomicOf gd o rs d b c max s

def execXswp (gd : Guard) (o : Order) (rs : Trit) (d b c : Nat) (s : State) : Host.Outcome State Fault Refusal :=
  atomicOf gd o rs d b c (fun _ x => x) s

def execXcas (gd : Guard) (o : Order) (rs : Trit) (d b c e : Nat) (s : State) :
    Host.Outcome State Fault Refusal :=
  s.lanes gd [gUse d, aUse b, gUse c, gUse e]
    (atomicLane o rs d b fun t old => if old = t.readG c then some (t.readG e) else none)

def execXsum (gd : Guard) (o : Order) (rs : Trit) (d b c : Nat) (s : State) : Host.Outcome State Fault Refusal :=
  atomicOf gd o rs d b c (mapTrits2 tsumTrit) s

/-! ### Completion (R300) -/

/-- LONG_LATENCY_COMPLETION: the operation completes, and where the instruction at the slot waits for the
destination that its cause left unwritten, the first pending cause is delivered there (R299, R409).
DESIGN CHOICE, unsafe (log 56). -/
def execLongLatencyCompletion (id : ThreadId) (op : Nat) (s : State) : Host.Outcome State Fault Refusal :=
  .next ((s.finishOp id op).mapThread id fun t =>
    if t.run = .ganged ∧ t.status.intrap = false ∧ t.waitsForPoison = true then t.takePending t.slot else t).settle

/-- SECTOR_FILL: the slice's pending fill of a sector ends, merged under the writes made meanwhile, and the
L1s that asked for it are filled (R262, R267, R306). Where the slice does not hold the sector, the reading is that of an
access without allocation, and a sector found bad reads as poisoned from then on. DESIGN CHOICE, unsafe (log 68). -/
def execSectorFill (home : Nat) (sector : Int) (noise : List (List (BitVec 8))) (s : State) :
    Host.Outcome State Fault Refusal :=
  let sec := sector.toNat
  let s := if (s.sliceAt home sec).isNone && (s.readHbm .pos sec noise).2 then
      { s with hbmPoison := addSorted s.hbmPoison sec }
    else s
  if (s.sliceAt home sec).isSome || s.prefetches.any fun x => x.names home sec then
    .next ((s.visit home).completeFill home sec noise)
  else .next s

end Sys2Proof.Machine
end

