-- ==== Sys2Proof/Machine/Tiles.lean ====
section
/-!
DEFINITION. Tile registers, accumulators and the matrix engine (R142 to R146, R228 to R245).
-/

namespace Sys2Proof.Machine

/-! ### Shapes (R229, R230) -/

/-- FMT, ROWS and COLS of a shape word. -/
structure TShape where
  fmt : Int
  rows : Int
  cols : Int
  deriving DecidableEq, Repr

def shapeOf (x : Int) : TShape := ⟨trits x 14 12, trits x 11 6, trits x 5 0⟩

/-- The COLS limit of a format; none for a code the table does not list. -/
def colLimit (fmt : Int) : Option Int :=
  if fmt = -3 ∨ fmt = 3 then some 243
  else if fmt = -2 ∨ fmt = -1 ∨ fmt = 4 then some 81
  else if fmt = 1 ∨ fmt = 2 then some 27
  else none

def validShape (x : Int) : Bool :=
  x == 0 ||
    match colLimit (shapeOf x).fmt with
    | none => false
    | some c =>
      trits x 26 15 == 0 && decide (1 ≤ (shapeOf x).rows) && decide ((shapeOf x).rows ≤ 81) &&
        decide (1 ≤ (shapeOf x).cols) && decide ((shapeOf x).cols ≤ c)

/-- Trytes of a row that hold its in-extent elements (R230). -/
def TShape.rowLen (t : TShape) : Nat :=
  if t.fmt = -3 then ((t.cols + 8) / 9).toNat
  else if t.fmt = 1 ∨ t.fmt = 2 then (3 * t.cols).toNat
  else if t.fmt = 3 then ((t.cols + 2) / 3).toNat
  else t.cols.toNat

/-! ### The set of a core (R228) -/

def Team.core? (m : Team) (core : Nat) : Option TileCore := m.tiles[core - m.core]?

def State.tileAt (s : State) (t : Thread) (k : Nat) : Tile :=
  (((s.team? t.team).bind fun m => m.core? t.core).bind fun c => c.tiles[k]?).getD ⟨0, []⟩

def State.accAt (s : State) (t : Thread) (k : Nat) : Acc :=
  (((s.team? t.team).bind fun m => m.core? t.core).bind fun c => c.accs[k]?).getD ⟨[], []⟩

def State.mapTiles (s : State) (t : Thread) (f : TileCore → TileCore) : State :=
  s.mapTeam t.team fun m =>
    match m.core? t.core with
    | none => m
    | some c => { m with tiles := m.tiles.set (t.core - m.core) (f c) }

def State.setTile (s : State) (t : Thread) (k : Nat) (f : Tile → Tile) : State :=
  s.mapTiles t fun c => { c with tiles := c.tiles.modify k f }

def State.setAcc (s : State) (t : Thread) (k : Nat) (f : Acc → Acc) : State :=
  s.mapTiles t fun c => { c with accs := c.accs.modify k f }

def Tile.sh (x : Tile) : TShape := shapeOf x.shape

/-- Tryte c of row r. -/
def Tile.tryte (x : Tile) (r c : Nat) : Int := memGet x.data (81 * r + c)

/-- Element c of row r under the tile's own format (R230). -/
def Tile.elem (x : Tile) (r c : Nat) : Int :=
  if x.sh.fmt = -3 then trits (x.tryte r (c / 9)) (c % 9) (c % 9)
  else if x.sh.fmt = 1 ∨ x.sh.fmt = 2 then wordOfTrytes [x.tryte r (3 * c), x.tryte r (3 * c + 1), x.tryte r (3 * c + 2)]
  else if x.sh.fmt = 3 then trits (x.tryte r (c / 3)) (3 * (c % 3) + 2) (3 * (c % 3))
  else x.tryte r c

def Tile.putRow (x : Tile) (r : Nat) (vals : List Int) : Tile := { x with data := memSetList x.data (81 * r) vals }

def Acc.word (a : Acc) (i j : Nat) : Int := memGet a.data (27 * i + j)
def Acc.put (a : Acc) (i j : Nat) (v : Int) : Acc := { a with data := memSet a.data (27 * i + j) v }
def Acc.mark (a : Acc) (i : Nat) : Acc := { a with rovf := addSorted a.rovf i }

/-- Whether a boarding holds a tile register of the thread's core (R231, R391). -/
def State.boarded (s : State) (t : Thread) (k : Nat) : Bool :=
  match s.team? t.team with
  | none => false
  | some m =>
    m.boardings.any fun b =>
      b.core == t.core && (b.state == .armed || b.state == .riding || b.state == .held) &&
        match b.dest with
        | .tile n => k == n || k == n + 1
        | .scratch _ _ => false

/-- The first tile fault of a list of conditions, the lowest subcode first (R231). -/
def tileFault (l : List (Bool × Int)) : Option Cause := (l.find? Prod.fst).map fun x => ⟨15, x.2, 0⟩

/-- The row that gc names (R236). -/
def Thread.row (t : Thread) (c : Nat) : Int := (t.lane : Int) + t.readG c
def badRow (r : Int) : Bool := decide (r < 0) || decide (80 < r)

/-- A tile operation by one lane: the operations of one issue complete together (R232, R233). -/
def tileLong (s : State) (flag : Option Nat) (names : List RegUse) : LongOp :=
  { LongOp.plain flag with dests := names, tileOp := some s.tick }

def State.tileDone (s : State) (t : Thread) (o : LongOp) : State := s.mapThread t.id fun t => (t.begin o).advance

/-! ### Shaping (R235) -/

/-- Completes the tile operations of a group that name a tile register. -/
def State.quiesce (s : State) (team : TeamId) (grp : Nat) (ks : List Nat) : State :=
  let ops := (s.threads.filter fun t => t.team == team && t.grp == grp).flatMap fun t =>
    (t.ops.filter fun o => o.tileOp.isSome && ks.any fun k => o.dests.contains (mUse k)).map fun o => (t.id, o.num)
  ops.foldl (fun s p => s.finishOp p.1 p.2) s

def execTset (gd : Guard) (m b : Nat) (s : State) : Host.Outcome State Fault Refusal :=
  s.forGroups gd [mUse m, gUse b] fun t ts s =>
    match tileFault [(!(validShape (t.readG b)), 1), (s.boarded t m, 5)] with
    | some c => .error c
    | none =>
      .ok (((s.quiesce t.team t.grp [m]).setTile t m fun x => { x with shape := t.readG b }).advanceAll ts)

def execTget (gd : Guard) (d m : Nat) (s : State) : Host.Outcome State Fault Refusal :=
  s.lanes gd [gUse d, mUse m] fun t s =>
    let v := (s.tileAt t m).shape
    .ok (s.mapThread t.id fun t => (t.writeG d v).advance)

/-! ### Rows to and from memory (R236, R237) -/

/-- Alignment of a row: words of T27 and TF27 rows at multiples of 3 trytes. -/
def rowAlign (fmt : Int) : Option Align := if fmt = 1 ∨ fmt = 2 then wordAlign else none

/-- One lane's load of a row: `n` trytes at ab, of which `f` forms the row's leading trytes. Its data poison has subcode 1
also where the mark was set on chip, and reports ab as the program gave it. DEDUCED, unsafe (log 73).
DESIGN CHOICE, unsafe (log 112). -/
def loadRow (rs : Trit) (m a c : Nat) (bad : TShape → Bool) (len : TShape → Nat)
    (f : TShape → List Int → List Int) (al : TShape → Option Align) (view : State) (t : Thread) (s : State) :
    Except Cause State :=
  let x := s.tileAt t m
  let r := t.row c
  match tileFault [(x.shape == 0 || bad x.sh, 1), (badRow r, 3), (s.boarded t m, 5)] with
  | some e => .error e
  | none =>
    let none_ := tileLong s (t.raisedFlag rs) [mUse m]
    let op := { none_ with load := true }
    if x.sh.rows ≤ r then .ok (s.tileDone t none_)
    else
      match view.loadFrom s t .default (t.readA a) (len x.sh) (al x.sh) false false with
      | .error e => .error e
      | .ok ((vals, mark), s) =>
        if mark ≠ 0 then .ok (s.tileDone t { op with cause := poisonCause 1 (t.readA a) })
        else .ok ((s.setTile t m fun y => y.putRow r.toNat (f x.sh vals)).tileDone t op)

/-- Whether a lane's TLD or TST accesses memory: its row lies in the extent of its tile, and no tile fault stops it. -/
def State.movesRow (s : State) (t : Thread) (m c : Nat) (bad : TShape → Bool) : Bool :=
  let x := s.tileAt t m
  (tileFault [(x.shape == 0 || bad x.sh, 1), (badRow (t.row c), 3), (s.boarded t m, 5)]).isNone && decide (t.row c < x.sh.rows)

/-- The pieces of the row that a lane moves. -/
def State.rowSegs (gd : Guard) (p : Perm) (m a c : Nat) (bad : TShape → Bool) (len : TShape → Nat)
    (al : TShape → Option Align) (s : State) (t : Thread) : List Seg :=
  let x := (s.tileAt t m).sh
  if s.movesRow t m c bad then s.laneSegs gd [mUse m, aUse a, gUse c] p (t.readA a) (len x) (al x) false false t else []

def execTld (gd : Guard) (rs : Trit) (m a c : Nat) (s : State) : Host.Outcome State Fault Refusal :=
  s.loadLanes gd [mUse m, aUse a, gUse c]
    (State.rowSegs gd .load m a c (fun _ => false) TShape.rowLen fun x => rowAlign x.fmt)
    (loadRow rs m a c (fun _ => false) TShape.rowLen (fun _ l => l) (fun x => rowAlign x.fmt))

/-- The T3 elements of packed trytes, each widened to a tryte (R230). -/
def expandT3 (n : Nat) (l : List Int) : List Int :=
  (List.range n).map fun c => trits (l.getD (c / 3) 0) (3 * (c % 3) + 2) (3 * (c % 3))

def execTldX (gd : Guard) (rs : Trit) (m a c : Nat) (s : State) : Host.Outcome State Fault Refusal :=
  s.loadLanes gd [mUse m, aUse a, gUse c]
    (State.rowSegs gd .load m a c (fun x => x.fmt != -1) (fun x => ((x.cols + 2) / 3).toNat) fun _ => none)
    (loadRow rs m a c (fun x => x.fmt != -1) (fun x => ((x.cols + 2) / 3).toNat)
      (fun x l => expandT3 x.cols.toNat l) (fun _ => none))

/-- Checked stores of one thread, in order, buffered together in deterministic mode (R287). -/
def State.plainStores (s : State) (t : Thread) (l : List (List Seg × List Int)) (fin : Thread → Thread) : State :=
  if t.status.det then
    let new := l.flatMap fun x => s.bufferOf .default t.quantum x.1 x.2
    if bufSectors (t.buf ++ new) ≤ 27 then s.mapThread t.id fun t => fin { t with buf := t.buf ++ new }
    else s.mapThread t.id Thread.endQuantum
  else (l.foldl (fun s x => s.storeAll t.core .default x.1 x.2) s).mapThread t.id fin

/-- How TST and DRAIN end: in deterministic mode at once, as their stores enter the buffer (R300). -/
def rowsStored (op : LongOp) (t : Thread) : Thread :=
  (if t.status.det then t.raise op.sets else t.begin op).advance

def execTst (gd : Guard) (rs : Trit) (m a c : Nat) (s : State) : Host.Outcome State Fault Refusal :=
  s.storeLanes gd [mUse m, aUse a, gUse c]
    (State.rowSegs gd .store m a c (fun _ => false) TShape.rowLen fun x => rowAlign x.fmt) fun t s =>
    let x := s.tileAt t m
    let r := t.row c
    match tileFault [(x.shape == 0, 1), (badRow r, 3), (s.boarded t m, 5)] with
    | some e => .error e
    | none =>
      let op := tileLong s (t.raisedFlag rs) [mUse m]
      if x.sh.rows ≤ r then .ok (s.tileDone t op)
      else
        let vals := (List.range x.sh.rowLen).map fun k => x.tryte r.toNat k
        match s.check (s.agentOf t) .store (t.readA a) vals.length (rowAlign x.sh.fmt) false false with
        | .error e => .error e
        | .ok segs => .ok ((s.noteSegs (s.agentOf t) segs).plainStores t [(segs, vals)] (rowsStored op))

def execTzero (gd : Guard) (rs : Trit) (m c : Nat) (s : State) : Host.Outcome State Fault Refusal :=
  s.lanes gd [mUse m, gUse c] fun t s =>
    let r := t.row c
    match tileFault [(badRow r, 3), (s.boarded t m, 5)] with
    | some e => .error e
    | none =>
      .ok ((s.setTile t m fun x => x.putRow r.toNat (List.replicate 81 0)).tileDone t
        (tileLong s (t.raisedFlag rs) [mUse m]))

def execTzeroQ (gd : Guard) (rs : Trit) (q c : Nat) (s : State) : Host.Outcome State Fault Refusal :=
  s.lanes gd [qUse q, gUse c] fun t s =>
    let r := t.row c
    match tileFault [(badRow r, 3)] with
    | some e => .error e
    | none =>
      .ok ((s.setAcc t q fun a =>
          { data := memSetList a.data (27 * r.toNat) (List.replicate 27 0),
            rovf := a.rovf.filter (· != r.toNat) }).tileDone t
        (tileLong s (t.raisedFlag rs) [qUse q]))

/-! ### Matrix operations (R238 to R240) -/

/-- The requirements common to MMA9, MMAF, MSHA and MBS (R238): ROWS of B = K and N ≤ 27. -/
def badExtents (k : Int) (b : TShape) : Bool := b.rows != k || decide (27 < b.cols)

/-- The in-extent reduction indices of block n (R142). -/
def blockOf (k n : Nat) : List Nat := (List.range 27).map (fun i => 27 * n + i) |>.filter fun i => decide (i < k)
def blockCount (k : Nat) : Nat := (k + 26) / 27

/-- Updates the elements of row i for columns below n, each block in turn; `f` gives an element's new
value, whether it overflows its row, and its flags (R143). -/
def updateRow (i n k : Nat) (f : Nat → Nat → Int → Int × Bool × RealFlags) (a : Acc) : Acc × RealFlags :=
  (List.range (blockCount k)).foldl (fun st b =>
    (List.range n).foldl (fun st j =>
      let (v, ovf, fl) := f b j (st.1.word i j)
      let acc := st.1.put i j v
      (if ovf then acc.mark i else acc, st.2.or fl)) st) (a, RealFlags.clear)

/-- One lane's part of a matrix operation once its tiles are checked; `real` says that it may set real flags (R240). -/
def matrixLane (real : Bool) (rs : Trit) (q : Nat) (names : List RegUse) (t : Thread) (s : State) (rows : Int) (n k : Nat)
    (f : Nat → Nat → Int → Int × Bool × RealFlags) : State :=
  let op := { tileLong s (t.raisedFlag rs) (qUse q :: names) with flagging := real }
  if rows ≤ t.lane then s.tileDone t op
  else
    let (acc, fl) := updateRow t.lane n k f (s.accAt t q)
    (s.setAcc t q fun _ => acc).tileDone t { op with sets := fl }

/-- The element update of the integer formats: the exact block sum, then narrowing (R143). -/
def addBlock (narrow : Int → Int) (acc x : Int) : Int × Bool × RealFlags :=
  (narrow (acc + x), !(fits 27 (acc + x)), RealFlags.clear)

def execMma9 (gd : Guard) (rs : Trit) (q a b : Nat) (s : State) : Host.Outcome State Fault Refusal :=
  s.lanes gd [qUse q, mUse a, mUse b] fun t s =>
    let A := s.tileAt t a
    let B := s.tileAt t b
    match tileFault [(A.sh.fmt != -1 || B.sh.fmt != -1, 1), (badExtents A.sh.cols B.sh, 2),
        (s.boarded t a || s.boarded t b, 5)] with
    | some e => .error e
    | none =>
      let k := A.sh.cols.toNat
      .ok (matrixLane false rs q [mUse a, mUse b] t s A.sh.rows B.sh.cols.toNat k fun n j acc =>
        addBlock (wrap 27) acc ((blockOf k n).map fun i => A.elem t.lane i * B.elem i j).sum)

/-- The value of A of MSPA at reduction index k of row i (R239). -/
def sparseElem (A M : Tile) (i k : Nat) : Int :=
  if M.elem i (k / 3) + 1 = ((k % 3 : Nat) : Int) then A.elem i (k / 3) else 0

def execMspa (gd : Guard) (rs : Trit) (q a b e : Nat) (s : State) : Host.Outcome State Fault Refusal :=
  s.lanes gd [qUse q, mUse a, mUse b, mUse e] fun t s =>
    let A := s.tileAt t a
    let B := s.tileAt t b
    let M := s.tileAt t e
    let K := 3 * A.sh.cols
    match tileFault [(A.sh.fmt != -1 || B.sh.fmt != -1 || M.sh.fmt != -3, 1),
        (badExtents K B.sh || decide (81 < K) || decide (M.sh.rows < A.sh.rows) || M.sh.cols != A.sh.cols, 2),
        (s.boarded t a || s.boarded t b || s.boarded t e, 5)] with
    | some c => .error c
    | none =>
      .ok (matrixLane false rs q [mUse a, mUse b, mUse e] t s A.sh.rows B.sh.cols.toNat K.toNat fun n j acc =>
        addBlock (wrap 27) acc ((blockOf K.toNat n).map fun i => sparseElem A M t.lane i * B.elem i j).sum)

/-- MSHA over one or two term planes. -/
def mshaLane (rs : Trit) (q a b : Nat) (e : Option Nat) (t : Thread) (s : State) : Except Cause State :=
  let A := s.tileAt t a
  let B := s.tileAt t b
  let P := e.map (s.tileAt t)
  let bad1 := match P with
    | none => false
    | some p => p.sh.fmt != 3
  let bad2 := match P with
    | none => false
    | some p => p.sh.rows != A.sh.cols || p.sh.cols != B.sh.cols
  let held := match e with
    | none => false
    | some x => s.boarded t x
  match tileFault [(A.sh.fmt != -1 || B.sh.fmt != 3 || bad1, 1), (badExtents A.sh.cols B.sh || bad2, 2),
      (s.boarded t a || s.boarded t b || held, 5)] with
  | some c => .error c
  | none =>
    let k := A.sh.cols.toNat
    let w := fun i j => termOf (B.elem i j) + (match P with | none => 0 | some p => termOf (p.elem i j))
    let names := match e with
      | none => [mUse a, mUse b]
      | some x => [mUse a, mUse b, mUse x]
    .ok (matrixLane false rs q names t s A.sh.rows B.sh.cols.toNat k fun n j acc =>
      addBlock (sat 27) acc ((blockOf k n).map fun i => A.elem t.lane i * w i j).sum)

def execMshaW3 (gd : Guard) (rs : Trit) (q a b : Nat) (s : State) : Host.Outcome State Fault Refusal :=
  s.lanes gd [qUse q, mUse a, mUse b] (mshaLane rs q a b none)

def execMshaW6 (gd : Guard) (rs : Trit) (q a b e : Nat) (s : State) : Host.Outcome State Fault Refusal :=
  s.lanes gd [qUse q, mUse a, mUse b, mUse e] (mshaLane rs q a b (some e))

/-- The fractions of operands that are all finite. -/
def finites (l : List RVal) : List TFrac :=
  l.filterMap fun x =>
    match x with
    | .fin v => some v
    | _ => none

/-- The update of MMAF: the special rows of R144, else one rounding of the exact block sum. -/
def mmafBlock (acc : Int) (ps : List (Int × Int)) : Int × Bool × RealFlags :=
  let xs := ps.map fun p => (tf9.read p.1, tf9.read p.2)
  let prods := xs.map fun p => p.1.times p.2
  let ins := tf27.read acc :: xs.flatMap fun p => [p.1, p.2]
  let all := ins ++ prods
  let zi := xs.any fun p => zeroTimesInf p.1 p.2
  let both := (all.any fun x => x.isInf && x.negative) && (all.any fun x => x.isInf && !x.negative)
  if zi ∨ both then (tf27.nan, false, { RealFlags.clear with inv := true })
  else if ins.any RVal.isNan then (tf27.nan, false, RealFlags.clear)
  else
    match (tf27.read acc :: prods).find? RVal.isInf with
    | some x => (tf27.inf x.negative, false, RealFlags.clear)
    | none =>
      let r := tf27.rounded (TFrac.sum (finites (tf27.read acc :: prods)))
      (r.1, false, r.2)

def execMmaf (gd : Guard) (rs : Trit) (q a b : Nat) (s : State) : Host.Outcome State Fault Refusal :=
  s.lanes gd [qUse q, mUse a, mUse b] fun t s =>
    let A := s.tileAt t a
    let B := s.tileAt t b
    match tileFault [(A.sh.fmt != -2 || B.sh.fmt != -2, 1), (badExtents A.sh.cols B.sh, 2),
        (s.boarded t a || s.boarded t b, 5)] with
    | some e => .error e
    | none =>
      let k := A.sh.cols.toNat
      .ok (matrixLane true rs q [mUse a, mUse b] t s A.sh.rows B.sh.cols.toNat k fun n j acc =>
        mmafBlock acc ((blockOf k n).map fun i => (A.elem t.lane i, B.elem i j)))

/-- The update of MBS: a special accumulator stays, else acc + n·sA·sB rounded once (R143, R144). -/
def mbsBlock (acc n sa sb : Int) : Int × Bool × RealFlags :=
  match tf27.read acc with
  | .nan _ => (tf27.nan, false, RealFlags.clear)
  | .inf b => (tf27.inf b, false, RealFlags.clear)
  | .fin v =>
    let r := tf27.rounded (v.add ((TFrac.mul ⟨n, 0⟩ (scaleOf sa)).mul (scaleOf sb)))
    (r.1, false, r.2)

def execMbs (gd : Guard) (rs : Trit) (q a b e : Nat) (s : State) : Host.Outcome State Fault Refusal :=
  s.lanes gd [qUse q, mUse a, mUse b, mUse e] fun t s =>
    let A := s.tileAt t a
    let B := s.tileAt t b
    let S := s.tileAt t e
    let K := A.sh.cols
    match tileFault [(A.sh.fmt != -1 || B.sh.fmt != -1 || S.sh.fmt != 4, 1),
        (badExtents K B.sh || decide (S.sh.rows < max A.sh.rows ((K + 26) / 27)) ||
          decide (S.sh.cols < 3 + B.sh.cols), 2),
        (s.boarded t a || s.boarded t b || s.boarded t e, 5)] with
    | some c => .error c
    | none =>
      let k := K.toNat
      .ok (matrixLane true rs q [mUse a, mUse b, mUse e] t s A.sh.rows B.sh.cols.toNat k fun n j acc =>
        mbsBlock acc ((blockOf k n).map fun i => A.elem t.lane i * B.elem i j).sum (S.elem t.lane n)
          (S.elem n (3 + j)))

/-! ### Draining (R242, R243) -/

/-- The control word of DRAIN. -/
structure DrainCtl where
  ncol : Int
  qfmt : Int
  rfmt : Int
  qsh : Int
  rsh : Int
  deriving DecidableEq, Repr

def drainCtl (x : Int) : DrainCtl := ⟨trits x 20 17, trits x 16 15, trits x 14 13, trits x 12 8, trits x 7 3⟩

def badDrain (x : Int) : Bool :=
  let c := drainCtl x
  trits x 26 21 != 0 || trits x 2 0 != 0 || decide (c.ncol < 1) || decide (27 < c.ncol) ||
    decide (c.qfmt < -1) || decide (1 < c.qfmt) || decide (c.rfmt < -1) || decide (1 < c.rfmt)

def drainFmt (x : Int) : Fmt := if x < 0 then .t9 else if x = 0 then .t3 else .tf9

/-- The value of a quantised element; none for a NaN or an infinity. -/
def drainValue (fmt : Fmt) (y : Int) : Option TFrac :=
  match fmt with
  | .tf9 =>
    match tf9.read y with
    | .fin v => some v
    | _ => none
  | _ => some ⟨y, 0⟩

/-- The quantised element, the residue and the flags of one word (R243). -/
def drainElem (real : Bool) (c : DrainCtl) (x : Int) : Int × Int × RealFlags :=
  let fmt := drainFmt c.qfmt
  let (y, fl) := if real then convert fmt .tf27 (-c.qsh) x else
    (if fmt = .tf9 then tf9.rounded ⟨x, -c.qsh⟩ else quiet (sat (fmtTrits fmt) (TFrac.nearest ⟨x, -c.qsh⟩)))
  let xv : Option TFrac := if real then (match tf27.read x with | .fin v => some v | _ => none) else some ⟨x, 0⟩
  let e : TFrac := match xv, drainValue fmt y with
    | some a, some b => a.add (b.scale c.qsh).neg
    | _, _ => ⟨0, 0⟩
  if c.rfmt = 0 then (y, 0, fl)
  else if c.rfmt < 0 then (y, sat 9 (TFrac.nearest (e.scale (-c.rsh))), fl)
  else
    let r := tf9.rounded (e.scale (-c.rsh))
    (y, r.1, fl.or r.2)

/-- The trytes of a row of 3-trit integers, unused trits 0 (R230). -/
def packT3 (l : List Int) : List Int :=
  (List.range ((l.length + 2) / 3)).map fun i => l.getD (3 * i) 0 + 27 * l.getD (3 * i + 1) 0 + 729 * l.getD (3 * i + 2) 0

/-- The row that DRAIN writes to ad, the residue row, and the flags that its elements set (R243). -/
def State.drainRows (s : State) (real : Bool) (t : Thread) (q c : Nat) : List Int × List Int × RealFlags :=
  let ctl := drainCtl (t.readG c)
  let out := (List.range ctl.ncol.toNat).map fun j => drainElem real ctl ((s.accAt t q).word t.lane j)
  let ys := out.map fun o => o.1
  (if ctl.qfmt = 0 then packT3 ys else ys, if ctl.rfmt = 0 then [] else out.map fun o => o.2.1,
    RealFlags.any (out.map fun o => o.2.2))

/-- The checks of DRAIN's two destinations; without a residue row ae is not read (R243). -/
def State.drainChecks (s : State) (t : Thread) (d e : Nat) (row res : List Int) :
    Except Cause (List Seg) × Except Cause (List Seg) :=
  (s.check (s.agentOf t) .store (t.readA d) row.length none false false,
    if res.isEmpty then .ok [] else s.check (s.agentOf t) .store (t.readA e) res.length none false false)

/-- The pieces of two accesses of one instruction, or the first of their causes in the order of R49. -/
def bothAccesses (x y : Except Cause (List Seg)) : Except Cause (List Seg × List Seg) :=
  match x, y with
  | .ok l, .ok k => .ok (l, k)
  | .ok _, .error c => .error c
  | .error c, .ok _ => .error c
  | .error c, .error d =>
    .error (if accessRank d.code < accessRank c.code ∨ (d.code = c.code ∧ d.sub < c.sub) then d else c)

/-- One lane's DRAIN (R242, R243): a tile fault of the control word first, then the causes of both destinations. -/
def drainLane (real : Bool) (rs : Trit) (d q c e : Nat) (t : Thread) (s : State) : Except Cause State :=
  match tileFault [(badDrain (t.readG c), 4)] with
  | some f => .error f
  | none =>
    let (row, res, fl) := s.drainRows real t q c
    let op := { tileLong s (t.raisedFlag rs) [qUse q] with flagging := true, sets := fl }
    let (x, y) := s.drainChecks t d e row res
    match bothAccesses x y with
    | .error f => .error f
    | .ok (l, k) =>
      .ok (((s.noteSegs (s.agentOf t) l).noteSegs (s.agentOf t) k).plainStores t [(l, row), (k, res)] (rowsStored op))

/-- The pieces that one lane's DRAIN writes. -/
def drainSegs (gd : Guard) (real : Bool) (d q c e : Nat) (s : State) (t : Thread) : List Seg :=
  if t.guardHolds gd = false ∨ t.nopOnce = true ∨ s.owns t [aUse d, qUse q, gUse c, aUse e] = false ∨
      badDrain (t.readG c) = true then []
  else
    let (row, res, _) := s.drainRows real t q c
    let (x, y) := s.drainChecks t d e row res
    match bothAccesses x y with
    | .error _ => []
    | .ok (l, k) => l ++ k

def execDrain (gd : Guard) (rs : Trit) (d q c e : Nat) (s : State) : Host.Outcome State Fault Refusal :=
  s.storeLanes gd [aUse d, qUse q, gUse c, aUse e] (drainSegs gd false d q c e) (drainLane false rs d q c e)

def execDrainF (gd : Guard) (rs : Trit) (d q c e : Nat) (s : State) : Host.Outcome State Fault Refusal :=
  s.storeLanes gd [aUse d, qUse q, gUse c, aUse e] (drainSegs gd true d q c e) (drainLane true rs d q c e)

/-! ### Rows to registers (R244) -/

def arowLane (clr : Bool) (rs : Trit) (d q c e : Nat) (t : Thread) (s : State) : Except Cause State :=
  let x := t.readG c
  let n := trits x 17 9
  let j0 := trits x 8 0
  match tileFault [(trits x 26 18 != 0 || decide (n < 1) || decide (j0 < 0) || decide (27 < j0 + n) ||
      decide ((t.nregs : Int) < d + n), 4)] with
  | some f => .error f
  | none =>
    let acc := s.accAt t q
    let i := t.lane
    let js := List.range n.toNat
    let op := { tileLong s (t.raisedFlag rs) (cUse e :: qUse q :: js.map fun k => gUse (d + k)) with
      gs := js.map fun k => (d + k, acc.word i (j0.toNat + k))
      cs := [(e, if acc.rovf.contains i then Trit.pos else Trit.zero)] }
    let s1 := if clr then
        s.setAcc t q fun a =>
          { data := memSetList a.data (27 * i + j0.toNat) (js.map fun _ => 0), rovf := a.rovf.filter (· != i) }
      else s
    .ok (s1.tileDone t op)

def execArow (gd : Guard) (rs : Trit) (d q c e : Nat) (s : State) : Host.Outcome State Fault Refusal :=
  s.lanes gd [gUse d, qUse q, gUse c, cUse e] (arowLane false rs d q c e)

def execArowClr (gd : Guard) (rs : Trit) (d q c e : Nat) (s : State) : Host.Outcome State Fault Refusal :=
  s.lanes gd [gUse d, qUse q, gUse c, cUse e] (arowLane true rs d q c e)

end Sys2Proof.Machine
end

