-- ==== Sys2Proof/Machine/Beam.lean ====
section
/-!
DEFINITION. The weight beam: programs and laps, the arrival of beats at the taps, boardings, and the
instructions BOARD, UNBOARD and BEAMST (R358 to R375, R391 to R393).
-/

namespace Sys2Proof.Machine

/-! ### Programs and laps (R361 to R363) -/

/-- Beats of a layer (R361). -/
def Layer.beats (l : Layer) : Int := l.tiles * l.planes

/-- Word i of a physical address, none where it is not backed or reads as poisoned. -/
def State.programWord (s : State) (pa : Int) (i : Nat) : Option Int :=
  let a := pa + 3 * (i : Int)
  if a < 0 ∨ s.window.hbmtop < a + 3 ∨ s.physPoison a.toNat ≠ 0 then none else some (s.readPhysWord a.toNat)

/-- Whether the tiles of a run lie in backed HBM (R361). -/
def State.runOk (s : State) (run tiles : Int) : Bool :=
  run % 729 == 0 && decide (0 ≤ run) && decide (run + 729 * tiles ≤ s.window.hbmtop)

/-- A layer entry, when its words keep R361. -/
def State.layerAt (s : State) (pa : Int) : Option Layer :=
  match (List.range 9).mapM (s.programWord pa) with
  | none => none
  | some w =>
    let prec := w.getD 1 0
    let nt := w.getD 2 0
    let run1 := w.getD 3 0 + p3 27 * w.getD 4 0
    let run2 := w.getD 5 0 + p3 27 * w.getD 6 0
    let ok := decide (0 ≤ w.getD 0 0) && decide (w.getD 0 0 ≤ 728) && (prec == 1 || prec == -1) &&
      decide (1 ≤ nt) && decide (nt ≤ 19683) && s.runOk run1 nt &&
      (if prec = 1 then s.runOk run2 nt else run2 == 0) && w.getD 7 0 == 0 && w.getD 8 0 == 0
    if ok then some ⟨w.getD 0 0, if prec = 1 then 2 else 1, nt, run1, run2⟩ else none

/-- The layers of the program at a physical address, when it keeps R361. -/
def State.program (s : State) (pa : Int) : Option (List Layer) :=
  if pa % 27 ≠ 0 ∨ pa < 0 then none
  else
    match (List.range 9).mapM (s.programWord pa) with
    | none => none
    | some h =>
      let n := h.headD 0
      if n < 1 ∨ 729 < n ∨ (h.tail.all (· == 0)) = false then none
      else
        match (List.range n.toNat).mapM fun i : Nat => s.layerAt (pa + 27 * ((i : Int) + 1)) with
        | none => none
        | some ls =>
          if (ls.map Layer.id).Nodup ∧ (ls.map Layer.beats).sum ≤ 531441 then some ls else none

/-- The layer, plane (1 or -1) and tile of beat k of a lap, and whether it is the last of its layer (R362). -/
def beatOf : List Layer → Int → Option (Layer × Int × Int × Bool)
  | [], _ => none
  | l :: ls, k =>
    if k < l.beats then
      some (l, if k % l.planes = 0 then 1 else -1, k / l.planes, decide (k + 1 = l.beats))
    else beatOf ls (k - l.beats)

def Lap.beats (l : Lap) : Int := (l.layers.map Layer.beats).sum

/-- Word 0 of a beat's header (R359). -/
def Beat.header (b : Beat) : Int :=
  b.layer * p3 20 + b.plane * p3 19 + (if b.mark then p3 18 else 0) + b.lap * p3 17 + b.kind * p3 15 + b.tile

/-- Where the tile of beat k of a lap lies. -/
def Lap.tileAt (lap : Lap) (k : Nat) : Option Nat :=
  (beatOf lap.layers k).map fun x => ((if x.2.1 = 1 then x.1.run1 else x.1.run2) + 729 * x.2.2.1).toNat

/-- Beat k of the lap in progress as the feeder places it: the tile is read at its home slices, and a tile that meets
poison, or that the feeder finds failing its own check (`fed` false), is sent with KIND poison and no data (R363, R371).
DESIGN CHOICE, safe (log 13). -/
def State.placeBeat (s : State) (lap : Lap) (k : Nat) (fed : Bool) : Option Beat :=
  match beatOf lap.layers k, lap.tileAt k with
  | some (l, plane, tile, last), some pa =>
    let bad := !fed || (List.range 9).any fun i => s.physPoison (pa + 81 * i) != 0
    let data := if bad then List.replicate 729 0 else (List.range 729).map fun u => s.readPhys (pa + u)
    let b : Beat := { layer := l.id, plane := plane, tile := tile, mark := decide (k = 0),
                      lap := wrap 1 (s.beam.laps - 1), kind := if bad then 1 else 0, data := data,
                      check := 0, last := last }
    some { b with check := wrap 27 (Config.beamCheck b.header data) }
  | _, _ => none

/-! ### Taps -/

/-- The tap of a core's pair, counted over the package (R358). -/
def tapOf (core : Nat) : Nat := core / 2

/-- Taps in service, in the order in which a beat first reaches them: along the ring, or from IO die 2 forward to the end
of the line and then back to its start (R358, R373). DEDUCED, unsafe (log 34). -/
def State.tapOrder (s : State) : List Nat :=
  let n := s.beam.seg.toNat
  let dies := if s.beam.seg ≤ 0 then List.range 27
    else (List.range 27).filter (fun d => decide (d < n - 1)) ++ ((List.range 27).filter fun d => decide (n - 1 ≤ d)).reverse
  (dies.flatMap fun d => (List.range 9).map fun k => 9 * d + k).filter fun t => s.tapReady (t / 9) (t % 9)

/-- Beats of the lap that a tap has passed. -/
def Beam.passedBy (b : Beam) (tap : Nat) : Nat := ((b.passed.find? fun p => p.1 == tap).map Prod.snd).getD 0

def Beam.pass (b : Beam) (tap : Nat) : Beam :=
  { b with passed := (tap, b.passedBy tap + 1) :: b.passed.filter fun p => p.1 != tap }

/-- Whether no lap is in progress, or every tap in service has passed all its beats. DEDUCED, unsafe (log 34). -/
def State.lapOver (s : State) : Bool :=
  match s.beam.lap with
  | none => true
  | some l => s.tapOrder.all fun t => decide (l.beats ≤ s.beam.passedBy t)

/-- Whether the tap is the next that a beat may reach: every tap before it has passed that beat (R358). -/
def State.beatMayReach (s : State) (tap : Nat) : Bool :=
  match s.beam.lap with
  | none => false
  | some l =>
    decide ((s.beam.passedBy tap : Int) < l.beats) && s.tapOrder.contains tap &&
      (s.tapOrder.takeWhile (· != tap)).all fun t => decide (s.beam.passedBy tap < s.beam.passedBy t)

/-! ### Boardings (R368 to R372) -/

def Team.mapBoard (m : Team) (num : Int) (f : Boarding → Boarding) : Team :=
  { m with boardings := m.boardings.map fun b => if b.num = num then f b else b }

def State.mapBoard (s : State) (team : TeamId) (num : Int) (f : Boarding → Boarding) : State :=
  s.mapTeam team fun m => m.mapBoard num f

def State.board? (s : State) (team : TeamId) (num : Int) : Option Boarding :=
  match s.team? team with
  | none => none
  | some m => m.boardings.find? fun b => b.num == num

/-- Whether a boarding stands at its tap. -/
def Boarding.atTap (b : Boarding) : Bool := b.state == .armed || b.state == .riding

/-- The boardings at a tap. -/
def State.tapBoardings (s : State) (tap : Nat) : List (TeamId × Int) :=
  (s.teams.filter fun m : Team => m.state = .resident).flatMap fun m =>
    (m.boardings.filter fun b => b.atTap && tapOf b.core == tap).map fun b => (m.id, b.num)

/-- The boardings whose strikes a beat at a tap may restart: those at the tap, and those held that stood there (R371). -/
def State.tapWatch (s : State) (tap : Nat) : List (TeamId × Int) :=
  s.teams.flatMap fun m : Team =>
    (m.boardings.filter fun b => (b.atTap || b.state == .held) && tapOf b.core == tap).map fun b => (m.id, b.num)

/-- A boarding goes to FAILED: it leaves the tap, ERR of its sync word is set, and its lock and hold are
released (R370). -/
def State.failBoard (s : State) (team : TeamId) (num : Int) (stat : Nat) : State :=
  match s.board? team num with
  | none => s
  | some b =>
    ((s.mapBoard team num fun b => { b with state := .failed, stat := stat }).unlock team (.board num)).setErr b.sync

/-- A boarding fails because the beam has stopped (R374). -/
def State.noBeam (s : State) (team : TeamId) (num : Int) : State :=
  match s.board? team num with
  | none => s
  | some b => (s.failBoard team num 4).bear team b.issuer ⟨19, 2, p3 16 * b.layer⟩

/-- Whether a destination holds a layer (R369, R370). -/
def Boarding.holds (b : Boarding) (tiles : Int) (l : Layer) : Bool :=
  match b.dest with
  | .scratch _ cap => decide (l.beats ≤ cap)
  | .tile k => decide (l.tiles ≤ 9) && (l.planes == 1 || decide ((k : Int) + 1 < tiles))

/-- Writes a tile of a layer to a boarding's destination (R369), which the chains' snapshots follow (R291). -/
def State.boardWrite (s : State) (team : TeamId) (b : Boarding) (l : Layer) (x : Beat) : State :=
  match b.dest with
  | .scratch off _ =>
    let o := off + 729 * (x.tile + if x.plane = 1 then 0 else l.tiles)
    (s.scratchWrite team o.toNat x.data).noteUnit [b.core] (x.data.zipIdx.map fun p => (.scratch team (o + (p.2 : Int)), p.1))
  | .tile k =>
    let n := if x.plane = 1 then k else k + 1
    s.mapTeam team fun m =>
      { m with tiles := m.tiles.modify (b.core - m.core) fun c =>
          { c with tiles := c.tiles.modify n fun t =>
              { t with data := memSetList t.data (729 * x.tile).toNat x.data } } }

/-- The tile that TRAPADDR names beside its layer (R371). -/
def Beat.tileKey (x : Beat) : Int := p3 15 * x.plane + x.tile

/-- Whether a boarding's strikes are of a tile and reach to the lap before the one in progress, or to this one (R371, R405). -/
def Boarding.struckLast (b : Boarding) (key lap : Int) : Bool := b.struck == some (key, lap - 1) || b.struck == some (key, lap)

/-- The strikes of a boarding once a tile is discarded in a lap: a lap gives a tile one strike, and the count goes on from
the lap before (R371, R405). -/
def Boarding.strikes (b : Boarding) (key lap : Int) : Nat :=
  if b.struck = some (key, lap - 1) then b.strike + 1 else if b.struck = some (key, lap) then b.strike else 1

/-- A strike of a tile (R371): the third in consecutive laps fails the boarding with a beam-tile trap (R405).
DEDUCED, unsafe (log 34). -/
def State.strike (s : State) (team : TeamId) (b : Boarding) (x : Beat) : State :=
  let key := x.tileKey
  let n := b.strikes key s.beam.laps
  if 3 ≤ n then
    ((s.mapBoard team b.num fun b => { b with strike := 2 }).failBoard team b.num 3).bear team b.issuer
      ⟨19, 1, p3 16 * x.layer + key⟩
  else s.mapBoard team b.num fun b => { b with state := .armed, strike := n, struck := some (key, s.beam.laps) }

/-- A beat of the layer that a boarding rides: discarded, or written and perhaps the last (R370, R371). -/
def State.rideBeat (s : State) (team : TeamId) (b : Boarding) (l : Layer) (x : Beat) (good : Bool) : State :=
  if good = false then s.strike team b x
  else
    let s := s.boardWrite team b l x
    if x.last then
      ((s.mapBoard team b.num fun b => { b with state := .done }).unlock team (.board b.num)).raise b.sync b.core
        (729 * l.beats)
    else s

/-- A tile that arrives intact at a tap restarts the count of the strikes that it had; one that is discarded keeps the
count, also of a boarding that does not ride (R371). DEDUCED, unsafe (log 34). -/
def State.watchTile (s : State) (x : Beat) (good : Bool) (key : TeamId × Int) : State :=
  s.mapBoard key.1 key.2 fun b =>
    if b.layer ≠ x.layer ∨ (b.struck.map Prod.fst) ≠ some x.tileKey then b
    else if good then { b with strike := 0, struck := none }
    else if b.struckLast x.tileKey s.beam.laps then { b with struck := some (x.tileKey, s.beam.laps) }
    else b

/-- A beat at a tap meets one boarding. -/
def State.boardBeat (s : State) (l : Layer) (x : Beat) (good : Bool) (key : TeamId × Int) : State :=
  match s.board? key.1 key.2 with
  | none => s
  | some b =>
    if b.layer ≠ x.layer then s
    else
      match b.state with
      | .riding => s.rideBeat key.1 b l x good
      | .armed =>
        if x.plane = 1 ∧ x.tile = 0 then
          if b.holds (s.tileCount key.1.bolt) l then
            let s := s.mapBoard key.1 key.2 fun b => { b with state := .riding }
            s.rideBeat key.1 { b with state := .riding } l x good
          else s.failBoard key.1 key.2 1
        else s
      | _ => s

/-- The writes that a beat would have made for boardings of killed teams: each is counted, until the layer's window or its
lap ends (R375). -/
def State.strayBeat (s : State) (tap : Nat) (x : Beat) (good : Bool) : State :=
  let mine := fun r : Return => r.layer == some x.layer && tapOf r.core == tap
  let hit := s.returns.filter mine
  let s := if good then hit.foldl (fun s r => s.addStale r.core 1) s else s
  if x.last || !good then { s with returns := s.returns.filter fun r => !mine r } else s

/-- BEAMRDY (R472). -/
def State.beamReady (s : State) : Trit := s.readyTrit 2259 2

/-- Whether the beam serves: the ring or the line and both feeders are in service (R358, R472, R473). DEDUCED, unsafe (log 35). -/
def State.beamServes (s : State) : Bool :=
  s.beamReady == .pos && s.readyTrit 2247 2 == .pos && s.readyTrit 2250 2 == .pos

/-- A beat meets what stands at a tap. -/
def State.meetTap (s : State) (die tap : Nat) (l : Layer) (x : Beat) (good : Bool) : State :=
  let s := if good then s else s.setDie die fun d => { d with beamflt := sat 54 (d.beamflt + 1) }
  let met := (s.tapBoardings tap).foldl (fun s b => s.boardBeat l x good b) s
  ((s.tapWatch tap).foldl (fun s b => s.watchTile x good b) met).strayBeat tap x good

/-- The first beat in the buffer of a tap whose die's clock runs (R438). -/
def State.heldBeat (s : State) (tap : Nat) : Option TapBeat :=
  if (s.dieAt (tap / 9)).relock then none else s.beam.buffered.find? fun b => b.tap == tap

/-- A tap takes a beat from its buffer, as one of the lap that brought it. -/
def State.takeHeld (s : State) (b : TapBeat) : State :=
  let laps := s.beam.laps
  let s := { s with beam := { s.beam with buffered := s.beam.buffered.erase b, laps := b.lap } }
  let s := if s.tapReady (b.tap / 9) (b.tap % 9) then s.meetTap (b.tap / 9) b.tap b.layer b.beat b.good else s
  { s with beam := { s.beam with laps := laps } }

/-- A beat reaches a tap: while its die relocks the tap holds it back (R438). -/
def State.reachTap (s : State) (die tap : Nat) (l : Layer) (x : Beat) (good : Bool) : State :=
  if (s.dieAt die).relock then
    { s with beam := { s.beam with buffered := s.beam.buffered ++ [⟨tap, l, x, good, s.beam.laps⟩] } }
  else s.meetTap die tap l x good

/-- The next beat of the lap reaches a tap (R358, R370, R371). -/
def State.nextBeat (s : State) (die tap : Nat) (found : BeatCheck) : State :=
  match s.beam.lap with
  | none => s
  | some lap =>
    let k := s.beam.passedBy tap
    if s.beatMayReach tap = false ∨ s.beamServes = false then s
    else
      match beatOf lap.layers k, (if k < lap.sent.length then lap.sent[k]? else s.placeBeat lap k found.fed) with
      | some (l, _, _, _), some x =>
        let fresh := decide (lap.sent.length ≤ k)
        let s := if fresh then ((lap.tileAt k).map fun pa => s.visit (s.homeOf .zero pa)).getD s else s
        let sent := if fresh then lap.sent ++ [x] else lap.sent
        let s := { s with beam := { s.beam.pass tap with lap := some { lap with sent := sent } } }
        s.reachTap die tap l x (found.intact && x.kind == 0)
      | _, _ => s

/-- BEAT_ARRIVAL: a tap takes the first beat that it holds back, else the next beat of the lap (R358, R370, R371, R438).
DESIGN CHOICE, safe (log 13). -/
def execBeatArrival (die pair : Nat) (found : BeatCheck) (s : State) : Host.Outcome State Fault Refusal :=
  let tap := 9 * die + pair
  match s.heldBeat tap with
  | some b => .next (s.takeHeld b)
  | none => .next (s.nextBeat die tap found)

/-! ### Control (R364 to R367, R373, R374) -/

/-- The strikes of a boarding as they stood before the lap in progress, which stands for the lap before it: an abandoned
lap neither adds a strike nor restarts a count (R367). -/
def Boarding.unstruck (b : Boarding) : Boarding :=
  { b with strike := b.before.1, struck := b.before.2.map fun x => (x.1, x.2 + 1) }

/-- The lap in progress is abandoned, with the beats of it that taps hold back: every riding boarding is armed again, and the
strike counts stand as they did before the lap, unless it is over already (R367, R373). -/
def State.abandonLap (s : State) : State :=
  let back := !s.lapOver
  let held := if back then s.beam.buffered.filter fun x => x.lap != s.beam.laps else s.beam.buffered
  let s := { s with beam := { s.beam with lap := none, passed := [], buffered := held, stopAtEnd := false }
                    returns := s.returns.filter fun r => r.layer.isNone }
  { s with teams := s.teams.map fun m : Team =>
      { m with boardings := m.boardings.map fun b =>
          let b := if back && (b.atTap || b.state == .held) then b.unstruck else b
          if b.state = .riding then { b with state := .armed } else b } }

/-- Whether a layer carries the tile of a key (R361, R371). -/
def Layer.carries (l : Layer) (key : Int) : Bool :=
  decide (trits key 14 0 < l.tiles) && (trits key 15 15 == 1 || l.planes == 2)

/-- The strike counts as a lap begins; a lap that does not carry the tile that they count leaves them to the next
(R371, R372). DEDUCED, unsafe (log 34). -/
def State.markCounts (s : State) (layers : List Layer) : State :=
  { s with teams := s.teams.map fun m : Team =>
      { m with boardings := m.boardings.map fun b =>
          { b with before := (b.strike, b.struck)
                   struck := b.struck.map fun x =>
                    if layers.any fun l => l.id == b.layer && l.carries x.1 then x else (x.1, x.2 + 1) } } }

/-- LAP_MARK: the feeder begins a lap with a mark, switching to an accepted program first (R362, R365).
DEDUCED, unsafe (log 34). -/
def execLapMark (s : State) : Host.Outcome State Fault Refusal :=
  if s.lapOver = false ∨ s.beamServes = false then .next s
  else
    let s := { s with beam := { s.beam with lap := none, passed := [], stopAtEnd := false } }
    let b := s.beam
    if b.enable ≠ 1 then .next s
    else
      let b := if b.nxst = 1 then { b with prog := b.next, next := 0, nxst := 0 } else b
      if b.prog = 0 then .next { s with beam := b }
      else
        let layers := (s.program b.prog).getD []
        .next ({ s with beam := { b with laps := sat 54 (b.laps + 1), lap := some ⟨layers, []⟩ } }.markCounts layers)

/-- BEAMNEXT: a write names the program to switch to, and 0 cancels (R365). -/
def execBeamnext (v : Int) (s : State) : Host.Outcome State Fault Refusal :=
  .next { s with beam := { s.beam with next := v, nxst := 0 } }

/-- BEAM_PROGRAM_CHECK: the pending check sets NXST (R361, R365). -/
def execBeamProgramCheck (s : State) : Host.Outcome State Fault Refusal :=
  if s.beam.next = 0 ∨ s.beam.nxst ≠ 0 ∨ s.beamServes = false then .next s
  else .next { s with beam := { s.beam with nxst := if (s.program s.beam.next).isSome then 1 else -1 } }

/-- BEAMCTL_STEP: the bounds of the beam step, and the step that FIXSTEP fixes (R364, R366). -/
def execBeamctlStep (lo fix : Int) (s : State) : Host.Outcome State Fault Refusal :=
  if 1 ≤ lo ∧ lo ≤ 9 ∧ 0 ≤ fix ∧ fix ≤ 9 then
    .next { s with beam := { s.beam with minstep := lo, fixstep := fix, step := if fix = 0 then s.beam.step else fix } }
  else .next s

/-- ENABLE is written +: ignored while BEAMRDY is -; an order to end the lap is withdrawn (R367, R374). -/
def execBeamEnableRun (s : State) : Host.Outcome State Fault Refusal :=
  if s.beamReady = .neg then .next s
  else .next { s with beam := { s.beam with enable := 1, stopAtEnd := false } }

/-- ENABLE is written 0: a lap in progress is sent to its end; a write that leaves ENABLE at 0 orders nothing (R367). -/
def execBeamEnableIdle (s : State) : Host.Outcome State Fault Refusal :=
  .next { s with beam := { s.beam with
    enable := 0
    stopAtEnd := if s.beam.enable = 1 then s.beam.lap.isSome else s.beam.stopAtEnd } }

/-- ENABLE is written -: the feeder stops and the lap in progress is abandoned (R367). -/
def execBeamEnableStop (s : State) : Host.Outcome State Fault Refusal :=
  .next { s with beam := { s.beam with enable := -1 } }.abandonLap

/-- What every fence does beside its own effects: a replacement request and MSI-X vector 0 (R475). DEDUCED, unsafe (log 38). -/
def State.fenced (s : State) : State :=
  let s := s.setReady 2259 3 .pos
  { s with msix := s.msix ++ [0] }

/-- A trit becomes -, which fences its unit (R474). -/
def State.markFence (s : State) (w i : Nat) : State := (s.setReady w i .neg).fenced

/-- A link is fenced (R431). -/
def State.fenceLink (s : State) (link : Nat) : State := { s with linksOut := s.linksOut ++ [link] }.fenced

/-- BEAM_STOP: no line of stops reaches every tap: BEAMRDY becomes -, and every boarding at a tap fails (R374). -/
def execBeamStop (s : State) : Host.Outcome State Fault Refusal :=
  if s.beamReady = .neg then .next s
  else
    let s := { s.markFence 2259 2 with beam := { s.beam with enable := -1 } }.abandonLap
    let all := (s.teams.filter fun m : Team => m.state = .resident).flatMap fun m =>
      (m.boardings.filter Boarding.atTap).map fun b => (m.id, b.num)
    .next (all.foldl (fun s b => s.noBeam b.1 b.2) s)

/-- BEAM_LINK_FAILURE: the link is fenced; the ring folds at its first broken link, and stops at the second (R373,
R374). DEDUCED, unsafe (log 38). -/
def execBeamLinkFailure (link : Nat) (s : State) : Host.Outcome State Fault Refusal :=
  if link < 1 ∨ 29 < link ∨ s.beam.seg = link ∨ s.linksOut.contains link = true then .next s
  else if s.beam.seg = 0 then .next { s.fenceLink link with beam := { s.beam with seg := link } }.abandonLap
  else execBeamStop (s.fenceLink link)

/-- LINK_FENCE: traffic routes around a fenced link (R431); of a link of the ring or the line the beam fails as R373 and
R374 say. DEDUCED, unsafe (log 38). -/
def execLinkFence (link : Nat) (s : State) : Host.Outcome State Fault Refusal :=
  if 1 ≤ link ∧ link ≤ 29 then execBeamLinkFailure link s
  else if s.linksOut.contains link then .next s
  else .next (s.fenceLink link)

/-! ### BOARD, UNBOARD and BEAMST (R391 to R393) -/

/-- The boarding of a descriptor: its destination and the range it locks, or the value outside its limit. -/
def State.boardDest (s : State) (t : Thread) (tile : Bool) (b : Nat) : Option (BoardDest × List LockRange) :=
  let layer := t.readG b
  let x := t.readG (b + 1)
  let c := t.readG (b + 2)
  if layer < 0 ∨ 728 < layer then none
  else if tile then
    if 0 ≤ x ∧ x < s.tileCount t.id.bolt then some (.tile x.toNat, []) else none
  else if 0 ≤ x ∧ x % 81 = 0 ∧ 1 ≤ c ∧ x + 729 * c ≤ s.scratchSize t.id.bolt then
    some (.scratch x c, [⟨true, x, x + 729 * c - 1, true⟩])
  else none

/-- The tile registers that a destination holds (R391). -/
def BoardDest.tiles (d : BoardDest) : List Nat :=
  match d with
  | .scratch _ _ => []
  | .tile k => [k, k + 1]

/-- The boardings a team keeps: those that stand, and the 27 most recent (R391). -/
def keptBoards (next : Int) (l : List Boarding) : List Boarding :=
  l.filter fun b => b.atTap || b.state == .held || decide ((next - b.num) % p3 18 ≤ 27)

/-- Registers a boarding once its tap has room and its range is free (R368); the executing threads hold
until then. DEDUCED, unsafe (log 34). DEDUCED, unsafe (log 44). -/
def State.register (s : State) (t : Thread) (ts : List Thread) (d : Nat) (layer : Int) (dest : BoardDest)
    (ranges : List LockRange) (sync : SyncLoc) : State :=
  match s.team? t.team with
  | none => s
  | some m =>
    let b : Boarding := { num := m.nextBoard, core := t.core, issuer := t.id, layer := layer, dest := dest,
                          sync := sync, state := .armed, stat := 0, strike := 0, struck := none, before := (0, none) }
    let stopped := s.beamReady == .neg
    let room := decide ((s.tapBoardings (tapOf t.core)).length < Config.tapBoardings)
    let locked := if ranges.isEmpty then some s else s.lockAll m.cores t.team (.board b.num) ranges false
    match locked with
    | none => s.holdHere ts
    | some s' =>
      if room then
        let s := s'.mapTeam t.team fun m =>
          let next := wrap 18 (m.nextBoard + 1)
          { m with boardings := keptBoards next (m.boardings ++ [b]), nextBoard := next }
        let s := if stopped then s.noBeam t.team b.num else s
        s.giveAll ts d (b.num * p3 9)
      else s.holdHere ts

/-- BOARD and BOARD.tile for a group (R391). -/
def boardGroup (tile : Bool) (d b : Nat) (p : Place) (t : Thread) (ts : List Thread) (s : State) : Except Cause State :=
  match s.boardDest t tile b with
  | none => .error ⟨1, 5, 0⟩
  | some (dest, ranges) =>
    match s.syncPlace t p .store with
    | .error c => .error c
    | .ok (sync, _) =>
      let s := ts.foldl (fun s t => s.drainOps t.id) s
      let s := s.quiesce t.team t.grp dest.tiles
      .ok (s.register t ts d (t.readG b) dest ranges sync)

def boardUses (d b : Nat) (p : Place) : List RegUse := [gUse d, gUse b, gUse (b + 1), gUse (b + 2), placeUse p]

def execBoard (gd : Guard) (d b : Nat) (p : Place) (s : State) : Host.Outcome State Fault Refusal :=
  s.forGroups gd (boardUses d b p) (boardGroup false d b p)

def execBoardTile (gd : Guard) (d b : Nat) (p : Place) (s : State) : Host.Outcome State Fault Refusal :=
  s.forGroups gd (boardUses d b p) (boardGroup true d b p)

/-- The boarding number that a handle names (R391). -/
def boardNum (h : Int) : Option Int := if trits h 8 0 = 0 then some (trits h 26 9) else none

def State.handled (s : State) (team : TeamId) (h : Int) : Option Boarding :=
  match boardNum h with
  | none => none
  | some n => s.board? team n

def execUnboard (gd : Guard) (d b : Nat) (s : State) : Host.Outcome State Fault Refusal :=
  s.lanes gd [cUse d, gUse b] fun t s =>
    match s.handled t.team (t.readG b) with
    | none => .ok (s.mapThread t.id fun t => (t.writeC d .zero).advance)
    | some x =>
      let s' := if x.atTap then s.failBoard t.team x.num 2 else s
      .ok (s'.mapThread t.id fun t => (t.writeC d (if x.atTap then .pos else .zero)).advance)

/-- The state word of a boarding (R393). -/
def Boarding.word (b : Boarding) : Int :=
  b.layer * p3 18 + (b.strike : Int) * p3 12 + (b.stat : Int) * p3 8 +
    (match b.state with
      | .armed => 0
      | .riding => 1
      | .done => 2
      | .failed => 3
      | .held => 4)

def execBeamst (gd : Guard) (d b : Nat) (s : State) : Host.Outcome State Fault Refusal :=
  s.lanes gd [gUse d, gUse b] fun t s =>
    let v := ((s.handled t.team (t.readG b)).map Boarding.word).getD (-1)
    .ok (s.mapThread t.id fun t => (t.writeG d v).advance)

def execBeamstLap (gd : Guard) (d : Nat) (s : State) : Host.Outcome State Fault Refusal :=
  s.lanes gd [gUse d] fun t s => .ok (s.mapThread t.id fun t => (t.writeG d (wrap 27 s.beam.laps)).advance)

/-! ### Pre-emption and resumption (R375) -/

/-- Boardings of a team that stops become HELD. -/
def Team.holdBoards (m : Team) : Team :=
  { m with boardings := m.boardings.map fun b => if b.atTap then { b with state := .held } else b }

/-- Whether the taps of a team's new cores have room for its held boardings (R368, R375). -/
def State.canRearm (s : State) (m : Team) (core : Nat) : Bool :=
  let held := (m.boardings.filter fun b => b.state == .held).length
  held == 0 || decide ((s.tapBoardings (tapOf core)).length + held ≤ Config.tapBoardings)

/-- On the cores where a team has been resumed the held boardings are registered again, as ARMED. -/
def Team.rearm (m : Team) : Team :=
  { m with boardings := m.boardings.map fun b => if b.state = .held then { b with state := .armed } else b }

end Sys2Proof.Machine
end

