-- ==== Sys2Proof/Machine/CacheCtl.lean ====
section
/-!
DEFINITION. Fences, cache control, prefetch and the translation probe of opcode group +3 (R306, R309 to R313).
-/

namespace Sys2Proof.Machine

/-! ### Fences (R309, R310) -/

def execRel (gd : Guard) (s : State) : Host.Outcome State Fault Refusal :=
  s.lanes gd [] fun t s => .ok ((s.drainOps t.id).mapThread t.id Thread.advance)

def execAcq (gd : Guard) (s : State) : Host.Outcome State Fault Refusal :=
  s.lanes gd [] fun t s => .ok (((s.drainOps t.id).acquire t.core).mapThread t.id Thread.advance)

def execFence (gd : Guard) (s : State) : Host.Outcome State Fault Refusal :=
  s.lanes gd [] fun t s => .ok (((s.drainOps t.id).acquire t.core).mapThread t.id Thread.advance)

/-- CFENCE: the capture ends; the rest of the clause executes as fetched, and its words are not captured again
(R272, R310). -/
def execCfence (gd : Guard) (s : State) : Host.Outcome State Fault Refusal :=
  s.runLocal gd [] fun t => .ok { t with capture := [], fenced := true }.advance

/-! ### Prefetch and priority (R306, R312) -/

/-- The piece that PF and CPRI reach, where they perform anything: checked as a load, in no locked range of any kind
(R292), of a sector that is not poisoned (R306). -/
def State.quietPiece (s : State) (t : Thread) (ea : Int) : Option Seg :=
  match s.check (s.agentOf t) .load ea 1 none false false with
  | .error _ => none
  | .ok [] => none
  | .ok (g :: _) =>
    if g.pa < 0 ∨ (lockFault (s.memLocks t.core) .store [(g.v, 1)]).isSome = true then none
    else if s.poisonAt (s.homeOf (leafDom g.leaf) g.pa.toNat) (g.pa.toNat / 81) ≠ 0 then none
    else some g

/-- Asks for the fill of a sector without waiting for it: SECTOR_FILL completes it. -/
def State.startFill (s : State) (core : Nat) (g : Seg) (h : Hint) : State :=
  let home := s.homeOf (leafDom g.leaf) g.pa.toNat
  let sec := g.pa.toNat / 81
  if leafCache g.leaf = .neg then s
  else
    let s := s.visit home
    let toL1 := leafCache g.leaf = .pos ∧ h ≠ .na
    let s := s.allocSlice home sec g.leaf
    let s := match s.sliceAt home sec with
      | none => s
      | some e =>
        if e.pending then
          (if toL1 then { s with prefetches := s.prefetches ++ [⟨home, sec, core, g.leaf, h == .by⟩] } else s)
        else if toL1 ∧ ((s.l1At core home sec).any fun c => c.valid.all id) = false then s.fillL1 core home sec g.leaf
        else s
    if h = .by then (s.setSlicePrio home (sec / 9) (-1)).setL1Prio core home (sec / 9) (-1) else s

def execPf (gd : Guard) (h : Hint) (b : Nat) (off : Int) (s : State) : Host.Outcome State Fault Refusal :=
  s.lanes gd [aUse b] fun t s =>
    let s := match s.quietPiece t (t.ea b off) with
      | none => s
      | some g => (s.noteSegs (s.agentOf t) [g]).startFill t.core g h
    .ok (s.mapThread t.id Thread.advance)

/-- Sets the priority of a line in a core's L1 and in its home slice (R312). -/
def State.setPrio (s : State) (core home line : Nat) (p : Int) : State :=
  (s.setL1Prio core home line p).setSlicePrio home line p

def execCpri (gd : Guard) (b : Nat) (p : Trit) (s : State) : Host.Outcome State Fault Refusal :=
  s.lanes gd [aUse b] fun t s =>
    let s := match s.quietPiece t (t.readA b) with
      | none => s
      | some g =>
        let home := s.homeOf (leafDom g.leaf) g.pa.toNat
        (s.visit home).setPrio t.core home (g.pa.toNat / 729) p.toInt
    .ok (s.mapThread t.id Thread.advance)

/-! ### CFLUSH and CDROP (R311) -/

/-- The pieces of the range of n trytes at x, translated with a permission; the lowest address whose page faults is
reported (R311). No private window remaps the range. DESIGN CHOICE, unsafe (log 113). -/
def State.rangePieces (s : State) (t : Thread) (p : Perm) (x n : Int) : Except Cause (List Seg) :=
  if n < 1 ∨ 531441 < n then .error ⟨1, 5, 0⟩
  else if !t.status.system && decide (x < 0) then .error ⟨4, 3, x⟩
  else
    match nonCanonical x n.toNat with
    | some y => .error ⟨5, 1, y⟩
    | none => s.segmentsInOrder (s.agentOf t) p (pagePieces 4 x n.toNat)

/-- Whether a sector lies in a line that the pieces touch. -/
def State.inLines (s : State) (l : List Seg) (home sector : Nat) : Bool :=
  l.any fun g =>
    decide (0 ≤ g.pa) && decide (g.pa.toNat / 729 ≤ sector / 9) && decide (sector / 9 ≤ (g.pa.toNat + g.n - 1) / 729) &&
      s.homeOf (leafDom g.leaf) (81 * sector) == home

/-- The sectors of a core's L1 that lie in the lines of the pieces. -/
def State.l1In (s : State) (core : Nat) (l : List Seg) : List L1Sector :=
  s.l1.filter fun e => e.core == core && s.inLines l e.home e.sector

def State.flushL1 (s : State) (core : Nat) (l : List Seg) : State :=
  (s.l1In core l).foldl (fun s e => (s.visit e.home).cleanL1 e) s

/-- Dirty slice sectors of the lines are written back and stay, clean. -/
def State.flushSlices (s : State) (l : List Seg) : State :=
  let out := s.slices.filter fun e => e.dirty && s.inLines l e.home e.sector
  out.foldl (fun s e => ((s.visit e.home).writeBackSlice e).putSlice { e with dirty := false }) s

def State.invalidateL1 (s : State) (core : Nat) (l : List Seg) : State :=
  let out := s.l1In core l
  { s with l1 := s.l1.filter fun e => !(out.any fun x => x.same e) }

def State.invalidateCode (s : State) (core : Nat) (l : List Seg) : State :=
  { s with icache := s.icache.filter fun e => !(e.core == core && s.inLines l e.home (9 * e.line)) }

/-- A cache-control instruction of each lane over its range. -/
def cacheRange (gd : Guard) (rs : Trit) (b c : Nat) (p : Perm) (f : State → Nat → List Seg → State) (s : State) :
    Host.Outcome State Fault Refusal :=
  s.lanes gd [aUse b, gUse c] fun t s =>
    match s.rangePieces t p (t.readA b) (t.readG c) with
    | .error e => .error e
    | .ok l =>
      .ok ((f (s.noteSegs (s.agentOf t) l) t.core l).mapThread t.id fun t =>
        (t.begin (LongOp.plain (t.raisedFlag rs))).advance)

def execCflush (gd : Guard) (rs : Trit) (b c : Nat) (s : State) : Host.Outcome State Fault Refusal :=
  cacheRange gd rs b c .load (fun s core l => s.flushL1 core l) s

def execCflushMem (gd : Guard) (rs : Trit) (b c : Nat) (s : State) : Host.Outcome State Fault Refusal :=
  cacheRange gd rs b c .load (fun s core l => (s.flushL1 core l).flushSlices l) s

def execCdrop (gd : Guard) (rs : Trit) (b c : Nat) (s : State) : Host.Outcome State Fault Refusal :=
  cacheRange gd rs b c .load (fun s core l => (s.flushL1 core l).invalidateL1 core l) s

def execCdropCode (gd : Guard) (rs : Trit) (b c : Nat) (s : State) : Host.Outcome State Fault Refusal :=
  cacheRange gd rs b c .fetch (fun s core l => s.invalidateCode core l) s

/-! ### PROBE (R313) -/

/-- The word that PROBE reports of an address. -/
def State.probeWord (s : State) (a : Agent) (x : Int) : Int :=
  match s.leafFor a.queue a.qroot x with
  | none => -(p3 26)
  | some (e, level) =>
    if level = 3 then (leafPpn e + trits x 20 12) * p3 8 + trits e 7 0
    else p3 26 + leafPpn e * p3 8 + trits e 7 0

def execProbe (gd : Guard) (rs : Trit) (d b : Nat) (s : State) : Host.Outcome State Fault Refusal :=
  s.lanes gd [gUse d, aUse b] fun t s =>
    let x := t.readA b
    if !t.status.system && decide (x < 0) then .error ⟨4, 3, x⟩
    else if !(canonical x) then .error ⟨5, 1, x⟩
    else
      let v := s.probeWord (s.agentOf t) x
      .ok (s.mapThread t.id fun t => (t.begin { loadOpG (t.raisedFlag rs) d v none with load := false }).advance)

end Sys2Proof.Machine
end

