-- ==== Sys2Proof/Machine/Lanes.lean ====
section
/-!
DEFINITION. Cross-lane instructions and barriers of opcode group -2: member masks, arrivals, completion
(R180 to R185, R210 to R227).
-/

namespace Sys2Proof.Machine

/-! ### Masks and arrivals -/

/-- The width of the thread's group. -/
def Thread.lanes (t : Thread) : Nat := lanesOf t.status.width

/-- The members that a mask operand names, or nothing where a mask trit is - (R180, R211). -/
def Thread.maskOf (t : Thread) (m : Nat) : Option (List Int) :=
  if m = 0 then some ((List.range t.lanes).map fun i : Nat => (i : Int))
  else
    let ts := (List.range 3).flatMap fun w => tritList 27 (t.readG (m + w))
    if ts.any (· == -1) then none
    else some (((List.range 81).filter fun i => ts.getD i 0 == 1).map fun i : Nat => (i : Int))

/-- The effective mask (R181). -/
def Thread.effective (t : Thread) (l : List Int) : List Int :=
  ((List.range 81).map fun i : Nat => (i : Int)).filter fun i => l.contains i || i == t.member

def Thread.arrival? (t : Thread) : Option Arrival :=
  match t.run with
  | .arrived a => some a
  | _ => none

/-- Threads of a group whose arrival waits at an instruction address (R215). -/
def State.waitingAt (s : State) (team : TeamId) (grp : Nat) (addr : Int) : List Thread :=
  s.threads.filter fun t => t.team == team && t.grp == grp && (t.arrival?.map Arrival.at_) == some addr

/-- A thread arrives (R181); masks that differ at one address raise convergence mismatch for every thread
whose arrival there waits (R183). The lanes of one issue arrive one after another. DESIGN CHOICE, unsafe (log 78). -/
def State.arrive (s : State) (t : Thread) (a : Arrival) : State :=
  let others := s.waitingAt t.team t.grp a.at_
  if others.any fun u => (u.arrival?.map Arrival.mask) != some a.mask then
    (t :: others).foldl (fun s u => s.mapThread u.id fun u => u.fault ⟨14, 1, 0⟩) s
  else s.mapThread t.id fun t => { t with run := .arrived a }

/-- A cross-lane instruction of each lane: the mask, then the arrival with the values read (R213, R214). -/
def crossLane (gd : Guard) (uses : List RegUse) (m : Nat) (i : Instr) (vals : Thread → List Int)
    (index : Thread → Int) (cond : Thread → Trit) (s : State) : Host.Outcome State Fault Refusal :=
  s.lanes gd (uses ++ maskUses m) fun t s =>
    match t.maskOf m with
    | none => .error ⟨1, 5, 0⟩
    | some l =>
      if t.element.isSome then .error ⟨18, 1, 0⟩
      else .ok (s.arrive t ⟨i, t.instrAddr, t.effective l, vals t, index t, cond t⟩)

def execPerm (gd : Guard) (d b c m cd : Nat) (s : State) : Host.Outcome State Fault Refusal :=
  crossLane gd [gUse d, gUse b, gUse c] m (.perm gd d b c m cd) (fun t => [t.readG b]) (fun t => t.readG c)
    (fun _ => .zero) s

def execShuf (gd : Guard) (d b c m cd : Nat) (s : State) : Host.Outcome State Fault Refusal :=
  crossLane gd [gUse d, gUse b, gUse c] m (.shuf gd d b c m cd) (fun t => [t.readG b]) (fun t => t.readG c)
    (fun _ => .zero) s

def execBcast (gd : Guard) (d b m cd : Nat) (s : State) : Host.Outcome State Fault Refusal :=
  crossLane gd [gUse d, gUse b] m (.bcast gd d b m cd) (fun t => [t.readG b]) (fun _ => 0) (fun _ => .zero) s

def execVote (gd : Guard) (d b m cd : Nat) (s : State) : Host.Outcome State Fault Refusal :=
  crossLane gd [gUse d, cUse b] m (.vote gd d b m cd) (fun _ => []) (fun _ => 0) (fun t => t.readC b) s

def execBallot (gd : Guard) (d b m cd : Nat) (s : State) : Host.Outcome State Fault Refusal :=
  crossLane gd [gUse d, gUse (d + 1), gUse (d + 2), cUse b] m (.ballot gd d b m cd) (fun _ => [])
    (fun _ => 0) (fun t => t.readC b) s

def execRed (gd : Guard) (sh : Shape) (op : RedOp) (d b m cd : Nat) (s : State) :
    Host.Outcome State Fault Refusal :=
  crossLane gd [gUse d, gUse b, cUse cd] m (.red gd sh op d b m cd) (fun t => [t.readG b]) (fun _ => 0)
    (fun _ => .zero) s

def execScan (gd : Guard) (sh : Shape) (op : RedOp) (d b m cd : Nat) (s : State) :
    Host.Outcome State Fault Refusal :=
  crossLane gd [gUse d, gUse b, cUse cd] m (.scan gd sh op d b m cd) (fun t => [t.readG b]) (fun _ => 0)
    (fun _ => .zero) s

/-- The k registers from d and from b that ZIP and UNZIP name (R222). -/
def runUses (d b k : Nat) : List RegUse := (List.range k).flatMap fun i => [gUse (d + i), gUse (b + i)]
def Thread.run4 (t : Thread) (b k : Nat) : List Int := (List.range k).map fun i => t.readG (b + i)

def execZip (gd : Guard) (sh : Shape) (d b m cd k : Nat) (s : State) : Host.Outcome State Fault Refusal :=
  crossLane gd (runUses d b k) m (.zip gd sh d b m cd k) (fun t => t.run4 b k) (fun _ => 0) (fun _ => .zero) s

def execUnzip (gd : Guard) (sh : Shape) (d b m cd k : Nat) (s : State) : Host.Outcome State Fault Refusal :=
  crossLane gd (runUses d b k) m (.unzip gd sh d b m cd k) (fun t => t.run4 b k) (fun _ => 0) (fun _ => .zero) s

/-- GBAR releases, then arrives (R223). -/
def execGbar (gd : Guard) (m cd : Nat) (s : State) : Host.Outcome State Fault Refusal :=
  s.lanes gd (maskUses m) fun t s =>
    match t.maskOf m with
    | none => .error ⟨1, 5, 0⟩
    | some l =>
      if t.element.isSome then .error ⟨18, 1, 0⟩
      else .ok ((s.drainOps t.id).arrive t ⟨.gbar gd m cd, t.instrAddr, t.effective l, [], 0, .zero⟩)

/-! ### Completion -/

/-- The values a cross-lane instruction is computed from: each arrived member with its arrival. -/
abbrev Arrivals := List (Int × Arrival)

def Arrivals.at? (l : Arrivals) (m : Int) : Option Arrival := (l.find? fun x => x.1 == m).map Prod.snd

/-- Value k of a member, 0 for an absent one (R182). -/
def Arrivals.val (l : Arrivals) (k : Nat) (m : Int) : Int :=
  match Arrivals.at? l m with
  | some a => a.vals.getD k 0
  | none => 0

def Arrivals.cond (l : Arrivals) (m : Int) : Int :=
  match Arrivals.at? l m with
  | some a => a.cond.toInt
  | none => 0

/-- The tritwise sum mod 3 of values of w trits. -/
def tsumAll (w : Nat) (l : List Int) : Int :=
  ofTrits ((List.range w).map fun i => wrap 1 (l.map fun x => trits x i i).sum)

/-- The operation of RED, SCAN and REDUCE over values of width w (R220). -/
def reduceOp (op : RedOp) (w : Nat) (l : List Int) : Int :=
  match op with
  | .add => wrap w l.sum
  | .adds => sat w l.sum
  | .min => l.tail.foldl min (l.headD 0)
  | .max => l.tail.foldl max (l.headD 0)
  | .tsum => tsumAll w l

/-- RED over members, element by element (R221). -/
def reduceWord (sh : Shape) (op : RedOp) (l : Arrivals) (ms : List Int) : Int :=
  packElems sh ((List.range (elemCount sh)).map fun k =>
    reduceOp op (elemWidth sh) (ms.map fun m => elem sh (Arrivals.val l 0 m) k))

/-- The source member of SHUF (R216). -/
def shufSource (j : Nat) (x : Int) : Int :=
  let d := trits x 8 0
  match tritAt x 9 with
  | .neg => (j : Int) - d
  | .pos => (j : Int) + d
  | .zero =>
    let e := (d % 81).toNat
    (((List.range 4).map fun i => ((j / 3 ^ i + e / 3 ^ i) % 3) * 3 ^ i).sum : Nat)

/-- Element seq(p) of ZIP and UNZIP over M members (R222). -/
def zipSource (sh : Shape) (l : Arrivals) (ms : List Int) (r rho e : Nat) : Int :=
  elem sh (Arrivals.val l r (ms.getD rho (-1))) e

def zipWord (sh : Shape) (l : Arrivals) (ms : List Int) (k r rho : Nat) : Int :=
  let n := elemCount sh
  packElems sh ((List.range n).map fun e =>
    let p := (r * ms.length + rho) * n + e
    zipSource sh l ms (p % k) (p / k / n) (p / k % n))

def unzipWord (sh : Shape) (l : Arrivals) (ms : List Int) (k r rho : Nat) : Int :=
  let n := elemCount sh
  let m := ms.length
  packElems sh ((List.range n).map fun e =>
    let p := (rho * n + e) * k + r
    zipSource sh l ms (p / (m * n)) (p / n % m) (p % n))

/-- The registers a completed instruction writes in the thread of member j, its condition destination and,
for PERM and SHUF, its source (R216 to R222). -/
def laneWrites (l : Arrivals) (j : Nat) (a : Arrival) : List (Nat × Int) × Nat × Option Int :=
  let ok := fun x : Int => decide (0 ≤ x) && decide (x ≤ 80) && a.mask.contains x && (Arrivals.at? l x).isSome
  let rho := (a.mask.findIdx? fun x => x == (j : Int)).getD 0
  match a.instr with
  | .perm _ d _ _ _ cd =>
    ([(d, if ok a.index then Arrivals.val l 0 a.index else 0)], cd, some (if ok a.index then 1 else 0))
  | .shuf _ d _ _ _ cd =>
    let x := shufSource j a.index
    ([(d, if ok x then Arrivals.val l 0 x else 0)], cd, some (if ok x then 1 else 0))
  | .bcast _ d _ _ cd =>
    let lead := (a.mask.find? fun x => (Arrivals.at? l x).isSome).getD (j : Int)
    ([(d, Arrivals.val l 0 lead)], cd, none)
  | .vote _ d _ _ cd =>
    let cs := a.mask.map (Arrivals.cond l)
    let lo := cs.tail.foldl min (cs.headD 0)
    let hi := cs.tail.foldl max (cs.headD 0)
    ([(d, packElems .trytes [cs.sum, lo, hi])], cd, none)
  | .ballot _ d _ _ cd =>
    ((List.range 3).map fun w =>
      (d + w, ofTrits ((List.range 27).map fun i =>
        let x : Int := (27 * w + i : Nat)
        if a.mask.contains x then Arrivals.cond l x else 0)), cd, none)
  | .red _ sh op d _ _ cd => ([(d, reduceWord sh op l a.mask)], cd, none)
  | .scan _ sh op d _ _ cd =>
    ([(d, reduceWord sh op l (a.mask.filter fun x => decide (x ≤ (j : Int))))], cd, none)
  | .zip _ sh d _ _ cd k => ((List.range k).map fun r => (d + r, zipWord sh l a.mask k r rho), cd, none)
  | .unzip _ sh d _ _ cd k => ((List.range k).map fun r => (d + r, unzipWord sh l a.mask k r rho), cd, none)
  | .gbar _ _ cd => ([], cd, none)
  | _ => ([], 0, none)

/-- Whether a member of a group is absent (R182). -/
def State.absent (s : State) (team : TeamId) (grp : Nat) (width : Nat) (m : Int) : Bool :=
  decide ((width : Int) ≤ m) ||
    !(s.threads.any fun t => t.team == team && t.grp == grp && (t.member : Int) == m && t.run != .exited)

/-- An arrived thread completes: results, condition destination, and on to the next slot (R212, R213). -/
def Thread.complete (t : Thread) (l : Arrivals) (missing : Bool) (now : Nat) : Thread :=
  match t.arrival? with
  | none => t
  | some a =>
    let (ws, cd, src) := laneWrites l t.member a
    let c : Trit := if missing then .neg else if src = some 0 then .zero else .pos
    ((t.writeGs ws).writeC cd c).resume now

/-- Whether the arrivals at an address may complete (R181). -/
def State.crossLaneReady (s : State) (team : TeamId) (grp : Nat) (addr : Int) : Bool :=
  match s.waitingAt team grp addr with
  | [] => false
  | t :: ts =>
    s.teamLive team &&
      ((t.arrival?.map Arrival.mask).getD []).all fun m =>
        ((t :: ts).any fun u => (u.member : Int) == m) || s.absent team grp t.lanes m

/-- CROSS_LANE_COMPLETION: every named member has arrived or is absent (R181, R213). -/
def execCrossLaneCompletion (bolt team grp : Nat) (addr : Int) (s : State) :
    Host.Outcome State Fault Refusal :=
  let team : TeamId := ⟨bolt, team⟩
  if s.crossLaneReady team grp addr then
    let ts := s.waitingAt team grp addr
    let l : Arrivals := ts.filterMap fun t => t.arrival?.map fun a => ((t.member : Int), a)
    let missing := fun t : Thread =>
      ((t.arrival?.map Arrival.mask).getD []).any fun m => s.absent team grp t.lanes m
    let acquires := ts.any fun t =>
      match t.arrival? with
      | some ⟨.gbar _ _ _, _, _, _, _, _⟩ => true
      | _ => false
    let s1 := ts.foldl (fun s' t => s'.mapThread t.id fun u => u.complete l (missing t) s.tick) s
    .next (if acquires then (ts.map Thread.core).eraseDups.foldl State.acquire s1 else s1)
  else .next s

/-! ### TBAR (R224, R225) -/

def Thread.barrier? (t : Thread) : Option Int :=
  match t.run with
  | .barrier b => some b
  | _ => none

/-- The threads of a team that have not exited. -/
def State.liveThreads (s : State) (team : TeamId) : List Thread :=
  s.threads.filter fun t => t.team == team && t.run != .exited

/-- Every live thread is blocked at TBAR and they stand at more than one index: each takes convergence
mismatch (R225). -/
def State.barrierClash (s : State) (team : TeamId) : State :=
  let ts := s.liveThreads team
  if ts.all (fun t => t.barrier?.isSome) ∧ 2 ≤ ((ts.map Thread.barrier?).eraseDups).length then
    ts.foldl (fun s t => s.mapThread t.id fun t => t.fault ⟨14, 2, 0⟩) s
  else s

/-- BARS of a bolt (R193). -/
def State.barCount (s : State) (bolt : Nat) : Nat := ((s.bolt? bolt).map fun b => b.record.bars).getD 0

def execTbar (gd : Guard) (b : Nat) (s : State) : Host.Outcome State Fault Refusal :=
  s.lanes gd [gUse b] fun t s =>
    let k := t.readG b
    if k < 0 ∨ (s.barCount t.id.bolt : Int) ≤ k then .error ⟨1, 3, 0⟩
    else if t.element.isSome then .error ⟨18, 1, 0⟩
    else
      .ok (((s.drainOps t.id).mapThread t.id fun t => { t with run := .barrier k }).barrierClash t.team)

/-- Whether barrier b of a team may complete (R224). -/
def State.barrierReady (s : State) (team : TeamId) (b : Nat) : Bool :=
  let ts := s.liveThreads team
  s.teamLive team && !ts.isEmpty && ts.all fun t => t.barrier? == some (b : Int)

/-- BARRIER_COMPLETION: every live thread has arrived at b; it resets and the threads go on with an
acquire (R224). -/
def execBarrierCompletion (team : TeamId) (b : Nat) (s : State) : Host.Outcome State Fault Refusal :=
  if s.barrierReady team b then
    let ts := s.liveThreads team
    let s1 := ts.foldl (fun s' t => s'.mapThread t.id fun t => t.resume s.tick) s
    .next ((ts.map Thread.core).eraseDups.foldl State.acquire s1)
  else .next s

end Sys2Proof.Machine
end

