-- ==== Sys2Proof/Machine/Collectives.lean ====
section
/-!
DEFINITION. Collectives: MCAST, REDUCE and the step of the collective unit (R337, R401 to R403, R455).
-/

namespace Sys2Proof.Machine

/-- A collective record with its CID and CGEN (R401). -/
structure CollRecord where
  cid : Int
  gen : Int
  m : Member
  deriving DecidableEq, Repr

/-- The record of nine words for a participant (R401). -/
def collRecordOf (w : Nat → Int) (id : ThreadId) (team : TeamId) (core : Nat) (mcast : Bool) : CollRecord :=
  { cid := trits (w 0) 26 18
    gen := trits (w 0) 17 0
    m := { device := none, source := none, id := id, team := team, core := core, rank := trits (w 1) 12 0,
           root := trits (w 2) 26 18, op := trits (w 2) 17 15, fmt := trits (w 2) 14 13,
           parts := trits (w 1) 26 13, count := w 7, src := w 3 + p3 27 * w 4, dst := w 5 + p3 27 * w 6,
           sync := w 8, mcast := mcast } }

/-- The record at a scratchpad offset of a thread's team. -/
def State.collRecord (s : State) (t : Thread) (mcast : Bool) (o : Int) : CollRecord :=
  collRecordOf (fun i => s.scratchWord t.team o i) t.id t.team t.core mcast

/-- Whether every field of a record but SYNC lies within its Values; `word2` is its word 2 (R401). -/
def CollRecord.valid (r : CollRecord) (word2 : Int) : Bool :=
  decide (0 ≤ r.cid) && decide (r.cid ≤ 728) && decide (1 ≤ r.m.parts) && decide (r.m.parts ≤ 729) &&
    decide (0 ≤ r.m.rank) && decide (r.m.rank < r.m.parts) && decide (-1 ≤ r.m.root) &&
    decide (r.m.root < r.m.parts) && decide (0 ≤ r.m.op) && decide (r.m.op ≤ 4) &&
    decide (-1 ≤ r.m.fmt) && decide (r.m.fmt ≤ 1) && trits word2 12 0 == 0 && decide (1 ≤ r.m.count) &&
    decide (r.m.count ≤ 387420489)

/-- Whether every field of the record at an offset lies within its Values (R401). -/
def State.collValid (s : State) (t : Thread) (o : Int) (r : CollRecord) : Bool :=
  r.valid (s.scratchWord t.team o 2) && (s.offsetFault t r.m.sync 9 9).isNone

/-- Trytes of the elements of a participant. -/
def Member.size (m : Member) : Nat := ((if m.fmt = -1 then 1 else 3) * m.count).toNat

/-- Of several causes, the lowest code and among those the lowest subcode (R49). -/
def lowestCause : List Cause → Option Cause
  | [] => none
  | c :: l =>
    match lowestCause l with
    | none => some c
    | some d => if d.code < c.code ∨ (d.code = c.code ∧ d.sub < c.sub) then some d else some c

def causeOf {α : Type} (e : Except Cause α) : List Cause :=
  match e with
  | .error c => [c]
  | .ok _ => []

/-- The agent of the collective unit for a thread. -/
def State.collAgent (s : State) (t : Thread) : Agent := { s.freeAgent t with win := none }

/-- The causes of a record whose fields are valid: SRC with load and DST with store permission. -/
def State.collFault (s : State) (t : Thread) (m : Member) : Option Cause :=
  lowestCause (causeOf (s.check (s.collAgent t) .load m.src m.size none false false) ++
    (if m.dst = 0 then [] else causeOf (s.check (s.collAgent t) .store m.dst m.size none false false)))

/-- The ranges that a participant registers. -/
def Member.ranges (m : Member) : List LockRange :=
  ⟨false, m.src, m.src + m.size - 1, false⟩ ::
    (if m.dst = 0 then [] else [⟨false, m.dst, m.dst + m.size - 1, true⟩])

/-- The mark of an issue that waits for an earlier operation on an identifier to drain. -/
def collToken (cid : Int) : Int := -1 - cid

/-- The collective unit, on IO die 5 (R472). -/
def State.collectiveReady (s : State) : Bool := s.readyTrit 2256 2 == .pos

/-- Whether a participant reaches the collective unit of its identifier: this device's, or that of another device, where the
port has not yet to come into service; through one that has failed the operation ends (R455, R473, R474).
DEDUCED, unsafe (log 38). -/
def State.collReaches (s : State) (cid : Int) : Bool :=
  if s.collHere cid then s.collectiveReady else s.peerReady (s.collHome cid) || s.peerFailed (s.collHome cid)

/-- The operation that an identifier carries: its participants on this device, else those of other devices, of whom the
first to come began it (R402, R455). -/
def State.collOpen (s : State) (cid : Int) : Option Collective :=
  (s.collectives.find? fun c => c.cid == cid).or <|
    if s.collHome cid = -1 then none
    else (s.remotes.find? fun x => x.cid == cid).map fun x => ⟨x.cid, x.gen, []⟩

/-! ### Sectors that cross between devices (R451, R455) -/

/-- Trytes in parts of a sector. -/
def sectorParts (vals : List Int) : List (List Int) :=
  (List.range ((vals.length + 80) / 81)).map fun i => (vals.drop (81 * i)).take 81

/-- The sectors in which trytes leave. DESIGN CHOICE, safe (log 10). -/
def packAll (vals : List Int) (poison : Bool) : List (List (BitVec 8)) :=
  (sectorParts vals).map fun p => packSector (p ++ List.replicate (81 - p.length) 0) poison

/-- The 160 bytes of the first of two sendings that is accepted (R451). -/
def acceptedOf (sent : List (List (BitVec 8))) : Option (List (BitVec 8)) := (sent.take 2).find? peerAccepts

/-- The trytes of n sectors as they are received; none where a sector is refused twice or reads as poisoned
(R268, R451). -/
def receivedTrytes (n : Nat) (sent : List (List (List (BitVec 8)))) : Option (List Int) :=
  ((List.range n).mapM fun i =>
    (acceptedOf (sent.getD i [])).bind fun b => if readsPoisoned .zero b then none else some (codeTrytes (sectorCodes b))).map
    List.flatten

/-- A participant of another device, from what came of it; one whose record is refused twice or is not valid does not join
(R401, R451, R455). DESIGN CHOICE, safe (log 10). -/
def State.remoteOf (s : State) (j : Config.RemoteJoin) : Option RemoteMember :=
  match receivedTrytes 1 [j.record] with
  | none => none
  | some l =>
    let w := fun i : Nat => wordOfTrytes (l.drop (3 * i))
    let r := collRecordOf w ⟨0, 0⟩ ⟨0, 0⟩ 0 j.mcast
    if r.valid (w 2) = false ∨ s.collHome r.cid = -1 ∨ (s.collHere r.cid && !(s.collectiveReady && s.peerReady j.device)) = true
    then none
    else
      let source := (receivedTrytes ((r.m.size + 80) / 81) j.sources).map fun l => l.take r.m.size
      some ⟨r.cid, r.gen, { r.m with device := some j.device, source := source }⟩

/-- The participants of other devices that join as a step ends (R455). DESIGN CHOICE, safe (log 10). -/
def State.takeJoins (s : State) : State :=
  { s with remotes := s.remotes ++ (Config.arrivingJoins s.tick).filterMap s.remoteOf }

/-! ### Joining -/

/-- The trytes of a participant's source as they stand, none where one of them is poisoned, and the machine that has reached
their home slices (R268, R402). DEDUCED, unsafe (log 46). -/
def State.collRead (s : State) (t : Thread) (m : Member) : Option (List Int) × State :=
  match s.check (s.collAgent t) .load m.src m.size none false false with
  | .error _ => (none, s)
  | .ok segs =>
    let r := (s.loadSegs noCore .default segs).1
    (if r.2 = 0 then some r.1 else none, s.visitAll (s.placesOf segs))

/-- What leaves as a participant joins at the collective unit of another device: its record and its source, poisoned where
it could not be read (R455). DESIGN CHOICE, safe (log 10). -/
def State.sendJoin (s : State) (t : Thread) (o : Int) (r : CollRecord) (source : Option (List Int)) : State :=
  if s.collHere r.cid ∨ s.peerReady (s.collHome r.cid) = false then s
  else
    let record := (List.range 9).flatMap fun i : Nat => trytesOfWord (s.scratchWord t.team o (i : Int))
    let body := packAll (source.getD (List.replicate r.m.size 0)) source.isNone
    { s with collSends := s.collSends ++ [⟨s.collHome r.cid, r.cid, r.gen, r.m.rank, true, false, packAll record false ++ body⟩] }

/-- A participant joins the operation of its identifier and generation, with its source as of its release, or stalls until
the earlier one has drained, which counts once in REUSE (R337, R402, R455). -/
def State.joinColl (s : State) (t : Thread) (o : Int) (r : CollRecord) : State :=
  let cur := s.collOpen r.cid
  let may : Bool := match cur with
    | none => true
    | some c => c.gen == r.gen
  if !may then
    let s := if s.tokens.contains (collToken r.cid, t.id) then s
      else s.setDie (dieOfCore t.core) fun d => { d with reuse := sat 54 (d.reuse + 1) }
    (s.hold (collToken r.cid) t.id).holdHere [t]
  else
    match s.lockAll [t.core] t.team (.collective r.cid r.m.rank) r.m.ranges false with
    | none => s.holdHere [t]
    | some s =>
      let (source, s) := s.collRead t r.m
      let members := ((cur.map Collective.members).getD []) ++ [{ r.m with source := source }]
      ({ s.unhold (collToken r.cid) t.id with
        collectives := (s.collectives.filter fun c : Collective => c.cid != r.cid) ++
          [Collective.mk r.cid r.gen members] }.sendJoin t o r source).mapThread t.id Thread.advance

/-- Whether a tryte of a record in a team's scratchpad shows an uncorrectable error (R426). -/
def State.recordBad (s : State) (team : TeamId) (o : Int) (n : Nat) : Bool :=
  (List.range n).any fun i : Nat => s.badAt (.scratch team (o + (i : Int)))

/-- One lane's MCAST or REDUCE (R401, R402). A record with an uncorrectable error has the POISON status of R426, which a
collective shows by ERR of its SYNC alone. DEDUCED, unsafe (log 46). -/
def collLane (mcast : Bool) (b : Nat) (t : Thread) (s : State) : Except Cause State :=
  let o := t.readG b
  match s.offsetFault t o 27 27 with
  | some c => .error c
  | none =>
    let r := s.collRecord t mcast o
    if s.collValid t o r = false then .error ⟨1, 5, 0⟩
    else
      match s.collFault t r.m with
      | some c => .error c
      | none =>
        let s := (s.drainOps t.id).needs (s.collReaches r.cid)
        if s.recordBad t.team o 27 then
          let at_ : SyncLoc := .scratch t.team r.m.sync
          .ok (((s.setErr at_).raise at_ t.core 1).mapThread t.id Thread.advance)
        else .ok (s.joinColl t o r)

def execMcast (gd : Guard) (b : Nat) (s : State) : Host.Outcome State Fault Refusal :=
  s.lanes gd [gUse b] (collLane true b)

def execReduce (gd : Guard) (b : Nat) (s : State) : Host.Outcome State Fault Refusal :=
  s.lanes gd [gUse b] (collLane false b)

/-! ### COLLECTIVE_PROCEED -/

/-- Writes trytes of a participant's destination, from one of them on (R402). DEDUCED, unsafe (log 46). -/
def State.collWrite (s : State) (m : Member) (at_ : Nat) (vals : List Int) : State :=
  match s.check { s.unitAgent m.id.bolt m.team with system := true } .store (m.dst + at_) vals.length none false false with
  | .error _ => s
  | .ok segs =>
    (s.storeAll noCore .default segs vals).noteUnit [m.core] ((s.placesOf segs).zip vals)

/-- The parts of a result that come to this device, each with its first tryte: whole from its own collective unit; from that
of another in sectors, of which one refused twice is dropped (R451, R455). DESIGN CHOICE, safe (log 10). -/
def State.collComes (s : State) (cid : Int) (vals : List Int) : List (Nat × List Int) :=
  if s.collHere cid then [(0, vals)]
  else
    (sectorParts vals).zipIdx.filterMap fun p =>
      let sent := fun again => flipBits (packSector (p.1 ++ List.replicate (81 - p.1.length) 0) false)
        (Config.linkNoise s.tick cid p.2 again)
      (acceptedOf [sent false, sent true]).map fun b => (81 * p.2, (codeTrytes (sectorCodes b)).take p.1.length)

/-- A participant that receives gets a result (R402). -/
def State.collGive (s : State) (cid : Int) (vals : List Int) (m : Member) : State :=
  if m.dst = 0 then s else (s.collComes cid vals).foldl (fun s p => s.collWrite m p.1 p.2) s

/-- The elements of a participant's trytes: trytes, words or words of halves. -/
def collElems (fmt : Int) (vals : List Int) : List Int :=
  if fmt = -1 then vals
  else (List.range (vals.length / 3)).map fun i => wordOfTrytes [vals.getD (3 * i) 0, vals.getD (3 * i + 1) 0, vals.getD (3 * i + 2) 0]

/-- The trytes of elements; a word of halves is written with trit 26 zero (R15). -/
def collTrytes (fmt : Int) (es : List Int) : List Int :=
  if fmt = -1 then es else if fmt = 1 then es.flatMap fun x => trytesOfWord (trits x 25 0) else es.flatMap trytesOfWord

/-- One element of REDUCE (R221). -/
def collCombine (fmt op : Int) (l : List Int) : Int :=
  if fmt = -1 then reduceOp (redOpOf op) 9 l
  else if fmt = 0 then reduceOp (redOpOf op) 27 l
  else packElems .halves ((List.range 2).map fun k => reduceOp (redOpOf op) 13 (l.map fun x => elem .halves x k))

/-- REDUCE over the elements of every participant. -/
def collReduce (fmt op : Int) (count : Nat) (srcs : List (List Int)) : List Int :=
  collTrytes fmt ((List.range count).map fun i =>
    collCombine fmt op (srcs.map fun v => (collElems fmt v).getD i 0))

/-- Every participant that has joined. -/
def State.joined (s : State) (c : Collective) : List Member :=
  c.members ++ if s.collHome c.cid = -1 then [] else s.remotesOf c.cid c.gen

/-- Whether the records of all participants agree (R402); so must they in executing MCAST or REDUCE.
DESIGN CHOICE, unsafe (log 116). -/
def collAgree (l : List Member) : Bool :=
  match l with
  | [] => true
  | m :: l => l.all fun x =>
      x.parts == m.parts && x.root == m.root && x.op == m.op && x.fmt == m.fmt && x.count == m.count &&
        x.mcast == m.mcast

/-- Whether a participant receives a result (R402). -/
def Member.receives (m x : Member) : Bool := if m.mcast then x.rank != m.root else m.root == -1 || x.rank == m.root

/-- The trytes that the participants that receive get; none where a source that they need could not be read. A MCAST
whose root no participant is gives nothing (R402). DEDUCED, unsafe (log 46). -/
def collResult (l : List Member) : Option (List Int) :=
  match l with
  | [] => some []
  | m :: _ =>
    if m.mcast then
      match l.find? fun x => x.rank == m.root with
      | none => some []
      | some x => x.source.map fun v => collTrytes m.fmt (collElems m.fmt v)
    else (l.mapM Member.source).map (collReduce m.fmt m.op m.count.toNat)

/-- The operations that have participants, those of other devices alone among them (R455). -/
def State.operations (s : State) : List Collective :=
  s.collectives ++ ((s.remotes.map RemoteMember.cid).eraseDups.filterMap s.collOpen).filter fun c => c.members.isEmpty

/-- Whether enough participants have joined, on every device that takes part (R402, R455). -/
def State.collFull (s : State) (c : Collective) : Bool :=
  match s.joined c with
  | [] => false
  | m :: l => decide (m.parts ≤ ((m :: l).length : Int))

/-- Whether a device takes part in an operation: its participants join there, or one of its threads has joined. -/
def State.takesPart (s : State) (c : Collective) (dev : Int) : Bool :=
  s.collHome c.cid != -1 && (s.collHome c.cid == dev || (s.joined c).any fun m => m.device == some dev)

/-- Whether an operation has lost a device that takes part: the UALink port through which it is reached is out of service,
which ends what goes through it as a failure of the device does (R455, R474). DEDUCED, unsafe (log 38). -/
def State.collLost (s : State) (c : Collective) : Bool :=
  if s.collHome c.cid = -1 then false
  else if s.collHere c.cid then (s.joined c).any fun m => (m.device.map s.peerReady) == some false
  else !(s.peerReady (s.collHome c.cid))

/-- An operation proceeds: the writes, then each SYNC is raised by 1, with ERR + where the records disagree, a device is
lost or a source could not be read (R402, R403). DEDUCED, unsafe (log 26). DEDUCED, unsafe (log 46). -/
def State.proceed (s : State) (c : Collective) : State :=
  let l := s.joined c
  match if collAgree l ∧ s.collLost c = false then collResult l else none with
  | none => s.abortCollective c
  | some v =>
    let gets := fun x => (l.head?.map fun m => m.receives x).getD false
    let s1 := (c.members.filter gets).foldl (fun s m => s.collGive c.cid v m) s
    c.members.foldl (fun s m => s.raise (.scratch m.team m.sync) m.core 1)
      (s1.closeCollective c false fun m => if gets m ∧ m.dst ≠ 0 then packAll v false else [])

/-- The first operation that PARTS participants have joined or that has lost a device, where its collective unit is in
service and no core of its participants stands still (R402, R438). -/
def State.collNext (s : State) : Option Collective :=
  s.operations.find? fun c =>
    (s.collFull c || s.collLost c) && (!(s.collHere c.cid) || s.collectiveReady) &&
      !(c.members.any fun m => s.standsStill m.core)

/-- COLLECTIVE_PROCEED (R402). -/
def execCollectiveProceed (s : State) : Host.Outcome State Fault Refusal :=
  match s.collNext with
  | none => .next s
  | some c => .next (s.proceed c)

/-- A peer device fails: every operation it takes part in ends for all (R403, R455). -/
def execPeerDeviceFailure (dev : Nat) (s : State) : Host.Outcome State Fault Refusal :=
  .next ((s.operations.filter fun c => s.takesPart c dev).foldl State.abortCollective s)

end Sys2Proof.Machine
end

