-- ==== Sys2Proof/Machine/Fetch.lean ====
section
/-!
DEFINITION. Instruction fetch: the instruction cache and the loop buffer (R270 to R272), the checks of a
branch target (R120, R479), the structure of a clause (R70), and the fetch of a whole clause.
-/

namespace Sys2Proof.Machine

/-- The agent of a thread's fetches: the private window and range locks concern data. -/
def State.fetchAgent (s : State) (t : Thread) : Agent := { s.agentOf t with win := none }

/-- The line of a core's instruction cache that holds a physical word. -/
def State.iline (s : State) (core home line : Nat) : Option ILine :=
  s.icache.find? fun l => l.core == core && l.home == home && l.line == line

/-- A tryte of code as the core fetches it: from its instruction cache, else as it stands at the home slice,
with the poison mark met there (R270). -/
def State.codeTryte (s : State) (core home pa : Nat) : Int × Nat :=
  match s.iline core home (pa / 729) with
  | some l => ((trytesOfWord (l.words.getD (pa % 729 / 3) 0)).getD (pa % 3) 0, l.marks.getD (pa % 729 / 81) 0)
  | none => (s.peek home pa, s.poisonAt home (pa / 81))

/-- The trytes of translated pieces of code, with their poison marks. -/
def State.codeTrytes (s : State) (core : Nat) (l : List Seg) : List (Int × Nat) :=
  l.flatMap fun g => (List.range g.n).map fun i =>
    s.codeTryte core (s.homeOf (leafDom g.leaf) (g.pa.toNat + i)) (g.pa.toNat + i)

/-- The checks of a fetch of one word before its role is examined, in the order of R120, and its value. A word whose
last tryte is not canonical is not fetched (R41). -/
def State.fetchWord (s : State) (t : Thread) (x : Int) : Except Cause Int :=
  if !t.status.system && decide (x < 0) then .error ⟨4, 3, x⟩
  else if !(canonical x) then .error ⟨5, 2, x⟩
  else if x % 3 ≠ 0 then .error ⟨3, 2, x⟩
  else if !(canonical (x + 2)) then .error ⟨5, 2, x⟩
  else
    match s.segments (s.fetchAgent t) .fetch (pagePieces 2 x 3) with
    | .error c => .error { c with addr := x }
    | .ok l =>
      if l.any fun g => decide (g.pa < 0) then .error ⟨6, 2, x⟩
      else
        let read := s.codeTrytes t.core l
        let mark := (read.map Prod.snd).foldl max 0
        if mark ≠ 0 then .error ⟨11, mark, x⟩ else .ok (wordOfTrytes (read.map Prod.fst))

/-- The check of a branch target (R120): the first cause found, if any. A captured clause is executed
without fetching it (R271). -/
def State.targetFault (s : State) (t : Thread) (x : Int) : Option Cause :=
  if t.capture.any fun c => c.1 == x then none
  else
    match s.fetchWord t x with
    | .error c => some c
    | .ok w =>
      match role w with
      | .header => none
      | .continuation => some ⟨3, 1, x⟩
      | _ => some ⟨3, 2, x⟩

/-! ### The structure of a clause -/

/-- A clause as read, or the fault of its structure with the slot it names (R70). -/
inductive Fetched where
  | clause (words : List Word)
  | fault (slot : Nat) (c : Cause)
  deriving DecidableEq, Repr

/-- A word that stands for any continuation. -/
def anyContinuation : Word := -(p3 26)

/-- Reads n continuation words from x. -/
def State.continuations (s : State) (t : Thread) : Nat → Int → Except Cause (List Word)
  | 0, _ => .ok []
  | n + 1, x =>
    match s.fetchWord t x with
    | .error c => .error c
    | .ok w =>
      if role w = .continuation then
        match s.continuations t n (x + 3) with
        | .error c => .error c
        | .ok ws => .ok (w :: ws)
      else .error ⟨2, 2, x⟩

/-- Reads the instructions of slots k to LEN from address x (n instructions still to read). A translation, poison or
canonical cause met at a word after the header names the word's slot, and the lowest address goes first.
DESIGN CHOICE, unsafe (log 75). -/
def State.clauseBody (s : State) (t : Thread) (len : Nat) : Nat → Int → Fetched
  | 0, _ => .clause []
  | n + 1, x =>
    let k := len - n
    match s.fetchWord t x with
    | .error c => .fault k c
    | .ok w =>
      match role w with
      | .reserved => .fault k ⟨1, 2, x⟩
      | .continuation | .header => .fault k ⟨2, 2, x⟩
      | r =>
        if k < len ∧ isBranch (w :: List.replicate (r.length - 1) anyContinuation) then .fault k ⟨2, 1, x⟩
        else
          match s.continuations t (r.length - 1) (x + 3) with
          | .error c => .fault k c
          | .ok cs =>
            match s.clauseBody t len n (x + 3 * r.length) with
            | .fault j c => .fault j c
            | .clause ws => .clause (w :: cs ++ ws)

/-- Reads the clause whose header h stands at x (R70). -/
def State.readClause (s : State) (t : Thread) (x : Int) (h : Word) : Fetched :=
  if hdrOk h then
    match s.clauseBody t (hdrLen h).toNat (hdrLen h).toNat (x + 3) with
    | .clause ws => .clause (h :: ws)
    | .fault k c => .fault k c
  else .fault 0 ⟨1, 5, x⟩

/-! ### The instruction cache and the loop buffer -/

/-- Brings the line of a physical word into a core's instruction cache (R270).
DESIGN CHOICE, unsafe (log 16). DEDUCED, unsafe (log 64). -/
def State.fillIcache (s : State) (core home pa : Nat) : State :=
  if (s.iline core home (pa / 729)).isSome then s
  else
    let s := s.visit home
    let lines := (s.icache.filter fun l => l.core == core).map fun l => (l.home, l.line)
    let kept :=
      if lines.length < Config.icacheLines then s.icache
      else
        match lines[Config.choose s.tick % lines.length]? with
        | some o => s.icache.filter fun l => !(l.core == core && l.home == o.1 && l.line == o.2)
        | none => s.icache
    let base := 729 * (pa / 729)
    let words := (List.range 243).map fun i => s.memWordAt home (base + 3 * i)
    let marks := (List.range 9).map fun i => s.poisonAt home (base / 81 + i)
    { s with icache := kept ++ [⟨core, home, pa / 729, words, marks⟩] }

/-- Brings the lines of a fetched clause into the instruction cache and its pages into the cache of
translations. -/
def State.noteFetch (s : State) (t : Thread) (x : Int) (n : Nat) : State :=
  let a := s.fetchAgent t
  match s.segments a .fetch (pagePieces 2 x (3 * n)) with
  | .error _ => s
  | .ok segs =>
    let s := s.noteSegs a segs
    segs.foldl (fun s g =>
      if g.pa < 0 then s
      else
        let lo := g.pa.toNat
        let hi := lo + g.n - 1
        let s := s.fillIcache t.core (s.homeOf (leafDom g.leaf) lo) lo
        s.fillIcache t.core (s.homeOf (leafDom g.leaf) hi) hi) s

/-- The clauses from x through the thread's own clause, at most n of them (R271). -/
def State.loopClauses (s : State) (t : Thread) : Nat → Int → Option (List (Int × List Word))
  | 0, _ => none
  | n + 1, x =>
    if x = t.pc then some [(t.pc, t.clause)]
    else if t.pc < x then none
    else
      match s.fetchWord t x with
      | .error _ => none
      | .ok h =>
        if role h = .header then
          match s.readClause t x h with
          | .fault _ _ => none
          | .clause ws => (s.loopClauses t n (x + 3 * ws.length)).map fun l => (x, ws) :: l
        else none

/-- What a thread keeps in the loop buffer after a taken branch to x (R271): the core's buffer holds a clause once for
all threads that captured the same words, a clause with LOOPB − is in no capture, and the words of a clause in which CFENCE has executed
are not captured again (R310). DESIGN CHOICE, safe (log 15). -/
def State.capture (s : State) (t : Thread) (x : Int) : List (Int × List Word) :=
  let wanted : Bool := match hdrLoop t.header with
    | .pos => true
    | .zero => Config.captures s.tick
    | .neg => false
  if t.capture.any fun c => c.1 == x then t.capture
  else if x ≤ t.pc ∧ wanted ∧ t.fenced = false then
    let others := (s.threads.filter fun u => u.core == t.core && u.id != t.id).flatMap Thread.capture
    match s.loopClauses t Config.loopClauses x with
    | none => []
    | some l =>
      if (others ++ l).eraseDups.length ≤ Config.loopClauses then l.filter fun c => hdrLoop (c.2.headD 0) != .neg else []
  else []

/-- A taken branch, its target checked (R120, R271). -/
def State.takeBranch (s : State) (t : Thread) (x : Int) : Except Cause Thread :=
  match s.targetFault t x with
  | some c => .error c
  | none => .ok ({ t with capture := s.capture t x }.jump x)

/-! ### CLAUSE_FETCH -/

/-- A cause found at a fetch (R65, R479): the slot and the TRAPPC it gives. The fetch after a taken branch checks the target
again, as it then stands. DESIGN CHOICE, unsafe (log 108). -/
def Thread.fetchFault (t : Thread) (via : Via) (c : Cause) : Thread :=
  match via with
  | .resume | .resumeWait => t.deliver t.slot t.pc c
  | .rett => { t with failed := some ⟨c, 0, t.pc⟩ }
  | _ => t.deliver 0 t.pc c

/-- A thread holds its clause: it is ready at its slot, or beyond it where RETT or a resumption names a
slot that the clause does not have. A return with SLOT 0 comes to the clause boundary, whose flag wait a cause abandons; a
return or a resumption at a slot delivers it there (R409, R413). -/
def Thread.holdClause (t : Thread) (via : Via) (ws : List Word) : Thread :=
  let u := { t with clause := ws, run := .ready (via != .resume), fenced := false,
                    resumed := (via == .rett && decide (1 ≤ infoSlot t.trapinfo)) || via == .resume || via == .resumeWait }
  if u.slot ≤ u.len then u else u.toBoundary u.fallAddr .fall

/-- A thread at a boundary fetches its clause, or takes the fault of the fetch or of the structure. -/
def State.fetchClause (s : State) (t : Thread) (via : Via) : Thread :=
  match t.capture.find? fun c => c.1 == t.pc with
  | some c => t.holdClause via c.2
  | none =>
    let t := { t with capture := [] }
    match s.fetchWord t t.pc with
    | .error c => t.fetchFault via c
    | .ok h =>
      match role h with
      | .header =>
        match s.readClause t t.pc h with
        | .clause ws => t.holdClause via ws
        | .fault k c => t.deliver k t.pc c
      | r =>
        let c : Cause := match via with
          | .fall => ⟨2, 2, t.pc⟩
          | _ => if r = .continuation then ⟨3, 1, t.pc⟩ else ⟨3, 2, t.pc⟩
        t.fetchFault via c

/-- Whether a thread that was spooled while it was blocked has yet to fetch its clause anew (R424, R479). -/
def Thread.refetches (t : Thread) : Bool :=
  t.clause.isEmpty &&
    match t.run with
    | .arrived _ | .barrier _ | .waiting _ _ _ _ | .answer | .exiting _ => true
    | _ => false

/-- Such a thread holds its clause again and stays blocked, or takes the fault of the fetch at its saved slot. -/
def State.refetch (s : State) (t : Thread) : Thread :=
  let u := s.fetchClause t .resume
  if u.clause.isEmpty then u else { t with clause := u.clause }

/-- A thread takes what its fetch gave, and the lines of a clause that it holds are in the instruction cache. -/
def State.fetched (s : State) (u : Thread) : State :=
  let s := s.mapThread u.id fun _ => u
  (if u.clause.isEmpty ∨ (u.capture.any fun c => c.1 == u.pc) = true then s
    else s.noteFetch u u.pc u.clause.length).settle

/-- CLAUSE_FETCH: a thread at a clause boundary takes its first pending cause, or fetches and decodes its
clause whole (R70, R409); a captured clause passes by the instruction cache (R271). A thread that was spooled while it was
blocked fetches its clause anew (R424). -/
def execClauseFetch (id : ThreadId) (s : State) : Host.Outcome State Fault Refusal :=
  match s.thread? id with
  | none => .next s
  | some t =>
    match t.run with
    | .boundary via =>
      if t.pend ≠ [] ∧ t.status.intrap = false ∧ via ≠ .rett ∧ via ≠ .resume ∧ via ≠ .resumeWait then
        .next (s.mapThread id fun t => t.takePending 0).settle
      else .next (s.fetched (s.fetchClause t via))
    | _ => if t.refetches then .next (s.fetched (s.refetch t)) else .next s

end Sys2Proof.Machine
end

