-- ==== Sys2Proof/Machine/Logic.lean ====
section
/-!
DEFINITION. Opcode group +1: tritwise logic, fields, conditions, moves, special registers and address
pairs (R101 to R112).
-/

namespace Sys2Proof.Machine

/-- A tritwise instruction (R101). -/
def tritwise (gd : Guard) (d b c : Nat) (f : Int → Int → Int) (s : State) : Host.Outcome State Fault Refusal :=
  s.runLocal gd [gUse d, gUse b, gUse c] fun t => t.put d (mapTrits2 f (t.readG b) (t.readG c))

def execTmin (gd : Guard) (d b c : Nat) (s : State) : Host.Outcome State Fault Refusal :=
  tritwise gd d b c min s

def execTmax (gd : Guard) (d b c : Nat) (s : State) : Host.Outcome State Fault Refusal :=
  tritwise gd d b c max s

def execTsum (gd : Guard) (d b c : Nat) (s : State) : Host.Outcome State Fault Refusal :=
  tritwise gd d b c tsumTrit s

def execTmul (gd : Guard) (d b c : Nat) (s : State) : Host.Outcome State Fault Refusal :=
  tritwise gd d b c (fun x y => x * y) s

/-- CONS keeps a trit on which both agree (R102). -/
def execCons (gd : Guard) (d b c : Nat) (s : State) : Host.Outcome State Fault Refusal :=
  tritwise gd d b c (fun x y => if x = y then x else 0) s

/-- FIELD (R104). -/
def execField (gd : Guard) (d b hi lo : Nat) (s : State) : Host.Outcome State Fault Refusal :=
  s.runLocal gd [gUse d, gUse b] fun t => t.put d (trits (t.readG b) hi lo)

/-- DEPOSIT: trits hi..lo of gd become the low trits of gb (R104). -/
def depositTrits (x y : Int) (hi lo : Nat) : Int := x + (wrap (hi + 1 - lo) y - trits x hi lo) * p3 lo

def execDeposit (gd : Guard) (d b hi lo : Nat) (s : State) : Host.Outcome State Fault Refusal :=
  s.runLocal gd [gUse d, gUse b] fun t => t.put d (depositTrits (t.readG d) (t.readG b) hi lo)

/-- The thread writes a condition register and goes on. -/
def Thread.putC (t : Thread) (d : Nat) (v : Trit) : Except Cause Thread := .ok (t.writeC d v).advance

def execCmp (gd : Guard) (d b c : Nat) (s : State) : Host.Outcome State Fault Refusal :=
  s.runLocal gd [cUse d, gUse b, gUse c] fun t => t.putC d (Trit.ofInt (t.readG b - t.readG c))

def execCmpi (gd : Guard) (d b : Nat) (lit : Int) (s : State) : Host.Outcome State Fault Refusal :=
  s.runLocal gd [cUse d, gUse b] fun t => t.putC d (Trit.ofInt (t.readG b - lit))

def execCset (gd : Guard) (d b : Nat) (s : State) : Host.Outcome State Fault Refusal :=
  s.runLocal gd [cUse d, gUse b] fun t => t.putC d (Trit.ofInt (t.readG b))

def execCand (gd : Guard) (d b c : Nat) (s : State) : Host.Outcome State Fault Refusal :=
  s.runLocal gd [cUse d, cUse b, cUse c] fun t =>
    t.putC d (Trit.ofInt (min (t.readC b).toInt (t.readC c).toInt))

def execCor (gd : Guard) (d b c : Nat) (s : State) : Host.Outcome State Fault Refusal :=
  s.runLocal gd [cUse d, cUse b, cUse c] fun t =>
    t.putC d (Trit.ofInt (max (t.readC b).toInt (t.readC c).toInt))

/-- SEL3 selects by the condition named in MODIF (R106). -/
def execSel3 (gd : Guard) (d m b c e : Nat) (s : State) : Host.Outcome State Fault Refusal :=
  s.runLocal gd [gUse d, cUse m, gUse b, gUse c, gUse e] fun t =>
    t.put d (match t.readC m with
      | .neg => t.readG b
      | .zero => t.readG c
      | .pos => t.readG e)

def execMov (gd : Guard) (d b : Nat) (s : State) : Host.Outcome State Fault Refusal :=
  s.runLocal gd [gUse d, gUse b] fun t => t.put d (t.readG b)

def execMovi (gd : Guard) (d : Nat) (lit : Int) (s : State) : Host.Outcome State Fault Refusal :=
  s.runLocal gd [gUse d] fun t => t.put d lit

def execMovcG (gd : Guard) (d b : Nat) (s : State) : Host.Outcome State Fault Refusal :=
  s.runLocal gd [gUse d, cUse b] fun t => t.put d (t.readC b).toInt

def execMovcC (gd : Guard) (d b : Nat) (s : State) : Host.Outcome State Fault Refusal :=
  s.runLocal gd [cUse d, cUse b] fun t => t.putC d (t.readC b)

/-! ### Special registers (R35 to R41, R108, R109) -/

/-- PROBEFLAG of a thread's group (R72). -/
def State.probeFlag (s : State) (t : Thread) : Bool :=
  match s.team? t.team with
  | some team => team.probe.getD t.grp false
  | none => false

def State.setProbe (s : State) (t : Thread) (v : Bool) : State :=
  s.mapTeam t.team fun team => { team with probe := team.probe.set t.grp v }

/-- The value of a special register of a thread (R35). -/
def State.special (s : State) (t : Thread) (sp : Special) : Int :=
  match sp with
  | .threadid => t.id.tid
  | .laneid => t.lane
  | .groupid => t.grp
  | .teamid => t.team.team
  | .boltid => t.id.bolt
  | .flags => t.flags.word
  | .status => t.status.word
  | .splimit => t.splimit
  | .trapvec => t.trapvec
  | .trappc => t.trappc
  | .trapinfo => t.trapinfo
  | .trapaddr => t.trapaddr
  | .rsdepth => t.rsdepth
  | .cycles => (s.dieAt (dieOfCore t.core)).cycles
  | .reftime => s.reftime
  | .probeflag => boolTrit (s.probeFlag t)

/-- MOVS into a general register: wrap27 of the value (R109). DEDUCED, safe (log 67). -/
def execMovs (gd : Guard) (d : Nat) (sp : Special) (s : State) : Host.Outcome State Fault Refusal :=
  s.runLocal gd [gUse d] fun t => t.put d (wrap 27 (s.special t sp))

/-- MOVS into an address register: the whole value (R109). DEDUCED, safe (log 67). -/
def execMovsA (gd : Guard) (d : Nat) (sp : Special) (s : State) : Host.Outcome State Fault Refusal :=
  s.runLocal gd [aUse d] fun t => .ok (t.writeA d (s.special t sp)).advance

/-- Whether SETS may write a register at the thread's privilege (R36, R417). -/
def mayset (system : Bool) (sp : Special) : Bool :=
  match sp with
  | .flags | .splimit | .trapvec | .probeflag => true
  | .status | .trappc | .trapinfo | .trapaddr => system
  | _ => false

/-- The write of SETS in a thread's own registers; v is the 54-trit source (R37, R39, R417). -/
def Thread.setSpecial (t : Thread) (sp : Special) (v : Int) : Thread :=
  match sp with
  | .flags => { t with flags := RealFlags.ofWord v }
  | .status => { t with status := t.status.set v }
  | .splimit => { t with splimit := v }
  | .trapvec => { t with trapvec := v }
  | .trappc => { t with trappc := v }
  | .trapinfo => { t with trapinfo := trits v 21 0 }
  | .trapaddr => { t with trapaddr := v }
  | _ => t

/-- A write of PROBEFLAG by its trit 0 (R37). -/
def State.probeWrite (s : State) (t : Thread) (x : Trit) : State :=
  match x with
  | .pos => s.setProbe t true
  | .zero => s.setProbe t false
  | .neg => s

/-- SETS of a value; PROBEFLAG is the group's (R37, R72). -/
def setsValue (sp : Special) (v : Int) (t : Thread) (s : State) : Except Cause State :=
  if mayset t.status.system sp then
    let s : State := match sp with
      | .probeflag => s.probeWrite t (tritAt v 0)
      | _ => s
    .ok (s.mapThread t.id fun t => (t.setSpecial sp v).advance)
  else .error (t.illegal 4)

/-- DEDUCED, safe (log 67). -/
def execSets (gd : Guard) (sp : Special) (b : Nat) (s : State) : Host.Outcome State Fault Refusal :=
  s.lanes gd [gUse b] fun t s => setsValue sp (t.readG b) t s

def execSetsA (gd : Guard) (sp : Special) (b : Nat) (s : State) : Host.Outcome State Fault Refusal :=
  s.lanes gd [aUse b] fun t s => setsValue sp (t.readA b) t s

/-- MOVX and MOVY: the general register named by a value (R110). -/
def Thread.named (t : Thread) (v : Int) : Option Nat :=
  if 0 ≤ v ∧ v < t.nregs then some v.toNat else none

def execMovx (gd : Guard) (d b : Nat) (s : State) : Host.Outcome State Fault Refusal :=
  s.runLocal gd [gUse d, gUse b] fun t =>
    match t.named (t.readG b) with
    | some i => t.put d (t.readG i)
    | none => .error ⟨1, 3, 0⟩

def execMovy (gd : Guard) (d b : Nat) (s : State) : Host.Outcome State Fault Refusal :=
  s.runLocal gd [gUse d, gUse b] fun t =>
    match t.named (t.readG d) with
    | some i => t.put i (t.readG b)
    | none => .error ⟨1, 3, 0⟩

/-! ### Address pairs (R111, R112) -/

/-- The thread writes an address register and goes on. -/
def Thread.putA (t : Thread) (d : Nat) (v : Int) : Except Cause Thread := .ok (t.writeA d v).advance

def execAadd (gd : Guard) (d b c : Nat) (s : State) : Host.Outcome State Fault Refusal :=
  s.runLocal gd [aUse d, aUse b, gUse c] fun t => t.putA d (wrap 54 (t.readA b + t.readG c))

def execAsub (gd : Guard) (d b c : Nat) (s : State) : Host.Outcome State Fault Refusal :=
  s.runLocal gd [aUse d, aUse b, gUse c] fun t => t.putA d (wrap 54 (t.readA b - t.readG c))

def execAmov (gd : Guard) (d b : Nat) (s : State) : Host.Outcome State Fault Refusal :=
  s.runLocal gd [aUse d, aUse b] fun t => t.putA d (t.readA b)

def execAmovPair (gd : Guard) (d b c : Nat) (s : State) : Host.Outcome State Fault Refusal :=
  s.runLocal gd [aUse d, gUse b, gUse c] fun t => t.putA d (t.readG b + p3 27 * t.readG c)

def execAmovLo (gd : Guard) (d b : Nat) (s : State) : Host.Outcome State Fault Refusal :=
  s.runLocal gd [gUse d, aUse b] fun t => t.put d (wrap 27 (t.readA b))

def execAmovHi (gd : Guard) (d b : Nat) (s : State) : Host.Outcome State Fault Refusal :=
  s.runLocal gd [gUse d, aUse b] fun t => t.put d (trunc 27 (t.readA b))

/-- ALEA: k outside 0..26 is illegal (R111). -/
def execAlea (gd : Guard) (d b e k : Nat) (s : State) : Host.Outcome State Fault Refusal :=
  s.runLocal gd [aUse d, aUse b, gUse e] fun t =>
    if k ≤ 26 then t.putA d (wrap 54 (t.readA b + t.readG e * p3 k)) else .error (t.illegal 5)

end Sys2Proof.Machine
end

