-- ==== Sys2Proof/Machine/Control.lean ====
section
/-!
DEFINITION. Control transfer of opcode group -1 and the system instructions of group +4 (R119 to R128, R411
to R417), and the step of an undefined opcode (R70, R71).
-/

namespace Sys2Proof.Machine

/-- A branch of one lane to x, taken or not; `f` is what it does to the thread besides (R120, R125). -/
def branchTo (t : Thread) (s : State) (x : Option Int) (f : Thread → Thread) : Except Cause State :=
  match x with
  | none => .ok (s.mapThread t.id fun t => (f t).advance)
  | some x =>
    match s.takeBranch t x with
    | .error c => .error c
    | .ok u => .ok (s.mapThread t.id fun _ => f u)

def execJ (gd : Guard) (lit : Int) (s : State) : Host.Outcome State Fault Refusal :=
  s.lanes gd [] fun t s => branchTo t s (some (t.target lit)) id

def execJx (gd : Guard) (b : Nat) (s : State) : Host.Outcome State Fault Refusal :=
  s.lanes gd [aUse b] fun t s => branchTo t s (some (t.readA b)) id

def execBc (gd : Guard) (b : Nat) (lit : Int) (s : State) : Host.Outcome State Fault Refusal :=
  s.lanes gd [cUse b] fun t s =>
    branchTo t s (if t.readC b = Trit.zero then none else some (t.target lit)) id

/-- BCASE: three ways on a condition register (R122). -/
def caseTarget (t : Thread) (b : Nat) (tneg tpos : Int) : Option Int :=
  match t.readC b with
  | .neg => some (t.target tneg)
  | .zero => none
  | .pos => some (t.target tpos)

def execBcase (gd : Guard) (b : Nat) (tneg tpos : Int) (s : State) : Host.Outcome State Fault Refusal :=
  s.lanes gd [cUse b] fun t s => branchTo t s (caseTarget t b tneg tpos) id

/-! ### Calls and returns (R44, R45, R123, R124) -/

/-- The return address is pushed on the hardware stack. -/
def Thread.push (t : Thread) (ret : Int) : Thread :=
  { t with rstack := ret :: t.rstack, rsdepth := t.rsdepth + 1 }

/-- CALL and CALLX: the target is checked, then the return address is pushed, or spilled below a1. -/
def callTo (t : Thread) (s : State) (x : Int) : Except Cause State :=
  match s.takeBranch t x with
  | .error c => .error c
  | .ok u =>
    if t.rsdepth < 9 then .ok (s.mapThread t.id fun _ => u.push t.fallAddr)
    else
      let addr := wrap 54 (t.readA 1 - 6)
      if addr < t.splimit then .error ⟨8, 2, addr⟩
      else
        match s.storeMem t .default addr (some ⟨3, 2⟩) false true
            (trytesOfWord (loWord t.fallAddr) ++ trytesOfWord (hiWord t.fallAddr))
            (fun v => { u.writeA 1 addr with rsdepth := t.rsdepth + 1, buf := v.buf }) with
        | .error c => .error { c with addr := addr }
        | .ok s => .ok s

/-- The pieces of the return address that a call to x spills. -/
def spillSegs (gd : Guard) (uses : List RegUse) (x : Thread → Int) (s : State) (t : Thread) : List Seg :=
  let addr := wrap 54 (t.readA 1 - 6)
  match s.targetFault t (x t) with
  | some _ => []
  | none => if t.rsdepth < 9 ∨ addr < t.splimit then [] else s.laneSegs gd uses .store addr 6 (some ⟨3, 2⟩) false true t

/-- A call of each lane; the spills of one issue are one request for each sector (R129, R315).
DEDUCED, unsafe (log 101). -/
def callLanes (gd : Guard) (uses : List RegUse) (x : Thread → Int) (s : State) : Host.Outcome State Fault Refusal :=
  s.storeLanes gd uses (spillSegs gd uses x) fun t s => callTo t s (x t)

def execCall (gd : Guard) (lit : Int) (s : State) : Host.Outcome State Fault Refusal :=
  callLanes gd [] (fun t => t.target lit) s

def execCallx (gd : Guard) (b : Nat) (s : State) : Host.Outcome State Fault Refusal :=
  callLanes gd [aUse b] (fun t => t.readA b) s

/-- RET: the return address comes from the hardware stack or from the spilled pair at a1, and is checked
before anything changes. -/
def returnFrom (view : State) (t : Thread) (s : State) : Except Cause State :=
  if t.rsdepth = 0 then .error ⟨9, 0, 0⟩
  else if t.rsdepth ≤ 9 then
    match s.takeBranch t (t.rstack.headD 0) with
    | .error c => .error c
    | .ok u => .ok (s.mapThread t.id fun _ => { u with rstack := t.rstack.tail, rsdepth := t.rsdepth - 1 })
  else
    match view.loadFrom s t .default (t.readA 1) 6 (some ⟨3, 2⟩) false true with
    | .error c => .error { c with addr := t.readA 1 }
    | .ok ((vals, mark), s) =>
      if mark ≠ 0 then .error ⟨11, mark, t.readA 1⟩
      else
        match s.takeBranch t (pairOf vals) with
        | .error c => .error c
        | .ok u =>
          .ok (s.mapThread t.id fun _ =>
            { u.writeA 1 (wrap 54 (t.readA 1 + 6)) with rsdepth := t.rsdepth - 1 })

def execRet (gd : Guard) (s : State) : Host.Outcome State Fault Refusal :=
  s.loadLanes gd [] (fun s t =>
    if t.rsdepth ≤ 9 then [] else s.laneSegs gd [] .load (t.readA 1) 6 (some ⟨3, 2⟩) false true t) returnFrom

/-- LOOP: the counter is written only if no cause is raised (R125). -/
def execLoop (gd : Guard) (d : Nat) (lit : Int) (s : State) : Host.Outcome State Fault Refusal :=
  s.lanes gd [gUse d] fun t s =>
    let v := wrap 27 (t.readG d - 1)
    branchTo t s (if 0 < v then some (t.target lit) else none) fun t => t.writeG d v

def execYield (gd : Guard) (s : State) : Host.Outcome State Fault Refusal :=
  s.runLocal gd [] fun t => .ok t.advance

/-- Whether the thread performs a handler run of a sweep (R349). -/
def Thread.inRun (t : Thread) : Bool := t.element.isSome

/-- EXIT and HALT leave the gang; their waits end at COMPLETION_COUNTER_ADD (R127, R188). -/
def execExit (gd : Guard) (s : State) : Host.Outcome State Fault Refusal :=
  s.runLocal gd [] fun t => if t.inRun then .error ⟨18, 1, 0⟩ else .ok { t with run := .exiting none }

def execBrk (gd : Guard) (s : State) : Host.Outcome State Fault Refusal :=
  s.runLocal gd [] fun _ => .error ⟨12, 0, 0⟩

/-! ### System instructions -/

def execTrap (gd : Guard) (n : Int) (s : State) : Host.Outcome State Fault Refusal :=
  s.runLocal gd [] fun _ => .error ⟨13, n, 0⟩

/-- RETT (R413): a cause at the fetch at TRAPPC ends the thread with failure (R479). -/
def returnFromTrap (s : State) (t : Thread) : Except Cause Thread :=
  if t.status.intrap = false then .error ⟨21, 1, 0⟩
  else
    match s.targetFault { t with capture := [] } t.trappc with
    | some c => .ok { t with failed := some ⟨c, 0, t.trappc⟩ }
    | none => .ok { t.rettTo with capture := [] }

def execRett (gd : Guard) (s : State) : Host.Outcome State Fault Refusal :=
  s.runLocal gd [] (returnFromTrap s)

def execHalt (gd : Guard) (b : Nat) (s : State) : Host.Outcome State Fault Refusal :=
  s.runLocal gd [gUse b] fun t =>
    if t.status.system then .ok { t with run := .exiting (some (t.readG b)) } else .error ⟨4, 2, 0⟩

def execPmode (gd : Guard) (m : Int) (s : State) : Host.Outcome State Fault Refusal :=
  s.runLocal gd [] fun t =>
    if m = 0 ∨ m = 1 then .ok { t with status := { t.status with pm := m == 1 } }.advance
    else .error (t.illegal 5)

/-- An undefined opcode: illegal instruction, or in probe mode a NOP that sets PROBEFLAG (R70, R71). -/
def execUndefinedOpcode (gd : Guard) (s : State) : Host.Outcome State Fault Refusal :=
  s.lanes gd [] fun t s =>
    if t.status.pm then .ok ((s.setProbe t true).mapThread t.id Thread.advance) else .error (t.illegal 1)

end Sys2Proof.Machine
end

