-- ==== Sys2Proof/Machine/Halves.lean ====
section
/-!
DEFINITION. The packed halves and pixel ingest of opcode group -1 (R113 to R118).
-/

namespace Sys2Proof.Machine

/-- The halves of gc as MODIF routes them (R114). -/
def routed (r : Route) (x : Int) : Int :=
  let lo := elem .halves x 0
  let hi := elem .halves x 1
  match r with
  | .straight => packElems .halves [lo, hi]
  | .sw => packElems .halves [hi, lo]
  | .bl => packElems .halves [lo, lo]
  | .bh => packElems .halves [hi, hi]

/-- A packed-half instruction (R115). -/
def halfElems (gd : Guard) (r : Route) (d b c : Nat) (f : Int → Int → Int) (s : State) :
    Host.Outcome State Fault Refusal :=
  s.runLocal gd [gUse d, gUse b, gUse c] fun t =>
    t.put d (mapElems2 .halves f (t.readG b) (routed r (t.readG c)))

def execHadd (gd : Guard) (r : Route) (d b c : Nat) (s : State) : Host.Outcome State Fault Refusal :=
  halfElems gd r d b c (fun x y => sat 13 (x + y)) s

def execHsub (gd : Guard) (r : Route) (d b c : Nat) (s : State) : Host.Outcome State Fault Refusal :=
  halfElems gd r d b c (fun x y => sat 13 (x - y)) s

def execHmin (gd : Guard) (r : Route) (d b c : Nat) (s : State) : Host.Outcome State Fault Refusal :=
  halfElems gd r d b c min s

def execHmax (gd : Guard) (r : Route) (d b c : Nat) (s : State) : Host.Outcome State Fault Refusal :=
  halfElems gd r d b c max s

def execHcmp (gd : Guard) (r : Route) (d b c : Nat) (s : State) : Host.Outcome State Fault Refusal :=
  halfElems gd r d b c (fun x y => sgn (x - y)) s

/-- HACS: one add-compare-select butterfly (R116). -/
def execHacs (gd : Guard) (d b c k : Nat) (s : State) : Host.Outcome State Fault Refusal :=
  s.runLocal gd [gUse d, gUse b, gUse c, cUse k, cUse (k + 1)] fun t =>
    let b0 := elem .halves (t.readG b) 0
    let b1 := elem .halves (t.readG b) 1
    let m0 := elem .halves (t.readG c) 0
    let m1 := elem .halves (t.readG c) 1
    let v := packElems .halves [sat 13 (min (b0 + m0) (b1 + m1)), sat 13 (min (b0 + m1) (b1 + m0))]
    .ok (((t.writeG d v).writeC k (Trit.ofInt (b0 + m0 - (b1 + m1)))).writeC (k + 1)
      (Trit.ofInt (b0 + m1 - (b1 + m0)))).advance

def execHpack (gd : Guard) (d b c : Nat) (s : State) : Host.Outcome State Fault Refusal :=
  s.runLocal gd [gUse d, gUse b, gUse c] fun t =>
    t.put d (packElems .halves [sat 13 (t.readG b), sat 13 (t.readG c)])

/-- HUNPK writes the low half first, then the high half (R117). -/
def execHunpk (gd : Guard) (d c b : Nat) (s : State) : Host.Outcome State Fault Refusal :=
  s.runLocal gd [gUse d, gUse c, gUse b] fun t =>
    .ok ((t.writeG d (elem .halves (t.readG b) 0)).writeG c (elem .halves (t.readG b) 1)).advance

/-- The two 16-bit samples of a word (R118). -/
def samplesOf (signed : Bool) (x : Int) : Int :=
  let u := x % 4294967296
  let s0 := u % 65536
  let s1 := u / 65536
  let fix := fun v : Int => if signed ∧ 32768 ≤ v then v - 65536 else v
  packElems .halves [fix s0, fix s1]

def execPxin (gd : Guard) (d b : Nat) (s : State) : Host.Outcome State Fault Refusal :=
  s.runLocal gd [gUse d, gUse b] fun t => t.put d (samplesOf false (t.readG b))

def execPxinS (gd : Guard) (d b : Nat) (s : State) : Host.Outcome State Fault Refusal :=
  s.runLocal gd [gUse d, gUse b] fun t => t.put d (samplesOf true (t.readG b))

end Sys2Proof.Machine
end

