-- ==== Sys2Proof/Machine/Power.lean ====
section
/-!
DEFINITION. Power and clocks: the evaluation of headroom, the beam step, and the frequency steps of a die (R205,
R366, R436 to R439).
-/

namespace Sys2Proof.Machine

/-! ### HEADROOM_EVALUATION (R205, R366, R437) -/

/-- The headroom state of h under a budget. -/
def headroomOf (h budget : Int) : Int := if h < 0 then -1 else if 9 * h < budget then 0 else 1

/-- The count of consecutive evaluations of one sign; evaluations during a relock are not counted (R437). -/
def Die.countEval (d : Die) (sign : Int) : Die :=
  if d.relock then d
  else if sign = 0 then { d with evalSign := 0, evalCount := 0 }
  else if sign = d.evalSign then { d with evalCount := d.evalCount + 1 }
  else { d with evalSign := sign, evalCount := 1 }

/-- One die's evaluation: power, headroom and the rate step. EMEAS advances here alone, by what the die has used since the
evaluation before; nanojoules of 1 microsecond are milliwatts. DESIGN CHOICE, unsafe (log 98). -/
def Die.evaluate (d : Die) (energy : Nat) : Die :=
  let emeas := sat 54 (d.emeas + energy)
  let h := d.ebudget - (emeas - d.emeas)
  let sign := headroomOf h d.ebudget
  { d with
    emeas := emeas
    h := h
    headroom := sign
    rate := if sign < 0 then max 1 (d.rate - 1) else if sign = 0 then d.rate else min 9 (d.rate + 1) }.countEval sign

/-- The governed beam step after an evaluation (R366). -/
def Beam.govern (b : Beam) (signs : List Int) : Beam :=
  if b.fixstep ≠ 0 then b
  else if signs.any (· < 0) then { b with step := max b.minstep (b.step - 1) }
  else if signs.all (0 < ·) then { b with step := min 9 (b.step + 1) }
  else b

/-- Whether REFTIME has reached a multiple of 100 whose evaluation has not taken place (R205). -/
def State.evalDue (s : State) : Bool := s.evals != s.reftime / 100

/-- HEADROOM_EVALUATION: the evaluation that is due at a multiple of 100 REFTIME ticks (R205). -/
def execHeadroomEvaluation (energy : List Nat) (s : State) : Host.Outcome State Fault Refusal :=
  if s.evalDue = false then .next s
  else
    let dies := s.dies.zipIdx.map fun p : Die × Nat => p.1.evaluate (energy.getD p.2 0)
    .next { s with dies := dies, beam := s.beam.govern (dies.map Die.headroom),
                   evals := s.reftime / 100 }

/-! ### Frequency (R436 to R438) -/

/-- Frequency code N of a step, in units of 150 MHz (R436). -/
def freqCode (step : Int) : Int := step + 3

/-- Relock addition of a step (R436). -/
def relockAddition (step : Int) : Int := 180 * freqCode step

/-- Whether FCTL allows a step. -/
def Die.allows (d : Die) (n : Int) : Bool :=
  if d.ffix ≠ 0 then n == d.ffix else decide (d.fmin ≤ n) && decide (n ≤ d.fmax)

/-- The allowed step nearest to n. -/
def Die.nearest (d : Die) (n : Int) : Int := if d.ffix ≠ 0 then d.ffix else max d.fmin (min d.fmax n)

/-- The step that governed mode requests now, if any (R437). -/
def Die.governs (d : Die) : Option Int :=
  let n := d.step + d.evalSign
  if d.ffix = 0 ∧ d.relock = false ∧ d.request = none ∧ 9 ≤ d.evalCount ∧ d.allows n = true then some n else none

/-- GOVERNED_STEP: the first die whose evaluations call for it requests a step (R437). -/
def execGovernedStep (s : State) : Host.Outcome State Fault Refusal :=
  match s.dies.findIdx? fun d : Die => d.governs.isSome with
  | none => .next s
  | some k => .next (s.setDie k fun d => { d with request := d.governs, evalCount := 0, evalSign := 0 })

/-- FCTL: a write whose fields lie within their Values sets the bounds and requests a step when the current one is excluded
(R437); its reserved trits are ignored (R6). DEDUCED, unsafe (log 37). -/
def execFctl (die : Nat) (v : Int) (s : State) : Host.Outcome State Fault Refusal :=
  let lo := trits v 4 1
  let hi := trits v 8 5
  let fix := trits v 12 9
  if 1 ≤ lo ∧ lo ≤ 9 ∧ lo ≤ hi ∧ hi ≤ 9 ∧ 0 ≤ fix ∧ fix ≤ 9 then
    .next (s.setDie die fun d =>
      let d := { d with fmin := lo, fmax := hi, ffix := fix }
      if d.allows d.step then { d with request := d.request.filter d.allows }
      else { d with request := some (d.nearest d.step), evalCount := 0, evalSign := 0 })
  else .next s

/-- The units of time of a relock: 1.2 microseconds, 120 REFTIME ticks (R438, R440). -/
def relockUnits : Nat := 120 * Config.tickUnits

/-- The units of time of one cycle at a step: 27,720 / N (R436). -/
def cycleUnits (step : Int) : Nat := 27720 / (freqCode step).toNat

/-- A die's clock over n units of time: it counts its cycles, or stands still while it relocks (R436, R438). -/
def Die.pass (n : Nat) (d : Die) : Die :=
  if d.relock then { d with left := d.left - n }
  else
    { d with cycles := wrap 54 (d.cycles + ((d.phase + n) / cycleUnits d.step : Nat))
             phase := (d.phase + n) % cycleUnits d.step }

/-- A requested step begins: CYCLES is rescaled, the clock stops for the relock, and the count of evaluations begins anew
with the first after it (R437, R438). -/
def Die.startStep (d : Die) : Die :=
  match d.request with
  | none => d
  | some n =>
    if n = d.step then { d with request := none }
    else
      { d with cycles := wrap 54 (divq (d.cycles * freqCode n) (freqCode d.step)), step := n, relock := true,
               left := relockUnits, phase := 0, request := none, evalCount := 0, evalSign := 0 }

/-- FREQUENCY_STEP: the first die that has a step requested and is not relocking begins it (R438). -/
def execFrequencyStep (s : State) : Host.Outcome State Fault Refusal :=
  match s.dies.findIdx? fun d : Die => d.request.isSome && !d.relock with
  | none => .next s
  | some k => .next (s.setDie k Die.startStep)

/-- Whether a die's relock is over (R438). -/
def Die.relocked (d : Die) : Bool := d.relock && d.left == 0

/-- The clock restarts and CYCLES gains the relock addition; a step requested during the relock begins (R438). -/
def Die.endRelock (d : Die) : Die :=
  Die.startStep { d with relock := false, cycles := wrap 54 (d.cycles + relockAddition d.step) }

/-- RELOCK_END: the first die whose relock is over goes on. -/
def execRelockEnd (s : State) : Host.Outcome State Fault Refusal :=
  match s.dies.findIdx? Die.relocked with
  | none => .next s
  | some k => .next (s.setDie k Die.endRelock)

end Sys2Proof.Machine
end

