-- ==== Sys2Proof/Machine/Issue.lean ====
section
/-!
DEFINITION. From a ready thread to the end of its team: the picker (R173 to R176), what holds an instruction
back at issue (R68, R69, R409), the quanta and commits of deterministic mode (R287 to R289), and the completion
of threads (R127, R188, R410).
-/

namespace Sys2Proof.Machine

/-! ### Readiness (R67, R173) -/

/-- Whether a thread has a cause to deliver, being outside a handler (R409). -/
def Thread.due (t : Thread) : Bool := !t.pend.isEmpty && !t.status.intrap

/-- The atomics of R288, R380, R384 and R386, and KWAKE, which takes effect in their order (R380). -/
def isAtomic (i : Instr) : Bool :=
  match i with
  | .xadd .. | .xmin .. | .xmax .. | .xswp .. | .xcas .. | .xsum .. | .append .. | .take .. | .qdone .. | .sarm ..
  | .sget .. | .kwake .. => true
  | _ => false

/-- The place of an instruction in the order of a commit: 0 for an atomic, and one number for each kind that acts for the
group and names what it makes by a number of its team, none for the others (R288, R290). -/
def commitKind (i : Instr) : Option Nat :=
  if isAtomic i then some 0
  else
    match i with
    | .engage .. => some 1
    | .board .. | .boardTile .. => some 2
    | .sweep .. => some 3
    | .launch .. => some 4
    | _ => none

/-- The kind of the instruction at a thread's slot. -/
def Thread.commitKind (t : Thread) : Option Nat :=
  match decode t.words with
  | .ok i => Machine.commitKind i
  | .error _ => none

/-- The kind of a list of threads whose instructions a commit orders. -/
def State.batchKind (s : State) (ids : List ThreadId) : Option Nat := (ids.head?.bind s.thread?).bind Thread.commitKind

/-- Whether a commit keeps a thread from issuing: the atomics of its team come first, in their order, and of instructions
of one kind that act for a group each waits for those before it (R288, R290). DEDUCED, unsafe (log 31). -/
def State.heldByCommit (s : State) (t : Thread) : Bool :=
  let mine := s.forced.filter fun l => ((l.head?.bind s.thread?).map Thread.team) == some t.team
  let first := mine.takeWhile fun l => !(l.contains t.id)
  first.any fun l => s.batchKind l == some 0 || (decide (first.length < mine.length) && s.batchKind l == t.commitKind)

/-- Whether a team that has been resumed has yet to register its locks and boardings again: no thread of it issues before
(R291, R390). -/
def State.rejoins (s : State) (id : TeamId) : Bool := ((s.team? id).map Team.rejoin).getD false

/-- Whether the picker may take a thread: the flags that its clause waits for are clear, but a cause that is due at the
boundary abandons that wait, while one that is due at a resumed slot follows it (R173, R409, R413). -/
def State.pickable (s : State) (t : Thread) : Bool :=
  s.teamLive t.team && !(s.rejoins t.team) && !(s.heldByCommit t) &&
    match t.run with
    | .ready wait => !wait || (t.due && !t.resumed) || t.flagsClear
    | _ => false

/-- Lanes of a core that its gangs take. -/
def State.takenLanes (s : State) (core : Nat) : List Nat :=
  (s.threads.filter fun t => t.core == core && t.run == .ganged).map Thread.lane

/-- Gangs of a core. -/
def State.gangsOf (s : State) (core : Nat) : List (List ThreadId) :=
  s.gangs.filter fun g => match g.head?.bind s.thread? with
    | some t => t.core == core
    | none => false

/-- Whether a thread has reached a clause boundary and has not fetched its clause. -/
def State.unfetched (s : State) (t : Thread) : Bool :=
  s.teamLive t.team && match t.run with
    | .boundary _ => true
    | _ => false

/-- Whether a thread is ready, or will be as soon as it has fetched its clause (R70, R173). -/
def State.waitsForPicker (s : State) (t : Thread) : Bool := s.pickable t || s.unfetched t

/-- The threads whose instructions a commit lets issue together with that of a thread (R186, R288). -/
def State.batchOf (s : State) (id : ThreadId) : List ThreadId := (s.forced.find? fun l => l.contains id).getD [id]

/-- Whether a thread may go into a gang: its lane is free, and those of all that a commit lets issue together with it, which
are as ready as it is. DEDUCED, unsafe (log 31). -/
def State.mayJoin (s : State) (t : Thread) : Bool :=
  ((s.batchOf t.id).filterMap s.thread?).all fun u =>
    !((s.takenLanes t.core).contains u.lane) && (s.unfetched t || s.pickable u)

/-- The threads of a core among which the picker chooses the oldest PC: a fetch has no duration that a program could see, so
that a thread that has yet to fetch counts from the moment at which it reached the boundary (R175, R176).
DEDUCED, unsafe (log 54). -/
def State.candidates (s : State) (core : Nat) : List Thread :=
  s.threads.filter fun t => t.core == core && s.waitsForPicker t && s.mayJoin t

/-- The kernel that a thread runs: the tables and the entry of its bolt's record, which no two kernels share (R168, R173).
DESIGN CHOICE, unsafe (log 94). -/
def State.kernelOf (s : State) (t : Thread) : Option (Int × Int) :=
  (s.bolt? t.id.bolt).map fun b => (b.qroot, b.record.entry)

/-- Since when a thread has been ready. -/
def State.readyFrom (s : State) (t : Thread) : Nat := t.readySince.getD s.tick

/-- Whether two threads stand at one PC of one kernel (R173). -/
def State.samePlace (s : State) (t u : Thread) : Bool := u.pc == t.pc && s.kernelOf u == s.kernelOf t

/-- The age of a PC on a core: since when the earliest thread ready there has been ready, whether or not its lane is
free (R176). -/
def State.ageOf (s : State) (core : Nat) (t : Thread) : Nat :=
  ((s.threads.filter fun u => u.core == core && s.samePlace t u && s.waitsForPicker u).map s.readyFrom).foldl min
    (s.readyFrom t)

/-- One thread of each lane of a list, in the order of the lanes: the one that has been ready longest, and of those the
first in the list (R173, R179). DESIGN CHOICE, unsafe (log 77). -/
def State.perLane (s : State) (l : List Thread) : List Thread :=
  (List.range 81).filterMap fun k => (l.filter fun t => t.lane == k).foldl (fun (best : Option Thread) t =>
    match best with
    | none => some t
    | some b => if s.readyFrom t < s.readyFrom b then some t else some b) none

/-- Gang formations of its core that a ready thread is passed over before its turn comes before every older PC: its placement
then takes no more than the others that are overdue. DESIGN CHOICE, safe (log 115). -/
def overdueAfter : Nat := 243

/-- Of a list of threads those that have been passed over too often (R179). -/
def overdue (l : List Thread) : List Thread := l.filter fun t => decide (overdueAfter ≤ t.passed)

/-- The thread at whose PC the next gang is formed: of those that are overdue the one passed over most often, else one at the
oldest PC, and in a tie the first of the list (R176, R179). DESIGN CHOICE, safe (log 115). -/
def State.nextThread (s : State) (core : Nat) (t : Thread) (ts : List Thread) : Thread :=
  match overdue (t :: ts) with
  | [] => ts.foldl (fun a u => if s.ageOf core u < s.ageOf core a then u else a) t
  | u :: us => us.foldl (fun a v => if a.passed < v.passed then v else a) u

/-- Whether two threads may stand in one gang: one place in one clause of one kernel (R173). -/
def State.alike (s : State) (t u : Thread) : Bool := s.samePlace t u && u.slot == t.slot && u.clause == t.clause

/-- The gang that the picker would form: at the oldest PC with a thread on a free lane, or at that of a thread that is
overdue; while a thread at that PC has yet to fetch its clause, no other PC goes before it (R176). What a
commit lets issue together makes a gang of its own. DEDUCED, unsafe (log 54). DESIGN CHOICE, unsafe (log 77). -/
def State.nextGang (s : State) (core : Nat) : List ThreadId :=
  match s.candidates core with
  | [] => []
  | t :: ts =>
    if 3 ≤ (s.gangsOf core).length then []
    else
      let old := s.nextThread core t ts
      if (t :: ts).any fun u => s.unfetched u && s.samePlace old u then []
      else if 2 ≤ (s.batchOf old.id).length then
        (s.perLane (((s.batchOf old.id).filterMap s.thread?).filter fun u =>
          u.core == core && s.pickable u && s.alike old u)).map Thread.id
      else (s.perLane ((t :: ts).filter fun u => s.alike old u && decide ((s.batchOf u.id).length < 2))).map Thread.id

/-- Whether a cause is delivered before the instruction at the slot: on resumption within a clause, or where it
names a destination of the access that raised the cause, and after a NOP that the slot owes (R299, R407, R409, R413). -/
def Thread.takesAtSlot (t : Thread) : Bool := t.due && !t.nopOnce && (t.resumed || t.waitsForPoison)

/-- A gang has been formed on a core of some threads: each other thread that is ready there has been passed over once more
(R179). -/
def State.countPass (s : State) (core : Nat) (ids : List ThreadId) : State :=
  { s with threads := s.threads.map fun t =>
      if ids.contains t.id then { t with passed := 0 }
      else if t.core == core && s.waitsForPicker t then { t with passed := t.passed + 1 }
      else t }

/-- Whether a list of threads is the gang that the picker forms. DEDUCED, unsafe (log 54). -/
def State.gangOk (s : State) (core : Nat) (ids : List ThreadId) : Bool := !ids.isEmpty && ids == s.nextGang core

/-- GANG_FORMATION: a thread with a cause to deliver takes it at the boundary, or at the slot at which it
resumes; the others form a gang (R173, R409). -/
def execGangFormation (core : Nat) (ids : List ThreadId) (s : State) : Host.Outcome State Fault Refusal :=
  if s.gangOk core ids = false then .next s
  else
    let ts := ids.filterMap s.thread?
    let atBoundary := fun t : Thread => t.due && t.run == .ready true && !t.resumed
    let atSlot := Thread.takesAtSlot
    let s := s.countPass core ids
    let s := (ts.filter atBoundary).foldl (fun s t => s.mapThread t.id fun t => t.takePending 0) s
    let s := (ts.filter fun t => atSlot t && !atBoundary t).foldl
      (fun s t => s.mapThread t.id fun t => t.takePending t.slot) s
    let rest := ts.filter fun t => !atBoundary t && !atSlot t
    let s := rest.foldl (fun s t => s.mapThread t.id fun t => { t with run := .ganged }) s
    let s := if rest.isEmpty then s else { s with gangs := s.gangs ++ [rest.map Thread.id] }
    .next s.settle

/-! ### What holds an instruction back -/

/-- Whether the instruction reads or writes FLAGS. -/
def readsFlags (i : Instr) : Bool :=
  match i with
  | .movs _ _ .flags | .movsA _ _ .flags | .sets _ .flags _ | .setsA _ .flags _ => true
  | _ => false

/-- The flag that the instruction at the slot would raise. -/
def Thread.slotFlag (t : Thread) : Option Nat :=
  match Raw.ofWords t.words with
  | none => none
  | some r =>
    match Op.ofCode r.opc with
    | none => none
    | some o => if o.longLatency && t.guardHolds r.guard then t.raisedFlag r.rs else none

/-- The operation that must complete before the instruction at the slot issues: one whose destination it names (R68),
one on a flag that is full (R69), or one whose instruction can set a real flag when the instruction reads or writes FLAGS
(R147). DEDUCED, unsafe (log 76). -/
def Thread.blocker (t : Thread) : Option Nat :=
  let uses := t.slotUses
  let flags : Bool := match decode t.words with
    | .ok i => readsFlags i
    | .error _ => false
  let full := match t.slotFlag with
    | none => none
    | some k => if 81 ≤ t.flagCount k then some k else none
  (t.ops.find? fun o => (flags && o.flagging) || (interlocked o.dests).any (fun u => uses.contains u) ||
    (full.isSome && o.flag == full)).map LongOp.num

/-! ### Quanta (R287) -/

/-- The instructions at which a quantum ends (R287); KWAIT, KYLD and KRET end it in their own meaning. -/
def endsQuantum (i : Instr) : Bool :=
  isAtomic i ||
    match i with
    | .fence .. | .acq .. | .rel .. | .gbar .. | .tbar .. | .swait .. | .spool .. | .sadd .. | .saddReg ..
    | .engage .. | .board .. | .boardTile .. | .sweep .. | .launch .. | .mcast .. | .reduce ..
    | .cflush .. | .cflushMem .. | .exit .. | .halt .. => true
    | _ => false

/-- KWAIT, KYLD and KRET. -/
def endsRun (i : Instr) : Bool :=
  match i with
  | .kwait .. | .kwaitR .. | .kyld .. | .kret .. => true
  | _ => false

/-- Whether the instruction at the slot executes, and is one of a kind. -/
def Thread.executes (t : Thread) (p : Instr → Bool) : Bool :=
  match decode t.words, Raw.ofWords t.words with
  | .ok i, some r => p i && !t.nopOnce && t.guardHolds r.guard
  | _, _ => false

/-- Whether a deterministic thread's quantum ends before the instruction at its slot (R287): the end of a handler run
ends it in its own meaning, also as the 243rd, so that its end write joins the commit (R288, R356).
DEDUCED, unsafe (log 31). -/
def Thread.quantumEnds (t : Thread) : Bool :=
  t.status.det && !t.committed &&
    ((decide (242 ≤ t.quantum) && !(t.element.isSome && t.executes endsRun)) || t.executes endsQuantum)

/-! ### TEAM_COMMIT (R288, R289) -/

/-- Whether a thread waits with its quantum ended; one that was spooled has its clause again. -/
def Thread.quantumEnded (t : Thread) : Bool :=
  !t.refetches && match t.run with
  | .quantum | .waiting _ _ _ _ | .barrier _ | .answer | .exiting _ => true
  | .crew => t.element.isNone
  | .arrived a => (match a.instr with
    | .gbar .. => true
    | _ => false)
  | _ => false

/-- Whether a team's commit may take place (R288). DEDUCED, unsafe (log 31). -/
def State.commitReady (s : State) (team : TeamId) : Bool :=
  let ts := s.liveThreads team
  s.teamLive team && (ts.any fun t => t.run == .quantum) && ts.all fun t => t.status.det && t.quantumEnded

/-- A write of a commit to one sector of memory, of one instruction (R315). DEDUCED, unsafe (log 33). -/
structure CommitPart where
  home : Nat
  sector : Nat
  leaf : Word
  hint : Hint
  issue : Nat
  /-- tryte in the sector, virtual address, value -/
  trytes : List (Nat × Int × Int)
  deriving DecidableEq, Repr

/-- The memory writes of a buffer, in order: consecutive trytes that one instruction stores in one sector together. -/
def commitParts : List BufTryte → List CommitPart
  | [] => []
  | b :: rest =>
    match b with
    | .memory home pa va leaf h issue v =>
      let one : CommitPart := ⟨home, pa / 81, leaf, h, issue, [(pa % 81, va, v)]⟩
      match commitParts rest with
      | p :: ps =>
        if { p with trytes := [] } = { one with trytes := [] } ∧ (p.trytes.head?.map Prod.fst) = some (pa % 81 + 1) then
          { p with trytes := (pa % 81, va, v) :: p.trytes } :: ps
        else one :: p :: ps
      | [] => [one]
    | _ => commitParts rest

/-- Applies one part: held trytes are not written and the lowest address of a conflict is kept (R289).
DEDUCED, unsafe (log 32). -/
def State.commitPart (s : State) (t : Thread) (p : CommitPart) (bad : Option Int) : State × Option Int :=
  let taken := fun x : Nat × Int × Int => s.heldElsewhere t.team p.home (81 * p.sector + x.1)
  let ws := (p.trytes.filter fun x => !taken x).map fun x => (x.1, x.2.2)
  let race := s.raceOf t.team (p.trytes.map fun x => (p.home, 81 * p.sector + x.1, x.2.1))
  let bad := match bad, race with
    | some a, some b => some (min a b)
    | a, b => a.or b
  (if ws.isEmpty then s else s.storeSector t.core p.leaf p.hint p.home p.sector ws, bad)

/-- Applies one thread's buffer, its stores in program order, and gives the conflict met, if any.
DEDUCED, unsafe (log 33). -/
def State.commitThread (s : State) (t : Thread) : State × Option Int :=
  let s := t.buf.foldl (fun s b =>
    match b with
    | .scratch off v => s.scratchWrite t.team off [v]
    | _ => s) s
  let (s, bad) := (commitParts t.buf).foldl (fun x p => x.1.commitPart t p x.2) (s, none)
  (s.writeBelow (t.buf.filterMap fun b =>
    match b with
    | .window pa v => some (pa, v)
    | .peer pa v => some (pa, v)
    | _ => none), bad)

/-- Trytes of memory that a buffer writes, by home slice and physical address. -/
def bufTrytes (l : List BufTryte) : List (Nat × Nat) :=
  (l.filterMap fun b => match b with
    | .memory home pa _ _ _ _ _ => some (home, pa)
    | _ => none).eraseDups

/-- What a commit leaves of a thread: its buffer is empty and the instruction that ended its quantum goes on, or
it takes race trap there; a commit that pre-emption forced leaves a deferred cause (R288, R289, R407). -/
def Thread.afterCommit (t : Thread) (forced : Bool) (bad : Option Int) (now : Nat) : Thread :=
  let u := { t with buf := [], quantum := 0 }
  let u := match t.run with
    | .quantum => { u with run := .ready false, readySince := some now, committed := true }
    | _ => u
  match bad with
  | none => u
  | some a => if t.run = .quantum ∧ forced = false then u.fault ⟨17, 1, a⟩ else u.addPending ⟨⟨17, 1, a⟩, []⟩

/-- The instructions of a commit whose order matters, those that issue together in one list: the atomics in increasing
THREADID, then what acts for a group, the groups by their lowest THREADID (R186, R288, R290). -/
def commitBatches (ts : List Thread) : List (List ThreadId) :=
  let some_ := ts.filterMap fun t => t.commitKind.map fun k => (t, k)
  let groups := (some_.filter fun x => x.2 != 0).map fun x => (x.1.grp, x.1.pc, x.1.slot, x.1.clause)
  ((some_.filter fun x => x.2 == 0).map fun x => [x.1.id]) ++ groups.eraseDups.map fun k =>
    (ts.filter fun t => (t.grp, t.pc, t.slot, t.clause) == k).map Thread.id

/-- A team commits: buffers in increasing THREADID, then what ended quanta goes on in its order (R288); `forced` says that
pre-emption ended the quanta (R419). What the commit before holds it holds until this one ends (R289). DEDUCED, unsafe (log 31). -/
def State.commit (s : State) (team : TeamId) (forced : Bool) : State :=
  let ts := s.liveThreads team
  let (s, bads) := ts.foldl (fun (x : State × List (ThreadId × Option Int)) t =>
    let (s, b) := x.1.commitThread t
    (s, x.2 ++ [(t.id, b)])) (s, [])
  let held := (ts.flatMap fun t => bufTrytes t.buf).eraseDups.filter fun k : Nat × Nat => !(s.heldElsewhere team k.1 k.2)
  let s := { s with
    heldTrytes := s.heldTrytes.filter fun h : Nat × Nat × TeamId => h.2.2 != team
    heldBefore := s.heldTrytes.filter (fun h : Nat × Nat × TeamId => h.2.2 == team) ++
      s.heldBefore.filter fun h : Nat × Nat × TeamId => h.2.2 != team }.holdTrytes team held
  let going := ts.filter fun t => t.run == .quantum && bads.all fun b => b.1 != t.id || b.2.isNone
  let now := s.tick
  let s := bads.foldl (fun s b => s.mapThread b.1 fun t => t.afterCommit forced b.2 now) s
  { s with forced := s.forced ++ commitBatches going }.settle

def execTeamCommit (team : TeamId) (s : State) : Host.Outcome State Fault Refusal :=
  if s.commitReady team then .next (s.commit team false) else .next s

/-- Whether an instruction that a commit lets go on has yet to take effect. -/
def Thread.awaitsTurn (t : Thread) : Bool :=
  t.committed && match t.run with
    | .ready _ | .ganged | .boundary _ => true
    | _ => false

/-- Whether atomics of a team's commit are still to be performed (R288). -/
def State.commits (s : State) (team : TeamId) : Bool :=
  s.forced.any fun l => (l.head?.bind s.thread?).any (fun t => t.team == team) && s.batchKind l == some 0

/-- The instructions of a commit that have taken effect leave its order, and a commit whose atomics are performed has ended:
what the team's commit before it held is held no more (R289). -/
def State.trimForced (s : State) : State :=
  let left := s.forced.map fun l : List ThreadId => l.filter fun id => ((s.thread? id).map Thread.awaitsTurn).getD false
  let s := { s with forced := left.filter fun l : List ThreadId => !l.isEmpty }
  { s with heldBefore := s.heldBefore.filter fun h : Nat × Nat × TeamId => s.commits h.2.2 }

/-! ### COMPLETION_COUNTER_ADD (R127, R188, R410, R414) -/

/-- An exiting thread's waits end, once it holds its clause again where it was spooled (R424): a pending cause is delivered at EXIT or HALT; otherwise the thread is done,
its team's counter gains 1, and HALT ends the bolt. -/
def execCompletionCounterAdd (id : ThreadId) (s : State) : Host.Outcome State Fault Refusal :=
  match s.thread? id with
  | none => .next s
  | some t0 =>
    match t0.run with
    | .exiting halt =>
      if s.teamLive t0.team = false ∨ t0.clause.isEmpty = true then .next s
      else
        let s := s.drainOps id
        match s.thread? id with
        | none => .next s
        | some t =>
          if t.pend ≠ [] then .next (s.mapThread id fun t => t.takePending t.slot).settle
          else
            let s := s.mapThread id fun t => { t with run := .exited, capture := [] }
            let s := s.mapTeam t.team fun m => { m with counter := m.counter + 1 }
            let s := (s.barrierClash t.team).settle
            match halt with
            | none => .next s
            | some v => .next (s.endBolt id.bolt 2 [(8, v)])
    | _ => .next s

end Sys2Proof.Machine
end

