-- ==== Sys2Proof/Machine/Spool.lean ====
section
/-!
DEFINITION. A team's context between cores: engine-borne causes, stopping, the spool slot, saved locks and
resumption (R375, R390, R408, R419, R422 to R425).
-/

namespace Sys2Proof.Machine

/-! ### Engine-borne causes (R408) -/

/-- A cause joins the pending list of its thread, or of the team's lowest live thread; with none, the bolt ends
with failure. DEDUCED, unsafe (log 27). DEDUCED, unsafe (log 50). -/
def State.giveCause (s : State) (team : TeamId) (id : ThreadId) (c : Cause) : State :=
  let live := s.liveThreads team
  match (live.find? fun t => t.id == id).or (live.foldl (fun (best : Option Thread) t => match best with
      | none => some t
      | some b => if t.id.tid < b.id.tid then some t else some b) none) with
  | some t => (s.mapThread t.id fun t => (t.addPending ⟨c, []⟩).abandon).settle
  | none => s.endBolt team.bolt (-1) (failWords (trapInfo 0 c) (-1) team.team 0 c.addr)

/-- A spooled team's cause is held by the forwarding entry of its last spool (R408, R425). -/
def holdCause (team : TeamId) (x : ThreadId × Cause) (l : List Forward) : List Forward :=
  match (l.zipIdx.filter fun p => p.1.team == team).getLast? with
  | none => l
  | some p => l.modify p.2 fun f => { f with causes := f.causes ++ [x] }

/-- ENGINE_CAUSE_ARRIVAL: the first cause on its way reaches its thread, or the forwarding entry of a spooled
team (R408, R425). -/
def execEngineCauseArrival (s : State) : Host.Outcome State Fault Refusal :=
  match s.engineCauses with
  | [] => .next s
  | (team, id, c) :: rest =>
    let s := { s with engineCauses := rest }
    match s.team? team with
    | none => .next s
    | some m =>
      match m.state with
      | .spooled _ =>
        .next { s with forwards := holdCause team (id, c) s.forwards }
      | _ => .next (s.giveCause team id c)

/-- FORWARDED_RAISE: a raise that was on its way to the scratchpad of a spooled team is applied to the word's
image, or to the live word after a resumption (R425). -/
def execForwardedRaise (s : State) : Host.Outcome State Fault Refusal :=
  match s.transit with
  | [] => .next s
  | (team, off, n) :: rest => .next ({ s with transit := rest }.applyRaise noCore (.scratch team off) n)

/-- Applies a function to every thread of a team. -/
def State.mapThreads (s : State) (id : TeamId) (f : Thread → Thread) : State :=
  { s with threads := s.threads.map fun t : Thread => if t.team = id then f t else t }

/-! ### Stopping (R419) -/

def State.now (s : State) : Nat := s.reftime.toNat

/-- The interval of promotion, at least one tick. DESIGN CHOICE, unsafe (log 22). -/
def State.ageguard (s : State) : Nat := max 1 s.window.ageguard.toNat

/-- The current priority of a record: each full interval since it became eligible raises it one step, and nothing
lowers it (R199). It rises no more once the record has left its queue. DESIGN CHOICE, unsafe (log 110). -/
def State.prioOf (s : State) (b : Bolt) : Int :=
  match b.eligible with
  | some e => if b.queued then max b.prio (min 1 (b.record.prio + ((s.now - e) / s.ageguard : Nat))) else b.prio
  | none => b.prio

/-- A thread that stops: within a clause it will fetch the clause anew and go on at its slot without the header's flag
waits; in the flag wait of a header it stays at that boundary, and in the wait that RETT applies at its slot. One that is
blocked keeps its wait record and no words of its clause (R419, R424). -/
def Thread.park (t : Thread) : Thread :=
  let t := { t with capture := [], readySince := none, passed := 0 }
  match t.run with
  | .ready true => { t with run := .boundary (if t.resumed then .resumeWait else .entry) }
  | .ready false | .ganged => { t with run := .boundary .resume }
  | .arrived _ | .barrier _ | .waiting _ _ _ _ | .crew | .answer | .exiting _ => { t with clause := [] }
  | .boundary _ | .quantum | .exited => t

/-- The crew threads of a sweep keep no words of the clause of their SWEEP, and no shuttle performs it. -/
def Sweep.park (w : Sweep) : Sweep := { w with begun := false, crew := w.crew.map fun c => { c with clause := [] } }

/-- The threads of a team leave their gangs and stop; its boardings are held (R375, R419). The team was spooled, for the
priority with which it competes, at this moment (R208). DEDUCED, unsafe (log 100). -/
def State.stopTeam (s : State) (id : TeamId) (hold : Bool) (ready : Option Nat) : State :=
  let prio := ((s.bolt? id.bolt).map s.prioOf).getD 0
  let own := (s.teamThreads id).map Thread.id
  let s := s.mapTeam id fun m =>
    { m.holdBoards with state := .stopping hold, readyAt := ready, prio := prio, waited := 0,
                        sweeps := m.sweeps.map Sweep.park }
  { s with
    threads := s.threads.map fun t : Thread => if t.team = id then t.park else t
    gangs := (s.gangs.map fun g : List ThreadId => g.filter fun i => !own.contains i).filter fun g : List ThreadId => !g.isEmpty
    aside := s.aside.filter fun i => !own.contains i
    tokens := s.tokens.filter fun x => !own.contains x.2 }

/-! ### The spool slot (R422, R423) -/

/-- CTX of a record (R422). -/
def Record.ctx (r : Record) : Int :=
  let x : Int := 729 + (r.threads : Int) * (729 + 3 * r.regs) + 6561 * r.tiles + 6642 * r.accs + 81 * r.scratch
  729 * ((x + 728) / 729)

def Bolt.slotAddr (b : Bolt) (team : Nat) : Int := b.record.spoola + 729 + team * b.record.ctx

/-- The pieces of a team's spool slot, when every page of it permits the access. -/
def State.slotSegs (s : State) (b : Bolt) (team : Nat) (p : Perm) : Option (List Seg) :=
  match s.check { s.unitAgent b.id ⟨b.id, team⟩ with system := true } p (b.slotAddr team) b.record.ctx.toNat none
      false false with
  | .error _ => none
  | .ok l => if l.any fun g => decide (g.pa < 0) then none else some l

/-- The sectors of pieces: leaf, sector, first tryte, count. -/
def segSectors (l : List Seg) : List (Word × Nat × Nat × Nat) :=
  l.flatMap fun g => (sectorPieces (g.n / 81 + 2) g.pa.toNat g.n).map fun p => (g.leaf, p)

/-- Writes a context: the layout is internal, so each tryte is a free value (R422). DESIGN CHOICE, unsafe (log 14). -/
def State.writeSlot (s : State) (l : List Seg) : State :=
  let k := s.tick
  (segSectors l).foldl (fun s p =>
    let (leaf, sec, at_, n) := p
    let ws := (List.range n).map fun i => (at_ + i, wrap 9 (Config.contextTryte k (81 * sec + at_ + i)))
    s.storeHome noCore leaf .default (s.homeOf (leafDom leaf) (81 * sec)) sec ws) s

/-- Whether a context reads back without poison (R423). DESIGN CHOICE, unsafe (log 14). -/
def State.slotReads (s : State) (b : Bolt) (team : Nat) : Bool :=
  match s.slotSegs b team .load with
  | none => false
  | some l => (segSectors l).all fun p => s.poisonAt (s.homeOf (leafDom p.1) (81 * p.2.1)) p.2.1 == 0

/-! ### Locks of a saved context (R390) -/

/-- The place of a saved lock of the team's k-th core: no core's table. -/
def savedCore (k : Nat) : Nat := Config.cores + 1 + k

/-- Locks that a team's context keeps: those of RLOCK and of boardings. A TORN mark stays on the table where it stands
(R295). DEDUCED, unsafe (log 26). -/
def Lock.saved (l : Lock) (team : TeamId) : Bool :=
  l.team == team && l.kind != .torn &&
    match l.owner with
    | .rlock _ | .board _ => true
    | _ => false

/-- DEDUCED, unsafe (log 26). -/
def State.saveLocks (s : State) (m : Team) : State :=
  { s with locks := s.locks.map fun l : Lock =>
      if l.saved m.id = true ∧ l.core < Config.cores then { l with core := savedCore (l.core - m.core) } else l }

def State.savedOn (s : State) (team : TeamId) (k : Nat) : List Lock :=
  s.locks.filter fun l => l.team == team && l.core == savedCore k

/-- Free entries of a core's table. -/
def State.freeEntries (s : State) (core : Nat) : List Nat :=
  (List.range Config.rangeLocks).filter fun e => !(s.locks.any fun l => l.core == core && l.entry == e)

/-- Whether two locks could not stand together (R291). -/
def Lock.clash (a b : Lock) : Bool :=
  a.scratch == b.scratch && (!a.scratch || a.team == b.team) && decide (a.lo ≤ b.hi) && decide (b.lo ≤ a.hi) &&
    (a.kind != .src || b.kind != .src)

/-- Whether a team's saved locks may be registered on the cores from one (R291, R390). -/
def State.canRelock (s : State) (team : TeamId) (core : Nat) : Bool :=
  [0, 1].all fun k =>
    let own := s.savedOn team k
    decide (((own.map Lock.entry).eraseDups).length ≤ (s.freeEntries (core + k)).length) &&
      !(own.any fun a => s.locks.any fun b => b.core == core + k && a.clash b)

/-- Registers a team's saved locks again. -/
def State.relock (s : State) (team : TeamId) (core : Nat) : State :=
  [0, 1].foldl (fun s k =>
    let olds := ((s.savedOn team k).map Lock.entry).eraseDups
    let pairs := olds.zip (s.freeEntries (core + k))
    { s with locks := s.locks.map fun l : Lock =>
        if l.team = team ∧ l.core = savedCore k then
          { l with core := core + k, entry := ((pairs.find? fun p : Nat × Nat => p.1 == l.entry).map Prod.snd).getD l.entry }
        else l }) s

/-! ### Forwarding entries (R425) -/

/-- The operations of a team that are outstanding as it is spooled (R404, R425). -/
def State.awaits (s : State) (m : Team) : List Awaited :=
  ((m.chains.filter Chain.running).map fun c => .chain c.seq) ++
    ((m.boardings.filter fun b => b.atTap || b.state == .held).map fun b => .board b.num) ++
    (s.collectives.flatMap fun c : Collective =>
      (c.members.filter fun x => x.team == m.id).map fun x => .collective c.cid x.rank) ++
    (s.wakes.filter fun w => ((s.thread? w.id).map Thread.team) == some m.id).map fun w => .wake w.id

/-- Whether an entry's team is spooled, or something issued before the spool may still return.
DEDUCED, unsafe (log 28). -/
def State.outstanding (s : State) (f : Forward) : Bool :=
  (match s.team? f.team with
    | none => false
    | some m => m.state != .resident || f.awaits.any (s.awaits m).contains) ||
    (s.transit.any fun x => x.1 == f.team) || s.engineCauses.any fun x => x.1 == f.team

/-- Frees the entries whose operations have all returned. DEDUCED, unsafe (log 28). -/
def State.trimForwards (s : State) : State := { s with forwards := s.forwards.filter s.outstanding }

/-- Whether the pair that a team leaves has a free entry. DEDUCED, unsafe (log 28). -/
def State.canForward (s : State) (m : Team) : Bool :=
  decide ((s.trimForwards.forwards.filter fun f : Forward => f.pair == m.core / 2).length < Config.forwardEntries)

/-! ### PSTAT (R418, R419) -/

/-- Whether a team holds resources of a core. -/
def Team.occupies (m : Team) (core : Nat) : Bool :=
  (match m.state with
    | .spooled _ => false
    | _ => true) && m.cores.contains core

/-- PSTAT of each core as it stands: 0 until the teams that a pre-emption stopped have gone, else - in use and + free.
DEDUCED, unsafe (log 30). -/
def State.freePstat (s : State) : State :=
  { s with dies := s.dies.zipIdx.map fun p : Die × Nat =>
      { p.1 with pstat := p.1.pstat.zipIdx.map fun q : Int × Nat =>
          if s.teams.any fun m : Team => m.occupies (18 * p.2 + q.2) then (if q.1 = 0 then 0 else -1) else 1 } }

/-! ### SPOOL_CONTEXT_WRITTEN and resumption -/

/-- Whether everything a stopped team had issued has come to the point at which its context is saved (R338,
R404). DEDUCED, safe (log 65). -/
def State.settled (s : State) (m : Team) : Bool :=
  m.chains.all (fun c => c.flight.isEmpty) &&
    !(s.appends.any fun r => ((s.thread? r.id).map Thread.team) == some m.id)

/-- A stopped team's context is written and its resources are freed (R419 steps 3 to 6). DEDUCED, unsafe (log 29). -/
def State.spoolTeam (s : State) (m : Team) : State :=
  let id := m.id
  let s := ((s.teamThreads id).map Thread.id).foldl State.drainOps s
  let s := if (s.teamThreads id).any fun t => t.status.det then s.commit id true else s
  match s.team? id, s.bolt? id.bolt with
  | some m, some b =>
    if m.scratchBad ≠ [] then s.killFor id 3
    else
      match s.slotSegs b id.team .store with
      | none => s.killFor id 5
      | some l =>
        let s := (s.writeSlot l).saveLocks m
        let s := s.trimForwards.mapThreads id Thread.park
        let s : State := m.cores.foldl State.advanceTags s
        let hold := match m.state with
          | .stopping h => h
          | _ => false
        { s with forwards := s.forwards ++ [Forward.mk (m.core / 2) id (s.awaits m) []] }.mapTeam id
          fun m => { m with state := .spooled hold }
  | _, _ => s

/-- The first stopped team that has settled and for which a forwarding entry is free. DEDUCED, safe (log 65). -/
def State.contextReady (s : State) : Option Team :=
  s.teams.find? fun m : Team => (match m.state with
    | .stopping _ => true
    | _ => false) && s.settled m && s.canForward m && !(s.standsStill m.core)

/-- SPOOL_CONTEXT_WRITTEN: the first stopped team that has settled and for which a forwarding entry is free. -/
def execSpoolContextWritten (s : State) : Host.Outcome State Fault Refusal :=
  match s.contextReady with
  | none => .next s
  | some m => .next (s.spoolTeam m).freePstat

/-- The causes that a team's forwarding entries hold. -/
def State.heldCauses (s : State) (id : TeamId) : List (ThreadId × Cause) :=
  (s.forwards.filter fun f : Forward => f.team == id).flatMap Forward.causes

/-- A wait whose generation has been reached ends (R387). -/
def State.retest (s : State) (t : Thread) : Thread :=
  match t.run with
  | .waiting cd loc g _ =>
    match s.syncAt loc with
    | some w => if genReached w.gen g then t.syncReturn s.tick cd w.err else t
    | none => t
  | _ => t

/-- A resumed team's locks and boardings are registered again where the tables and the taps have room; else the team waits on
(R291, R375, R390). Whether it registers them is all or nothing. DEDUCED, unsafe (log 25). -/
def State.rejoinTeam (s : State) (m : Team) : State :=
  if s.canRelock m.id m.core && s.canRearm m m.core then
    (s.relock m.id m.core).mapTeam m.id fun m => { m.rearm with rejoin := false }
  else s

/-- Every resumed team that waits registers its locks and boardings where it can, in the order of the list. -/
def State.rejoinAll (s : State) : State :=
  (s.teams.filter fun m : Team => m.rejoin && m.state == .resident).foldl State.rejoinTeam s

/-- TEAM_RESUME: a spooled team goes on, on the cores from one (R375, R390, R424, R425); its sweeps wait for one that the
core's shuttle performs (R346), and its threads until its locks and boardings are registered again.
DEDUCED, unsafe (log 29). -/
def State.resumeTeam (s : State) (m : Team) (core : Nat) : State :=
  let id := m.id
  match s.bolt? id.bolt with
  | none => s
  | some b =>
    if s.slotReads b id.team = false then s.killFor id 5
    else
      let causes := s.heldCauses id
      let held := (m.boardings.filter fun x => x.state == .held).map Boarding.num
      let s := s.mapTeam id fun m =>
        { m with
          core := core
          state := .resident
          readyAt := none
          rejoin := true
          waited := 0
          tags := s.freshTags core
          chains := m.chains.map fun c =>
            { c with core := core + (c.core - m.core), since := if c.running then s.tick else c.since }
          boardings := m.boardings.map fun x =>
            if x.state = .held then { x with core := core + (x.core - m.core) } else x
          sweeps := m.sweeps.map fun w => { w with core := core + (w.core - m.core) } }
      let s : State := (s.coresOf id).foldl State.advanceTags s
      let s := s.mapThreads id fun t => s.retest { t.park with core := coreOfGroup core t.grp m.pair }
      let s := { s with
        forwards := s.forwards.map fun f : Forward => if f.team = id then { f with causes := [] } else f }
      let s : State := (s.coresOf id).foldl State.acquire s
      let s : State := causes.foldl (fun s c => s.giveCause id c.1 c.2) s
      let s := if s.beamReady = .neg then held.foldl (fun s n => s.noBeam id n) s else s
      (s.mapThreads id Thread.abandon).settle.trimForwards.rejoinAll

end Sys2Proof.Machine
end

