-- ==== Sys2Proof/Machine/WorkLists.lean ====
section
/-!
DEFINITION. Work lists and their pools: APPEND, the answer of the compaction unit, TAKE and QDONE (R334 to
R336, R397 to R399).
-/

namespace Sys2Proof.Machine

/-- A place in translated memory, and the highest poison mark of its trytes. -/
structure HomePlace where
  loc : SyncLoc
  poison : Nat
  deriving DecidableEq, Repr

/-- The place of n trytes of checked pieces; windows below 0 hold none. -/
def State.placeOf (s : State) (ea : Int) (n : Nat) (l : List Seg) : Except Cause HomePlace :=
  match s.placeOfSegs l with
  | none => .error ⟨6, 1, ea⟩
  | some loc => if loc.below then .error ⟨6, 2, ea⟩ else .ok ⟨loc, s.markOf loc n⟩

/-- Checks n trytes at ea as an atomic and gives their place. -/
def State.listPlace (s : State) (a : Agent) (ea : Int) (n : Nat) (al : Option Align) : Except Cause HomePlace :=
  match s.check a .atomic ea n al false true with
  | .error c => .error c
  | .ok segs => s.placeOf ea n segs

/-- A work-list header (R334). -/
structure ListHeader where
  head : Int
  tail : Int
  cap : Int
  ring : Int
  pool : Int
  ok : Bool
  deriving DecidableEq, Repr

/-- The header at a place, and whether it is valid (R334, R398). -/
def State.header (s : State) (p : HomePlace) : ListHeader :=
  let w := fun i : Nat => s.wordAt (p.loc.up (3 * i))
  { head := w 0, tail := w 1, cap := w 2, ring := w 3 + p3 27 * w 4, pool := w 5 + p3 27 * w 6,
    ok := decide (0 ≤ w 0) && decide (w 0 ≤ w 1) && decide (1 ≤ w 2) && decide (w 2 ≤ 387420489) &&
      w 7 == 0 && w 8 == 0 }

/-- The address of item i (R334). -/
def ListHeader.item (h : ListHeader) (i : Int) : Int := wrap 54 (h.ring + 3 * (i % h.cap))

/-- The agent of the compaction unit for a thread: no private window and no lock. DEDUCED, unsafe (log 21). -/
def State.listAgent (s : State) (t : Thread) : Agent := { s.freeAgent t with win := none }

/-- The compaction unit and the termination detector, on IO die 0 (R472). -/
def State.compactionReady (s : State) : Bool := s.readyTrit 2241 4 == .pos

/-- APPEND: the checks, a release, and the offer; the thread holds until the unit answers (R397). -/
def execAppend (gd : Guard) (d b c : Nat) (s : State) : Host.Outcome State Fault Refusal :=
  s.lanes gd [cUse d, aUse b, gUse c] fun t s =>
    match s.listPlace (s.agentOf t) (t.readA b) 27 (some ⟨81, 3⟩) with
    | .error e => .error e
    | .ok _ =>
      let s := s.drainOps t.id
      .ok ({ s with appends := s.appends ++ [AppendReq.mk t.id d (t.readA b) (t.readG c)] }.mapThread t.id
        fun t => { t with run := .answer })

/-- The word that an APPEND leaves in its condition register, and the machine after it (R335, R397): PEND
counts the item first, then the item is stored at TAIL and TAIL advances. DEDUCED, unsafe (log 47). -/
def State.appendTo (s : State) (t : Thread) (r : AppendReq) : Trit × State :=
  match s.listPlace (s.listAgent t) r.list 27 none with
  | .error _ => (.neg, s)
  | .ok p =>
    let h := s.header p
    if p.poison ≠ 0 ∨ h.ok = false then (.neg, s)
    else
      match s.listPlace (s.listAgent t) h.pool 3 (some ⟨3, 1⟩), s.listPlace (s.listAgent t) (h.item h.tail) 3 (some ⟨3, 1⟩) with
      | .ok pool, .ok ring =>
        if h.cap ≤ h.tail - h.head then (.zero, s.visitLoc p.loc)
        else
          let s := s.putWordAt t.core pool.loc (wrap 27 (s.wordAt pool.loc + 1))
          let s := s.putWordAt t.core ring.loc r.item
          (.pos, s.putWordAt t.core (p.loc.up 3) (wrap 27 (h.tail + 1)))
      | _, _ => (.neg, s)

/-- APPEND_ANSWER: the compaction unit performs the first offer and answers its thread (R335). -/
def execAppendAnswer (s : State) : Host.Outcome State Fault Refusal :=
  match s.appends with
  | [] => .next s
  | r :: rest =>
    let s := { s.needs s.compactionReady with appends := rest }
    match s.thread? r.id with
    | none => .next s
    | some t =>
      let (v, s1) := s.appendTo t r
      .next (s1.mapThread r.id fun t => (t.writeC r.cd v).resume s.tick)

/-- TAKE: one step at the home slice of the header (R398). DEDUCED, unsafe (log 47). -/
def execTake (gd : Guard) (d b c : Nat) (s : State) : Host.Outcome State Fault Refusal :=
  s.lanes gd [gUse d, aUse b, cUse c] fun t s =>
    match s.listPlace (s.agentOf t) (t.readA b) 27 (some ⟨81, 3⟩) with
    | .error e => .error e
    | .ok p =>
      let s := s.visitLoc p.loc
      let h := s.header p
      let fin := fun (v : Trit) (s : State) => s.mapThread t.id fun t => (t.writeC c v).advance
      if p.poison ≠ 0 then .error ⟨11, p.poison, t.readA b⟩
      else if h.ok = false then .ok (fin .neg s)
      else if h.head = h.tail then .ok (fin .zero s)
      else
        match s.listPlace (s.listAgent t) (h.item h.head) 3 (some ⟨3, 1⟩) with
        | .error _ => .ok (fin .neg s)
        | .ok ring =>
          if ring.poison ≠ 0 then .error ⟨11, ring.poison, h.item h.head⟩
          else
            let v := s.wordAt ring.loc
            let write := fun s : State => (s.visitLoc ring.loc).putWordAt t.core p.loc (h.head + 1)
            .ok (s.atomically t (p.loc.cells (t.readA b) 3) write fun s =>
              fin .pos (((write s).acquire t.core).mapThread t.id fun t => t.writeG d v))

/-- The place of a pool word: its sync word follows at ab + 3, a multiple of 9, and where it does not the cause stands
after those of code 5 and 7 with a lower subcode (R49, R377, R399). -/
def State.poolPlace (s : State) (t : Thread) (ea : Int) : Except Cause HomePlace :=
  match s.listPlace (s.agentOf t) ea 3 none with
  | .error c => if (ea + 3) % 9 ≠ 0 ∧ 7 < accessRank c.code then .error ⟨7, 3, ea + 3⟩ else .error c
  | .ok p => if (ea + 3) % 9 ≠ 0 then .error ⟨7, 3, ea + 3⟩ else .ok p

/-- The sync word of a pool: the words after PEND, at the home slices of their own sectors and under their own pages'
leaves (R256, R334). -/
def State.poolSync (s : State) (t : Thread) (ea : Int) (p : HomePlace) : SyncLoc :=
  match s.check (s.freeAgent t) .none (ea + 3) 9 none false true with
  | .ok segs => ((s.placeOfSegs segs).filter fun l => !l.below).getD (p.loc.up 3)
  | .error _ => p.loc.up 3

/-- QDONE: a release, PEND less 1, and the raise of the termination detector when that gives 0 (R336, R399).
The thread's earlier APPENDs have been answered before it issues. -/
def execQdone (gd : Guard) (b : Nat) (s : State) : Host.Outcome State Fault Refusal :=
  s.lanes gd [aUse b] fun t s =>
    match s.poolPlace t (t.readA b) with
    | .error c => .error c
    | .ok p =>
      let s := s.drainOps t.id
      let v := wrap 27 (s.wordAt p.loc - 1)
      let write := fun s : State => s.putWordAt t.core p.loc v
      .ok (s.atomically t (p.loc.cells (t.readA b) 3) write fun s =>
        let s := write s
        let s := if v = 0 then (s.needs s.compactionReady).raiseBy t.core (s.poolSync t (t.readA b) p) t.core 1 else s
        s.mapThread t.id Thread.advance)

end Sys2Proof.Machine
end

