-- ==== Sys2Proof/Machine/Launch.lean ====
section
/-!
DEFINITION. Launch records and their delivery, queues and eligibility, placement and admission, the start of a
team and its end (R32, R188 to R209, R263, R400).
-/

namespace Sys2Proof.Machine

/-! ### The record (R191 to R195) -/

def pairWords (w : List Int) (i : Nat) : Int := w.getD i 0 + p3 27 * w.getD (i + 1) 0

/-- A predecessor slot: none when it is unused, and whether its words keep R195. -/
def predOf (w : List Int) (i : Nat) : Option Pred × Bool :=
  let k := 9 + 3 * i
  let p := w.getD (k + 2) 0
  if trits p 18 18 = 1 then
    (some ⟨pairWords w k, trits p 17 0, false⟩, trits p 26 19 == 0 && canonical (pairWords w k))
  else (none, w.getD k 0 == 0 && w.getD (k + 1) 0 == 0 && p == 0)

/-- The fields of a record's 18 words. -/
def recordOf (w : List Int) : Record :=
  let shape := w.getD 6 0
  let res := w.getD 7 0
  let ctl := w.getD 8 0
  { entry := pairWords w 0, param := pairWords w 2, spoola := pairWords w 4,
    teams := (trits shape 26 13).toNat, threads := (trits shape 12 0).toNat, regs := (trits res 26 21).toNat,
    width := trits res 20 19, groups := (trits res 18 15).toNat, tiles := (trits res 14 12).toNat,
    accs := (trits res 11 10).toNat, bars := (trits res 9 7).toNat, det := trits res 6 6 == 1,
    idem := trits res 5 5 == 1, scratch := trits ctl 26 18, queue := (trits ctl 17 14).toNat,
    prio := trits ctl 13 13, eclass := (trits ctl 12 11).toNat, spoolt := trits ctl 10 0,
    preds := (List.range 3).filterMap fun i => (predOf w i).1 }

def within (lo hi x : Int) : Bool := decide (lo ≤ x) && decide (x ≤ hi)

/-- Whether every field lies within its Values and every reserved trit is 0 (R192 to R195). -/
def recordFields (w : List Int) : Bool :=
  let shape := w.getD 6 0
  let res := w.getD 7 0
  let ctl := w.getD 8 0
  within 1 2391484 (trits shape 26 13) && within 1 1458 (trits shape 12 0) && within 1 243 (trits res 26 21) &&
    within (-1) 1 (trits res 20 19) && within 1 18 (trits res 18 15) && within 0 9 (trits res 14 12) &&
    within 0 3 (trits res 11 10) && within 0 9 (trits res 9 7) && within 0 1 (trits res 6 6) &&
    within 0 1 (trits res 5 5) && trits res 4 0 == 0 && within 0 4374 (trits ctl 26 18) &&
    within 0 26 (trits ctl 17 14) && within 0 4 (trits ctl 12 11) && within (-1) 88573 (trits ctl 10 0) &&
    (List.range 3).all fun i => (predOf w i).2

/-- Whether THREADS fits GROUPS groups of the width, the last of them not empty (R196). -/
def Record.shapeOk (r : Record) : Bool :=
  decide (r.threads ≤ r.groups * lanesOf r.width) && decide ((r.groups - 1) * lanesOf r.width < r.threads)

/-- Whether a virtual address has a translation with a permission under a queue's tables (R196). -/
def State.mapped (s : State) (queue : Nat) (qroot v : Int) (p : Perm) : Bool :=
  match s.leafFor queue qroot v with
  | none => false
  | some (e, _) => permits e p

/-! ### Fit and placement (R166, R168, R171, R201, R202, R204) -/

/-- Members of group g that hold a thread (R167). -/
def Record.members (r : Record) (g : Nat) : Nat := min (lanesOf r.width) (r.threads - g * lanesOf r.width)

/-- The base lane of group g (R166). -/
def baseLane (width : Int) (g : Nat) : Nat := lanesOf width * (g % (81 / lanesOf width))

/-- Whether a team needs a core pair (R201). -/
def Record.needsPair (r : Record) : Bool := decide (9 < r.groups) || decide (2187 < r.scratch)

/-- The groups on the k-th core of a team (R168). -/
def Record.groupsOn (r : Record) (k : Nat) : List Nat :=
  (List.range r.groups).filter fun g => !r.needsPair || decide (9 ≤ g) == (k == 1)

/-- Sectors of scratchpad on the k-th core of a team (R248). -/
def Record.scratchOn (r : Record) (k : Nat) : Int :=
  if r.needsPair then (if k = 0 then min r.scratch Config.scratchSectors else max 0 (r.scratch - Config.scratchSectors))
  else r.scratch

/-- Threads that a team places on a lane of its k-th core. -/
def Record.onLane (r : Record) (k l : Nat) : Nat :=
  ((r.groupsOn k).filter fun g => decide (baseLane r.width g ≤ l) && decide (l < baseLane r.width g + r.members g)).length

/-- What stands on cores: threads, and teams with their records. -/
structure Occupancy where
  threads : List Thread
  teams : List (Team × Record)

/-- The teams that hold resources. -/
def State.occupancy (s : State) : Occupancy :=
  let ms := s.teams.filter fun m : Team => (match m.state with
    | .spooled _ => false
    | _ => true)
  { threads := s.threads.filter fun t => ms.any fun m => m.id == t.team,
    teams := ms.filterMap fun m => (s.bolt? m.id.bolt).map fun b => (m, b.record) }

/-- Whether one core has everything free that a team's k-th core needs (R171, R201). DEDUCED, unsafe (log 24). -/
def Occupancy.fitsCore (o : Occupancy) (r : Record) (core k : Nat) : Bool :=
  let ts := o.threads.filter fun t => t.core == core
  let ms := o.teams.filter fun m => m.1.occupies core
  let lanesOk := (List.range 81).all fun l =>
    let n := r.onLane k l
    let here := ts.filter fun t => t.lane == l
    n == 0 || (decide ((here.filter Thread.live).length + n ≤ 9) &&
      decide ((here.map Thread.nregs).sum + n * r.regs ≤ 729))
  let scratch := (ms.map fun m => m.2.scratchOn (core - m.1.core)).sum + r.scratchOn k
  lanesOk && decide (scratch ≤ Config.scratchSectors) &&
    decide ((ms.map fun m => m.2.tiles).sum + r.tiles ≤ 9) && decide ((ms.map fun m => m.2.accs).sum + r.accs ≤ 3) &&
    decide ((ms.map fun m => m.2.bars).sum + r.bars ≤ 27)

/-- Whether a team fits the core, or the pair that begins at it (R201). -/
def Occupancy.fits (o : Occupancy) (r : Record) (core : Nat) : Bool :=
  if r.needsPair then core % 2 == 0 && o.fitsCore r core 0 && o.fitsCore r (core + 1) 1 else o.fitsCore r core 0

/-- The cores in service from one. -/
def State.coresReady (s : State) (r : Record) (core : Nat) : Bool :=
  s.coreReady core && (!r.needsPair || s.coreReady (core + 1))

/-- 3^ECLASS. -/
def Record.weight (r : Record) : Int := p3 r.eclass

/-- Whether a die accepts a team now: its headroom, EALLOW and pre-emption (R204, R205, R419). -/
def State.dieAccepts (s : State) (o : Occupancy) (r : Record) (core : Nat) : Bool :=
  let d := s.dieAt (dieOfCore core)
  let load := ((o.teams.filter fun m => dieOfCore m.1.core == dieOfCore core).map fun m => m.2.weight).sum
  (d.headroom == 1 || (d.headroom == 0 && decide (r.eclass ≤ 2))) && decide (load + r.weight ≤ d.eallow) &&
    d.pstat.getD (core % 18) 1 != 0 && (!r.needsPair || d.pstat.getD (core % 18 + 1) 1 != 0)

/-- Resident threads of a core or pair (R202). -/
def Occupancy.busy (o : Occupancy) (r : Record) (core : Nat) : Nat :=
  (o.threads.filter fun t => t.live && (t.core == core || (r.needsPair && t.core == core + 1))).length

/-- The placement of a team: the die of largest h, then the fewest resident threads, then the lowest core (R202). -/
def State.placement (s : State) (r : Record) : Option Nat :=
  let o := s.occupancy
  let fit := (List.range Config.cores).filter fun c =>
    s.coresReady r c && s.dieAccepts o r c && o.fits r c
  fit.foldl (fun best c =>
    match best with
    | none => some c
    | some b =>
      let hb := (s.dieAt (dieOfCore b)).h
      let hc := (s.dieAt (dieOfCore c)).h
      if hb < hc ∨ (hb = hc ∧ o.busy r c < o.busy r b) then some c else some b) none

/-- NOFIT (R196): no ready core could hold a team, taken as if it held none, or no die with a ready core allows its
energy class; the two are not asked of one die. DESIGN CHOICE, unsafe (log 80). -/
def State.noFit (s : State) (r : Record) : Bool :=
  !((List.range Config.cores).any fun c => s.coresReady r c && (Occupancy.mk [] []).fits r c) ||
    !((List.range Config.cores).any fun c => s.coreReady c && decide (r.weight ≤ (s.dieAt (dieOfCore c)).eallow))

/-! ### Delivery (R196, R400) -/

/-- The plan of a bolt whose spool area stands at an address; without one its private window is empty.
DESIGN CHOICE, unsafe (log 19). -/
def State.planOf (s : State) (spoola : Int) : Plan :=
  (s.plans.find? fun p => p.spoola == spoola).getD ⟨spoola, 0, 0, 0, 0, 0, none⟩

/-- Records of a queue (R197). -/
def State.queueOf (s : State) (q : Nat) : List Bolt := s.bolts.filter fun b => b.queued && b.record.queue == q

/-- QROOT of a queue as it stands. -/
def State.qrootOf (s : State) (q : Nat) : Int := s.window.qroot.getD q 0

/-- The status of a record's words (R196). -/
def State.recordStatus (s : State) (w : List Int) : Int :=
  let r := recordOf w
  let root := s.qrootOf r.queue
  if recordFields w = false ∨ r.shapeOk = false ∨ canonical r.spoola = false ∨ r.spoola % 729 ≠ 0 then 1
  else if (r.preds.all fun p => s.mapped r.queue root p.addr .load) = false ∨
      s.mapped r.queue root r.spoola .store = false then 1
  else if s.noFit r then 2
  else if Config.queueRecords ≤ (s.queueOf r.queue).length then 3
  else 0

/-- A record enters its queue; its bolt begins with a header of zeros (R196, R198, R421). The checks of its addresses leave
no translation held. DEDUCED, unsafe (log 95). DESIGN CHOICE, unsafe (log 19). DESIGN CHOICE, unsafe (log 20). -/
def State.accept (s : State) (w : List Int) : State :=
  let r := recordOf w
  let b : Bolt :=
    { id := s.nextBolt, record := r, qroot := s.qrootOf r.queue, plan := s.planOf r.spoola, prio := r.prio,
      enq := s.reftime.toNat, eligible := none, nextTeam := 0, queued := true, outcome := 0, ended := 0,
      again := [], relaunched := [] }
  let b := { b with record := { r with preds := r.preds.map (s.testPred none 0 b) } }
  let s := { s with bolts := s.bolts ++ [b], nextBolt := s.nextBolt + 1 }
  match s.writeHeader b ((List.range 27).map fun i => (i, 0)) with
  | some s => s
  | none => s.endBolt b.id (-1) (failWords (trapInfo 0 ⟨22, 5, 0⟩) (-1) 0 0 0)

/-- Delivers a record's words: its status, and the machine after it. -/
def State.deliverRecord (s : State) (w : List Int) : Int × State :=
  let st := s.recordStatus w
  (st, if st = 0 then s.accept w else s)

/-- The launch unit, on IO die 0 (R472, R473). DEDUCED, unsafe (log 35). -/
def State.launchReady (s : State) : Bool := s.readyTrit 2241 3 == .pos

/-- The words of a record at a physical address, when they lie within one sector of backed HBM and can be read.
DEDUCED, unsafe (log 21). -/
def State.recordAt (s : State) (pa : Int) : Option (List Int) :=
  if pa < 0 ∨ s.window.hbmtop < pa + 54 ∨ pa % 81 ≠ 0 ∨ s.physPoison pa.toNat ≠ 0 then none
  else some ((List.range 18).map fun i => s.readPhysWord (pa.toNat + 3 * i))

/-- LREC: the write of its high word through a port delivers the record (R196, R445); while the launch unit is not in
service the write is dropped (R473). DEDUCED, unsafe (log 35). DEDUCED, unsafe (log 43). -/
def execLrec (port : Nat) (high : Int) (s : State) : Host.Outcome State Fault Refusal :=
  let s := { s with window := { s.window with lrec := withHalf s.window.lrec 1 high } }
  if s.launchReady = false then .next s
  else
  let s := if s.window.lrec < 0 then s else s.visitPhys s.window.lrec.toNat 54
  let (st, s) := match s.recordAt s.window.lrec with
    | none => (1, s)
    | some w => s.deliverRecord w
  .next { s with ports := s.ports.modify port fun p => { p with lstat := st } }

/-- Whether the 54 trytes of an aligned record lie in one physical sector: a page boundary may cut them (R251).
DEDUCED, unsafe (log 21). -/
def State.recordWhole (s : State) (a : Agent) (ea : Int) : Bool :=
  match s.segments a .load (pagePieces 2 ea 54) with
  | .ok [_] => true
  | .ok [g, h] => h.pa == g.pa + (g.n : Int)
  | _ => false

/-- The record that LAUNCH names, or the cause of its first tryte (R400). DEDUCED, unsafe (log 21). -/
def State.launchWords (s : State) (t : Thread) (ea : Int) : Except Cause (Option (List Int) × State) :=
  match s.check (s.listAgent t) .load ea 1 none false false with
  | .error c => .error c
  | .ok [] => .error ⟨6, 1, ea⟩
  | .ok (g :: _) =>
    if ea % 81 ≠ 0 ∨ g.pa < 0 ∨ s.recordWhole (s.listAgent t) ea = false then .ok (none, s)
    else
      let home := s.homeOf (leafDom g.leaf) g.pa.toNat
      if s.poisonAt home (g.pa.toNat / 81) ≠ 0 then .ok (none, s.visit home)
      else .ok (some ((List.range 18).map fun i => s.memWordAt home (g.pa.toNat + 3 * i)), s.visit home)

def execLaunch (gd : Guard) (d b : Nat) (s : State) : Host.Outcome State Fault Refusal :=
  s.forGroups gd [gUse d, aUse b] fun t ts s =>
    let s : State := (ts.foldl (fun s t => s.drainOps t.id) s).needs s.launchReady
    match s.launchWords t (t.readA b) with
    | .error c => .error c
    | .ok (none, s) => .ok (s.giveAll ts d 1)
    | .ok (some w, s) =>
      let (st, s) := s.deliverRecord w
      .ok (s.giveAll ts d st)

/-- QFLUSH: every record of a queue is removed; the bolts that had teams left end with failure (R197). -/
def execQflush (n : Int) (s : State) : Host.Outcome State Fault Refusal :=
  if n < 0 ∨ 26 < n then .next s
  else
    .next ((s.queueOf n.toNat).foldl (fun s b =>
      s.endBolt b.id (-1) (failWords (trapInfo 0 ⟨22, 6, 0⟩) (-1) b.nextTeam 0 0)) s)

/-! ### Eligibility and priority (R197 to R199, R208) -/

/-- Whether a record is eligible (R198). -/
def State.isEligible (s : State) (b : Bolt) : Bool :=
  b.queued && b.outcome == 0 && b.record.preds.all Pred.met && decide (b.nextTeam < b.record.teams) &&
    ((s.queueOf b.record.queue).head?.map Bolt.id) == some b.id

/-- PRIORITY_PROMOTION: the records keep the current priorities that they have reached (R199). -/
def execPriorityPromotion (s : State) : Host.Outcome State Fault Refusal :=
  .next { s with bolts := s.bolts.map fun b : Bolt => { b with prio := s.prioOf b } }

/-- Whether the event that a stopped thread waits for has occurred (R208); `s` has its team resident.
DEDUCED, unsafe (log 25). -/
def State.eventCame (s : State) (t : Thread) : Bool :=
  match t.run with
  | .waiting _ loc g _ => t.due || ((s.syncAt loc).map fun w => genReached w.gen g).getD false
  | .arrived a => s.crossLaneReady t.team t.grp a.at_
  | .barrier b => s.barrierReady t.team b.toNat
  | .crew => t.element.isSome
  | .answer | .exited => false
  | _ => true

/-- Whether a team that was spooled by waiting may be a candidate again. DEDUCED, unsafe (log 25). -/
def State.mayResume (s : State) (m : Team) : Bool :=
  let s' := s.mapTeam m.id fun m => { m with state := .resident }
  (s.teamThreads m.id).any s'.eventCame || !(s.heldCauses m.id).isEmpty

/-- What the launch unit notices at the end of a step, before time passes: records that become eligible and spooled teams whose event has
occurred (R198, R208). -/
def State.notice (s : State) : State :=
  let now := s.now
  { s with
    bolts := s.bolts.map fun b : Bolt =>
      if b.eligible = none ∧ s.isEligible b = true then { b with eligible := some now } else b
    teams := s.teams.map fun m : Team =>
      if m.readyAt = none ∧ m.state = .spooled false ∧ s.mayResume m = true then { m with readyAt := some now } else m }

/-! ### Candidates and admission (R200) -/

inductive CandKind where
  | fresh | again | spooled
  deriving DecidableEq, Repr

structure Cand where
  kind : CandKind
  prio : Int
  enq : Nat
  queue : Nat
  team : TeamId
  reserving : Bool
  deriving DecidableEq, Repr

/-- Whether a candidate of priority + has been one for two intervals (R199). -/
def State.reserves (s : State) (prio : Int) (since : Nat) : Bool :=
  prio == 1 && decide (2 * s.ageguard ≤ s.now - since)

/-- The admission candidates: the next team of every eligible record, teams to relaunch, and spooled teams ready to
resume (R200, R429). DEDUCED, unsafe (log 23). -/
def State.cands (s : State) : List Cand :=
  (s.bolts.filter s.isEligible).map (fun b : Bolt =>
    ⟨.fresh, s.prioOf b, b.enq, b.record.queue, ⟨b.id, b.nextTeam⟩, s.reserves (s.prioOf b) (b.eligible.getD s.now)⟩) ++
  (s.bolts.filter fun b : Bolt => b.outcome == 0).flatMap (fun b : Bolt =>
    b.again.map fun n => ⟨.again, 1, b.enq, b.record.queue, ⟨b.id, n⟩, false⟩) ++
  (s.teams.filter fun m : Team => m.state == .spooled false && m.readyAt.isSome).filterMap (fun m : Team =>
    (s.bolt? m.id.bolt).map fun b : Bolt =>
      ⟨.spooled, m.prio, b.enq, b.record.queue, m.id, s.reserves m.prio (m.readyAt.getD s.now)⟩)

/-- Whether a goes before b in the order of R200; of candidates that its five keys leave alike, the bolt delivered first
goes first. DESIGN CHOICE, unsafe (log 79). -/
def Cand.before (a b : Cand) : Bool :=
  if a.prio ≠ b.prio then decide (b.prio < a.prio)
  else if a.enq ≠ b.enq then decide (a.enq < b.enq)
  else if (a.kind == .spooled) ≠ (b.kind == .spooled) then a.kind == .spooled
  else if a.queue ≠ b.queue then decide (a.queue < b.queue)
  else if a.team.team ≠ b.team.team then decide (a.team.team < b.team.team)
  else decide (a.team.bolt < b.team.bolt)

/-- The first of a list of candidates. -/
def firstCand : List Cand → Option Cand
  | [] => none
  | c :: cs =>
    match firstCand cs with
    | none => some c
    | some d => if d.before c then some d else some c

/-- Where a candidate would be placed: any core or pair that it fits (R201, R202, R424). -/
def State.candPlace (s : State) (c : Cand) : Option Nat := (s.bolt? c.team.bolt).bind fun b => s.placement b.record

/-- The admission that takes place now, if any: a reserving candidate that does not fit blocks every other (R200). -/
def State.nextAdmission (s : State) : Option (Cand × Nat) :=
  let cs := s.cands
  let blocked := match firstCand (cs.filter Cand.reserving) with
    | none => false
    | some c => (s.candPlace c).isNone
  if blocked || !s.launchReady then none
  else
    match firstCand (cs.filter fun c => (s.candPlace c).isSome) with
    | none => none
    | some c => (s.candPlace c).map fun core => (c, core)

/-- The n lowest group slots of a bolt that are free (R263). -/
def State.freeSlots (s : State) (bolt n : Nat) : List Nat :=
  let used := (s.teams.filter fun m : Team => m.id.bolt == bolt).flatMap Team.slots
  ((List.range (used.length + n)).filter fun k => !(used.contains k)).take n

/-- A thread at its start, which a launch record names: its privilege is user. No thread of the firmware, whose privilege
is system, is started (R32, R35, R40, R167, R476). DEDUCED, unsafe (log 93). -/
def startThread (b : Bolt) (team core grp j : Nat) : Thread :=
  let r := b.record
  { id := ⟨b.id, team * r.threads + grp * lanesOf r.width + j⟩, team := ⟨b.id, team⟩, grp := grp, member := j,
    lane := baseLane r.width grp + j, core := coreOfGroup core grp r.needsPair, nregs := r.regs,
    g := List.replicate r.regs 0, a := ((List.replicate 27 0).set 1 b.plan.top).set 2 r.param,
    c := List.replicate 9 .zero, pc := r.entry, slot := 1, clause := [], rstack := [], rsdepth := 0,
    flags := RealFlags.clear, status := ⟨r.width, r.det, false, false, false⟩, splimit := b.plan.splimit,
    trapvec := 0, trappc := 0, trapinfo := 0, trapaddr := 0, cflags := List.replicate 12 0, ops := [], nextOp := 0,
    pend := [], run := .boundary .entry, nopOnce := false, resumed := false, readySince := none, clearSince := List.replicate 12 none,
    passed := 0, capture := [], fenced := false,
    buf := [], quantum := 0, committed := false, element := none, locks := 0, failed := none }

/-- A team at admission: scratchpad, tiles, accumulators and rovf 0, tiles unshaped (R228, R248). -/
def startTeam (b : Bolt) (team core : Nat) (slots : List Nat) (tags : List Int) : Team :=
  let r := b.record
  let tc : TileCore := ⟨List.replicate r.tiles ⟨0, []⟩, List.replicate r.accs ⟨[], []⟩⟩
  { id := ⟨b.id, team⟩, state := .resident, core := core, pair := r.needsPair, slots := slots,
    probe := List.replicate r.groups false, counter := 0, scratch := [], scratchBad := [],
    tiles := if r.needsPair then [tc, tc] else [tc], chains := [], nextSeq := 0, boardings := [], nextBoard := 0,
    sweeps := [], tags := tags, waited := 0, prio := b.prio, enq := b.enq, readyAt := none, rejoin := false }

/-- A new team is placed whole (R202): its threads start with an acquire (R278). -/
def State.startOn (s : State) (b : Bolt) (team core : Nat) : State :=
  let r := b.record
  let threads := (List.range r.groups).flatMap fun g =>
    (List.range (r.members g)).map fun j => startThread b team core g j
  let m := startTeam b team core (s.freeSlots b.id r.groups) (s.freshTags core)
  let s : State := m.cores.foldl State.advanceTags s
  m.cores.foldl State.acquire { s with threads := s.threads ++ threads, teams := s.teams ++ [m] }

/-- ADMISSION: the first fitting candidate starts or resumes (R200). -/
def execAdmission (s : State) : Host.Outcome State Fault Refusal :=
  match s.nextAdmission with
  | none => .next s
  | some (c, core) =>
    match s.bolt? c.team.bolt with
    | none => .next s
    | some b =>
      match c.kind with
      | .fresh =>
        let b := { b with prio := s.prioOf b }
        .next ((s.mapBolt b.id fun x =>
          { x with prio := b.prio, nextTeam := b.nextTeam + 1, queued := decide (b.nextTeam + 1 < b.record.teams) }).startOn
            b c.team.team core)
      | .again =>
        .next ((s.mapBolt b.id fun b => { b with again := b.again.filter (· != c.team.team) }).startOn b c.team.team core)
      | .spooled =>
        match s.team? c.team with
        | none => .next s
        | some m => .next (s.resumeTeam m core)

/-! ### TEAM_END (R189) -/

/-- Whether a team has ended: its counter has reached p and its engine work is done. DEDUCED, unsafe (log 27). -/
def State.teamDone (s : State) (m : Team) : Bool :=
  match s.bolt? m.id.bolt with
  | none => false
  | some b =>
    m.state == .resident && decide (b.record.threads ≤ m.counter) &&
      m.chains.all (fun c => !c.running && c.flight.isEmpty) && m.sweeps.isEmpty &&
      m.boardings.all (fun x => !x.atTap && x.state != .held) && s.engineCauses.all fun x => x.1 != m.id

/-- Frees all that a team held: its locks go without TORN, marks of paired writes stay, and what it has locked stays so
until its bolt ends (R189, R289, R323, R390). -/
def State.freeTeam (s : State) (id : TeamId) : State :=
  { (((s.team? id).map s.freeAllocs).getD s) with
    threads := s.threads.filter fun t => t.team != id
    teams := s.teams.filter fun m => m.id != id
    locks := s.locks.filter fun l : Lock => l.team != id || l.kind == .torn || (match l.owner with
      | .collective _ _ => true
      | _ => false)
    forwards := s.forwards.filter fun f : Forward => f.team != id }

/-- TEAM_END, and BOLT_END with the last team: the outcome is in the header before the last raise of the completion
sync word, which gets ERR + where the header could not be written (R189, R421). DESIGN CHOICE, safe (log 60). -/
def execTeamEnd (id : TeamId) (s : State) : Host.Outcome State Fault Refusal :=
  match s.team? id with
  | none => .next s
  | some m =>
    if s.teamDone m = false then .next s
    else
      let s := (s.freeTeam id).mapBolt id.bolt fun b => { b with ended := b.ended + 1 }
      match s.bolt? id.bolt with
      | none => .next s
      | some b =>
        if b.ended < b.record.teams then .next (s.raiseDone b 1)
        else
          let s := s.dropHolds b.id
          match s.writeHeader b [(0, 1)] with
          | some s => .next ((s.mapBolt b.id fun b => { b with outcome := 1 }).raiseDone b 1)
          | none => .next (((s.mapBolt b.id fun b => { b with outcome := -1 }).errDone b).raiseDone b 1)

end Sys2Proof.Machine
end

