-- ==== Sys2Proof/Machine/Preempt.lean ====
section
/-!
DEFINITION. Pre-emption by the host, spooling by waiting, and soft errors (R206, R207, R418, R419, R426).
-/

namespace Sys2Proof.Machine

/-! ### PREQ and BRESUME (R418, R419) -/

/-- A pre-emption of a core: admission to it pauses and every team on it stops; a team to be requeued is a
candidate at once. DEDUCED, unsafe (log 30). -/
def State.preempt (s : State) (core : Nat) (hold : Bool) : State :=
  if Config.cores ≤ core ∨ (s.dieAt (dieOfCore core)).pstat.getD (core % 18) 1 = 0 then s
  else
    let s := s.setDie (dieOfCore core) fun d => { d with pstat := d.pstat.set (core % 18) 0 }
    let ids := (s.teams.filter fun m : Team => m.occupies core).map Team.id
    (ids.foldl (fun s id => s.stopTeam id hold (if hold then none else some s.now)) s).freePstat

def execPreemptRequeue (core : Nat) (s : State) : Host.Outcome State Fault Refusal := .next (s.preempt core false)

def execPreemptHold (core : Nat) (s : State) : Host.Outcome State Fault Refusal := .next (s.preempt core true)

/-- BRESUME: every held team of a bolt becomes a candidate (R418). -/
def execBresume (bolt : Int) (s : State) : Host.Outcome State Fault Refusal :=
  let now := s.now
  .next { s with teams := s.teams.map fun m : Team =>
    if (m.id.bolt : Int) = bolt then
      match m.state with
      | .stopping true => { m with state := .stopping false, readyAt := some now }
      | .spooled true => { m with state := .spooled false, readyAt := some now }
      | _ => m
    else m }

/-! ### Spooling by waiting (R206, R207, R416) -/

/-- Whether a thread is in a counted wait (R206): a cause that is pending ends the flag wait of a clause boundary, and not
the one that RETT applies at a slot (R409, R413). -/
def Thread.counted (t : Thread) : Bool :=
  match t.run with
  | .ready true => (!t.due || t.resumed) && t.countedWait
  | .arrived _ | .barrier _ | .waiting _ _ _ _ => true
  | _ => false

/-- Whether every resident thread of a team that has not exited is in a counted wait; a team whose threads have all exited
accumulates none. DESIGN CHOICE, unsafe (log 111). -/
def State.teamWaits (s : State) (id : TeamId) : Bool :=
  let ts := s.liveThreads id
  !ts.isEmpty && ts.all Thread.counted

/-- Accumulates the counted waits of teams over n ticks, and resets the others (R206). -/
def State.accumulate (s : State) (n : Nat) : State :=
  { s with teams := s.teams.map fun m : Team =>
      if m.state = .resident ∧ s.teamWaits m.id = true then { m with waited := m.waited + n } else { m with waited := 0 } }

/-- Whether a team's accumulated wait exceeds its spool threshold; SPOOL makes it 0 (R207, R416). -/
def State.overThreshold (s : State) (m : Team) : Bool :=
  let spools := (s.liveThreads m.id).any fun t =>
    match t.run with
    | .waiting _ _ _ true => true
    | _ => false
  match s.bolt? m.id.bolt with
  | none => false
  | some b =>
    spools || (b.record.spoolt != -1 &&
      decide (10 * (if b.record.spoolt = 0 then 40 else b.record.spoolt) < (m.waited : Int)))

/-- Whether some candidate would fit in what the team would free, with what is free (R207). -/
def State.roomFor (s : State) (id : TeamId) : Bool :=
  let s' := s.mapTeam id fun m => { m with state := .spooled true }
  s'.cands.any fun c => (s'.candPlace c).isSome

/-- The first team to be spooled by waiting, if any; of several, the first in the list. DESIGN CHOICE, unsafe (log 81). -/
def State.toSpool (s : State) : Option Team :=
  s.teams.find? fun m : Team =>
    m.state == .resident && s.teamWaits m.id && s.overThreshold m && s.canForward m && s.roomFor m.id

def execSpoolByWaiting (s : State) : Host.Outcome State Fault Refusal :=
  match s.toSpool with
  | none => .next s
  | some m => .next (s.stopTeam m.id false none)

/-! ### Soft errors (R426) -/

def State.countCe (s : State) (die : Nat) : State := s.setDie die fun d => { d with cecount := sat 54 (d.cecount + 1) }
def State.countUe (s : State) (die : Nat) : State := s.setDie die fun d => { d with uecount := sat 54 (d.uecount + 1) }

/-- The die of a team, of the cores that hold it. -/
def State.dieOfTeam (s : State) (id : TeamId) : Nat := ((s.team? id).map fun m => dieOfCore m.core).getD 0

/-- The die on which an error is found. -/
def State.siteDie (s : State) (site : SoftSite) : Nat :=
  match site with
  | .cleanLine core _ | .dirtyL1 core _ => dieOfCore core
  | .slice home _ => home / 27
  | .scratch id _ | .scrubbed id | .transfer id | .tile id | .registers id => s.dieOfTeam id

/-- Whether a core's L1 holds a dirty tryte of a line. -/
def State.lineDirty (s : State) (core home line : Nat) : Bool :=
  s.l1.any fun e => e.core == core && e.home == home && e.sector / 9 == line && e.dirty.any id

/-- A clean line of a core's caches, the one with a sector, is invalidated and fetched again when it is next used. -/
def State.dropClean (s : State) (core : Nat) (sector : Int) : State :=
  { s with
    l1 := s.l1.filter fun e : L1Sector =>
      !(e.core == core && ((e.sector / 9 : Nat) : Int) == sector / 9 && !(s.lineDirty core e.home (e.sector / 9)))
    icache := s.icache.filter fun l : ILine => !(l.core == core && (l.line : Int) == sector / 9)
    threads := s.threads.map fun t : Thread => if t.core = core then { t with capture := [] } else t }

/-- The fate of an uncorrectable error. DEDUCED, unsafe (log 36). -/
def State.softFate (s : State) (site : SoftSite) : State :=
  match site with
  | .cleanLine core sector => (s.countCe (dieOfCore core)).dropClean core sector
  | .dirtyL1 core sector =>
    { s with l1 := s.l1.map fun e : L1Sector =>
        if e.core = core ∧ (e.sector : Int) = sector ∧ e.dirty.any id then { e with poison := 2 } else e }
  | .slice home sector => if sector < 0 then s else s.poisonSlice home sector.toNat
  | .scratch id off =>
    s.mapTeam id fun m => if off < 0 then m else { m with scratchBad := addSorted m.scratchBad off.toNat }
  | .scrubbed id | .transfer id => s.killFor id 3
  | .tile id => s.killFor id 2
  | .registers id => s.killFor id 1

def execSoftError (correctable : Bool) (site : SoftSite) (s : State) : Host.Outcome State Fault Refusal :=
  let die := s.siteDie site
  if correctable then .next (s.countCe die)
  else
    match site with
    | .cleanLine _ _ => .next (s.softFate site)
    | _ => .next ((s.countUe die).softFate site)

/-- SCRUB: the scrubber reads every tryte and changes no value; an uncorrectable error of a scratchpad that it meets, which
UECOUNT has counted as it arose, kills the team (R426). DEDUCED, unsafe (log 36). -/
def execScrub (s : State) : Host.Outcome State Fault Refusal :=
  match s.teams.find? fun m : Team => !m.scratchBad.isEmpty with
  | none => .next s
  | some m => .next (s.killFor m.id 3)

end Sys2Proof.Machine
end

