-- ==== Sys2Proof/Machine/Host.lean ====
section
/-!
DEFINITION. The host, the links and the peers: the control window, the BARs, flits and sectors that arrive,
readiness and fencing, firmware and attestation (R430 to R455, R472 to R477).
-/

namespace Sys2Proof.Machine

/-! ### Translation invalidation and host raises (R255, R445) -/

/-- DEDUCED, unsafe (log 37). -/
def execTinval (n : Int) (s : State) : Host.Outcome State Fault Refusal :=
  if n < -1 ∨ 26 < n then .next s
  else .next { s with window := { s.window with tinval := 0 }, tinvPending := s.tinvPending ++ [n] }

/-- TRANSLATION_INVALIDATION_DONE: cached translations of the queue go, and TINVAL reads + when no other
invalidation is pending. -/
def execTranslationInvalidationDone (s : State) : Host.Outcome State Fault Refusal :=
  match s.tinvPending with
  | [] => .next s
  | n :: rest =>
    .next { s with
      tinvPending := rest
      tcache := if n = -1 then [] else s.tcache.filter fun t : TEntry => (t.queue : Int) != n
      window := { s.window with tinval := if rest.isEmpty then 1 else 0 } }

/-- FWRDY (R472). -/
def State.fwReady (s : State) : Trit := s.readyTrit 2259 0

/-- Whether a PCI Express port serves: while firmware is to come, one that has not failed; then one that is in service
(R472, R473, R474, R476). DEDUCED, unsafe (log 35). -/
def State.portServes (s : State) (port : Nat) : Bool :=
  decide (port < 2) && if s.fwReady = .pos then s.readyTrit (2241 + 3 * port) 1 == .pos else s.readyTrit (2241 + 3 * port) 1 != .neg

/-- Whether the host reaches the device. -/
def State.hostServes (s : State) : Bool := s.portServes 0 || s.portServes 1

/-- An access reaches the home slices of n trytes from a physical address. -/
def State.visitRange (s : State) (pa n : Nat) : State :=
  (((List.range n).map fun i => (pa + i) / 81).eraseDups).foldl (fun s sec => s.visit (s.homeOf .zero (81 * sec))) s

/-- HRAISE: raises the sync word that HRSYNC names, at its home slice under package interleave. -/
def execHraise (n : Int) (s : State) : Host.Outcome State Fault Refusal :=
  let pa := s.window.hrsync
  if n < 1 ∨ pa < 0 ∨ pa % 9 ≠ 0 ∨ s.window.hbmtop ≤ pa then .next s
  else .next (s.raise (.memory (s.homeOf .zero pa.toNat) pa uncached) Config.cores n)

/-! ### BAR0 (R441, R443, R447, R448) -/

/-- Words that BAR0 shows. -/
def bar0Words : Int := 8388608

def State.mapPort (s : State) (port : Nat) (f : Port → Port) : State :=
  { s with ports := s.ports.modify port f }

def State.port? (s : State) (port : Nat) : Port := s.ports.getD port ⟨0, [], []⟩

/-- Adds bytes to what the host has read. -/
def State.hostGot (s : State) (l : List (BitVec 8)) : State := { s with hostReads := l :: s.hostReads }

/-- Adds a word to what the host has read, in the eight bytes of BAR0 (R441). -/
def State.hostGotWord (s : State) (v : Int) : State := s.hostGot (bytesOfInt 8 v)

/-- Entry w of a port's latch or held writes. -/
def portWord (l : List (Int × Int)) (w : Int) : Option Int := (l.find? fun p => p.1 == w).map Prod.snd

/-- A host read of a word: the low word of a 54-trit register latches the high one, and the next read of that
returns the latched value (R448). -/
def execHostLowWordRead (port : Nat) (w : Int) (s : State) : Host.Outcome State Fault Refusal :=
  if w < 0 ∨ bar0Words ≤ w ∨ s.portServes port = false then .next s
  else if pairLow w then
    .next ((s.mapPort port fun p =>
      { p with latch := (w + 1, s.windowWord (w + 1)) :: p.latch.filter fun x => x.1 != w + 1 }).hostGotWord (s.windowWord w))
  else if w = 56 then .next (s.hostGotWord (s.port? port).lstat)
  else
    match portWord (s.port? port).latch w with
    | some v => .next ((s.mapPort port fun p => { p with latch := p.latch.filter fun x => x.1 != w }).hostGotWord v)
    | none => .next (s.hostGotWord (s.windowWord w))

/-- A host write of the low word of a 54-trit register is held; a value outside T27 is dropped (R441, R443, R448). -/
def execHostLowWordWrite (port : Nat) (w : Int) (bytes : List (BitVec 8)) (s : State) : Host.Outcome State Fault Refusal :=
  let v := intOfBytes (bytes.take 8)
  if w < 0 ∨ bar0Words ≤ w ∨ fits 27 v = false ∨ s.portServes port = false then .next s
  else if pairLow w then .next (s.mapPort port fun p => { p with held := (w, v) :: p.held.filter fun x => x.1 != w })
  else .next (s.writeWord w v)

/-- A host write of the high word applies a held low word with it, in one step; the high word of LREC delivers the
record through its port (R448). -/
def execHostHighWordWrite (port : Nat) (w : Int) (bytes : List (BitVec 8)) (s : State) : Host.Outcome State Fault Refusal :=
  let v := intOfBytes (bytes.take 8)
  if w < 0 ∨ bar0Words ≤ w ∨ fits 27 v = false ∨ s.portServes port = false then .next s
  else if pairLow (w - 1) then
    let low := portWord (s.port? port).held (w - 1)
    let s1 := s.mapPort port fun p => { p with held := p.held.filter fun x => x.1 != w - 1 }
    if w = 55 then
      let s1 := match low with
        | some l => s1.writeWord 54 l
        | none => s1
      .next { s1 with started := s1.started ++ [.lrec port v] }
    else
      match low with
      | some l => .next (s1.writePair (w - 1) (l + p3 27 * v))
      | none => .next (s1.writeWord w v)
  else .next (s.writeWord w v)

/-- A write of a control-window word with no behaviour of its own; a read-only one is ignored (R447). -/
def execRegisterWrite (w v : Int) (s : State) : Host.Outcome State Fault Refusal :=
  if fits 27 v ∧ s.hostServes = true then .next (s.writeWord w v) else .next s

/-! ### BAR2 and BAR4 (R441 to R443) -/

/-- A tryte as BAR2 shows it: 0 where HBM is not backed, -32768 in a poisoned sector. DEDUCED, unsafe (log 42). -/
def State.bar2Tryte (s : State) (k : Int) : Int :=
  if k < 0 ∨ s.window.hbmtop ≤ k then 0
  else if s.physPoison k.toNat ≠ 0 then -32768
  else s.readPhys k.toNat

def execBar2Read (k : Int) (n : Nat) (s : State) : Host.Outcome State Fault Refusal :=
  if s.hostServes = false then .next s
  else
    let got := (List.range n).flatMap fun i : Nat => bytesOfInt 2 (s.bar2Tryte (k + (i : Int)))
    .next ((if k < 0 ∨ s.window.hbmtop ≤ k then s else s.visitRange k.toNat (min n (s.window.hbmtop - k).toNat)).hostGot got)

/-- A 16-bit two's-complement value from its bytes. -/
def int16 (lo hi : BitVec 8) : Int := (hi ++ lo : BitVec 16).toInt

/-- The trytes that bytes at an offset write: those with both bytes, within the range of a tryte and backed. -/
def State.bar2Trytes (s : State) (off : Nat) (bytes : List (BitVec 8)) : List (Nat × Int) :=
  let first := (off + 1) / 2
  let n := (off + bytes.length) / 2 - first
  (List.range n).filterMap fun i =>
    let k := first + i
    let v := int16 (bytes.getD (2 * k - off) 0) (bytes.getD (2 * k + 1 - off) 0)
    if fits 9 v ∧ (k : Int) < s.window.hbmtop then some (k, v) else none

/-- BAR2_WRITE: the trytes of one sector are applied at its home slice as one step (R443). -/
def execBar2Write (off : Nat) (bytes : List (BitVec 8)) (s : State) : Host.Outcome State Fault Refusal :=
  let ts := if s.hostServes then s.bar2Trytes off bytes else []
  let sectors := (ts.map fun t => t.1 / 81).eraseDups
  .next (sectors.foldl (fun s sec =>
    s.writePhys sec ((ts.filter fun t => t.1 / 81 == sec).map fun t => (t.1 % 81, t.2))) s)

/-- Bytes of the staging memory (R442). -/
def stagingBytes : Nat := 16777216

def State.stage (s : State) (off : Nat) (bytes : List (BitVec 8)) : State :=
  { s with staging := byteSetList s.staging off (bytes.take (stagingBytes - off)) }

def execBar4Access (off : Nat) (bytes : List (BitVec 8)) (n : Nat) (s : State) : Host.Outcome State Fault Refusal :=
  if s.hostServes = false then .next s
  else if bytes.isEmpty then
    .next (s.hostGot ((List.range n).map fun i => if off + i < stagingBytes then byteGet s.staging (off + i) else 0))
  else .next (s.stage off bytes)

/-! ### Links and peers (R431, R432, R451 to R454) -/

/-- FLIT_RECEIVE: a flit is accepted, or retried when its CRC fails or a code of its body lies above 26 (R432).
DEDUCED, unsafe (log 38). -/
def execFlitReceive (link : Nat) (body : List (BitVec 8)) (crc : Bool) (s : State) : Host.Outcome State Fault Refusal :=
  if s.linksOut.contains link then .next s
  else
    let codes := flitCodes body
    let ok := crc && body.length == 240 && codes.all fun c => decide (c ≤ 26)
    .next { s with flits := ⟨link, if ok then some (codeTrytes codes) else none⟩ :: s.flits }

/-- Words 0 to 3 of entry k of a table of 9-word entries. -/
def State.entryWord (s : State) (base k i : Int) : Int := s.window.word (base + 9 * k + i)

/-- The inbound raises of a write of n trytes from a device through its window (R453). DEDUCED, unsafe (log 41). -/
def State.inboundRaise (s : State) (dev win : Nat) (n : Int) : State :=
  ((List.range 27).map fun k : Nat => (k : Int)).foldl (fun s k =>
    let w := s.entryWord 729 k
    let pa := w 2 + p3 27 * w 3
    if trits (w 0) 26 26 = 1 ∧ trits (w 0) 9 0 = (dev : Int) ∧ w 1 = (win : Int) ∧ 0 ≤ pa ∧ pa % 9 = 0 ∧
        pa < s.window.hbmtop then
      s.raise (.memory (s.homeOf .zero pa.toNat) pa uncached) Config.cores n
    else s) s

/-- PEER_SECTOR_RECEIVE: the masked trytes of the first of two transmissions that is accepted are applied and raise; a
sector refused twice is dropped (R451, R453). -/
def execPeerSectorReceive (dev win : Nat) (sector : Int) (mask : List Nat) (sent : List (List (BitVec 8))) (s : State) :
    Host.Outcome State Fault Refusal :=
  let places := mask.eraseDups.filter fun k => decide (k < 81)
  if sector < 0 ∨ s.window.hbmtop < 81 * sector + 81 ∨ places.isEmpty = true ∨ s.peerReady dev = false then .next s
  else
    match (sent.take 2).find? peerAccepts with
    | none => .next s
    | some b =>
      let trytes := codeTrytes (sectorCodes b)
      let ws := places.map fun k => (k, trytes.getD k 0)
      .next ((s.writePhys sector.toNat ws).inboundRaise dev win (ws.length : Nat))

/-- PEER_READ_TRANSACTION: the sector at its home slice in its 160 bytes, its poison mark among them (R451, R454).
DEDUCED, unsafe (log 42). -/
def execPeerReadTransaction (dev : Nat) (sector : Int) (s : State) : Host.Outcome State Fault Refusal :=
  if sector < 0 ∨ s.window.hbmtop < 81 * sector + 81 ∨ s.peerReady dev = false then .next s
  else
    let pa := 81 * sector.toNat
    let trytes := (List.range 81).map fun i => s.readPhys (pa + i)
    .next { s.visitPhys pa 81 with peerReads := ⟨dev, sector, packSector trytes (s.physPoison pa != 0)⟩ :: s.peerReads }

/-! ### Readiness and fencing (R472 to R475) -/

/-- Whether a readiness trit names a function (R472). -/
def isFunction (w i : Nat) : Bool :=
  if 2187 ≤ w ∧ w ≤ 2240 then decide (i ≤ 26)
  else if 2241 ≤ w ∧ w ≤ 2258 then
    let die := (w - 2241) / 3
    if (w - 2241) % 3 ≠ 0 then decide (i ≤ 15)
    else
      i == 0 || (i == 1 && decide (die ≤ 1)) || (i == 2 && die != 4) || ((i == 3 || i == 4) && die == 0) ||
        (decide (5 ≤ i) && ((die == 4 && decide (i ≤ 9)) || (die == 5 && decide (i ≤ 8))))
  else w == 2259 && decide (i ≤ 2)

/-- Trits that name no function on their die; the rest of word 2,259 is reserved. -/
def isSpare (w i : Nat) : Bool := decide (2241 ≤ w) && decide (w ≤ 2258) && decide (i ≤ 26) && !isFunction w i

/-! What names a place by its home slice follows when lines are homed anew. -/

/-- A place at the home that its line now has. -/
def State.rehomeLoc (s : State) (l : SyncLoc) : SyncLoc :=
  match l with
  | .scratch t o => .scratch t o
  | .memory h p e => if p < 0 then .memory h p e else .memory (s.homeOf (leafDom e) p.toNat) p e
  | .cut _ p e n _ p2 e2 =>
    SyncLoc.join n (.memory (s.homeOf (leafDom e) p.toNat) p e) (.memory (s.homeOf (leafDom e2) p2.toNat) p2 e2)

def State.rehomeThread (s : State) (t : Thread) : Thread :=
  { t with
    run := (match t.run with
      | .waiting cd loc g sp => .waiting cd (s.rehomeLoc loc) g sp
      | r => r)
    buf := t.buf.map fun b => match b with
      | .memory _ pa va leaf h issue v => .memory (s.homeOf (leafDom leaf) pa) pa va leaf h issue v
      | b => b }

def State.rehomeFlight (s : State) (f : Flight) : Flight :=
  { f with ref := f.ref.map s.rehomeLoc, todo := f.todo.map fun p => p.map fun c => { c with loc := s.rehomeLoc c.loc } }

def State.rehomeTeam (s : State) (m : Team) : Team :=
  { m with
    chains := m.chains.map fun c =>
      { c with flight := c.flight.map s.rehomeFlight, asOf := ((s.viewOf m.id c).rehome none).snapshot m.id }
    boardings := m.boardings.map fun b => { b with sync := s.rehomeLoc b.sync } }

/-- A change of the slices in service: the caches are written back under the homes that lines had, and all that names
lines by their homes follows (R474). A held tryte whose home both interleaves gave is named under package interleave.
DEDUCED, unsafe (log 35). -/
def State.moveHomes (s : State) (leaves : Option Nat) (change : State → State) : State :=
  let old := s.rehome leaves
  let new := change old
  let held := fun h : Nat × Nat × TeamId =>
    (new.homeOf (if h.1 = old.homeOf .zero h.2.1 then .zero else .pos) h.2.1, h.2.1, h.2.2)
  { new with
    threads := new.threads.map new.rehomeThread
    teams := new.teams.map new.rehomeTeam
    wakes := new.wakes.map fun w => { w with knot := new.rehomeLoc w.knot, heddle := new.rehomeLoc w.heddle }
    heldTrytes := new.heldTrytes.map held
    heldBefore := new.heldBefore.map held }

/-- A core is fenced: its teams are killed with subcode 1 (R474). -/
def State.fenceCore (s : State) (core : Nat) : State :=
  if s.readyTrit (2187 + 2 * (core / 18)) (core % 18) = .neg then s
  else
    let s := s.markFence (2187 + 2 * (core / 18)) (core % 18)
    ((s.teams.filter fun m : Team => m.occupies core).map Team.id).foldl (fun s id => s.killFor id 1) s

def State.fenceCores (s : State) (cores : List Nat) : State := cores.foldl State.fenceCore s

/-- The 18 cores of a die. -/
def coresOfDie (die : Nat) : List Nat := (List.range 18).map fun i => 18 * die + i

/-- Whether every slice of a die has failed. -/
def State.sliceless (s : State) (die : Nat) : Bool := (List.range 27).all fun i => s.readyTrit (2188 + 2 * die) i == .neg

/-- A slice is fenced: dirty sectors are written back and its lines are homed anew; a die whose slices have all failed loses
its cores, and where then no compute die has a slice that is in service every core is lost, and DIERDY of IO die 0 (R474).
DEDUCED, unsafe (log 35). -/
def State.fenceSlice (s : State) (die slice : Nat) : State :=
  let s := s.moveHomes (some (27 * die + slice)) fun s => s.markFence (2188 + 2 * die) slice
  let s := if s.sliceless die then s.fenceCores (coresOfDie die) else s
  if (List.range 27).any s.sliceless && !((List.range 27).any fun d => (s.foldSlice d 0).isSome) then (s.fenceCores (List.range Config.cores)).markFence 2241 0 else s

/-- The channel pairs that have failed since the cold start. -/
def State.channelsFailed (s : State) : List Nat :=
  (List.range 12).flatMap fun k =>
    ((List.range 16).filter fun i => s.readyTrit (2241 + 3 * (k / 2) + 1 + k % 2) i == .neg).map fun i => 16 * k + i

/-- A unit is fenced, with the effects of R474; FWRDY + comes before every other trit (R473). -/
def State.fence (s : State) (w i : Nat) : State :=
  if isFunction w i = false ∨ s.readyTrit w i = .neg ∨ s.fwReady ≠ .pos then s
  else if 2187 ≤ w ∧ w ≤ 2240 then
    let die := (w - 2187) / 2
    if (w - 2187) % 2 = 1 then s.fenceSlice die i
    else if i < 18 then s.fenceCore (18 * die + i)
    else (s.markFence w i).fenceCores [18 * die + 2 * (i - 18), 18 * die + 2 * (i - 18) + 1]
  else if w = 2259 ∧ i = 2 then
    match execBeamStop s with
    | .next s => s
    | _ => s
  else s.markFence w i

/-- SELF_TEST_RESULT: once firmware runs, a pending unit reports ready or is fenced (R473, R474). -/
def execSelfTestResult (w : Int) (trit : Nat) (ok : Bool) (s : State) : Host.Outcome State Fault Refusal :=
  let k := w.toNat
  if s.readyTrit 2259 0 ≠ .pos ∨ isFunction k trit = false ∨ s.readyTrit k trit ≠ .zero then .next s
  else if ok then
    .next (if 2187 ≤ k ∧ k ≤ 2240 ∧ (k - 2187) % 2 = 1 then s.moveHomes none fun s => s.setReady k trit .pos
      else s.setReady k trit .pos)
  else .next (s.fence k trit)

/-- UNIT_FENCE: a unit in service fails (R474). -/
def execUnitFence (w : Int) (trit : Nat) (s : State) : Host.Outcome State Fault Refusal :=
  if s.readyTrit w.toNat trit = .pos then .next (s.fence w.toNat trit) else .next s

/-- READINESS_FENCE: the host writes -1 to a unit's trit (R474). -/
def execReadinessFence (w : Int) (trit : Nat) (s : State) : Host.Outcome State Fault Refusal :=
  .next (s.fence w.toNat trit)

/-- The channel pairs withdrawn from the next cold start on. -/
def State.withdraws (s : State) : List Nat := s.channelsFailed.foldl addSorted s.withdrawn

/-- COLD_START: every readiness trit 0, and HBMTOP one share lower for each channel pair that is withdrawn (R473 to R475).
What comes from outside stays to come. DEDUCED, unsafe (log 39). -/
def execColdStart (s : State) : Host.Outcome State Fault Refusal :=
  .next { State.reset with
    tick := s.tick
    plans := s.plans
    withdrawn := s.withdraws
    window := { Window.reset with
      hbmtop := Config.hbmTrytes - Config.channelPairTrytes * (s.withdraws.length : Nat) }
    agenda := s.agenda }

/-! ### Firmware and attestation (R476, R477) -/

/-- FWGO: the boot logic reads the image that FWLEN measures, and begins anew where it is checking one; ignored unless
FWRDY is 0 (R476). DEDUCED, unsafe (log 40). -/
def execFwgo (v : Int) (s : State) : Host.Outcome State Fault Refusal :=
  if v ≠ 1 ∨ s.fwReady ≠ .zero then .next s
  else
    .next { s with fwPending := true,
                   image := (List.range s.window.fwlen.toNat).map fun i => byteGet s.staging i }

/-- The key and the signature after the image. -/
def State.fwTail (s : State) : List (BitVec 8) :=
  (List.range (64 + 29792)).map fun i => byteGet s.staging (s.image.length + i)

/-- Whether the digest of the key is the fused one, of 64 bytes, and the signature holds for the image (R476).
DESIGN CHOICE, safe (log 11). -/
def State.fwHolds (s : State) : Bool :=
  let key := s.fwTail.take 64
  shake256 key 64 == (List.range 64).map (fun i => Config.fusedDigest.getD i 0) &&
    Config.signatureHolds s.image key (s.fwTail.drop 64)

/-- FIRMWARE_VERIFIED: FWRDY becomes + or -, and with + every trit that names no function; the certificate of the
attestation key then stands in the staging memory (R472, R476, R477). DEDUCED, unsafe (log 40). -/
def execFirmwareVerified (s : State) : Host.Outcome State Fault Refusal :=
  if s.fwPending = false ∨ s.fwReady ≠ .zero then .next s
  else
    let s := { s with fwPending := false }
    let ok := within 1 16747360 s.window.fwlen && s.fwHolds
    if ok then
      let spare := (List.range 18).flatMap fun k : Nat =>
        ((List.range 27).filter fun i => isSpare (2241 + k) i).map fun i => (2241 + k, i)
      .next ((spare.foldl (fun s p => s.setReady p.1 p.2 .pos) (s.setReady 2259 0 .pos)).stage 14172864
        Config.certificate)
    else .next (s.setReady 2259 0 .neg)

/-- What a quote covers: the digest of the firmware image, the identity of 32 bytes, the nonce and the readiness words
(R477). The digests are of 64 bytes, as that of the key is. DEDUCED, unsafe (log 105). -/
def State.quoted (s : State) : List (BitVec 8) :=
  shake256 s.image 64 ++ (List.range 32).map (fun i => Config.identity.getD i 0) ++
    s.quote.1.flatMap (bytesOfInt 4) ++ s.quote.2.flatMap (bytesOfInt 8)

/-- ATTGO: a quote starts over the nonce and the readiness words as they stand; ignored while one is in progress
(R477). -/
def execAttgo (v : Int) (s : State) : Host.Outcome State Fault Refusal :=
  if v ≠ 1 ∨ s.window.attst = 0 then .next s
  else .next { s with window := { s.window with attst := 0 }, quote := (s.window.nonce, s.ready) }

/-- ATTESTATION_DONE: the signature stands in the staging memory and ATTST reads + (R477).
DESIGN CHOICE, safe (log 12). -/
def execAttestationDone (s : State) : Host.Outcome State Fault Refusal :=
  if s.window.attst ≠ 0 then .next s
  else
    let sig := (List.range 17088).map fun i => Config.signatureByte (shake256 s.quoted 64) i
    .next { s.stage 14155776 sig with window := { s.window with attst := 1 } }

end Sys2Proof.Machine
end

