-- ==== Sys2Proof/Machine/Knots.lean ====
section
/-!
DEFINITION. Knotted tensors and the shuttle (R339 to R357, R394 to R396): SWEEP, block reads, waves, handler
runs and their ends, heddle writes, completion and KWAKE.
-/

namespace Sys2Proof.Machine

/-! ### Sweeps of a core -/

/-- Whether a core's shuttle performs one sweep before another: one that it has begun, then the earlier issued (R346). -/
def Sweep.before (a b : Sweep) : Bool := if a.begun == b.begun then decide (a.since < b.since) else a.begun

/-- The sweep that a core's shuttle performs, of those of its resident teams (R346). -/
def State.activeSweep (s : State) (core : Nat) : Option (TeamId × Sweep) :=
  let l := s.teams.flatMap fun m : Team =>
    if m.state = .resident then (m.sweeps.filter fun w => w.core == core).map fun w => (m.id, w) else []
  l.foldl (fun best x =>
    match best with
    | none => some x
    | some b => if x.2.before b.2 then some x else best) none

/-- The sweep of the crew that a thread belongs to. -/
def State.sweepOf (s : State) (t : Thread) : Option Sweep :=
  match s.team? t.team with
  | none => none
  | some m => m.sweeps.find? fun w => w.crew.any fun c => c.id == t.id

/-- Sweeps are told apart by the thread whose operands SWEEP used. -/
def State.mapSweep (s : State) (team : TeamId) (issuer : ThreadId) (f : Sweep → Sweep) : State :=
  s.mapTeam team fun m => { m with sweeps := m.sweeps.map fun w => if w.issuer == issuer then f w else w }

def Sweep.space (w : Sweep) : Int := if w.scratch then -1 else 0
def Sweep.blocksOf (w : Sweep) : Int := (w.elems + 26) / 27
/-- The heddle tryte of a block (R342). -/
def Sweep.heddleAddr (w : Sweep) (b : Int) : Int := heddleOf w.base w.elems b
def Sweep.elemAddr (w : Sweep) (l : Int) : Int := knotAddr w.base l
/-- The last block swept (R347). -/
def Sweep.lastBlock (w : Sweep) : Int := w.last / 27
def Sweep.inRange (w : Sweep) (l : Int) : Bool := decide (w.first ≤ l) && decide (l ≤ w.last) && decide (l < w.elems)
/-- The elements of a block, tail slots excepted (R341). -/
def Sweep.blockElems (w : Sweep) (b : Int) : List Int :=
  ((List.range 27).map fun j : Nat => 27 * b + (j : Int)).filter fun l => decide (l < w.elems)

/-- A code found at an element: RESULT is the highest code, FIRSTBAD its lowest index (R352). -/
def Sweep.record (w : Sweep) (code l : Int) : Sweep :=
  if w.result < code then { w with result := code, firstBad := l }
  else if w.result = code ∧ l < w.firstBad then { w with firstBad := l }
  else w

/-- A block access took a cause: FAULT (R350, R352). -/
def State.sweepFault (s : State) (team : TeamId) (w : Sweep) (l addr : Int) : State :=
  (s.bear team w.issuer ⟨20, 8, addr⟩).mapSweep team w.issuer fun w => { w.record 4 l with stopped := true }

/-! ### SWEEP (R345, R346, R394) -/

/-- The sweep of a record, when words 0 to 4 of it and its tensor record are valid, else the RESULT with which SWEEP returns at
once: BADREC, or POISON for a record that reads as uncorrectable (R345, R349, R352, R426). DEDUCED, unsafe (log 48). -/
def State.newSweep (s : State) (t : Thread) (crew : List Thread) (d : Nat) (o : Int) : Except Int Sweep :=
  let w := s.scratchWord t.team o
  if s.recordBad t.team o 15 then .error 3
  else
  match s.tensorRecord t.team (w 0) with
  | .error e => .error (if e.1 = 4 then 3 else 1)
  | .ok x =>
    if x.knot && decide (0 ≤ w 1) && decide (w 1 ≤ w 2) && decide (w 2 < x.size) && decide (0 ≤ w 3) &&
        w 3 % 9 == 0 && decide (0 ≤ trits (w 4) 4 1) && decide (trits (w 4) 4 1 ≤ 27) &&
        decide (w 3 + 9 * trits (w 4) 4 1 ≤ s.scratchSize t.id.bolt) && trits (w 4) 26 5 == 0 &&
        trits (w 4) 0 0 != -1 && crew.all fun u => decide (13 ≤ u.nregs) then
      .ok
        { core := t.core, issuer := t.id, system := t.status.system, since := s.tick, begun := false, recAt := o,
          scratch := x.space == -1, base := x.base, fmt := x.fmt, exts := x.ext, htab := x.htab,
          first := w 1, last := w 2, elems := x.size, stab := w 3, nslot := trits (w 4) 4 1,
          full := trits (w 4) 0 0 == 1, crew := crew.map fun u => ⟨u.id, u.pc, u.slot, u.clause, d⟩,
          next := w 1 / 27, queue := [], running := [], open_ := [], written := [], runs := 0, blocks := 0, result := 0,
          firstBad := -1, stopped := false }
    else .error 1

/-- Words 5 to 8 of a sweep record (R345). -/
def State.sweepWords (s : State) (team : TeamId) (recAt result runs firstBad blocks : Int) : State :=
  s.putTrytesAt noCore (.scratch team (recAt + 15)) ([result, runs, firstBad, blocks].flatMap trytesOfWord)

/-- SWEEP counts in its quantum as it issues (R287). -/
def execSweep (gd : Guard) (d b : Nat) (s : State) : Host.Outcome State Fault Refusal :=
  s.forGroups gd [gUse d, gUse b] fun t ts s =>
    match s.offsetFault t (t.readG b) 27 27 with
    | some c => .error c
    | none =>
      if ts.any fun t => t.element.isSome then .error ⟨18, 1, 0⟩
      else
        let s := ts.foldl (fun s t => s.drainOps t.id) s
        match s.newSweep t ts d (t.readG b) with
        | .error code =>
          let s := s.sweepWords t.team (t.readG b) code 0 (-1) 0
          .ok (ts.foldl (fun s t => (s.acquire t.core).mapThread t.id fun t => (t.writeG d code).advance) s)
        | .ok w =>
          let s := s.mapTeam t.team fun m => { m with sweeps := m.sweeps ++ [w] }
          .ok (ts.foldl (fun s t => s.mapThread t.id fun t =>
            { t with run := .crew, committed := false, nopOnce := false,
                     quantum := if t.status.det then t.quantum + 1 else t.quantum }) s)

/-! ### Block reads (R344, R347) -/

def knotWait (k : Int) : Int := trits k 1 0
def knotArg (k : Int) : Int := trits k 13 5
def knotHandler (k : Int) : Int := trits k 4 2 % 27
/-- Sync-table slot and generation that a SYNC argument names (R344). -/
def argSlot (a : Int) : Int := trits a 8 6 % 27
def argGlo (a : Int) : Int := trits a 5 0

/-- What a block read finds at an element. -/
inductive KnotSeen where
  | poison
  | knot (k entry : Int) (at_ : SyncLoc)
  deriving DecidableEq, Repr

/-- The entry of a handler, as the table stands: its place and value, or the address that takes a cause. -/
def State.handlerEntry (s : State) (c : UnitCtx) (htab n : Int) : Except Int (Bool × Int) :=
  match s.cells c 0 (htab + 6 * n) 6 .load with
  | .error a => .error a
  | .ok l =>
    .ok (l.any s.badAt, Out.word [] s (l.take 3) + p3 27 * Out.word [] s (l.drop 3))

/-- Whether a knot is bad (R344). -/
def Sweep.badKnot (w : Sweep) (k entry : Int) : Bool :=
  decide (knotWait k < 0) || (knotWait k == 3 && decide (knotArg k < 1)) ||
    (knotWait k == 2 && decide (w.nslot ≤ argSlot (knotArg k))) || entry == 0

/-- The trytes of GEN of the sync word that a SYNC knot awaits (R347). -/
def Sweep.slotCells (w : Sweep) (team : TeamId) (arg : Int) : List SyncLoc :=
  [.scratch team (w.stab + 9 * argSlot arg + 7), .scratch team (w.stab + 9 * argSlot arg + 8)]

/-- Reads the knot of one element, and the handler entry and sync word that it names; a COUNT knot that the read
will decrement needs store permission (R344, R347, R352). -/
def State.seeKnot (s : State) (c : UnitCtx) (w : Sweep) (l : Int) : Except Int KnotSeen :=
  match s.cells c w.space (w.elemAddr l + 27) 3 .load with
  | .error e => .error e
  | .ok knot =>
    if knot.any s.badAt then .ok .poison
    else
      let k := Out.word [] s knot
      match s.handlerEntry c w.htab (knotHandler k) with
      | .error e => .error e
      | .ok (bad, entry) =>
        if bad then .ok .poison
        else if w.badKnot k entry then .ok (.knot k entry ((wordPlace knot).getD noPlace))
        else if knotWait k = 2 ∧ ((w.slotCells c.team (knotArg k)).any s.badAt) = true then .ok .poison
        else
          match if knotWait k = 3 ∧ 2 ≤ knotArg k then s.cells c w.space (w.elemAddr l + 27) 3 .store else .ok [] with
          | .error e => .error e
          | .ok _ => .ok (.knot k entry ((wordPlace knot).getD noPlace))

/-- Whether the generation that a SYNC knot awaits is reached (R344). -/
def State.slotReached (s : State) (team : TeamId) (w : Sweep) (arg : Int) : Bool :=
  let g := (s.syncAt (.scratch team (w.stab + 9 * argSlot arg))).getD ⟨0, 0, 0⟩
  decide (0 ≤ wrap 6 (trits g.gen 5 0 - argGlo arg))

/-- The effect of a block read on one element (R347). -/
def State.meetKnot (s : State) (team : TeamId) (issuer : ThreadId) (l : Int) (seen : KnotSeen) : State :=
  match (s.team? team).bind fun m => m.sweeps.find? fun w => w.issuer == issuer with
  | none => s
  | some w =>
    match seen with
    | .poison => s.mapSweep team issuer fun w => w.record 3 l
    | .knot k entry loc =>
      let s := s.visitLoc loc
      let enqueue := fun s : State => s.mapSweep team issuer fun w => { w with queue := w.queue ++ [l] }
      if w.badKnot k entry then s.mapSweep team issuer fun w => w.record 2 l
      else if knotWait k = 0 then enqueue s
      else if knotWait k = 3 then
        if knotArg k = 1 then enqueue s else s.putTrytesAt noCore loc (trytesOfWord (k - p3 5))
      else if knotWait k = 2 then
        if s.slotReached team w (knotArg k) then enqueue s else s
      else s

/-- Whether the shuttle may read a block now: the wave has ended and the queue is short (R348). -/
def Sweep.mayRead (w : Sweep) : Bool :=
  w.running.isEmpty && !w.stopped && decide (w.next ≤ w.lastBlock) && decide (w.queue.length < w.crew.length)

/-- One block read of a sweep (R347). Where the heddle tryte has an uncorrectable error or reads as poisoned the block is
not read, and its first element is recorded with POISON (R352, R426). DEDUCED, unsafe (log 48). -/
def State.readBlock (s : State) (team : TeamId) (w : Sweep) : State :=
  let c := s.unitCtx team w.system
  let b := w.next
  let s1 := s.mapSweep team w.issuer fun w => { w with next := b + 1, begun := true }
  match s.cells c w.space (w.heddleAddr b) 1 .load with
  | .error a => s1.sweepFault team w (27 * b) a
  | .ok hl =>
    let bit := (b % 9).toNat
    let s1 := hl.foldl State.visitLoc s1
    if hl.any s.badAt then s1.mapSweep team w.issuer fun w => w.record 3 (27 * b)
    else if trits (s.tryteAt (hl.headD noPlace)) bit bit = -1 ∧ w.full = false then s1
    else
      let ls := (w.blockElems b).filter w.inRange
      match ls.foldlM (m := Except Int) (fun acc l =>
          match s.seeKnot c w l with
          | .error e => .error e
          | .ok x => .ok (acc ++ [(l, x)])) [] with
      | .error a => s1.sweepFault team w (27 * b) a
      | .ok seen =>
        let s2 := s1.mapSweep team w.issuer fun w => { w with blocks := w.blocks + 1, open_ := w.open_ ++ [b] }
        seen.foldl (fun s p => s.meetKnot team w.issuer p.1 p.2) s2

/-- BLOCK_READ: the shuttle of a core reads its sweep's next block (R347). DESIGN CHOICE, safe (log 60). -/
def execBlockRead (core : Nat) (s : State) : Host.Outcome State Fault Refusal :=
  match s.activeSweep core with
  | none => .next s
  | some (team, w) => if w.mayRead then .next (s.readBlock team w) else .next s

/-! ### Waves and handler runs (R348, R349) -/

/-- Whether a wave may start: indices enough for the crew, or no block left to read (R348). -/
def Sweep.mayStart (w : Sweep) : Bool := w.running.isEmpty && !w.queue.isEmpty && !w.mayRead

/-- The first active sweep that satisfies p, of a core whose clock runs. -/
def State.someSweep (s : State) (p : Sweep → Bool) : Option (TeamId × Sweep) :=
  ((((s.teams.flatMap Team.sweeps).map Sweep.core).eraseDups).filterMap s.activeSweep).find? fun x => !(s.standsStill x.2.core) && p x.2

/-- The registers of a handler run (R349). -/
def Thread.startRun (t : Thread) (w : Sweep) (l elem knot entry : Int) : Thread :=
  let g1 := if w.fmt = -2 ∨ w.fmt = -1 then trits elem 8 0 else elem
  let coords := (coordsOf w.exts l).zipIdx.map fun p => (4 + p.2, p.1)
  let u := (t.writeGs ([(1, g1), (2, knot), (3, l)] ++ coords)).writeA 3 (w.elemAddr l)
  { u with element := some l }.toBoundary entry .handler

/-- The element word of a run's start, and the address at which it reads as poisoned or takes a cause: a T9 or TF9
element is its first tryte (R341, R349). -/
def State.seeElem (s : State) (c : UnitCtx) (w : Sweep) (l : Int) : Except Int (Option Int) :=
  match s.cells c w.space (w.elemAddr l) 3 .load with
  | .error a => .error a
  | .ok cells =>
    if (cells.take (fmtSize w.fmt)).any s.badAt then .ok none else .ok (some (Out.word [] s cells))

/-- Reads the knot and the handler entry of an element as its run starts (R349). -/
def State.runKnot (s : State) (c : UnitCtx) (w : Sweep) (l : Int) : Except Int KnotSeen :=
  match s.cells c w.space (w.elemAddr l + 27) 3 .load with
  | .error e => .error e
  | .ok knot =>
    if knot.any s.badAt then .ok .poison
    else
      match s.handlerEntry c w.htab (knotHandler (Out.word [] s knot)) with
      | .error e => .error e
      | .ok (true, _) => .ok .poison
      | .ok (false, entry) => .ok (.knot (Out.word [] s knot) entry ((wordPlace knot).getD noPlace))

/-- An element leaves the sweep without a run: the wakes held for it take effect (R352, R354). -/
def State.dropElem (s : State) (team : TeamId) (w : Sweep) (l : Int) : State :=
  (s.wakesFor team w.issuer l).foldl State.answerWake s

/-- A crew thread starts the run of an element, or the element is recorded as poisoned, or its block at fault.
DEDUCED, unsafe (log 48). -/
def State.startRun (s : State) (team : TeamId) (w : Sweep) (id : ThreadId) (l : Int) : State :=
  let c := s.unitCtx team w.system
  match s.runKnot c w l, s.seeElem c w l, s.thread? id with
  | .ok (.knot k entry _), .ok (some elem), some t =>
    ((s.acquire t.core).mapThread id fun t => t.startRun w l elem k entry).mapSweep team w.issuer fun w =>
      { w with running := w.running ++ [(id, l)], runs := w.runs + 1 }
  | .error a, _, _ => (s.sweepFault team w (27 * (l / 27)) a).dropElem team w l
  | _, .error a, _ => (s.sweepFault team w (27 * (l / 27)) a).dropElem team w l
  | .ok .poison, _, _ => (s.mapSweep team w.issuer fun w => w.record 3 l).dropElem team w l
  | _, .ok none, _ => (s.mapSweep team w.issuer fun w => w.record 3 l).dropElem team w l
  | _, _, none => s

/-- WAVE_START: the indices at the head of the queue go to the crew threads in rank order (R348). -/
def execWaveStart (s : State) : Host.Outcome State Fault Refusal :=
  match s.someSweep Sweep.mayStart with
  | none => .next s
  | some (team, w) =>
    let taken := w.crew.zip w.queue
    let s := s.mapSweep team w.issuer fun w => { w with queue := w.queue.drop w.crew.length }
    .next (taken.foldl (fun s p => s.startRun team w p.1.id p.2) s)

/-! ### The end of a handler run (R349, R353, R354, R395) -/

/-- The element word and the knot word of an end write (R349). -/
def Thread.endWords (t : Thread) (w : Sweep) (wait : Int) (arg : Option Int) : Int × Int :=
  let k := t.readG 2
  let k := match arg with
    | none => k
    | some a => k + (trits a 8 0 - trits k 13 5) * p3 5
  let e := if w.fmt = -2 ∨ w.fmt = -1 then trits (t.readG 1) 8 0
    else if w.fmt = 3 then trits (t.readG 1) 25 0 else t.readG 1
  (e, k - trits k 1 0 + wait)

/-- The checks of a word of an end write, a plain store of the crew thread to the tensor, which no private window
remaps (R349, R356). DEDUCED, unsafe (log 71). -/
def State.endCheck (s : State) (t : Thread) (w : Sweep) (a : Int) : Except Cause (List Seg) :=
  let a := wrap 54 a
  if w.scratch then
    match s.scratchCheck t .store a 3 with
    | .error c => .error c
    | .ok _ => .ok []
  else s.check { s.agentOf t with win := none } .store a 3 (some ⟨3, 1⟩) false true

/-- What a deterministic thread buffers for a checked word of its end write (R356). DEDUCED, unsafe (log 71). -/
def State.bufferEnd (s : State) (t : Thread) (w : Sweep) (a : Int) (segs : List Seg) (v : Int) : List BufTryte :=
  if w.scratch then (trytesOfWord v).zipIdx.map fun p => BufTryte.scratch (a.toNat + p.2) p.1
  else s.bufferOf .default t.quantum segs (trytesOfWord v)

/-- The trytes of a checked word of an end write. -/
def State.endCells (s : State) (t : Thread) (w : Sweep) (a : Int) (segs : List Seg) (v : Int) : List PartCell :=
  ((if w.scratch then (List.range 3).map fun i : Nat => SyncLoc.scratch t.team (a + (i : Int)) else s.placesOf segs).zip
    (trytesOfWord v)).map fun p => ⟨p.1, p.2, true⟩

/-- A run has ended: its thread waits in the crew, and the wakes held for its element take effect (R354). In deterministic
mode the instruction that ended it counts in the quantum that follows (R287). -/
def State.runEnded (s : State) (t : Thread) (w : Sweep) (l : Int) : State :=
  let s := (s.mapThread t.id fun t => { t with
      run := .crew, element := none, committed := false,
      quantum := if t.status.det then t.quantum + 1 else t.quantum }).mapSweep t.team w.issuer
    fun w => { w with running := w.running.filter fun x => x.1 != t.id, written := w.written.filter (· != t.id) }
  s.dropElem t.team w l

/-- One lane's KWAIT, KYLD or KRET: wait kind and argument (R395). The release comes first, then the end write of
element and knot in one step at their sector. In deterministic mode the end write enters the thread's buffer and ends
its quantum, and the run ends after the commit (R356); where the buffer has no room for it, the quantum ends first (R287).
DEDUCED, unsafe (log 71). -/
def endLane (wait : Int) (arg : Option Int) (t : Thread) (s : State) : Except Cause State :=
  match t.element, s.sweepOf t with
  | some l, some w =>
    if (wait = 2 ∧ w.nslot ≤ argSlot (arg.getD 0)) ∨ (wait = 3 ∧ arg.getD 0 < 1) then .error ⟨18, 3, 0⟩
    else if t.committed = true ∧ w.written.contains t.id = true then .ok (s.runEnded t w l)
    else
      match s.endCheck t w (w.elemAddr l), s.endCheck t w (w.elemAddr l + 27) with
      | .ok x, .ok y =>
        let s := s.drainOps t.id
        let (e, k) := ((s.thread? t.id).getD t).endWords w wait arg
        if t.status.det then
          let new := s.bufferEnd t w (w.elemAddr l) x e ++ s.bufferEnd t w (w.elemAddr l + 27) y k
          if bufSectors (t.buf ++ new) ≤ 27 then
            .ok ((s.mapThread t.id fun t => { t with buf := t.buf ++ new, run := .quantum }).mapSweep t.team w.issuer
              fun w => { w with written := t.id :: w.written.filter (· != t.id) })
          else
            .ok ((s.mapThread t.id Thread.endQuantum).mapSweep t.team w.issuer
              fun w => { w with written := w.written.filter (· != t.id) })
        else
          let part := s.endCells t w (w.elemAddr l) x e ++ s.endCells t w (w.elemAddr l + 27) y k
          .ok ((s.writeParts t.core part).runEnded t w l)
      | x, y =>
        match lowestCause (causeOf x ++ causeOf y) with
        | some c => .error c
        | none => .ok s
  | _, _ => .error ⟨18, 2, 0⟩

def execKwait (gd : Guard) (w : Nat) (arg : Int) (s : State) : Host.Outcome State Fault Refusal :=
  s.lanes gd [] (endLane (w : Int) (some arg))

def execKwaitR (gd : Guard) (w b : Nat) (s : State) : Host.Outcome State Fault Refusal :=
  s.lanes gd [gUse b] fun t s => endLane (w : Int) (some (trits (t.readG b) 8 0)) t s

def execKyld (gd : Guard) (s : State) : Host.Outcome State Fault Refusal := s.lanes gd [] (endLane 0 none)

def execKret (gd : Guard) (s : State) : Host.Outcome State Fault Refusal := s.lanes gd [] (endLane 4 none)

/-! ### Heddle writes and completion (R350, R352) -/

/-- The heddle trit of the knots of a block; a knot that cannot be read counts as a bad one (R350).
DEDUCED, unsafe (log 48). -/
def Sweep.heddleTrit (w : Sweep) (l : List KnotSeen) : Trit :=
  if l.any fun x => match x with
    | .knot k _ _ => knotWait k == 0
    | .poison => false then .pos
  else if l.any fun x => match x with
    | .knot k entry _ => knotWait k == 2 || knotWait k == 3 || w.badKnot k entry
    | .poison => true then .zero
  else .neg

/-- The knots of a block as they stand, with their handler entries, by linear index. -/
def State.blockKnots (s : State) (c : UnitCtx) (w : Sweep) (b : Int) : Except Int (List (Int × KnotSeen)) :=
  (w.blockElems b).foldlM (fun acc l =>
    match s.cells c w.space (w.elemAddr l + 27) 3 .load with
    | .error e => .error e
    | .ok x =>
      let k := Out.word [] s x
      match s.handlerEntry c w.htab (knotHandler k) with
      | .error e => .error e
      | .ok (bad, entry) =>
        .ok (acc ++ [(l, if bad || x.any s.badAt then .poison else .knot k entry ((wordPlace x).getD noPlace))])) []

/-- The lowest element of a block whose knot could not be read is recorded with POISON (R352, R426). -/
def Sweep.recordSeen (w : Sweep) (l : List (Int × KnotSeen)) : Sweep :=
  match l.find? fun x => x.2 == .poison with
  | some x => w.record 3 x.1
  | none => w

/-- Whether every run of a block that was read has ended (R350). -/
def Sweep.blockDone (w : Sweep) (b : Int) : Bool :=
  w.open_.contains b && !(w.queue.any fun l => l / 27 == b) && !(w.running.any fun x => x.2 / 27 == b)

/-- HEDDLE_WRITE: the block's heddle trit is written as one step (R350). A heddle tryte that cannot be read keeps its
value and counts as its block's first element does (R352, R426). DEDUCED, unsafe (log 48). -/
def execHeddleWrite (core : Nat) (block : Int) (s : State) : Host.Outcome State Fault Refusal :=
  match s.activeSweep core with
  | none => .next s
  | some (team, w) =>
    if w.blockDone block = false then .next s
    else
      let c := s.unitCtx team w.system
      let s := s.mapSweep team w.issuer fun w => { w with open_ := w.open_.filter (· != block) }
      match s.blockKnots c w block, s.cells c w.space (w.heddleAddr block) 1 .store with
      | .error a, _ => .next (s.sweepFault team w (27 * block) a)
      | _, .error a => .next (s.sweepFault team w (27 * block) a)
      | .ok ks, .ok x =>
        let loc := x.headD noPlace
        let s := ks.foldl (fun s k => match k.2 with
          | .knot _ _ p => s.visitLoc p
          | .poison => s) (s.mapSweep team w.issuer fun w => w.recordSeen ks)
        if s.badAt loc then .next (s.mapSweep team w.issuer fun w => w.record 3 (27 * block))
        else
          .next (s.putTryteAt noCore loc (putTrit (s.tryteAt loc) (block % 9).toNat (w.heddleTrit (ks.map Prod.snd))))

/-- Whether a sweep is complete (R352). -/
def Sweep.complete (w : Sweep) : Bool :=
  w.queue.isEmpty && w.running.isEmpty && w.open_.isEmpty && (w.stopped || decide (w.lastBlock < w.next))

/-- A crew thread goes on after SWEEP with RESULT (R352, R394); its quantum counted SWEEP as it issued (R287). One that was
spooled between runs fetches the clause of its SWEEP again here, once the sweep is complete. DESIGN CHOICE, unsafe (log 109). -/
def Thread.leaveCrew (t : Thread) (c : Crew) (result : Int) (now : Nat) : Thread :=
  let u := ({ t with pc := c.pc, slot := c.slot, clause := c.clause, element := none }.writeG c.gd result).resume now
  { u with quantum := t.quantum }

/-- SWEEP_COMPLETION: words 5 to 8 are written and the crew goes on with an acquire (R352). -/
def execSweepCompletion (s : State) : Host.Outcome State Fault Refusal :=
  match s.someSweep Sweep.complete with
  | none => .next s
  | some (team, w) =>
    let now := s.tick
    let s := s.sweepWords team w.recAt w.result w.runs w.firstBad w.blocks
    let s := s.mapTeam team fun m => { m with sweeps := m.sweeps.filter fun x => x.issuer != w.issuer }
    let s := s.acquire w.core
    .next (w.crew.foldl (fun s c => s.mapThread c.id fun t => t.leaveCrew c w.result now) s)

/-! ### KWAKE (R353, R354, R396) -/

/-- The sweep that holds a wake of the knot at a place: its element is between its enqueueing and its end write
(R354). -/
def State.sweeping (s : State) (knot : SyncLoc) : Option (TeamId × ThreadId × Int) :=
  s.teams.findSome? fun m : Team => m.sweeps.findSome? fun w =>
    (w.queue ++ w.running.map Prod.snd).findSome? fun l =>
      match s.cells (s.unitCtx m.id w.system) w.space (w.elemAddr l + 27) 3 .none with
      | .ok x => if ((wordPlace x).map knot.same).getD false then some (m.id, w.issuer, l) else none
      | .error _ => none

/-- The place of n trytes that KWAKE accesses as an atomic (R396). DEDUCED, unsafe (log 47). -/
def State.wakePlace (s : State) (t : Thread) (space a : Int) (n : Nat) : Except Cause SyncLoc :=
  if space = -1 then
    match s.scratchCheck t .atomic a n with
    | .error c => .error c
    | .ok _ => .ok (.scratch t.team a)
  else
    match s.check (s.agentOf t) .atomic a n none false false with
    | .error c => .error c
    | .ok segs =>
      match wordPlace (s.placesOf segs) with
      | none => .error ⟨6, 1, a⟩
      | some l => .ok l

/-- A tensor record that KWAKE reads shows an uncorrectable error: data poison, reported at the record (R426).
DEDUCED, unsafe (log 48). -/
def State.recordCause (s : State) (t : Thread) (o : Int) : Option Cause :=
  if s.recordBad t.team o 81 then some ⟨11, 2, o⟩ else none

def wakeLane (d b c : Nat) (t : Thread) (s : State) : Except Cause State :=
  let o := t.readG b
  let l := t.readG c
  match (s.offsetFault t o 81 3).or (s.recordCause t o) with
  | some e => .error e
  | none =>
    let fin := fun (v : Trit) (s : State) => s.mapThread t.id fun t => (t.writeC d v).advance
    match s.tensor? t.team o with
    | none => .ok (fin .neg s)
    | some x =>
      if x.knot = false ∨ l < 0 ∨ x.size ≤ l then .ok (fin .neg s)
      else
        let at_ := (wrap 54 (knotAddr x.base l + 27), heddleOf x.base x.size (l / 27))
        let knot := s.wakePlace t x.space at_.1 3
        let heddle := s.wakePlace t x.space at_.2 1
        match knot, heddle with
        | .ok k, .ok h =>
          let s := s.drainOps t.id
          let wk : Wake := ⟨t.id, d, k, h, (l / 27 % 9).toNat, at_, t.team, t.id, l⟩
          match s.sweeping k with
          | some (team, issuer, e) =>
            .ok ({ s with wakes := s.wakes ++ [{ wk with sweeper := team, issuer := issuer, elem := e }] }.mapThread t.id
              fun t => { t with run := .answer, resumed := false, committed := false })
          | none =>
            let v := if canWake (s.wordAt k) then Trit.pos else .zero
            let cells := if v = .pos then k.cells at_.1 3 ++ h.cells at_.2 1 else []
            let c := s.wakeCause wk
            .ok (s.atomically t cells (fun s => s.wake t.core wk) fun s =>
              (s.wake t.core wk).mapThread t.id fun t => (t.wakeEnd d v c).advance)
        | _, _ =>
          match lowestCause (causeOf knot ++ causeOf heddle) with
          | some e => .error e
          | none => .ok s

def execKwake (gd : Guard) (d b c : Nat) (s : State) : Host.Outcome State Fault Refusal :=
  s.lanes gd [cUse d, gUse b, gUse c] (wakeLane d b c)

end Sys2Proof.Machine
end

