-- ==== Sys2Proof/Machine/Real.lean ====
section
/-!
DEFINITION. The real instructions of opcode group +2 (R148 to R163).
-/

namespace Sys2Proof.Machine

/-- The real format of the elements of a shape (R149). -/
def shapeFmt (sh : Shape) : RFmt :=
  match sh with
  | .trytes => tf9
  | _ => tf27

/-- Writes the words of computed elements to gd and raises the union of their flags (R146, R150). -/
def Thread.putReal (t : Thread) (d : Nat) (sh : Shape) (l : List RRes) : Except Cause Thread :=
  .ok ((t.writeG d (packElems sh (l.map Prod.fst))).raise (RealFlags.any (l.map Prod.snd))).advance

def realUnary (gd : Guard) (sh : Shape) (d b : Nat) (f : RFmt → Int → RRes) (s : State) :
    Host.Outcome State Fault Refusal :=
  s.runLocal gd [gUse d, gUse b] fun t =>
    t.putReal d sh ((elems sh (t.readG b)).map (f (shapeFmt sh)))

def realBinary (gd : Guard) (sh : Shape) (d b c : Nat) (f : RFmt → Int → Int → RRes) (s : State) :
    Host.Outcome State Fault Refusal :=
  s.runLocal gd [gUse d, gUse b, gUse c] fun t =>
    t.putReal d sh (List.zipWith (f (shapeFmt sh)) (elems sh (t.readG b)) (elems sh (t.readG c)))

/-- The elements of a fused multiply-add whose addend is register u. -/
def fmaElems (sh : Shape) (t : Thread) (b c u : Nat) : List RRes :=
  List.zipWith (fun xy u => (shapeFmt sh).fmaOf xy.1 xy.2 u)
    ((elems sh (t.readG b)).zip (elems sh (t.readG c))) (elems sh (t.readG u))

def execFadd (gd : Guard) (sh : Shape) (d b c : Nat) (s : State) : Host.Outcome State Fault Refusal :=
  realBinary gd sh d b c RFmt.addOf s

def execFsub (gd : Guard) (sh : Shape) (d b c : Nat) (s : State) : Host.Outcome State Fault Refusal :=
  realBinary gd sh d b c RFmt.subOf s

def execFmul (gd : Guard) (sh : Shape) (d b c : Nat) (s : State) : Host.Outcome State Fault Refusal :=
  realBinary gd sh d b c RFmt.mulOf s

def execFfma (gd : Guard) (sh : Shape) (d b c : Nat) (s : State) : Host.Outcome State Fault Refusal :=
  s.runLocal gd [gUse d, gUse b, gUse c] fun t => t.putReal d sh (fmaElems sh t b c d)

def execFfmaE (gd : Guard) (sh : Shape) (d b c e : Nat) (s : State) : Host.Outcome State Fault Refusal :=
  s.runLocal gd [gUse d, gUse b, gUse c, gUse e] fun t => t.putReal d sh (fmaElems sh t b c e)

def execFmin (gd : Guard) (sh : Shape) (d b c : Nat) (s : State) : Host.Outcome State Fault Refusal :=
  realBinary gd sh d b c RFmt.minOf s

def execFmax (gd : Guard) (sh : Shape) (d b c : Nat) (s : State) : Host.Outcome State Fault Refusal :=
  realBinary gd sh d b c RFmt.maxOf s

/-- Whether either operand of a comparison is a NaN (R157). -/
def unordered (x y : Int) : Bool := (tf27.read x).isNan || (tf27.read y).isNan
def realSign (x y : Int) : Trit := Trit.ofInt ((tf27.read x).cmp (tf27.read y))

/-- FCMP: an unordered comparison writes 0 and sets INV (R157). -/
def execFcmp (gd : Guard) (d b c : Nat) (s : State) : Host.Outcome State Fault Refusal :=
  s.runLocal gd [cUse d, gUse b, gUse c] fun t =>
    if unordered (t.readG b) (t.readG c) then
      .ok ((t.writeC d .zero).raise { RealFlags.clear with inv := true }).advance
    else .ok (t.writeC d (realSign (t.readG b) (t.readG c))).advance

/-- FCMP.q: ce, written after cd, reports the order and no flag is set (R157). -/
def execFcmpQ (gd : Guard) (d b c e : Nat) (s : State) : Host.Outcome State Fault Refusal :=
  s.runLocal gd [cUse d, gUse b, gUse c, cUse e] fun t =>
    if unordered (t.readG b) (t.readG c) then .ok ((t.writeC d .zero).writeC e .pos).advance
    else .ok ((t.writeC d (realSign (t.readG b) (t.readG c))).writeC e .neg).advance

def execFabs (gd : Guard) (sh : Shape) (d b : Nat) (s : State) : Host.Outcome State Fault Refusal :=
  realUnary gd sh d b RFmt.absOf s

def execFabsNeg (gd : Guard) (sh : Shape) (d b : Nat) (s : State) : Host.Outcome State Fault Refusal :=
  realUnary gd sh d b RFmt.negOf s

def execFabsNabs (gd : Guard) (sh : Shape) (d b : Nat) (s : State) : Host.Outcome State Fault Refusal :=
  realUnary gd sh d b RFmt.nabsOf s

def execFrcp (gd : Guard) (sh : Shape) (d b : Nat) (s : State) : Host.Outcome State Fault Refusal :=
  realUnary gd sh d b RFmt.rcpOf s

def execFrsq (gd : Guard) (sh : Shape) (d b : Nat) (s : State) : Host.Outcome State Fault Refusal :=
  realUnary gd sh d b RFmt.rsqOf s

def execFexp3 (gd : Guard) (sh : Shape) (d b : Nat) (s : State) : Host.Outcome State Fault Refusal :=
  realUnary gd sh d b RFmt.exp3Of s

def execFlog3 (gd : Guard) (sh : Shape) (d b : Nat) (s : State) : Host.Outcome State Fault Refusal :=
  realUnary gd sh d b RFmt.log3Of s

def execFscl (gd : Guard) (sh : Shape) (d b : Nat) (lit : Int) (s : State) : Host.Outcome State Fault Refusal :=
  realUnary gd sh d b (fun f x => f.sclOf x lit) s

/-- FSCL by the elements of ge (R159). -/
def execFsclReg (gd : Guard) (sh : Shape) (d b e : Nat) (s : State) : Host.Outcome State Fault Refusal :=
  s.runLocal gd [gUse d, gUse b, gUse e] fun t =>
    t.putReal d sh (List.zipWith (shapeFmt sh).sclOf (elems sh (t.readG b)) (elems sh (t.readG e)))

def execFclass (gd : Guard) (sh : Shape) (d b : Nat) (s : State) : Host.Outcome State Fault Refusal :=
  s.runLocal gd [gUse d, gUse b] fun t =>
    t.put d (packElems sh ((elems sh (t.readG b)).map (shapeFmt sh).classOf))

/-- FCVT: the placement of the operands (R162) around the conversion of R163. -/
def execFcvt (gd : Guard) (sh : Shape) (tryte d b : Nat) (dst src : Fmt) (scale : Int) (s : State) :
    Host.Outcome State Fault Refusal :=
  s.runLocal gd [gUse d, gUse b] fun t =>
    match sh with
    | .trytes => t.putReal d .trytes ((elems .trytes (t.readG b)).map (convert dst src scale))
    | _ =>
      let v := if src.narrow then elem .trytes (t.readG b) tryte else t.readG b
      let r := convert dst src scale v
      let out := if dst.narrow then packElems .trytes ((elems .trytes (t.readG d)).set tryte r.1) else r.1
      .ok ((t.writeG d out).raise r.2).advance

end Sys2Proof.Machine
end

