-- ==== Sys2Proof/Machine/Dispatch.lean ====
section
/-!
DEFINITION. One arm for each step of the table: the direct call of its meaning.
-/

namespace Sys2Proof.Machine

def exec (i : Instr) (s : State) : Host.Outcome State Fault Refusal :=
  match i with
  | .nop gd => Sys2Proof.Machine.execNop gd s
  | .add gd sh d b c => Sys2Proof.Machine.execAdd gd sh d b c s
  | .adds gd sh d b c => Sys2Proof.Machine.execAdds gd sh d b c s
  | .addi gd sh d b lit => Sys2Proof.Machine.execAddi gd sh d b lit s
  | .sub gd sh d b c => Sys2Proof.Machine.execSub gd sh d b c s
  | .subs gd sh d b c => Sys2Proof.Machine.execSubs gd sh d b c s
  | .neg gd sh d b => Sys2Proof.Machine.execNeg gd sh d b s
  | .abs gd sh d b => Sys2Proof.Machine.execAbs gd sh d b s
  | .mul gd sh d b c => Sys2Proof.Machine.execMul gd sh d b c s
  | .mulh gd sh d b c => Sys2Proof.Machine.execMulh gd sh d b c s
  | .div gd sh d b c => Sys2Proof.Machine.execDiv gd sh d b c s
  | .mod gd sh d b c => Sys2Proof.Machine.execMod gd sh d b c s
  | .min gd sh d b c => Sys2Proof.Machine.execMin gd sh d b c s
  | .max gd sh d b c => Sys2Proof.Machine.execMax gd sh d b c s
  | .clamp gd sh d b c => Sys2Proof.Machine.execClamp gd sh d b c s
  | .sht gd sh d b lit => Sys2Proof.Machine.execSht gd sh d b lit s
  | .shtReg gd sh d b e => Sys2Proof.Machine.execShtReg gd sh d b e s
  | .rot gd sh d b lit => Sys2Proof.Machine.execRot gd sh d b lit s
  | .rotReg gd sh d b e => Sys2Proof.Machine.execRotReg gd sh d b e s
  | .trn gd sh d b lit => Sys2Proof.Machine.execTrn gd sh d b lit s
  | .trnReg gd sh d b e => Sys2Proof.Machine.execTrnReg gd sh d b e s
  | .nrw9 gd d b => Sys2Proof.Machine.execNrw9 gd d b s
  | .sat9 gd d b => Sys2Proof.Machine.execSat9 gd d b s
  | .sgn gd sh d b => Sys2Proof.Machine.execSgn gd sh d b s
  | .lead gd sh d b => Sys2Proof.Machine.execLead gd sh d b s
  | .cnt gd sh d b => Sys2Proof.Machine.execCnt gd sh d b s
  | .tmin gd d b c => Sys2Proof.Machine.execTmin gd d b c s
  | .tmax gd d b c => Sys2Proof.Machine.execTmax gd d b c s
  | .tsum gd d b c => Sys2Proof.Machine.execTsum gd d b c s
  | .tmul gd d b c => Sys2Proof.Machine.execTmul gd d b c s
  | .cons gd d b c => Sys2Proof.Machine.execCons gd d b c s
  | .field gd d b hi lo => Sys2Proof.Machine.execField gd d b hi lo s
  | .deposit gd d b hi lo => Sys2Proof.Machine.execDeposit gd d b hi lo s
  | .cmp gd d b c => Sys2Proof.Machine.execCmp gd d b c s
  | .cmpi gd d b lit => Sys2Proof.Machine.execCmpi gd d b lit s
  | .cset gd d b => Sys2Proof.Machine.execCset gd d b s
  | .cand gd d b c => Sys2Proof.Machine.execCand gd d b c s
  | .cor gd d b c => Sys2Proof.Machine.execCor gd d b c s
  | .sel3 gd d m b c e => Sys2Proof.Machine.execSel3 gd d m b c e s
  | .mov gd d b => Sys2Proof.Machine.execMov gd d b s
  | .movi gd d lit => Sys2Proof.Machine.execMovi gd d lit s
  | .movcG gd d b => Sys2Proof.Machine.execMovcG gd d b s
  | .movcC gd d b => Sys2Proof.Machine.execMovcC gd d b s
  | .movs gd d sp => Sys2Proof.Machine.execMovs gd d sp s
  | .movsA gd d sp => Sys2Proof.Machine.execMovsA gd d sp s
  | .sets gd sp b => Sys2Proof.Machine.execSets gd sp b s
  | .setsA gd sp b => Sys2Proof.Machine.execSetsA gd sp b s
  | .movx gd d b => Sys2Proof.Machine.execMovx gd d b s
  | .movy gd d b => Sys2Proof.Machine.execMovy gd d b s
  | .aadd gd d b c => Sys2Proof.Machine.execAadd gd d b c s
  | .asub gd d b c => Sys2Proof.Machine.execAsub gd d b c s
  | .amov gd d b => Sys2Proof.Machine.execAmov gd d b s
  | .amovPair gd d b c => Sys2Proof.Machine.execAmovPair gd d b c s
  | .amovLo gd d b => Sys2Proof.Machine.execAmovLo gd d b s
  | .amovHi gd d b => Sys2Proof.Machine.execAmovHi gd d b s
  | .alea gd d b e k => Sys2Proof.Machine.execAlea gd d b e k s
  | .hadd gd r d b c => Sys2Proof.Machine.execHadd gd r d b c s
  | .hsub gd r d b c => Sys2Proof.Machine.execHsub gd r d b c s
  | .hmin gd r d b c => Sys2Proof.Machine.execHmin gd r d b c s
  | .hmax gd r d b c => Sys2Proof.Machine.execHmax gd r d b c s
  | .hcmp gd r d b c => Sys2Proof.Machine.execHcmp gd r d b c s
  | .hacs gd d b c k => Sys2Proof.Machine.execHacs gd d b c k s
  | .hpack gd d b c => Sys2Proof.Machine.execHpack gd d b c s
  | .hunpk gd d c b => Sys2Proof.Machine.execHunpk gd d c b s
  | .pxin gd d b => Sys2Proof.Machine.execPxin gd d b s
  | .pxinS gd d b => Sys2Proof.Machine.execPxinS gd d b s
  | .j gd lit => Sys2Proof.Machine.execJ gd lit s
  | .jx gd b => Sys2Proof.Machine.execJx gd b s
  | .bc gd b lit => Sys2Proof.Machine.execBc gd b lit s
  | .bcase gd b tneg tpos => Sys2Proof.Machine.execBcase gd b tneg tpos s
  | .call gd lit => Sys2Proof.Machine.execCall gd lit s
  | .callx gd b => Sys2Proof.Machine.execCallx gd b s
  | .ret gd => Sys2Proof.Machine.execRet gd s
  | .loop gd d lit => Sys2Proof.Machine.execLoop gd d lit s
  | .yield gd => Sys2Proof.Machine.execYield gd s
  | .exit gd => Sys2Proof.Machine.execExit gd s
  | .brk gd => Sys2Proof.Machine.execBrk gd s
  | .fadd gd sh d b c => Sys2Proof.Machine.execFadd gd sh d b c s
  | .fsub gd sh d b c => Sys2Proof.Machine.execFsub gd sh d b c s
  | .fmul gd sh d b c => Sys2Proof.Machine.execFmul gd sh d b c s
  | .ffma gd sh d b c => Sys2Proof.Machine.execFfma gd sh d b c s
  | .ffmaE gd sh d b c e => Sys2Proof.Machine.execFfmaE gd sh d b c e s
  | .fmin gd sh d b c => Sys2Proof.Machine.execFmin gd sh d b c s
  | .fmax gd sh d b c => Sys2Proof.Machine.execFmax gd sh d b c s
  | .fcmp gd d b c => Sys2Proof.Machine.execFcmp gd d b c s
  | .fcmpQ gd d b c e => Sys2Proof.Machine.execFcmpQ gd d b c e s
  | .fabs gd sh d b => Sys2Proof.Machine.execFabs gd sh d b s
  | .fabsNeg gd sh d b => Sys2Proof.Machine.execFabsNeg gd sh d b s
  | .fabsNabs gd sh d b => Sys2Proof.Machine.execFabsNabs gd sh d b s
  | .frcp gd sh d b => Sys2Proof.Machine.execFrcp gd sh d b s
  | .frsq gd sh d b => Sys2Proof.Machine.execFrsq gd sh d b s
  | .fexp3 gd sh d b => Sys2Proof.Machine.execFexp3 gd sh d b s
  | .flog3 gd sh d b => Sys2Proof.Machine.execFlog3 gd sh d b s
  | .fscl gd sh d b lit => Sys2Proof.Machine.execFscl gd sh d b lit s
  | .fsclReg gd sh d b e => Sys2Proof.Machine.execFsclReg gd sh d b e s
  | .fclass gd sh d b => Sys2Proof.Machine.execFclass gd sh d b s
  | .fcvt gd sh tryte d b dst src scale => Sys2Proof.Machine.execFcvt gd sh tryte d b dst src scale s
  | .arow gd rs d q c e => Sys2Proof.Machine.execArow gd rs d q c e s
  | .arowClr gd rs d q c e => Sys2Proof.Machine.execArowClr gd rs d q c e s
  | .drain gd rs d q c e => Sys2Proof.Machine.execDrain gd rs d q c e s
  | .drainF gd rs d q c e => Sys2Proof.Machine.execDrainF gd rs d q c e s
  | .mbs gd rs q a b e => Sys2Proof.Machine.execMbs gd rs q a b e s
  | .mspa gd rs q a b e => Sys2Proof.Machine.execMspa gd rs q a b e s
  | .mshaW3 gd rs q a b => Sys2Proof.Machine.execMshaW3 gd rs q a b s
  | .mshaW6 gd rs q a b e => Sys2Proof.Machine.execMshaW6 gd rs q a b e s
  | .mmaf gd rs q a b => Sys2Proof.Machine.execMmaf gd rs q a b s
  | .mma9 gd rs q a b => Sys2Proof.Machine.execMma9 gd rs q a b s
  | .tzero gd rs m c => Sys2Proof.Machine.execTzero gd rs m c s
  | .tzeroQ gd rs q c => Sys2Proof.Machine.execTzeroQ gd rs q c s
  | .tst gd rs m a c => Sys2Proof.Machine.execTst gd rs m a c s
  | .tld gd rs m a c => Sys2Proof.Machine.execTld gd rs m a c s
  | .tldX gd rs m a c => Sys2Proof.Machine.execTldX gd rs m a c s
  | .tget gd d m => Sys2Proof.Machine.execTget gd d m s
  | .tset gd m b => Sys2Proof.Machine.execTset gd m b s
  | .perm gd d b c m cd => Sys2Proof.Machine.execPerm gd d b c m cd s
  | .shuf gd d b c m cd => Sys2Proof.Machine.execShuf gd d b c m cd s
  | .bcast gd d b m cd => Sys2Proof.Machine.execBcast gd d b m cd s
  | .vote gd d b m cd => Sys2Proof.Machine.execVote gd d b m cd s
  | .ballot gd d b m cd => Sys2Proof.Machine.execBallot gd d b m cd s
  | .red gd sh op d b m cd => Sys2Proof.Machine.execRed gd sh op d b m cd s
  | .scan gd sh op d b m cd => Sys2Proof.Machine.execScan gd sh op d b m cd s
  | .zip gd sh d b m cd k => Sys2Proof.Machine.execZip gd sh d b m cd k s
  | .unzip gd sh d b m cd k => Sys2Proof.Machine.execUnzip gd sh d b m cd k s
  | .gbar gd m cd => Sys2Proof.Machine.execGbar gd m cd s
  | .tbar gd b => Sys2Proof.Machine.execTbar gd b s
  | .crossLaneCompletion bolt team grp addr => Sys2Proof.Machine.execCrossLaneCompletion bolt team grp addr s
  | .barrierCompletion t bar => Sys2Proof.Machine.execBarrierCompletion t bar s
  | .probe gd rs d b => Sys2Proof.Machine.execProbe gd rs d b s
  | .cpri gd b p => Sys2Proof.Machine.execCpri gd b p s
  | .cdrop gd rs b c => Sys2Proof.Machine.execCdrop gd rs b c s
  | .cdropCode gd rs b c => Sys2Proof.Machine.execCdropCode gd rs b c s
  | .cflush gd rs b c => Sys2Proof.Machine.execCflush gd rs b c s
  | .cflushMem gd rs b c => Sys2Proof.Machine.execCflushMem gd rs b c s
  | .cfence gd => Sys2Proof.Machine.execCfence gd s
  | .rel gd => Sys2Proof.Machine.execRel gd s
  | .acq gd => Sys2Proof.Machine.execAcq gd s
  | .fence gd => Sys2Proof.Machine.execFence gd s
  | .ld9 gd h rs d b off => Sys2Proof.Machine.execLd9 gd h rs d b off s
  | .ld27 gd h rs d b off => Sys2Proof.Machine.execLd27 gd h rs d b off s
  | .ldh gd h rs d b off => Sys2Proof.Machine.execLdh gd h rs d b off s
  | .lda gd h rs d b off => Sys2Proof.Machine.execLda gd h rs d b off s
  | .st9 gd h rs d b off => Sys2Proof.Machine.execSt9 gd h rs d b off s
  | .st27 gd h rs d b off => Sys2Proof.Machine.execSt27 gd h rs d b off s
  | .sth gd h rs d b off => Sys2Proof.Machine.execSth gd h rs d b off s
  | .sta gd h rs d b off => Sys2Proof.Machine.execSta gd h rs d b off s
  | .lds9 gd rs d b off => Sys2Proof.Machine.execLds9 gd rs d b off s
  | .lds27 gd rs d b off => Sys2Proof.Machine.execLds27 gd rs d b off s
  | .sts9 gd rs d b off => Sys2Proof.Machine.execSts9 gd rs d b off s
  | .sts27 gd rs d b off => Sys2Proof.Machine.execSts27 gd rs d b off s
  | .pf gd h b off => Sys2Proof.Machine.execPf gd h b off s
  | .xadd gd o rs d b c => Sys2Proof.Machine.execXadd gd o rs d b c s
  | .xmin gd o rs d b c => Sys2Proof.Machine.execXmin gd o rs d b c s
  | .xmax gd o rs d b c => Sys2Proof.Machine.execXmax gd o rs d b c s
  | .xswp gd o rs d b c => Sys2Proof.Machine.execXswp gd o rs d b c s
  | .xcas gd o rs d b c e => Sys2Proof.Machine.execXcas gd o rs d b c e s
  | .xsum gd o rs d b c => Sys2Proof.Machine.execXsum gd o rs d b c s
  | .longLatencyCompletion id op => Sys2Proof.Machine.execLongLatencyCompletion id op s
  | .sectorFill home sector noise => Sys2Proof.Machine.execSectorFill home sector noise s
  | .reduce gd b => Sys2Proof.Machine.execReduce gd b s
  | .mcast gd b => Sys2Proof.Machine.execMcast gd b s
  | .launch gd d b => Sys2Proof.Machine.execLaunch gd d b s
  | .qdone gd b => Sys2Proof.Machine.execQdone gd b s
  | .take gd d b c => Sys2Proof.Machine.execTake gd d b c s
  | .append gd d b c => Sys2Proof.Machine.execAppend gd d b c s
  | .kyld gd => Sys2Proof.Machine.execKyld gd s
  | .kret gd => Sys2Proof.Machine.execKret gd s
  | .kwait gd w arg => Sys2Proof.Machine.execKwait gd w arg s
  | .kwaitR gd w b => Sys2Proof.Machine.execKwaitR gd w b s
  | .kwake gd d b c => Sys2Proof.Machine.execKwake gd d b c s
  | .sweep gd d b => Sys2Proof.Machine.execSweep gd d b s
  | .blockRead core => Sys2Proof.Machine.execBlockRead core s
  | .heddleWrite core block => Sys2Proof.Machine.execHeddleWrite core block s
  | .engage gd d b eng => Sys2Proof.Machine.execEngage gd d b eng s
  | .epoll gd d b => Sys2Proof.Machine.execEpoll gd d b s
  | .sarm gd p c => Sys2Proof.Machine.execSarm gd p c s
  | .sadd gd p n => Sys2Proof.Machine.execSadd gd p n s
  | .saddReg gd p e => Sys2Proof.Machine.execSaddReg gd p e s
  | .sget gd d p => Sys2Proof.Machine.execSget gd d p s
  | .swait gd d p c => Sys2Proof.Machine.execSwait gd d p c s
  | .rlock gd d l c => Sys2Proof.Machine.execRlock gd d l c s
  | .rlockRd gd d l c => Sys2Proof.Machine.execRlockRd gd d l c s
  | .runlock gd d b => Sys2Proof.Machine.execRunlock gd d b s
  | .runlockTorn gd d l => Sys2Proof.Machine.execRunlockTorn gd d l s
  | .board gd d b p => Sys2Proof.Machine.execBoard gd d b p s
  | .boardTile gd d b p => Sys2Proof.Machine.execBoardTile gd d b p s
  | .unboard gd d b => Sys2Proof.Machine.execUnboard gd d b s
  | .beamst gd d b => Sys2Proof.Machine.execBeamst gd d b s
  | .beamstLap gd d => Sys2Proof.Machine.execBeamstLap gd d s
  | .trap gd n => Sys2Proof.Machine.execTrap gd n s
  | .rett gd => Sys2Proof.Machine.execRett gd s
  | .halt gd b => Sys2Proof.Machine.execHalt gd b s
  | .pmode gd m => Sys2Proof.Machine.execPmode gd m s
  | .spool gd d p c => Sys2Proof.Machine.execSpool gd d p c s
  | .clauseFetch id => Sys2Proof.Machine.execClauseFetch id s
  | .gangFormation core ids => Sys2Proof.Machine.execGangFormation core ids s
  | .completionCounterAdd id => Sys2Proof.Machine.execCompletionCounterAdd id s
  | .teamEnd t => Sys2Proof.Machine.execTeamEnd t s
  | .teamCommit t => Sys2Proof.Machine.execTeamCommit t s
  | .chainEntryIssue t seq => Sys2Proof.Machine.execChainEntryIssue t seq s
  | .copy t seq off => Sys2Proof.Machine.execCopy t seq off s
  | .conv t seq off => Sys2Proof.Machine.execConv t seq off s
  | .decomp t seq off => Sys2Proof.Machine.execDecomp t seq off s
  | .fill t seq off => Sys2Proof.Machine.execFill t seq off s
  | .chainLoop t seq => Sys2Proof.Machine.execChainLoop t seq s
  | .cond t seq => Sys2Proof.Machine.execCond t seq s
  | .signal t seq => Sys2Proof.Machine.execSignal t seq s
  | .stop t seq => Sys2Proof.Machine.execStop t seq s
  | .entryPartWritten t seq off => Sys2Proof.Machine.execEntryPartWritten t seq off s
  | .entryCompletion t seq off => Sys2Proof.Machine.execEntryCompletion t seq off s
  | .nvmeCommandCompletion t seq off cmd answer => Sys2Proof.Machine.execNvmeCommandCompletion t seq off cmd answer s
  | .qflush n => Sys2Proof.Machine.execQflush n s
  | .lrec port high => Sys2Proof.Machine.execLrec port high s
  | .headroomEvaluation energy => Sys2Proof.Machine.execHeadroomEvaluation energy s
  | .fctl die v => Sys2Proof.Machine.execFctl die v s
  | .preemptRequeue core => Sys2Proof.Machine.execPreemptRequeue core s
  | .preemptHold core => Sys2Proof.Machine.execPreemptHold core s
  | .bresume bolt => Sys2Proof.Machine.execBresume bolt s
  | .softError correctable site => Sys2Proof.Machine.execSoftError correctable site s
  | .tinval n => Sys2Proof.Machine.execTinval n s
  | .hraise n => Sys2Proof.Machine.execHraise n s
  | .hostLowWordRead port w => Sys2Proof.Machine.execHostLowWordRead port w s
  | .hostLowWordWrite port w bytes => Sys2Proof.Machine.execHostLowWordWrite port w bytes s
  | .hostHighWordWrite port w bytes => Sys2Proof.Machine.execHostHighWordWrite port w bytes s
  | .registerWrite w v => Sys2Proof.Machine.execRegisterWrite w v s
  | .bar2Read k n => Sys2Proof.Machine.execBar2Read k n s
  | .bar2Write at_ bytes => Sys2Proof.Machine.execBar2Write at_ bytes s
  | .bar4Access at_ bytes n => Sys2Proof.Machine.execBar4Access at_ bytes n s
  | .beamnext v => Sys2Proof.Machine.execBeamnext v s
  | .beamctlStep minstep fixstep => Sys2Proof.Machine.execBeamctlStep minstep fixstep s
  | .beatArrival die pair found => Sys2Proof.Machine.execBeatArrival die pair found s
  | .beamLinkFailure link => Sys2Proof.Machine.execBeamLinkFailure link s
  | .flitReceive link body crc => Sys2Proof.Machine.execFlitReceive link body crc s
  | .peerSectorReceive dev win sector mask sent => Sys2Proof.Machine.execPeerSectorReceive dev win sector mask sent s
  | .selfTestResult w trit ok => Sys2Proof.Machine.execSelfTestResult w trit ok s
  | .unitFence w trit => Sys2Proof.Machine.execUnitFence w trit s
  | .readinessFence w trit => Sys2Proof.Machine.execReadinessFence w trit s
  | .linkFence link => Sys2Proof.Machine.execLinkFence link s
  | .fwgo v => Sys2Proof.Machine.execFwgo v s
  | .attgo v => Sys2Proof.Machine.execAttgo v s
  | .undefinedOpcode gd => Sys2Proof.Machine.execUndefinedOpcode gd s
  | .peerReadTransaction dev sector => Sys2Proof.Machine.execPeerReadTransaction dev sector s
  | .peerDeviceFailure dev => Sys2Proof.Machine.execPeerDeviceFailure dev s
  | .engineReset t seq off => Sys2Proof.Machine.execEngineReset t seq off s
  | .collectiveProceed => Sys2Proof.Machine.execCollectiveProceed s
  | .appendAnswer => Sys2Proof.Machine.execAppendAnswer s
  | .waveStart => Sys2Proof.Machine.execWaveStart s
  | .sweepCompletion => Sys2Proof.Machine.execSweepCompletion s
  | .engineCauseArrival => Sys2Proof.Machine.execEngineCauseArrival s
  | .admission => Sys2Proof.Machine.execAdmission s
  | .priorityPromotion => Sys2Proof.Machine.execPriorityPromotion s
  | .governedStep => Sys2Proof.Machine.execGovernedStep s
  | .frequencyStep => Sys2Proof.Machine.execFrequencyStep s
  | .relockEnd => Sys2Proof.Machine.execRelockEnd s
  | .spoolByWaiting => Sys2Proof.Machine.execSpoolByWaiting s
  | .spoolContextWritten => Sys2Proof.Machine.execSpoolContextWritten s
  | .forwardedRaise => Sys2Proof.Machine.execForwardedRaise s
  | .scrub => Sys2Proof.Machine.execScrub s
  | .beamProgramCheck => Sys2Proof.Machine.execBeamProgramCheck s
  | .beamEnableRun => Sys2Proof.Machine.execBeamEnableRun s
  | .beamEnableIdle => Sys2Proof.Machine.execBeamEnableIdle s
  | .beamEnableStop => Sys2Proof.Machine.execBeamEnableStop s
  | .lapMark => Sys2Proof.Machine.execLapMark s
  | .beamStop => Sys2Proof.Machine.execBeamStop s
  | .coldStart => Sys2Proof.Machine.execColdStart s
  | .firmwareVerified => Sys2Proof.Machine.execFirmwareVerified s
  | .attestationDone => Sys2Proof.Machine.execAttestationDone s
  | .translationInvalidationDone => Sys2Proof.Machine.execTranslationInvalidationDone s

end Sys2Proof.Machine
end

