-- ==== Sys2Proof/Machine/Schedule.lean ====
section
/-!
DEFINITION. What a step does around an instruction: time passes, the launch unit takes notice, and one thing
goes next: a step that a control-window write has started, one that comes from outside, an instruction of the gang
whose turn it is, or a step of a unit inside (R65, R173 to R176, R480).
-/

namespace Sys2Proof.Machine

/-! ### Time and the steps that fall due (R205, R436 to R440) -/

/-- Whether some record has reached a higher priority than it holds (R199). -/
def State.promotes (s : State) : Bool := s.bolts.any fun b : Bolt => decide (b.prio < s.prioOf b)

/-- The energy that each die has used in the last 100 ticks (R205). -/
def State.energies (s : State) : List Nat := (List.range 27).map (Config.measured s.tick)

/-- The step that is due at this moment, before any other and before time passes: a relock that is over, the evaluation of a
multiple of 100 ticks, the frequency step that it calls for, the start of one that is requested, and a priority that a record
has reached (R199, R205, R437, R438). DEDUCED, unsafe (log 88). -/
def State.dueStep (s : State) : Option Instr :=
  if s.dies.any Die.relocked then some .relockEnd
  else if s.evalDue then some (.headroomEvaluation s.energies)
  else if s.dies.any fun d => d.governs.isSome then some .governedStep
  else if s.dies.any fun d => d.request.isSome && !d.relock then some .frequencyStep
  else if s.promotes then some .priorityPromotion
  else none

/-- The units of time until the next multiple of 100 ticks, or the end of a relock where that comes first. -/
def State.untilDue (s : State) : Nat :=
  ((s.dies.filter Die.relock).map Die.left).foldl min ((100 - (s.reftime % 100).toNat) * Config.tickUnits - s.fine)

/-- The units of time that pass as the step ends: none while a step is due, and none beyond the moment at which the next one
falls due (R205, R438). DESIGN CHOICE, safe (log 7). -/
def State.passing (s : State) : Nat := if s.dueStep.isSome then 0 else min (Config.elapsed s.tick) s.untilDue

/-- Since when a thread has been ready, being resident (`live`): it counts from the end of the step that brought it to its
boundary, or in which the flags that its clause waits for came to be clear where that is later (R173, R176). -/
def Thread.stamp (now : Nat) (live : Bool) (t : Thread) : Thread :=
  let t := { t with clearSince := t.clears now }
  match t.run with
  | .boundary _ => { t with readySince := if live then some (t.readySince.getD now) else none }
  | .ready wait =>
    { t with readySince := if live = false ∨ (wait = true ∧ t.flagsClear = false) then none
                           else some (max (t.readySince.getD now) (if wait then t.waitClear else 0)) }
  | _ => t

/-- Time passes: REFTIME, the clocks of the dies, the counted waits and the ages of threads (R176, R206, R436, R440). -/
def State.elapse (s : State) : State :=
  let n := s.passing
  let ticks := (s.fine + n) / Config.tickUnits
  { s with
    tick := s.tick + 1
    reftime := wrap 54 (s.reftime + ticks)
    fine := (s.fine + n) % Config.tickUnits
    threads := s.threads.map fun t : Thread => t.stamp s.tick (s.teamLive t.team)
    dies := s.dies.map (Die.pass n) }.accumulate ticks

/-- One of the writes and raises on their way to allocations that are no more may return (R323).
DESIGN CHOICE, unsafe (log 89). -/
def State.returned (s : State) : State :=
  match s.returns.filter fun x => x.layer.isNone with
  | [] => s
  | x :: xs =>
    match (x :: xs)[Config.choose s.tick % (xs.length + 2)]? with
    | some y => s.dropReturn y
    | none => s

/-- The end of a step: resumed teams register what they can, participants of other devices join collectives, the launch unit
takes notice of what has happened, and time passes (R198, R208, R390, R455). Who goes first next is left to the device.
DESIGN CHOICE, unsafe (log 3). -/
def State.finish (s : State) : State :=
  { s.rejoinAll.takeJoins.notice.returned.elapse.freePstat with turn := Config.insideFirst s.tick }

/-! ### Steps of the units inside that may take place now -/

/-- Steps of one thread. -/
def State.threadEvents (s : State) (t : Thread) : List Instr :=
  (t.ops.map fun o => Instr.longLatencyCompletion t.id o.num) ++
    (if s.teamLive t.team && t.refetches then [Instr.clauseFetch t.id] else []) ++
    if s.teamLive t.team then
      match t.run with
      | .boundary _ => [.clauseFetch t.id]
      | .exiting _ => if t.clause.isEmpty then [] else [.completionCounterAdd t.id]
      | .arrived a =>
        if s.crossLaneReady t.team t.grp a.at_ then [.crossLaneCompletion t.team.bolt t.team.team t.grp a.at_] else []
      | .barrier b => if s.barrierReady t.team b.toNat then [.barrierCompletion t.team b.toNat] else []
      | _ => []
    else []

/-- The step that an entry in flight takes next; a storage entry waits for its commands (R333). -/
def State.flightEvent (s : State) (team : TeamId) (c : Chain) (f : Flight) : List Instr :=
  let seq := c.seq
  if f.computed then
    if (s.ripePart team c f).isSome then [.entryPartWritten team seq f.off]
    else if f.done then [.entryCompletion team seq f.off]
    else []
  else
    match f.work.kind with
    | .copy => [.copy team seq f.off]
    | .conv => [.conv team seq f.off]
    | .decomp => [.decomp team seq f.off]
    | .fill => [.fill team seq f.off]

/-- The step that a chain takes at its current entry (R326). -/
def State.chainEvent (s : State) (m : Team) (c : Chain) : List Instr :=
  if s.chainLive m c = false then []
  else
    let k := s.nextKind m.id c
    if k = 1 then (if (s.issueEntry m c).isSome then [.chainEntryIssue m.id c.seq] else [])
    else if k = 5 then [.chainLoop m.id c.seq]
    else if c.flight ≠ [] then []
    else if k = 6 then [.cond m.id c.seq]
    else if k = 7 then [.signal m.id c.seq]
    else [.stop m.id c.seq]

/-- Steps of one team. -/
def State.teamEvents (s : State) (m : Team) : List Instr :=
  (m.chains.flatMap fun c => s.chainEvent m c ++ c.flight.flatMap (s.flightEvent m.id c)) ++
    (if s.commitReady m.id then [Instr.teamCommit m.id] else []) ++
    (if s.teamDone m then [Instr.teamEnd m.id] else [])

/-- Steps of one core: a gang, and the shuttle. -/
def State.coreEvents (s : State) (core : Nat) : List Instr :=
  (match s.nextGang core with
    | [] => []
    | ids => [Instr.gangFormation core ids]) ++
    match s.activeSweep core with
    | none => []
    | some (_, w) =>
      (if w.mayRead then [Instr.blockRead core] else []) ++
        (w.open_.filter w.blockDone).map fun b => Instr.heddleWrite core b

/-- Steps of the beam; a tap whose die's clock runs again takes what it held back (R438). -/
def State.beamEvents (s : State) : List Instr :=
  (((s.beam.buffered.map TapBeat.tap).eraseDups.filter fun t => (s.heldBeat t).isSome).map fun t =>
    Instr.beatArrival (t / 9) (t % 9) ⟨true, true⟩) ++
  if s.beamServes = false then []
  else
  (if s.beam.next ≠ 0 ∧ s.beam.nxst = 0 then [Instr.beamProgramCheck] else []) ++
    (if s.lapOver = true ∧ (s.beam.lap.isSome = true ∨ (s.beam.enable = 1 ∧ (s.beam.prog ≠ 0 ∨ s.beam.nxst = 1))) then
      [Instr.lapMark] else []) ++
    ((if s.beam.lap.isSome then s.tapOrder else []).filter s.beatMayReach).map fun t =>
      Instr.beatArrival (t / 9) (t % 9) ⟨true, true⟩

/-- The sectors whose fill, or the prefetches that wait for it, may be completed: no die of theirs relocks
(R262, R306, R438). -/
def State.fillsDue (s : State) : List (Nat × Nat) :=
  (((s.slices.filter SliceSector.pending).map fun e => (e.home, e.sector)) ++
    s.prefetches.map fun x => (x.home, x.sector)).eraseDups.filter fun k =>
      !(s.dieAt (k.1 / 27)).relock &&
        !(s.prefetches.any fun x => x.names k.1 k.2 && (s.dieAt (dieOfCore x.core)).relock)

/-- Whether a raise on its way to a team's scratchpad may be applied: no core of the team stands still (R425, R438). -/
def State.raiseMayCome (s : State) (id : TeamId) : Bool := !((s.team? id).any fun m => m.state == .resident && s.standsStill m.core)

/-- Steps of the units of the package. -/
def State.unitEvents (s : State) : List Instr :=
  List.flatten [
    if s.appends ≠ [] ∧ s.compactionReady = true then [Instr.appendAnswer] else [],
    if s.collNext.isSome then [Instr.collectiveProceed] else [],
    if (s.someSweep Sweep.mayStart).isSome then [Instr.waveStart] else [],
    if (s.someSweep Sweep.complete).isSome then [Instr.sweepCompletion] else [],
    if (s.engineCauses.head?.bind fun x => s.team? x.1).any (fun m => !(s.standsStill m.core)) || (s.engineCauses.head?.any
      fun x => (s.team? x.1).isNone) then [Instr.engineCauseArrival] else [],
    if s.transit.head?.any fun x => s.raiseMayCome x.1 then [Instr.forwardedRaise] else [],
    if s.nextAdmission.isSome then [Instr.admission] else [],
    if s.toSpool.isSome then [Instr.spoolByWaiting] else [],
    if s.contextReady.isSome then [Instr.spoolContextWritten] else [],
    if s.tinvPending ≠ [] then [Instr.translationInvalidationDone] else [],
    if s.fwPending then [Instr.firmwareVerified] else [],
    if s.window.attst = 0 then [Instr.attestationDone] else [],
    s.fillsDue.map fun k => Instr.sectorFill k.1 k.2 []]

/-- Every step of a unit inside that may take place now; on a die that relocks there is none (R438).
DESIGN CHOICE, unsafe (log 1). DESIGN CHOICE, safe (log 60). -/
def State.innerEvents (s : State) : List Instr :=
  List.flatten [
    (s.threads.filter fun t : Thread => !(s.standsStill t.core)).flatMap s.threadEvents,
    (((s.threads.map Thread.core).eraseDups).filter fun c => !(s.standsStill c)).flatMap s.coreEvents,
    (s.teams.filter fun m : Team => !(s.standsStill m.core)).flatMap s.teamEvents,
    s.unitEvents,
    s.beamEvents]

/-- One of the steps of the units inside: which goes first is left to the device. DESIGN CHOICE, unsafe (log 1). -/
def State.inner (s : State) : Option Instr :=
  match s.innerEvents with
  | [] => none
  | [i] => some i
  | l => l[Config.choose s.tick % l.length]?

/-! ### The gang whose turn it is (R65, R68, R70, R174, R287, R409) -/

/-- What goes next. -/
inductive Next where
  /-- an instruction or an undefined opcode of the gang whose turn it is -/
  | issue (i : Instr)
  /-- a step of the table that is no instruction of a program -/
  | event (i : Instr)
  /-- the gang's turn passes without an instruction, with the machine as it then stands -/
  | pass (s : State)
  /-- nothing can go on inside -/
  | idle
  deriving DecidableEq, Repr

/-- The threads of the gang whose turn it is. -/
def State.gangThreads (s : State) : List Thread :=
  (s.members.filterMap s.thread?).filter fun t => t.run == .ganged

/-- The cause of words that are no instruction, whose fields give a subcode: the instruction that its fields would
otherwise make may raise a lower one, for a register or a barrier that it names by value, or a register that it may not write
(R49, R70, R109, R110, R214). -/
def State.refusal (s : State) (t : Thread) (sub : Nat) : Cause :=
  let bad := fun sub : Int => t.illegalAt (s.ownsOne t) sub
  let i := (Raw.ofWords t.words).bind fun r => (Op.ofCode r.opc).bind fun o => (r.build o).toOption
  let named := fun b : Nat => if (t.named (t.readG b)).isNone then ⟨1, 3, 0⟩ else bad sub
  let written := fun sp : Special => bad (if mayset t.status.system sp then (sub : Int) else 4)
  match i with
  | some (.movx _ _ b) => named b
  | some (.movy _ d _) => named d
  | some (.sets _ sp _) | some (.setsA _ sp _) => written sp
  | some (.tbar _ b) => if t.readG b < 0 ∨ (s.barCount t.id.bolt : Int) ≤ t.readG b then ⟨1, 3, 0⟩ else bad sub
  | _ => bad sub

/-- A thread whose words are no instruction takes illegal instruction, with the lower subcode where it names a register
that it does not own (R49, R70). DEDUCED, unsafe (log 51). -/
def State.refuse (s : State) (gd : Guard) (uses : List RegUse) (sub : Nat) (t : Thread) : Thread :=
  if t.guardHolds gd = false ∨ t.nopOnce = true then t.advance
  else t.fault (if s.owns t uses then s.refusal t sub else t.illegalAt (s.ownsOne t) 3)

/-- A thread leaves its gang and waits to be picked at its slot. -/
def Thread.leaveGang (t : Thread) (now : Nat) : Thread := { t with run := .ready false, readySince := some now }

/-- Issue of the gang whose turn it is: a cause that is due goes first; threads whose team's commit still has atomics to
perform wait for them; an operation that must complete makes the gang wait while others go on; then the end of a quantum, then the instruction at the slot (R68, R174).
DEDUCED, unsafe (log 51). -/
def State.gangStep (s : State) : Next :=
  match s.gangThreads with
  | [] => .pass { s with gangs := s.gangs.tail }
  | t :: ts =>
    let l := t :: ts
    if s.standsStill t.core then .pass s
    else if l.any Thread.takesAtSlot then
      .pass ((l.filter Thread.takesAtSlot).foldl (fun s t => s.mapThread t.id fun t => t.takePending t.slot) s).settle
    else if l.any s.heldByCommit then
      .pass ((l.filter s.heldByCommit).foldl (fun s t => s.mapThread t.id fun t => t.leaveGang s.tick) s)
    else if l.any fun t => t.blocker.isSome then .pass s
    else if l.any Thread.quantumEnds then
      .pass ((l.filter Thread.quantumEnds).foldl (fun s t => s.mapThread t.id fun t => t.endQuantum) s)
    else
      match decode t.words with
      | .ok i => .issue i
      | .error (.undefinedOpcode gd) => .issue (.undefinedOpcode gd)
      | .error (.illegal gd uses sub) => .pass (s.runThreads (s.refuse gd uses sub))
      | .error .notAnInstruction => .pass (s.runThreads (s.refuse Guard.always [] 2))

/-- The members of a gang that issue now, at each slot at which some stand: a thread that holds in an instruction stands
before those that have passed it. -/
def State.slotGroups (s : State) (g : List ThreadId) : List (List ThreadId) :=
  let ts := (g.filterMap s.thread?).filter fun t => t.run == .ganged
  ((ts.map Thread.slot).eraseDups).map fun k => (ts.filter fun t => t.slot == k).map Thread.id

/-- The gang whose turn it is, any of those that stand, and its members whose turn it is: they go to the front, and the
other members of the gang stand aside for the step (R173, R177). DESIGN CHOICE, unsafe (log 3). -/
def State.pickGang (s : State) : State :=
  match s.gangs with
  | [] => s
  | g :: gs =>
    let k := if gs.isEmpty then 0 else Config.choose s.tick % (gs.length + 1)
    let g := (g :: gs).getD k g
    let rest := (g :: gs).eraseIdx k
    match s.slotGroups g with
    | [] => { s with gangs := [] :: rest }
    | p :: ps =>
      let j := if ps.isEmpty then 0 else Config.choose s.tick / (gs.length + 1) % (ps.length + 1)
      { s with gangs := (p :: ps).getD j p :: rest, aside := ((p :: ps).eraseIdx j).flatten }

/-- Whether a step is an instruction of a program: such a step takes place only as a gang issues it. -/
def isProgram (i : Instr) : Bool :=
  i.toRaw.isSome ||
    match i with
    | .undefinedOpcode _ => true
    | _ => false

/-- A gang's turn. -/
def State.gangNext (s : State) : Next × State :=
  if s.gangs.isEmpty then (.idle, s) else (s.pickGang.gangStep, s.pickGang)

/-- A gang first or the units inside first, as the turn is. DESIGN CHOICE, unsafe (log 3). -/
def State.insideNext (s : State) : Next × State :=
  if s.turn then
    match s.inner with
    | some i => (.event i, s)
    | none => s.gangNext
  else if s.gangs.isEmpty then
    match s.inner with
    | some i => (.event i, s)
    | none => (.idle, s)
  else s.gangNext

/-- What goes next, and the machine with that step taken from its list: a step that is due, one that a control-window write
has started, what comes from outside when it comes, then what the device does by itself. Once the firmware has been refused
nothing goes on until a cold start (R476).
DESIGN CHOICE, unsafe (log 1). DESIGN CHOICE, unsafe (log 2). DEDUCED, safe (log 63). DEDUCED, unsafe (log 88). -/
def State.next (s : State) : Next × State :=
  if s.fwReady = .neg then
    match s.agenda with
    | [] => (.idle, s)
    | .coldStart :: rest => (.event .coldStart, { s with agenda := rest })
    | _ :: rest => (.idle, { s with agenda := rest })
  else
    match s.dueStep, s.started, s.agenda with
    | some i, _, _ => (.event i, s)
    | none, i :: rest, _ => (.event i, { s with started := rest })
    | none, [], i :: rest => if Config.arrives s.tick then (.event i, { s with agenda := rest }) else s.insideNext
    | none, [], [] => s.insideNext

/-! ### The end of a step -/

/-- The members of the gang that has had its turn that are still in it stand in one gang again, in increasing LANEID: it
holds its clause until the clause ends for all (R173). -/
def State.regang (s : State) (old : List ThreadId) : State :=
  let still := (s.perLane (((old ++ s.aside).filterMap s.thread?).filter fun t => t.run == .ganged)).map Thread.id
  { s with
    aside := []
    gangs := (s.gangs.filter fun g : List ThreadId => !(g.any old.contains)) ++ if still.isEmpty then [] else [still] }

/-- The machine after the gang's turn. -/
def State.afterIssue (old : List ThreadId) (s : State) : State := (s.regang old).trimForced.finish

/-- The machine after any other step. -/
def State.afterEvent (s : State) : State := s.trimForced.finish

/-! ### An instruction laid where the next step issues it -/

/-- The record of a bolt of one team of one thread, with every resource a core grants. -/
def bootRecord : Record :=
  { entry := 0, param := 0, spoola := 0, teams := 1, threads := 1, regs := 243, width := -1, groups := 1, tiles := 9,
    accs := 3, bars := 9, det := false, idem := false, scratch := 2187, queue := 0, prio := 0, eclass := 0, spoolt := 0,
    preds := [] }

def bootBolt : Bolt :=
  { id := 0, record := bootRecord, qroot := 0, plan := ⟨0, 0, 0, 0, 0, 0, none⟩, prio := 0, enq := 0, eligible := none,
    nextTeam := 1, queued := false, outcome := 0, ended := 0, again := [], relaunched := [] }

/-- A clause header of one instruction that waits for no flag and raises none (R61). -/
def bootHeader : Word := -(p3 25) - p3 10 - p3 7 + p3 4

/-- A thread in a gang, with one instruction's words as its clause. DESIGN CHOICE, safe (log 4). -/
def bootThread (ws : List Word) : Thread :=
  { startThread bootBolt 0 0 0 0 with clause := bootHeader :: ws, run := .ganged }

/-- The machine with a thread whose next instruction has the given words. DESIGN CHOICE, safe (log 4). -/
def State.place (s : State) (ws : List Word) : State :=
  { s with
    turn := false
    evals := s.reftime / 100
    stalled := false
    ready := List.replicate 72 (maxTrits 27) ++ [13]
    started := []
    agenda := []
    threads := [bootThread ws]
    gangs := [[⟨0, 0⟩]]
    aside := []
    forced := []
    dies := s.dies.map fun d => { d with relock := false, request := none, evalCount := 0 }
    teams := [startTeam bootBolt 0 0 [0] (s.freshTags 0)]
    bolts := [bootBolt] }

end Sys2Proof.Machine
end

