-- ==== Sys2Proof/Machine/Step.lean ====
section
/-!
DEFINITION. One step of the machine, and the machine with an instruction laid where the next step issues it.
-/

namespace Sys2Proof.Machine

/-- The machine after an outcome, none where an access of it waits for a die whose clock stands still or for a unit that is not
in service: nothing of it takes effect then (R438, R473). -/
def settledBy (fin : State → State) (o : Host.Outcome State Fault Refusal) : Option (Host.Outcome State Fault Refusal) :=
  match o with
  | .next t => if t.stalled then none else some (.next (fin t))
  | .fault r => some (.fault r)
  | .refused r => some (.refused r)

/-- What goes next takes place. An instruction of a program takes place only as a gang issues it. -/
def attempt (x : Next × State) : Option (Host.Outcome State Fault Refusal) :=
  match x with
  | (.idle, s) => some (.next s.afterEvent)
  | (.pass t, s) => settledBy (State.afterIssue s.members) (.next t)
  | (.issue i, s) => settledBy (State.afterIssue s.members) (exec i s)
  | (.event i, s) => if isProgram i then some (.next s.afterEvent) else settledBy State.afterEvent (exec i s)

/-- One step: one thing goes next (`State.next`), and time passes. What must wait stays in its place, and something else that
goes on inside takes its turn, if it need not wait too (R438, R473). -/
def step (s : State) : Host.Outcome State Fault Refusal :=
  match attempt s.next with
  | some o => o
  | none =>
    match attempt s.insideNext with
    | some o => o
    | none => .next s.afterEvent

/-- The machine in which the next step issues the instruction of a numeral's words: its words stand in the clause that a
thread of a gang has fetched. DESIGN CHOICE, safe (log 4). -/
def State.withFetchWord (s : State) (nbits w : Nat) : State :=
  s.place ((wordsOfBits (w % 2 ^ nbits)).getD [])

end Sys2Proof.Machine
end

