-- ==== Sys2Proof/WellFormed.lean ====
section
/-!
DEFINITION. Well-formed instructions: those whose operands the fields of an encoding can hold (R51 to R60) and
whose literals the descriptions admit. Whether a named register is allocated to the thread is no property of the
instruction: the machine checks it (R53). An event has no encoding, and every event is well formed.
-/

namespace Sys2Proof

/-- Every index stands in a register field of five trits (R51, R53). -/
def fieldsOk (l : List Nat) : Bool := l.all fun i => decide (i ≤ 242)

/-- A guard names one of c0 to c8 (R33, R51). -/
def Guard.wf (gd : Guard) : Bool := decide (gd.reg ≤ 8)

/-- A condition register that MODIF names (R54). -/
def condOk (i : Nat) : Bool := decide (i ≤ 8)

/-- The shapes of real instructions (R55). -/
def realShape (sh : Shape) : Bool := sh != .halves

/-- A literal of an instruction of three words at most (R57). -/
def litOk (l : Int) : Bool := fits 27 l

/-- The operands of every instruction lie within its encoding. -/
def Instr.wf (i : Instr) : Bool :=
  match i with
  | .nop gd | .ret gd | .yield gd | .exit gd | .brk gd | .cfence gd | .rel gd | .acq gd | .fence gd | .kyld gd
  | .kret gd | .rett gd => gd.wf
  | .add gd _ d b c | .adds gd _ d b c | .sub gd _ d b c | .subs gd _ d b c | .mul gd _ d b c | .mulh gd _ d b c
  | .div gd _ d b c | .mod gd _ d b c | .min gd _ d b c | .max gd _ d b c | .clamp gd _ d b c
  | .shtReg gd _ d b c | .rotReg gd _ d b c | .trnReg gd _ d b c => gd.wf && fieldsOk [d, b, c]
  | .addi gd sh d b l => gd.wf && fieldsOk [d, b] && fits sh.width l
  | .neg gd _ d b | .abs gd _ d b | .sgn gd _ d b | .lead gd _ d b | .cnt gd _ d b => gd.wf && fieldsOk [d, b]
  | .sht gd _ d b l | .rot gd _ d b l | .trn gd _ d b l => gd.wf && fieldsOk [d, b] && litOk l
  | .nrw9 gd d b | .sat9 gd d b | .cset gd d b | .mov gd d b | .movcG gd d b | .movcC gd d b | .movx gd d b
  | .movy gd d b | .amov gd d b | .amovLo gd d b | .amovHi gd d b | .pxin gd d b | .pxinS gd d b | .tget gd d b
  | .tset gd d b | .launch gd d b | .sweep gd d b | .epoll gd d b | .runlock gd d b | .unboard gd d b
  | .beamst gd d b => gd.wf && fieldsOk [d, b]
  | .tmin gd d b c | .tmax gd d b c | .tsum gd d b c | .tmul gd d b c | .cons gd d b c | .cmp gd d b c
  | .cand gd d b c | .cor gd d b c | .aadd gd d b c | .asub gd d b c | .amovPair gd d b c | .hpack gd d b c
  | .hunpk gd d b c | .fcmp gd d b c | .take gd d b c | .append gd d b c | .kwake gd d b c =>
    gd.wf && fieldsOk [d, b, c]
  | .field gd d b hi lo | .deposit gd d b hi lo =>
    gd.wf && fieldsOk [d, b] && decide (lo ≤ hi) && decide (hi ≤ 26)
  | .cmpi gd d b l => gd.wf && fieldsOk [d, b] && litOk l
  | .sel3 gd d m b c e => gd.wf && fieldsOk [d, b, c, e] && condOk m
  | .movi gd d l | .loop gd d l => gd.wf && fieldsOk [d] && litOk l
  | .movs gd d _ | .movsA gd d _ => gd.wf && fieldsOk [d]
  | .sets gd _ b | .setsA gd _ b => gd.wf && fieldsOk [b]
  | .alea gd d b e k => gd.wf && fieldsOk [d, b, e] && decide (k ≤ 26)
  | .hadd gd _ d b c | .hsub gd _ d b c | .hmin gd _ d b c | .hmax gd _ d b c | .hcmp gd _ d b c =>
    gd.wf && fieldsOk [d, b, c]
  | .hacs gd d b c k | .fcmpQ gd d b c k => gd.wf && fieldsOk [d, b, c, k]
  | .j gd l | .call gd l => gd.wf && litOk l
  | .jx gd b | .callx gd b | .tbar gd b | .reduce gd b | .mcast gd b | .qdone gd b | .halt gd b =>
    gd.wf && fieldsOk [b]
  | .bc gd b l => gd.wf && fieldsOk [b] && litOk l
  | .bcase gd b tn tp => gd.wf && fieldsOk [b] && fits 13 tn && fits 14 tp
  | .fadd gd sh d b c | .fsub gd sh d b c | .fmul gd sh d b c | .ffma gd sh d b c | .fmin gd sh d b c
  | .fmax gd sh d b c | .fsclReg gd sh d b c => gd.wf && realShape sh && fieldsOk [d, b, c]
  | .ffmaE gd sh d b c e => gd.wf && realShape sh && fieldsOk [d, b, c, e]
  | .fabs gd sh d b | .fabsNeg gd sh d b | .fabsNabs gd sh d b | .frcp gd sh d b | .frsq gd sh d b
  | .fexp3 gd sh d b | .flog3 gd sh d b | .fclass gd sh d b => gd.wf && realShape sh && fieldsOk [d, b]
  | .fscl gd sh d b l => gd.wf && realShape sh && fieldsOk [d, b] && litOk l
  | .fcvt gd sh t d b dst src sc =>
    gd.wf && fieldsOk [d, b] && decide (t ≤ 2) && dst.cvtCode != 0 && src.cvtCode != 0 &&
      fcvtPlaced sh t dst src && fits 9 sc
  | .arow gd _ d q c e | .arowClr gd _ d q c e | .drain gd _ d q c e | .drainF gd _ d q c e | .mbs gd _ d q c e
  | .mspa gd _ d q c e | .mshaW6 gd _ d q c e => gd.wf && fieldsOk [d, q, c, e]
  | .mshaW3 gd _ q a b | .mmaf gd _ q a b | .mma9 gd _ q a b | .tst gd _ q a b | .tld gd _ q a b
  | .tldX gd _ q a b => gd.wf && fieldsOk [q, a, b]
  | .tzero gd _ m c | .tzeroQ gd _ m c => gd.wf && fieldsOk [m, c]
  | .perm gd d b c m cd | .shuf gd d b c m cd => gd.wf && fieldsOk [d, b, c, m] && condOk cd
  | .bcast gd d b m cd | .vote gd d b m cd | .ballot gd d b m cd => gd.wf && fieldsOk [d, b, m] && condOk cd
  | .red gd _ _ d b m cd | .scan gd _ _ d b m cd => gd.wf && fieldsOk [d, b, m, cd]
  | .zip gd _ d b m cd k | .unzip gd _ d b m cd k =>
    gd.wf && fieldsOk [d, b, m] && condOk cd && decide (2 ≤ k) && decide (k ≤ 4)
  | .gbar gd m cd => gd.wf && fieldsOk [m] && condOk cd
  | .probe gd _ d b => gd.wf && fieldsOk [d, b]
  | .cpri gd b _ => gd.wf && fieldsOk [b]
  | .cdrop gd _ b c | .cdropCode gd _ b c | .cflush gd _ b c | .cflushMem gd _ b c => gd.wf && fieldsOk [b, c]
  | .ld9 gd _ _ d b off | .ld27 gd _ _ d b off | .ldh gd _ _ d b off | .lda gd _ _ d b off | .st9 gd _ _ d b off
  | .st27 gd _ _ d b off | .sth gd _ _ d b off | .sta gd _ _ d b off => gd.wf && fieldsOk [d, b] && litOk off
  | .lds9 gd _ d b off | .lds27 gd _ d b off | .sts9 gd _ d b off | .sts27 gd _ d b off =>
    gd.wf && fieldsOk [d, b] && litOk off
  | .pf gd _ b off => gd.wf && fieldsOk [b] && litOk off
  | .xadd gd _ _ d b c | .xmin gd _ _ d b c | .xmax gd _ _ d b c | .xswp gd _ _ d b c | .xsum gd _ _ d b c =>
    gd.wf && fieldsOk [d, b, c]
  | .xcas gd _ _ d b c e => gd.wf && fieldsOk [d, b, c, e]
  | .kwait gd w arg => gd.wf && decide (1 ≤ w) && decide (w ≤ 3) && fits 9 arg
  | .kwaitR gd w b => gd.wf && fieldsOk [b] && decide (1 ≤ w) && decide (w ≤ 3)
  | .engage gd d b eng => gd.wf && fieldsOk [d, b] && decide (-1 ≤ eng) && decide (eng ≤ 1)
  | .sarm gd s c => gd.wf && fieldsOk [s.idx, c]
  | .sadd gd s n => gd.wf && fieldsOk [s.idx] && decide (1 ≤ n) && litOk n
  | .saddReg gd s e => gd.wf && fieldsOk [s.idx, e]
  | .sget gd d s => gd.wf && fieldsOk [d, s.idx]
  | .swait gd d s c | .spool gd d s c | .rlock gd d s c | .rlockRd gd d s c => gd.wf && fieldsOk [d, s.idx, c]
  | .runlockTorn gd d l => gd.wf && fieldsOk [d, l.idx]
  | .board gd d b s | .boardTile gd d b s => gd.wf && fieldsOk [d, b, s.idx]
  | .beamstLap gd d => gd.wf && fieldsOk [d]
  | .trap gd n => gd.wf && fits 9 n
  | .pmode gd m => gd.wf && (m == 0 || m == 1)
  | .undefinedOpcode gd => gd.wf
  | .crossLaneCompletion .. | .barrierCompletion .. | .longLatencyCompletion .. | .sectorFill .. | .blockRead ..
  | .heddleWrite .. | .clauseFetch .. | .gangFormation .. | .completionCounterAdd .. | .teamEnd .. | .teamCommit ..
  | .chainEntryIssue .. | .copy .. | .conv .. | .decomp .. | .fill .. | .chainLoop .. | .cond .. | .signal ..
  | .stop .. | .entryPartWritten .. | .entryCompletion .. | .nvmeCommandCompletion .. | .qflush .. | .lrec ..
  | .headroomEvaluation .. | .fctl .. | .preemptRequeue .. | .preemptHold .. | .bresume .. | .softError ..
  | .tinval .. | .hraise .. | .hostLowWordRead .. | .hostLowWordWrite .. | .hostHighWordWrite ..
  | .registerWrite .. | .bar2Read .. | .bar2Write .. | .bar4Access .. | .beamnext .. | .beamctlStep ..
  | .beatArrival .. | .beamLinkFailure .. | .flitReceive .. | .peerSectorReceive .. | .selfTestResult ..
  | .unitFence .. | .readinessFence .. | .linkFence .. | .fwgo .. | .attgo .. | .peerReadTransaction ..
  | .peerDeviceFailure .. | .engineReset .. | .collectiveProceed | .appendAnswer | .waveStart | .sweepCompletion
  | .engineCauseArrival | .admission | .priorityPromotion | .governedStep | .frequencyStep | .relockEnd
  | .spoolByWaiting | .spoolContextWritten | .forwardedRaise | .scrub | .beamProgramCheck | .beamEnableRun
  | .beamEnableIdle | .beamEnableStop | .lapMark | .beamStop | .coldStart | .firmwareVerified | .attestationDone
  | .translationInvalidationDone => true

/-- Whether the words of a program can encode the instruction: the events, and the undefined opcode that words stand
for, are none of a program's (R50, R68). -/
def Instr.inProgram (i : Instr) : Bool :=
  match i with
  | .nop .. | .add .. | .adds .. | .addi .. | .sub .. | .subs .. | .neg .. | .abs .. | .mul .. | .mulh .. | .div ..
  | .mod .. | .min .. | .max .. | .clamp .. | .sht .. | .shtReg .. | .rot .. | .rotReg .. | .trn .. | .trnReg ..
  | .nrw9 .. | .sat9 .. | .sgn .. | .lead .. | .cnt .. | .tmin .. | .tmax .. | .tsum .. | .tmul .. | .cons ..
  | .field .. | .deposit .. | .cmp .. | .cmpi .. | .cset .. | .cand .. | .cor .. | .sel3 .. | .mov .. | .movi ..
  | .movcG .. | .movcC .. | .movs .. | .movsA .. | .sets .. | .setsA .. | .movx .. | .movy .. | .aadd .. | .asub ..
  | .amov .. | .amovPair .. | .amovLo .. | .amovHi .. | .alea .. | .hadd .. | .hsub .. | .hmin .. | .hmax ..
  | .hcmp .. | .hacs .. | .hpack .. | .hunpk .. | .pxin .. | .pxinS .. | .j .. | .jx .. | .bc .. | .bcase ..
  | .call .. | .callx .. | .ret .. | .loop .. | .yield .. | .exit .. | .brk .. | .fadd .. | .fsub .. | .fmul ..
  | .ffma .. | .ffmaE .. | .fmin .. | .fmax .. | .fcmp .. | .fcmpQ .. | .fabs .. | .fabsNeg .. | .fabsNabs ..
  | .frcp .. | .frsq .. | .fexp3 .. | .flog3 .. | .fscl .. | .fsclReg .. | .fclass .. | .fcvt .. | .arow ..
  | .arowClr .. | .drain .. | .drainF .. | .mbs .. | .mspa .. | .mshaW3 .. | .mshaW6 .. | .mmaf .. | .mma9 ..
  | .tzero .. | .tzeroQ .. | .tst .. | .tld .. | .tldX .. | .tget .. | .tset .. | .perm .. | .shuf .. | .bcast ..
  | .vote .. | .ballot .. | .red .. | .scan .. | .zip .. | .unzip .. | .gbar .. | .tbar .. | .probe .. | .cpri ..
  | .cdrop .. | .cdropCode .. | .cflush .. | .cflushMem .. | .cfence .. | .rel .. | .acq .. | .fence .. | .ld9 ..
  | .ld27 .. | .ldh .. | .lda .. | .st9 .. | .st27 .. | .sth .. | .sta .. | .lds9 .. | .lds27 .. | .sts9 ..
  | .sts27 .. | .pf .. | .xadd .. | .xmin .. | .xmax .. | .xswp .. | .xcas .. | .xsum .. | .reduce .. | .mcast ..
  | .launch .. | .qdone .. | .take .. | .append .. | .kyld .. | .kret .. | .kwait .. | .kwaitR .. | .kwake ..
  | .sweep .. | .engage .. | .epoll .. | .sarm .. | .sadd .. | .saddReg .. | .sget .. | .swait .. | .rlock ..
  | .rlockRd .. | .runlock .. | .runlockTorn .. | .board .. | .boardTile .. | .unboard .. | .beamst ..
  | .beamstLap .. | .trap .. | .rett .. | .halt .. | .pmode .. | .spool .. => true
  | .undefinedOpcode .. | .crossLaneCompletion .. | .barrierCompletion .. | .longLatencyCompletion ..
  | .sectorFill .. | .blockRead .. | .heddleWrite .. | .clauseFetch .. | .gangFormation ..
  | .completionCounterAdd .. | .teamEnd .. | .teamCommit .. | .chainEntryIssue .. | .copy .. | .conv .. | .decomp ..
  | .fill .. | .chainLoop .. | .cond .. | .signal .. | .stop .. | .entryPartWritten .. | .entryCompletion ..
  | .nvmeCommandCompletion .. | .qflush .. | .lrec .. | .headroomEvaluation .. | .fctl .. | .preemptRequeue ..
  | .preemptHold .. | .bresume .. | .softError .. | .tinval .. | .hraise .. | .hostLowWordRead ..
  | .hostLowWordWrite .. | .hostHighWordWrite .. | .registerWrite .. | .bar2Read .. | .bar2Write .. | .bar4Access ..
  | .beamnext .. | .beamctlStep .. | .beatArrival .. | .beamLinkFailure .. | .flitReceive .. | .peerSectorReceive ..
  | .selfTestResult .. | .unitFence .. | .readinessFence .. | .linkFence .. | .fwgo .. | .attgo ..
  | .peerReadTransaction .. | .peerDeviceFailure .. | .engineReset .. | .collectiveProceed | .appendAnswer
  | .waveStart | .sweepCompletion | .engineCauseArrival | .admission | .priorityPromotion | .governedStep
  | .frequencyStep | .relockEnd | .spoolByWaiting | .spoolContextWritten | .forwardedRaise | .scrub
  | .beamProgramCheck | .beamEnableRun | .beamEnableIdle | .beamEnableStop | .lapMark | .beamStop | .coldStart
  | .firmwareVerified | .attestationDone | .translationInvalidationDone => false

end Sys2Proof
end

