-- ==== Sys2Proof/Safety.lean ====
section
/-!
DEFINITION. The terms in which claims about the machine are stated: where an instruction may execute, what a
thread keeps, where it goes on, what a core sees of memory, and the invariant of the machine.
-/

namespace Sys2Proof.Machine

/-! ### Where an instruction executes -/

/-- No thread holds a failure that the end of its bolt has yet to settle (R48). -/
def State.Calm (s : State) : Prop := ∀ t ∈ s.threads, t.failed = none

/-- The register files of a thread have their sizes: .regs general registers, 27 address registers, 9 condition
registers and 12 completion flags (R30, R31, R66). -/
structure Thread.Sized (t : Thread) : Prop where
  g : t.g.length = t.nregs
  a : t.a.length = 27
  c : t.c.length = 9
  flags : t.cflags.length = 12

/-- The thread passes an instruction without executing it: its guard does not hold, or RETT resumes it past a BRK
or a TRAP (R33, R128, R413). -/
def Thread.Passes (t : Thread) (gd : Guard) : Prop := t.guardHolds gd = false ∨ t.nopOnce = true

/-- The gang whose turn it is may execute an instruction with a guard on these registers: every executing thread
owns them. -/
def State.Ready (s : State) (gd : Guard) (uses : List RegUse) : Prop :=
  s.Calm ∧ ∀ t ∈ s.threads, t.Sized ∧ (t.id ∈ s.members → ¬ t.Passes gd → uses.all t.owns = true)

/-- Every executing thread of the gang satisfies P. -/
def State.Executing (s : State) (gd : Guard) (P : Thread → Prop) : Prop :=
  ∀ t ∈ s.threads, t.id ∈ s.members → ¬ t.Passes gd → P t

/-- The gang whose turn it is is one thread, t, which executes an instruction with this guard on these registers. -/
structure State.Alone (s : State) (gd : Guard) (uses : List RegUse) (t : Thread) : Prop where
  calm : s.Calm
  gang : s.members = [t.id]
  here : s.thread? t.id = some t
  only : ∀ u ∈ s.threads, u.id = t.id → u = t
  sized : t.Sized
  executes : ¬ t.Passes gd
  owns : s.owns t uses = true

/-- The gang whose turn it is is these threads of one group, in the order of their lanes, each of which executes an
instruction with this guard on these registers. -/
structure State.Together (s : State) (gd : Guard) (uses : List RegUse) (ts : List Thread) : Prop where
  calm : s.Calm
  gang : s.members = ts.map Thread.id
  one : (s.threads.map Thread.id).Nodup
  distinct : ts.Nodup
  each : ∀ t ∈ ts, t ∈ s.threads ∧ t.Sized ∧ ¬ t.Passes gd ∧ s.owns t uses = true
  group : ∀ t ∈ ts, ∀ u ∈ ts, (t.team, t.grp) = (u.team, u.grp)

/-! ### What a thread keeps and where it goes on -/

/-- Everything of a thread that a program can see but its place, its real flags and the registers d is kept: the
other registers, the return stack, STATUS, the trap registers, the completion flags and operations in flight, the
pending causes and the buffered stores. -/
structure Thread.Frame (d : List RegUse) (t t' : Thread) : Prop where
  who : (t'.id, t'.team, t'.grp, t'.member, t'.lane, t'.core, t'.nregs) =
    (t.id, t.team, t.grp, t.member, t.lane, t.core, t.nregs)
  g : ∀ i, gUse i ∉ d → t'.readG i = t.readG i
  a : ∀ i, aUse i ∉ d → t'.readA i = t.readA i
  c : ∀ i, cUse i ∉ d → t'.readC i = t.readC i
  calls : (t'.rstack, t'.rsdepth) = (t.rstack, t.rsdepth)
  status : t'.status = t.status
  trap : (t'.splimit, t'.trapvec, t'.trappc, t'.trapinfo, t'.trapaddr) =
    (t.splimit, t.trapvec, t.trappc, t.trapinfo, t.trapaddr)
  flight : (t'.cflags, t'.ops, t'.pend, t'.buf) = (t.cflags, t.ops, t.pend, t.buf)
  stays : (t'.element, t'.failed) = (t.element, t.failed)

/-- The frame with the real flags of FLAGS unchanged as well. -/
def Thread.Keeps (d : List RegUse) (t t' : Thread) : Prop := t.Frame d t' ∧ t'.flags = t.flags

/-- The thread stands after the instruction at its slot: at the next slot, or at the word after its clause (R65). -/
def Thread.GoesOn (t t' : Thread) : Prop :=
  if t.slot < t.len then t'.pc = t.pc ∧ t'.slot = t.slot + 1 ∧ t'.clause = t.clause ∧ t'.run = t.run
  else t'.pc = t.fallAddr ∧ t'.run = .boundary .fall

/-- The thread goes on after an instruction at which it had waited: ready at the next slot, or at the boundary after its
clause (R213); one that was spooled while it waited fetches its clause anew, and passes the instruction, which is over, at its slot (R424,
R479). -/
def Thread.Resumes (t t' : Thread) : Prop :=
  if t.clause = [] then t'.pc = t.pc ∧ t'.slot = t.slot ∧ t'.nopOnce = true ∧ t'.run = .boundary .resume
  else if t.slot < t.len then t'.pc = t.pc ∧ t'.slot = t.slot + 1 ∧ t'.clause = t.clause ∧ t'.run = .ready false
  else t'.pc = t.fallAddr ∧ t'.run = .boundary .fall

/-- Control passes by a taken branch to the clause at x (R120). -/
def Thread.GoesTo (x : Int) (t' : Thread) : Prop := t'.pc = x ∧ t'.slot = 1 ∧ t'.run = .boundary .taken

/-- A general register has a value; g0 reads as 0 whatever is written to it (R30). -/
def Thread.GotG (t' : Thread) (d : Nat) (v : Int) : Prop := t'.readG d = if d = 0 then 0 else v

/-- A condition register has a value; c0 reads as 0 whatever is written to it (R30). -/
def Thread.GotC (t' : Thread) (d : Nat) (v : Trit) : Prop := t'.readC d = if d = 0 then .zero else v

/-- The thread has taken a cause at its slot and goes to its handler: TRAPPC is the header of its clause, TRAPINFO
holds slot, subcode and cause, TRAPADDR the address, and INTRAP is set (R47, R48). -/
def Thread.Trapped (c : Cause) (t t' : Thread) : Prop :=
  t'.trappc = t.pc ∧ t'.trapinfo = trapInfo t.slot c ∧ t'.trapaddr = c.addr ∧ t'.status.intrap = true ∧
    t'.pc = t.trapvec ∧ t'.run = .boundary .trapvec ∧ t'.g = t.g ∧ t'.a = t.a ∧ t'.c = t.c ∧ t'.flags = t.flags

/-! ### How an instruction completes -/

/-- The instruction completes on every lane: the machine changes in the threads of the gang alone, those that pass it
stand after it, and each that executes it is in the relation Post to the thread it becomes. -/
def Completes (i : Instr) (gd : Guard) (Post : Thread → Thread → Prop) (s : State) : Prop :=
  ∃ F : Thread → Thread, exec i s = .next { s with threads := s.threads.map F } ∧
    ∀ t ∈ s.threads, (t.id ∉ s.members → F t = t) ∧
      (t.id ∈ s.members → t.Passes gd → F t = t.advance) ∧ (t.id ∈ s.members → ¬ t.Passes gd → Post t (F t))

/-- The thread writes a general register with a value that P admits, keeps all else and goes on. -/
def PutG (d : Nat) (P : Thread → Int → Prop) (t t' : Thread) : Prop :=
  ∃ v, P t v ∧ t'.GotG d v ∧ t.Keeps [gUse d] t' ∧ t.GoesOn t'

/-- v is a word of elements: it fits a register, and trit 26 of a word of halves is 0 (R15, R91). -/
def IsWord (sh : Shape) (v : Int) : Prop := fits 27 v = true ∧ (sh = .halves → trits v 26 26 = 0)

/-- The word v has, element by element, the values that f gives. -/
def HasElems (sh : Shape) (v : Int) (f : Nat → Int) : Prop := (∀ k < elemCount sh, elem sh v k = f k) ∧ IsWord sh v

/-- gd gets, element by element, a function of the elements of gb. -/
def Unary (sh : Shape) (d b : Nat) (f : Int → Int) : Thread → Thread → Prop :=
  PutG d fun t v => HasElems sh v fun k => f (elem sh (t.readG b) k)

/-- gd gets, element by element, a function of the elements of gb and gc. -/
def Binary (sh : Shape) (d b c : Nat) (f : Int → Int → Int) : Thread → Thread → Prop :=
  PutG d fun t v => HasElems sh v fun k => f (elem sh (t.readG b) k) (elem sh (t.readG c) k)

/-- gd gets one word that f gives of the thread as it stood. -/
def Word1 (d : Nat) (f : Thread → Int) : Thread → Thread → Prop := PutG d fun t v => v = f t

/-- The thread writes an address register, keeps all else and goes on. -/
def PutA (d : Nat) (f : Thread → Int) (t t' : Thread) : Prop :=
  t'.readA d = f t ∧ t.Keeps [aUse d] t' ∧ t.GoesOn t'

/-- The thread writes a condition register, keeps all else and goes on. -/
def PutC (d : Nat) (f : Thread → Trit) (t t' : Thread) : Prop :=
  t'.GotC d (f t) ∧ t.Keeps [cUse d] t' ∧ t.GoesOn t'

/-- The thread writes to gd the elements that a real operation gives, raises the flags of every element, keeps all else
and goes on. -/
def PutReal (sh : Shape) (d : Nat) (f : Thread → Nat → Int × RealFlags) (t t' : Thread) : Prop :=
  t'.GotG d (packElems sh ((List.range (elemCount sh)).map fun k => (f t k).1)) ∧
    t'.flags = (List.range (elemCount sh)).foldl (fun fl k => fl.or (f t k).2) t.flags ∧
    t.Frame [gUse d] t' ∧ t.GoesOn t'

/-- The value of a finite word of a real format. -/
def RFmt.value (f : RFmt) (w : Int) : ℚ := f.fracOf w * 3 ^ (f.expOf w - f.frac)

/-- A finite word of a real format: no infinity and no NaN (R131). -/
def RFmt.Finite (f : RFmt) (w : Int) : Prop := f.expOf w ≠ f.lim

/-- The result r is the exact value x rounded once: y is the grid value nearest to x, whose exponent has no upper limit, of
two that are equally near the greater in magnitude, since the bound of R136 is strict; a y beyond the largest finite word is the infinity of its sign, any other is written in canonical form; INX says that
the result is not x, UFL that x is besides below the smallest normal, and OFL that y is too large (R132, R135 to R137). -/
def RFmt.RoundsTo (f : RFmt) (x : ℝ) (r : RRes) : Prop :=
  ∃ y : ℝ,
    let onGrid (z : ℝ) := ∃ F e : ℤ, |F| ≤ f.maxF ∧ -f.lim ≤ e ∧ z = F * 3 ^ (e - f.frac)
    let big := (f.maxF : ℝ) * 3 ^ (f.lim - 1 - f.frac) < |y|
    onGrid y ∧ (∀ z, onGrid z → |y - x| < |z - x| ∨ |y - x| = |z - x| ∧ |z| ≤ |y|) ∧
      r.2.inv = false ∧ (r.2.inx = true ↔ y ≠ x ∨ big) ∧ (r.2.ofl = true ↔ big) ∧
      (r.2.ufl = true ↔ y ≠ x ∧ |x| < f.minF * 3 ^ (-f.lim - f.frac)) ∧
      (big → r.1 = f.inf (decide (x < 0))) ∧
      (¬ big → f.Finite r.1 ∧ fits (f.frac + f.exp) r.1 = true ∧ f.unnormal r.1 = false ∧ (f.value r.1 : ℝ) = y)

/-- The machine with one thread changed. -/
def State.becomes (s : State) (t t' : Thread) : State := s.mapThread t.id fun _ => t'

/-- The instruction of a gang of one thread completes: the machine changes in that thread alone. -/
def CompletesAlone (i : Instr) (s : State) (t : Thread) (Post : Thread → Thread → Prop) : Prop :=
  ∃ t', exec i s = .next (s.becomes t t') ∧ Post t t'

/-! ### Tiles and accumulators -/

/-- The thread's team holds tile register k on its core. -/
def State.HasTile (s : State) (t : Thread) (k : Nat) : Prop :=
  ∃ m c, s.team? t.team = some m ∧ m.core? t.core = some c ∧ k < c.tiles.length

/-- The thread's team holds accumulator k on its core. -/
def State.HasAcc (s : State) (t : Thread) (k : Nat) : Prop :=
  ∃ m c, s.team? t.team = some m ∧ m.core? t.core = some c ∧ k < c.accs.length

/-- The machine differs in the tiles and accumulators of the team of t alone. -/
def State.OnlyTiles (s s' : State) (t : Thread) : Prop :=
  { s' with teams := s.teams } = s ∧
    ∀ id, (s'.team? id).map (fun m => { m with tiles := if id = t.team then [] else m.tiles }) =
      (s.team? id).map fun m => { m with tiles := if id = t.team then [] else m.tiles }

/-- The machine differs in one tile register of the core of t alone. -/
def State.OnlyTile (s s' : State) (t : Thread) (k : Nat) : Prop :=
  s.OnlyTiles s' t ∧ (∀ i, i ≠ k → s'.tileAt t i = s.tileAt t i) ∧ ∀ i, s'.accAt t i = s.accAt t i

/-- The machine differs in one accumulator of the core of t alone. -/
def State.OnlyAcc (s s' : State) (t : Thread) (k : Nat) : Prop :=
  s.OnlyTiles s' t ∧ (∀ i, i ≠ k → s'.accAt t i = s.accAt t i) ∧ ∀ i, s'.tileAt t i = s.tileAt t i

/-- The trytes of row r of a tile from its first are those given; all else of the tile is as it was. -/
def TileRowPut (x y : Tile) (r : Nat) (vals : List Int) : Prop :=
  y.shape = x.shape ∧ ∀ i j, j < 81 → y.tryte i j = if i = r ∧ j < vals.length then vals.getD j 0 else x.tryte i j

/-- The first n words of row r of an accumulator are the given function of what they were; all else is as it was. -/
def AccRowPut (x y : Acc) (r n : Nat) (f : Nat → Int → Int) : Prop :=
  ∀ i j, j < 27 → y.word i j = if i = r ∧ j < n then f j (x.word i j) else x.word i j

/-- The threads of the machine other than one are as they were. -/
def SameOthers (id : ThreadId) (s s' : State) : Prop :=
  s'.threads.filter (fun u => u.id != id) = s.threads.filter fun u => u.id != id

/-! ### What an instruction leaves of memory -/

/-- The marks of the sectors that a list of trytes covers whole are cleared: the stores of one issue are one request
(R268, R315). -/
def State.cleanedBy (s : State) (core : Nat) (keys : List (Nat × Int)) : State :=
  (wholeSectors keys).foldl (fun s p => s.cleanSector core p) s

/-- An atomic of a thread on these trytes meets no race: the thread is not deterministic, or no other team of its bolt
holds one of them (R288, R289). -/
def State.MayClaim (s : State) (t : Thread) (cells : List (Nat × Nat × Int)) : Prop :=
  t.status.det = false ∨ ∀ x ∈ cells, s.heldElsewhere t.team x.1 x.2.1 = false

/-! ### What a core sees of memory -/

/-- The tryte of a physical address that a core's load finds: its own valid copy, else the home slice's (R258, R276). -/
def State.sees (s : State) (core home pa : Nat) : Int :=
  match s.l1At core home (pa / 81) with
  | some e => if e.valid.getD (pa % 81) false then e.data.getD (pa % 81) 0 else s.peek home pa
  | none => s.peek home pa

/-- Whether a core holds a valid copy of n trytes of a sector. -/
def State.holdsAll (s : State) (core home pa n : Nat) : Bool :=
  match s.l1At core home (pa / 81) with
  | some e => (List.range n).all fun i => e.valid.getD (pa % 81 + i) false
  | none => false

/-- What a core's load of n trytes of one sector finds: its own copy where that holds all of them, else the trytes as
they stand at the home slice (R258, R276). -/
def State.finds (s : State) (core home pa n : Nat) : List Int :=
  (List.range n).map fun i => if s.holdsAll core home pa n then s.sees core home (pa + i) else s.peek home (pa + i)

/-- The memory and its caches are well formed: HBM in canonical form, no core and no slice with two copies of a sector, every cached
sector with its 81 trytes and its marks, every dirty tryte valid and its word owned (R275), and no word owned by two cores
(R275). -/
structure State.MemorySound (s : State) : Prop where
  hbm : Memory.wf s.hbm = true
  copies : (s.l1.map fun e => (e.core, e.home, e.sector)).Nodup
  homes : (s.slices.map fun e => (e.home, e.sector)).Nodup
  l1 : ∀ e ∈ s.l1, e.data.length = 81 ∧ e.valid.length = 81 ∧ e.dirty.length = 81 ∧ e.owned.length = 27
  slices : ∀ e ∈ s.slices, e.data.length = 81 ∧ e.valid.length = 81
  dirty : ∀ e ∈ s.l1, ∀ k, e.dirty.getD k false = true →
    e.owned.getD (k / 3) false = true ∧ e.valid.getD k false = true
  owner : ∀ e ∈ s.l1, ∀ e' ∈ s.l1, e.home = e'.home → e.sector = e'.sector →
    ∀ w, e.owned.getD w false = true → e'.owned.getD w false = true → e.core = e'.core

/-- A core has performed an acquire: of what its L1 held before, it now holds the words it owns (R277). -/
def State.Acquired (s' s : State) (core : Nat) : Prop :=
  ∀ e' ∈ s'.l1, e'.core = core → ∃ e ∈ s.l1, (e.core, e.home, e.sector, e.data, e.owned) =
      (e'.core, e'.home, e'.sector, e'.data, e'.owned) ∧
    ∀ k, e'.valid.getD k false = true → e.valid.getD k false = true ∧ e.owned.getD (k / 3) false = true

/-- No cache holds a sector for another home slice (R256). -/
def State.OnlyAt (s : State) (home sector : Nat) : Prop :=
  (∀ e ∈ s.l1, e.sector = sector → e.home = home) ∧ ∀ e ∈ s.slices, e.sector = sector → e.home = home

/-- The copies of a tryte agree where nothing is dirty: no other home slice caches its sector, a clean copy in the slice is as
HBM has it, and a clean tryte that a core owns is as the slice or HBM has it. -/
structure State.Agrees (s : State) (home pa : Nat) : Prop where
  one : s.OnlyAt home (pa / 81)
  slice : ∀ e ∈ s.slices, e.sector = pa / 81 → e.dirty = false → e.valid.getD (pa % 81) false = true →
    e.data.getD (pa % 81) 0 = memGet s.hbm pa
  owned : ∀ e ∈ s.l1, e.sector = pa / 81 → e.owned.getD (pa % 81 / 3) false = true →
    e.dirty.getD (pa % 81) false = false → e.data.getD (pa % 81) 0 = ({ s with l1 := [] } : State).peek home pa

/-- What an atomic that meets a race leaves of the trytes that it would write: those that another team of the bolt holds have
their values of before, the others are held by the thread's team (R289). -/
def State.RaceLeft (s s' : State) (t : Thread) (cells : List (Nat × Nat × Int)) : Prop :=
  ∀ x ∈ cells, if s.heldElsewhere t.team x.1 x.2.1 = true then s'.peek x.1 x.2.1 = s.peek x.1 x.2.1
    else (x.1, x.2.1, t.team) ∈ s'.heldTrytes

/-- In deterministic mode an atomic of the thread that would write these trytes, of which another team of the bolt holds the
one at a and none below it, takes race trap, and leaves the trytes as `State.RaceLeft` says (R288, R289). -/
def Races (i : Instr) (s : State) (t : Thread) (cells : List (Nat × Nat × Int)) : Prop :=
  ∀ a, t.status.det = true → s.raceOf t.team cells = some a → t.status.intrap = false → t.trapvec ≠ 0 → s.MemorySound →
    (cells.map fun x => x.2.1).Nodup → ∃ (s' : State) (t' : Thread), exec i s = .next (s'.becomes t t') ∧
      Thread.Trapped ⟨17, 1, a⟩ t t' ∧ s.RaceLeft s' t cells ∧ s'.threads = s.threads

/-- r is the combination of the values xs of width w by an operation of RED and SCAN (R220). -/
def Reduces (op : RedOp) (w : Nat) (xs : List Int) (r : Int) : Prop :=
  match op with
  | .add => r = wrap w xs.sum
  | .adds => r = max (-maxTrits w) (min (maxTrits w) xs.sum)
  | .min => r ∈ xs ∧ ∀ x ∈ xs, r ≤ x
  | .max => r ∈ xs ∧ ∀ x ∈ xs, x ≤ r
  | .tsum => ∀ i < w, trits r i i = wrap 1 (xs.map fun x => trits x i i).sum

/-! ### The invariant -/

/-- What every step keeps: the memory and its caches are well formed, every other memory is in its canonical form, and
the register files of every thread and of the package have their sizes. -/
structure State.Inv (s : State) : Prop where
  memory : s.MemorySound
  staging : byteWfFrom 0 s.staging = true
  scratch : ∀ m ∈ s.teams, Memory.wf m.scratch = true
  tiles : ∀ m ∈ s.teams, ∀ c ∈ m.tiles, (∀ x ∈ c.tiles, Memory.wf x.data = true) ∧
    ∀ a ∈ c.accs, Memory.wf a.data = true
  threads : ∀ t ∈ s.threads, t.Sized
  dies : s.dies.length = 27 ∧ ∀ d ∈ s.dies, d.pstat.length = 18
  package : s.ready.length = 73 ∧ s.ports.length = 2 ∧ s.window.qroot.length = 27

end Sys2Proof.Machine
end

