-- ==== Sys2Proof/Certificates/Slice0/Obligations.lean ====
section
/-!
DEFINITION. The statements for the provers, from the numbered rules of the manual.
-/

open Sys2Proof Sys2Proof.Machine

/-- R65, R129, R438. When the gang whose turn it is may issue and its words decode to i, the step is exec of i on the machine
with that gang picked, after which the gang has had its turn and time passes; an instruction that reaches a die whose clock
stands still has no effect yet. That what is due goes first (an evaluation, a frequency step, a promotion), then a step that a
register write has started, then the gang or a unit as the turn is, is the model's own order (logs 2, 3, 63 and 88), and so
is that nothing goes on once the firmware has been refused (log 40). -/
def Obligations.StepRunsDecoded : Prop :=
  ∀ (s : State) (i : Instr),
    let s2 := s.pickGang
    (s.fwReady ≠ .neg →
      (∀ t ts, s.dueStep = none → s.started = [] → s.agenda = [] ∨ Config.arrives s.tick = false →
        s.turn = false → s2.gangThreads = t :: ts → s2.standsStill t.core = false →
        (∀ u ∈ t :: ts, u.takesAtSlot = false ∧ s2.heldByCommit u = false ∧ u.blocker = none ∧ u.quantumEnds = false) →
        decode t.words = .ok i →
        (∀ s3, exec i s2 = .next s3 →
          step s = .next (if s3.stalled = true then s.afterEvent else s3.afterIssue s2.members)) ∧
        (∀ f, exec i s2 = .fault f → step s = .fault f) ∧ (∀ r, exec i s2 = .refused r → step s = .refused r)) ∧
      (∀ rest s3, s.dueStep = none → s.started = i :: rest → isProgram i = false →
        exec i { s with started := rest } = .next s3 → s3.stalled = false → step s = .next s3.afterEvent) ∧
      (∀ s3, s.dueStep = some i → exec i s = .next s3 → s3.stalled = false → step s = .next s3.afterEvent)) ∧
    (s.fwReady = .neg → s.agenda = [] → step s = .next s.afterEvent)

/-- R364, R418, R437, R445, R446, R472, R473. After reset the invariant holds, every unit is pending, nothing runs, and the
registers that the manual gives a value hold it. That ATTST is 1 and the rate of a die is 9 is the model's choice (log 6):
the manual gives no reset value of either. -/
def Obligations.ResetState : Prop :=
  State.reset.Inv ∧ State.reset.ready = List.replicate 73 0 ∧ State.reset.threads = [] ∧ State.reset.teams = [] ∧
    State.reset.bolts = [] ∧ State.reset.gangs = [] ∧ State.reset.window.ageguard = 2000 ∧
    State.reset.window.attst = 1 ∧ State.reset.window.hbmtop = 388800000000 ∧
    (∀ d ∈ State.reset.dies, d.eallow = 1458 ∧ d.rate = 9 ∧ d.step = 5 ∧ d.fmin = 1 ∧ d.fmax = 9 ∧ d.ffix = 0 ∧
      d.pstat = List.replicate 18 1) ∧
    State.reset.beam.minstep = 1 ∧ State.reset.beam.step = 9 ∧ State.reset.beam.enable = 0 ∧ State.reset.beam.prog = 0

/-- R52 to R60, R180, R221, R413. Words written trit by trit from the encodings of the manual decode to the instructions
they stand for, the words that chapters 10 and 22 print among them. -/
def Obligations.DecodeWords : Prop :=
  let word (l : List Int) : Word := l.foldl (fun x t => 3 * x + t) 0
  let reads (ws : List (List Int)) (i : Instr) := decode (ws.map word) = .ok i
  reads [List.replicate 27 0]
    (.nop ⟨0, .zero⟩) ∧
  reads [[0, 0, -1, 1, 0, 1, 0, 1, 0, 0, 0, 0, 0, 0, 0, 0, 0, 0, 0, 0, 0, 0, 0, 0, 0, 0, 0]]
    (.gbar ⟨0, .zero⟩ 0 0) ∧
  reads [[0, 0, 1, 1, 0, 0, 1, -1, 0, 0, 0, 0, 0, 0, 0, 0, 0, 0, 0, 0, 0, 0, 0, 0, 0, 0, 0]]
    (.rett ⟨0, .zero⟩) ∧
  reads [[1, 0, -1, 1, 0, 1, -1, 0, 0, 0, 0, 0, 0, 0, 1, -1, 0, 0, 0, 0, 1, 0, 0, 0, 0, 1, 0],
    [-1, 0, 0, 0, 0, 0, 1, 0, 0, 0, 0, 0, 0, 0, 0, 0, 0, 0, 0, 0, 0, 0, 0, 0, 0, 0, 0]]
    (.red ⟨0, .zero⟩ .word .max 2 1 0 1) ∧
  reads [[1, 0, -1, 1, 0, 1, -1, 0, 0, 0, 0, 0, 0, 0, 1, 0, 0, 0, 0, 0, 1, 0, 0, 0, 1, -1, 0],
    [-1, 0, 0, 0, 1, 1, 1, 0, 0, 0, 0, 0, 0, 0, 0, 0, 0, 0, 0, 0, 0, 0, 0, 0, 0, 0, 0]]
    (.red ⟨0, .zero⟩ .word .max 3 1 4 2) ∧
  reads [[1, 0, -1, 1, 0, 1, -1, 1, 0, 0, 0, 0, 0, 1, -1, 1, 0, 0, 0, 0, 1, 0, 0, 0, 1, 0, 0],
    [-1, 0, 0, 0, 1, 1, 0, 0, 0, 0, 0, 0, 0, 0, 0, 0, 0, 0, 0, 0, 0, 0, 0, 0, 0, 0, 0]]
    (.scan ⟨0, .zero⟩ .word .add 7 1 4 3) ∧
  reads [[0, 0, 0, 0, 0, 0, 0, 1, 1, 1, -1, 0, 0, 0, 0, 1, 0, 0, 0, 1, -1, 0, 0, 0, 0, -1, -1]]
    (.add ⟨4, .neg⟩ .trytes 1 2 242) ∧
  reads [[0, 0, 0, 0, 0, 1, 0, 1, 0, 0, 0, 1, 1, 1, 1, 1, -1, -1, -1, -1, -1, 0, 0, 0, 1, 0, 1]]
    (.div ⟨0, .zero⟩ .halves 121 122 3) ∧
  reads [[0, 0, 0, 0, 0, 0, 1, 0, 0, 0, 0, 0, 0, 0, 0, 1, 0, 0, 0, 1, -1, 1, 1, 1, 1, 1, 0]]
    (.addi ⟨0, .zero⟩ .word 1 2 121) ∧
  reads [[1, 0, 0, 0, 0, 0, 1, 0, 0, 0, 0, 0, 0, 0, 0, 1, 0, 0, 0, 1, -1, 0, 0, 0, 0, 0, 0],
    [-1, 0, 0, 0, 0, 0, 0, 0, 0, 0, 0, 0, 0, 0, 0, 0, 0, 0, 0, 0, 0, 1, -1, -1, -1, -1, -1]]
    (.addi ⟨0, .zero⟩ .word 1 2 122) ∧
  reads [[1, 1, 0, 1, 1, -1, -1, 0, 0, 0, 0, 0, 0, 1, -1, -1, 0, 0, 0, 0, 0, 0, 0, 0, 0, 0, 0],
    -1 :: List.replicate 26 0,
    -1 :: List.replicate 25 0 ++ [-1]]
    (.movi ⟨0, .zero⟩ 5 (-387420489)) ∧
  reads [[1, 0, 1, 0, 0, 0, 1, -1, 0, 0, 0, 0, 0, 1, -1, 0, 0, 0, 1, -1, 1, 0, 0, 0, 0, 0, 0],
    [-1, 0, 0, 0, 0, 0, 1, -1, 1, 0, 0, 0, 0, 0, 0, 0, 0, 0, 0, 0, 0, 0, 0, 0, 1, 0, 0]]
    (.ld27 ⟨0, .zero⟩ .by .pos 6 7 9) ∧
  reads [[1, 0, 1, 0, 1, -1, 0, 0, 0, 0, 0, 0, 0, 0, 0, 1, 0, 0, 0, 1, -1, 0, 0, 0, 1, 0, 0],
    [-1, 0, 0, 0, 1, 1, 1, 0, -1, 0, 0, 0, 0, 0, 0, 0, 0, 0, 0, 0, 0, 0, 0, 0, 0, 0, 0]]
    (.xcas ⟨0, .zero⟩ .sc .neg 1 2 3 4) ∧
  reads [[0, 0, 1, -1, 0, 0, 0, 1, 0, 0, 0, 0, 0, 0, 0, 1, 0, 0, 0, 1, -1, 0, 0, 0, 1, 0, -1]]
    (.fadd ⟨0, .zero⟩ .trytes 1 2 3) ∧
  reads [[0, 0, -1, 1, 0, -1, 1, 0, 0, 0, 0, 0, 0, 0, 0, 0, 0, 0, 0, 0, 1, 0, 0, 0, 1, -1, 0]]
    (.mma9 ⟨0, .zero⟩ .zero 0 1 2) ∧
  reads [[0, 0, 0, -1, 0, 0, 0, -1, 1, 0, 1, 0, 0, 0, 0, 0, 0, 0, 0, 0, 0, 0, 0, 0, -1, -1, 0]]
    (.j ⟨3, .pos⟩ (-4)) ∧
  reads [[0, 0, 0, -1, 0, 1, -1, 1, 0, 0, 0, 0, 0, 0, 0, 1, 0, 0, 0, 1, -1, 0, 0, 0, 1, 0, 0]]
    (.hpack ⟨0, .zero⟩ 1 2 3) ∧
  reads [[0, 0, 0, -1, 0, 1, 0, -1, 0, 0, 0, 0, 0, 0, 0, 1, 0, 0, 0, 1, 0, 0, 0, 0, 1, -1, 0]]
    (.hunpk ⟨0, .zero⟩ 1 2 3) ∧
  reads [[0, 0, -1, 0, 0, 0, 0, 1, 0, 0, 0, 0, 0, 0, 0, 1, 0, 0, 0, 1, -1, 0, 0, 0, 0, -1, 0]]
    (.engage ⟨0, .zero⟩ 1 2 (-1)) ∧
  reads [[0, 0, 1, 1, 0, 0, 0, 1, 0, 0, 0, 0, 0, 0, 0, 0, 0, 0, 0, 0, 0, 0, 0, 1, -1, -1, 0]]
    (.trap ⟨0, .zero⟩ 5)

/-- R50 to R60, R86. Every well-formed instruction of a program has an encoding of at most three words of 27 trits, and
decoding those words gives the instruction back with every operand. -/
def Obligations.DecodeOfEncode : Prop :=
  ∀ i : Instr, i.inProgram = true → i.wf = true →
    ∃ ws : List Word, encode i = some ws ∧ decode ws = .ok i ∧ 1 ≤ ws.length ∧ ws.length ≤ 3 ∧
      ∀ w ∈ ws, fits 27 w = true

/-- R256, R265, R275. Every step keeps the invariant of the machine: the memories stay in their canonical form, every
cached sector keeps its marks with its dirty trytes valid and owned and no word owned by two cores, and every
register file keeps its size. The canonical form and the sizes are the model's own. -/
def Obligations.StepKeepsInvariant : Prop :=
  ∀ (s s' : State), s.Inv → step s = .next s' → s'.Inv

/-- R33, R92. An instruction of a program that every thread of the gang passes (its guard does not hold, or RETT resumed
the thread past it) changes nothing but the place of those threads. -/
def Obligations.GuardedOffChangesNothing : Prop :=
  ∀ (i : Instr) (r : Raw) (s : State), i.wf = true → i.toRaw = some r → s.Calm → s.members.Nodup →
    (∀ t ∈ s.threads, t.id ∈ s.members → t.Passes r.guard) →
    exec i s = .next { s with threads := s.threads.map fun t => if t.id ∈ s.members then t.advance else t }

/-- R94. The binary integer instructions but division: each element of gd is the exact result of the elements of gb and
gc, narrowed on its own; nothing but gd and the place of the thread changes. -/
def Obligations.BinaryIntegerResults : Prop :=
  ∀ (gd : Guard) (sh : Shape) (d b c : Nat) (s : State), s.Ready gd [gUse d, gUse b, gUse c] →
    Completes (.add gd sh d b c) gd (Binary sh d b c fun x y => wrap sh.width (x + y)) s ∧
    Completes (.adds gd sh d b c) gd (Binary sh d b c fun x y => sat sh.width (x + y)) s ∧
    Completes (.sub gd sh d b c) gd (Binary sh d b c fun x y => wrap sh.width (x - y)) s ∧
    Completes (.subs gd sh d b c) gd (Binary sh d b c fun x y => sat sh.width (x - y)) s ∧
    Completes (.mul gd sh d b c) gd (Binary sh d b c fun x y => wrap sh.width (x * y)) s ∧
    Completes (.mulh gd sh d b c) gd (Binary sh d b c fun x y => trunc sh.width (x * y)) s ∧
    Completes (.min gd sh d b c) gd (Binary sh d b c min) s ∧
    Completes (.max gd sh d b c) gd (Binary sh d b c max) s ∧
    Completes (.clamp gd sh d b c) gd (Binary sh d b c fun x y => max (-|y|) (min x |y|)) s

/-- R26, R27, R91, R94, R96. Division where no divisor of an executing lane is 0: quotient q and remainder r of each
element satisfy x = y·q + r with 2·|r| at most |y|, and a tie keeps the quotient nearer to 0; trit 26 of a word of halves
is 0. With a divisor of 0 in any
element of gc, DIV takes divide by zero with subcode 1 and MOD with subcode 2; no register is written. -/
def Obligations.DivisionResults : Prop :=
  (∀ (gd : Guard) (sh : Shape) (d b c : Nat) (s : State), s.Ready gd [gUse d, gUse b, gUse c] →
    (s.Executing gd fun t => ∀ k < elemCount sh, elem sh (t.readG c) k ≠ 0) →
    Completes (.div gd sh d b c) gd (PutG d fun t v =>
      (∀ k < elemCount sh, let x := elem sh (t.readG b) k; let y := elem sh (t.readG c) k; let q := elem sh v k
        2 * |x - y * q| ≤ |y| ∧ (2 * |x - y * q| = |y| → |y * q| ≤ |x|)) ∧ IsWord sh v) s ∧
    Completes (.mod gd sh d b c) gd (PutG d fun t v =>
      (∀ k < elemCount sh, let x := elem sh (t.readG b) k; let y := elem sh (t.readG c) k; let r := elem sh v k
        y ∣ x - r ∧ 2 * |r| ≤ |y| ∧ (2 * |r| = |y| → |x - r| ≤ |x|)) ∧ IsWord sh v) s) ∧
  (∀ (gd : Guard) (sh : Shape) (d b c : Nat) (s : State), s.Ready gd [gUse d, gUse b, gUse c] →
    (s.Executing gd fun t => t.status.intrap = false ∧ t.trapvec ≠ 0 ∧
      ∃ k < elemCount sh, elem sh (t.readG c) k = 0) →
    Completes (.div gd sh d b c) gd (Thread.Trapped ⟨10, 1, 0⟩) s ∧
    Completes (.mod gd sh d b c) gd (Thread.Trapped ⟨10, 2, 0⟩) s)

/-- R16, R91, R95, R97, R100. The unary integer instructions, ADDI with a literal that the shape admits, and the narrowing
of a word to a tryte; trit 26 of a word of halves is 0. -/
def Obligations.UnaryIntegerResults : Prop :=
  ∀ (gd : Guard) (sh : Shape) (d b : Nat) (lit : Int) (s : State), s.Ready gd [gUse d, gUse b] →
    Completes (.neg gd sh d b) gd (Unary sh d b fun x => -x) s ∧
    Completes (.abs gd sh d b) gd (Unary sh d b fun x => |x|) s ∧
    Completes (.sgn gd sh d b) gd (Unary sh d b Int.sign) s ∧
    Completes (.lead gd sh d b) gd (PutG d fun t v => (∀ k < elemCount sh,
      let x := elem sh (t.readG b) k
      if x = 0 then elem sh v k = -1
      else ∃ i : Nat, elem sh v k = i ∧ i < sh.width ∧ trits x i i ≠ 0 ∧ ∀ j < sh.width, i < j → trits x j j = 0) ∧
        IsWord sh v) s ∧
    Completes (.cnt gd sh d b) gd (Unary sh d b fun x =>
      (((List.range sh.width).filter fun i => trits x i i ≠ 0).length : Int)) s ∧
    (fits sh.width lit = true →
      Completes (.addi gd sh d b lit) gd (Unary sh d b fun x => wrap sh.width (x + lit)) s) ∧
    Completes (.nrw9 gd d b) gd (Word1 d fun t => trits (t.readG b) 8 0) s ∧
    Completes (.sat9 gd d b) gd (Word1 d fun t => max (-9841) (min 9841 (t.readG b))) s

/-- R91, R99. Shifts by a literal and by the elements of a register: SHT wraps to the left and rounds to the right, TRN
rounds to the right and saturates to the left, ROT turns the trits of each element; trit 26 of a word of halves is 0. -/
def Obligations.ShiftResults : Prop :=
  let left (x : Int) (n : Int) := x * 3 ^ n.toNat
  let shl (w : Nat) (x n : Int) := if 0 ≤ n then wrap w (left x n) else trunc (-n).toNat x
  let trn (w : Nat) (x n : Int) := if 0 ≤ n then trunc n.toNat x else sat w (left x (-n))
  ∀ (gd : Guard) (sh : Shape) (d b e : Nat) (lit : Int) (s : State),
    (s.Ready gd [gUse d, gUse b] →
      Completes (.sht gd sh d b lit) gd (Unary sh d b fun x => shl sh.width x lit) s ∧
      Completes (.trn gd sh d b lit) gd (Unary sh d b fun x => trn sh.width x lit) s ∧
      Completes (.rot gd sh d b lit) gd (PutG d fun t v => (∀ k < elemCount sh, ∀ i < sh.width,
        trits (elem sh v k) i i =
          trits (elem sh (t.readG b) k) ((i - lit) % sh.width).toNat ((i - lit) % sh.width).toNat) ∧ IsWord sh v) s) ∧
    (s.Ready gd [gUse d, gUse b, gUse e] →
      Completes (.shtReg gd sh d b e) gd (Binary sh d b e fun x n => shl sh.width x n) s ∧
      Completes (.trnReg gd sh d b e) gd (Binary sh d b e fun x n => trn sh.width x n) s ∧
      Completes (.rotReg gd sh d b e) gd (PutG d fun t v => (∀ k < elemCount sh, ∀ i < sh.width,
        let n := elem sh (t.readG e) k
        trits (elem sh v k) i i =
          trits (elem sh (t.readG b) k) ((i - n) % sh.width).toNat ((i - n) % sh.width).toNat) ∧ IsWord sh v) s)

/-- R101, R102, R104. The tritwise instructions, and FIELD and DEPOSIT with trits hi to lo of the word: each trit of gd
is a function of single trits of the operands. -/
def Obligations.TritwiseAndFieldResults : Prop :=
  let tritwise (d b c : Nat) (f : Int → Int → Int) := PutG d fun t v => fits 27 v = true ∧
    ∀ i < 27, trits v i i = f (trits (t.readG b) i i) (trits (t.readG c) i i)
  ∀ (gd : Guard) (d b c hi lo : Nat) (s : State),
    (s.Ready gd [gUse d, gUse b, gUse c] →
      Completes (.tmin gd d b c) gd (tritwise d b c min) s ∧
      Completes (.tmax gd d b c) gd (tritwise d b c max) s ∧
      Completes (.tmul gd d b c) gd (tritwise d b c fun x y => x * y) s ∧
      Completes (.tsum gd d b c) gd (tritwise d b c fun x y => wrap 1 (x + y)) s ∧
      Completes (.cons gd d b c) gd (tritwise d b c fun x y => if x = y then x else 0) s) ∧
    (s.Ready gd [gUse d, gUse b] → lo ≤ hi → hi ≤ 26 →
      Completes (.field gd d b hi lo) gd (PutG d fun t v => fits (hi + 1 - lo) v = true ∧
        ∀ i ≤ hi - lo, trits v i i = trits (t.readG b) (lo + i) (lo + i)) s ∧
      Completes (.deposit gd d b hi lo) gd (PutG d fun t v => ∀ i < 27, trits v i i =
        if lo ≤ i ∧ i ≤ hi then trits (t.readG b) (i - lo) (i - lo) else trits (t.readG d) i i) s)

/-- R105, R106. Compares set a condition register to the sign of a difference, the condition instructions combine
condition registers, SEL3 selects by one, and the moves copy. -/
def Obligations.CompareAndMoveResults : Prop :=
  ∀ (gd : Guard) (d m b c e : Nat) (lit : Int) (s : State),
    (s.Ready gd [cUse d, gUse b, gUse c] → Completes (.cmp gd d b c) gd (PutC d fun t =>
      if t.readG b < t.readG c then .neg else if t.readG b = t.readG c then .zero else .pos) s) ∧
    (s.Ready gd [cUse d, gUse b] →
      Completes (.cmpi gd d b lit) gd (PutC d fun t =>
        if t.readG b < lit then .neg else if t.readG b = lit then .zero else .pos) s ∧
      Completes (.cset gd d b) gd (PutC d fun t =>
        if t.readG b < 0 then .neg else if t.readG b = 0 then .zero else .pos) s) ∧
    (s.Ready gd [cUse d, cUse b, cUse c] →
      Completes (.cand gd d b c) gd (PutC d fun t =>
        if t.readC b = .neg ∨ t.readC c = .neg then .neg
        else if t.readC b = .zero ∨ t.readC c = .zero then .zero else .pos) s ∧
      Completes (.cor gd d b c) gd (PutC d fun t =>
        if t.readC b = .pos ∨ t.readC c = .pos then .pos
        else if t.readC b = .zero ∨ t.readC c = .zero then .zero else .neg) s) ∧
    (s.Ready gd [gUse d, cUse m, gUse b, gUse c, gUse e] → Completes (.sel3 gd d m b c e) gd (Word1 d fun t =>
      if t.readC m = .neg then t.readG b else if t.readC m = .zero then t.readG c else t.readG e) s) ∧
    (s.Ready gd [gUse d, gUse b] → Completes (.mov gd d b) gd (Word1 d fun t => t.readG b) s) ∧
    (s.Ready gd [gUse d] → Completes (.movi gd d lit) gd (Word1 d fun _ => lit) s) ∧
    (s.Ready gd [gUse d, cUse b] → Completes (.movcG gd d b) gd (Word1 d fun t => (t.readC b).toInt) s) ∧
    (s.Ready gd [cUse d, cUse b] → Completes (.movcC gd d b) gd (PutC d fun t => t.readC b) s)

/-- R110, R111, R112. Moves through a register number held in a register, a number that names no register of the thread
raising illegal instruction with subcode 3, and the arithmetic of address pairs, which wraps to 54 trits. That TRAPADDR of
that cause is 0, the number being held in a register, is the model's choice (log 50). -/
def Obligations.AddressResults : Prop :=
  ∀ (gd : Guard) (d b c k : Nat) (s : State),
    (s.Ready gd [gUse d, gUse b] →
      ((s.Executing gd fun t => 0 ≤ t.readG b ∧ t.readG b < t.nregs) →
        Completes (.movx gd d b) gd (Word1 d fun t => t.readG (t.readG b).toNat) s) ∧
      ((s.Executing gd fun t => 0 ≤ t.readG d ∧ t.readG d < t.nregs) →
        Completes (.movy gd d b) gd (fun t t' => t'.GotG (t.readG d).toNat (t.readG b) ∧
          t.Keeps [gUse (t.readG d).toNat] t' ∧ t.GoesOn t') s) ∧
      ((s.Executing gd fun t => (t.readG b < 0 ∨ t.nregs ≤ t.readG b) ∧ t.status.intrap = false ∧ t.trapvec ≠ 0) →
        Completes (.movx gd d b) gd (Thread.Trapped ⟨1, 3, 0⟩) s) ∧
      ((s.Executing gd fun t => (t.readG d < 0 ∨ t.nregs ≤ t.readG d) ∧ t.status.intrap = false ∧ t.trapvec ≠ 0) →
        Completes (.movy gd d b) gd (Thread.Trapped ⟨1, 3, 0⟩) s)) ∧
    (s.Ready gd [aUse d, aUse b, gUse c] →
      Completes (.aadd gd d b c) gd (PutA d fun t => wrap 54 (t.readA b + t.readG c)) s ∧
      Completes (.asub gd d b c) gd (PutA d fun t => wrap 54 (t.readA b - t.readG c)) s ∧
      (k ≤ 26 → Completes (.alea gd d b c k) gd (PutA d fun t => wrap 54 (t.readA b + t.readG c * 3 ^ k)) s)) ∧
    (s.Ready gd [aUse d, aUse b] → Completes (.amov gd d b) gd (PutA d fun t => t.readA b) s) ∧
    (s.Ready gd [aUse d, gUse b, gUse c] →
      Completes (.amovPair gd d b c) gd (PutA d fun t => t.readG b + 3 ^ 27 * t.readG c) s) ∧
    (s.Ready gd [gUse d, aUse b] →
      Completes (.amovLo gd d b) gd (PutG d fun t v => ∀ i < 27, trits v i i = trits (t.readA b) i i) s ∧
      Completes (.amovHi gd d b) gd (PutG d fun t v => ∀ i, trits v i i = trits (t.readA b) (27 + i) (27 + i)) s)

/-- R35, R36, R37, R38, R39, R40, R47, R48, R109, R417. MOVS reads a special register, into a general register modulo
3^27 and into an address register whole; nothing else changes. The words of the special registers: the places of the
flags, of the fields of STATUS, and of the slot, subcode and cause in TRAPINFO. SETS writes the value of a register
to a special register that the privilege admits: SPLIMIT, TRAPVEC, FLAGS and PROBEFLAG always, STATUS (its INTRAP
and PM), TRAPPC, TRAPINFO and TRAPADDR in system privilege. SETS to a register that the privilege does not let it
write raises illegal instruction with subcode 4, and so does MOVS or SETS of an index that names no special register, whose
registers are allocated; the word that TRAPADDR then names is the model's choice (log 50). -/
def Obligations.SpecialRegisterResults : Prop :=
  (∀ (gd : Guard) (d : Nat) (sp : Special) (s : State),
    (s.Ready gd [gUse d] → Completes (.movs gd d sp) gd (Word1 d fun t => wrap 27 (s.special t sp)) s) ∧
    (s.Ready gd [aUse d] → Completes (.movsA gd d sp) gd (PutA d fun t => s.special t sp) s)) ∧
  (∀ (s : State) (t : Thread),
    (let w := s.special t .flags
     trits w 0 0 = boolTrit t.flags.inv ∧ trits w 1 1 = boolTrit t.flags.ofl ∧ trits w 2 2 = boolTrit t.flags.ufl ∧
        trits w 3 3 = boolTrit t.flags.inx ∧ trits w 26 4 = 0) ∧
    (fits 1 t.status.width = true →
      let w := s.special t .status
      trits w 6 6 = t.status.width ∧ trits w 5 5 = boolTrit t.status.det ∧ trits w 4 4 = boolTrit t.status.intrap ∧
        trits w 3 3 = boolTrit t.status.pm ∧ trits w 2 1 = 0 ∧ trits w 0 0 = (if t.status.system then 1 else -1) ∧
        trits w 26 7 = 0) ∧
    (∀ (slot : Nat) (c : Cause), slot ≤ 9 → fits 9 c.sub = true → fits 9 c.code = true →
      let w := trapInfo slot c
      trits w 21 18 = slot ∧ trits w 17 9 = c.sub ∧ trits w 8 0 = c.code)) ∧
  (∀ (gd : Guard) (b : Nat) (s : State) (t : Thread) (i : Special → Instr) (v : Int),
    (i = (fun sp => .sets gd sp b) ∧ s.Alone gd [gUse b] t ∧ v = t.readG b) ∨
      (i = (fun sp => .setsA gd sp b) ∧ s.Alone gd [aUse b] t ∧ v = t.readA b) →
    exec (i .splimit) s = .next (s.becomes t ({ t with splimit := v } : Thread).advance) ∧
    exec (i .trapvec) s = .next (s.becomes t ({ t with trapvec := v } : Thread).advance) ∧
    exec (i .flags) s = .next (s.becomes t ({ t with flags :=
      ⟨decide (trits v 0 0 = 1), decide (trits v 1 1 = 1), decide (trits v 2 2 = 1), decide (trits v 3 3 = 1)⟩ } : Thread).advance) ∧
    exec (i .probeflag) s = .next ((if trits v 0 0 = -1 then s else
      s.mapTeam t.team fun m => { m with probe := m.probe.set t.grp (decide (trits v 0 0 = 1)) }).becomes t t.advance) ∧
    (t.status.system = true →
      exec (i .status) s = .next (s.becomes t ({ t with status := { t.status with
        intrap := decide (trits v 4 4 = 1), pm := decide (trits v 3 3 = 1) } } : Thread).advance) ∧
      exec (i .trappc) s = .next (s.becomes t ({ t with trappc := v } : Thread).advance) ∧
      exec (i .trapinfo) s = .next (s.becomes t ({ t with trapinfo := trits v 21 0 } : Thread).advance) ∧
      exec (i .trapaddr) s = .next (s.becomes t ({ t with trapaddr := v } : Thread).advance))) ∧
  (∀ (gd : Guard) (b : Nat) (s : State) (t : Thread) (sp : Special),
    t.status.intrap = false → t.trapvec ≠ 0 →
    (sp ∈ [.threadid, .laneid, .groupid, .teamid, .boltid, .rsdepth, .cycles, .reftime] ∨
      t.status.system = false ∧ sp ∈ [.status, .trappc, .trapinfo, .trapaddr]) →
    (s.Alone gd [gUse b] t → CompletesAlone (.sets gd sp b) s t (Thread.Trapped (t.illegal 4))) ∧
    (s.Alone gd [aUse b] t → CompletesAlone (.setsA gd sp b) s t (Thread.Trapped (t.illegal 4)))) ∧
  (∀ (r : Raw) (s : State) (t : Thread), Raw.ofWords t.words = some r →
    Op.ofCode r.opc = some .movs ∨ Op.ofCode r.opc = some .sets → r.literal < 1 ∨ 16 < r.literal →
    s.Alone r.guard (usesOf t.words) t → t.status.intrap = false → t.trapvec ≠ 0 →
    decode t.words = .error (.illegal r.guard (usesOf t.words) 4) ∧
    (s.gangThreads = [t] → s.standsStill t.core = false → t.takesAtSlot = false → s.heldByCommit t = false →
      t.blocker = none → t.quantumEnds = false → ∃ t', s.gangStep = .pass (s.becomes t t') ∧
        Thread.Trapped ⟨1, 4, t.instrAddr + if r.len = 1 then 0 else 3⟩ t t'))

/-- R113 to R118. The packed halves: HADD, HSUB, HMIN, HMAX and HCMP on the halves of gb and the routed halves of gc,
the butterfly of HACS with its two decisions, the conversions of HPACK and HUNPK, and the two samples of PXIN. -/
def Obligations.HalfResults : Prop :=
  ∀ (gd : Guard) (r : Route) (d b c k : Nat) (s : State),
    let half (t : Thread) (i j : Nat) := elem .halves (t.readG i) j
    let from_ (j : Nat) : Nat := match r with
      | .straight => j
      | .sw => 1 - j
      | .bl => 0
      | .bh => 1
    let routed (f : Int → Int → Int) := PutG d fun t v =>
      HasElems .halves v fun j => f (half t b j) (half t c (from_ j))
    let sat13 (x : Int) := max (-797161) (min 797161 x)
    let order (x y : Int) : Trit := if x < y then .neg else if x = y then .zero else .pos
    (s.Ready gd [gUse d, gUse b, gUse c] →
      Completes (.hadd gd r d b c) gd (routed fun x y => sat13 (x + y)) s ∧
      Completes (.hsub gd r d b c) gd (routed fun x y => sat13 (x - y)) s ∧
      Completes (.hmin gd r d b c) gd (routed min) s ∧ Completes (.hmax gd r d b c) gd (routed max) s ∧
      Completes (.hcmp gd r d b c) gd (routed fun x y => Int.sign (x - y)) s ∧
      Completes (.hpack gd d b c) gd (PutG d fun t v => HasElems .halves v fun j =>
        sat13 (if j = 0 then t.readG b else t.readG c)) s) ∧
    (s.Ready gd [gUse d, gUse b, gUse c, cUse k, cUse (k + 1)] →
      Completes (.hacs gd d b c k) gd (fun t t' =>
        let x := half t b 0 + half t c 0
        let y := half t b 1 + half t c 1
        let x' := half t b 0 + half t c 1
        let y' := half t b 1 + half t c 0
        (∃ v, HasElems .halves v (fun j => sat13 (if j = 0 then min x y else min x' y')) ∧ t'.GotG d v) ∧
          t'.GotC k (order x y) ∧ t'.GotC (k + 1) (order x' y') ∧
          t.Keeps [gUse d, cUse k, cUse (k + 1)] t' ∧ t.GoesOn t') s) ∧
    (s.Ready gd [gUse d, gUse c, gUse b] →
      Completes (.hunpk gd d c b) gd (fun t t' => (d ≠ c → t'.GotG d (half t b 0)) ∧ t'.GotG c (half t b 1) ∧
        t.Keeps [gUse d, gUse c] t' ∧ t.GoesOn t') s) ∧
    (s.Ready gd [gUse d, gUse b] →
      let sample (t : Thread) (j : Nat) := t.readG b / 65536 ^ j % 65536
      Completes (.pxin gd d b) gd (PutG d fun t v => HasElems .halves v fun j => sample t j) s ∧
      Completes (.pxinS gd d b) gd (PutG d fun t v => HasElems .halves v fun j =>
        if 32768 ≤ sample t j then sample t j - 65536 else sample t j) s)

/-- R41, R120, R121, R122, R125. The branches whose target a fetch accepts: a taken branch goes to the clause LIT words
from the header of its own clause, or at the address held in a register; one not taken goes on. LOOP counts its register
down and branches while it is positive. A taken branch whose target a fetch refuses raises that cause and transfers
nothing: privilege, then a non-canonical address, then misalignment, before any translation; a word that ends beyond the
last canonical address is not canonical either; the counter of LOOP and the return stack are then
as they were. -/
def Obligations.BranchResults : Prop :=
  (∀ (gd : Guard) (b : Nat) (lit pos : Int) (s : State) (t : Thread),
      let x := wrap 54 (t.pc + 3 * lit)
      let keeps (t t' : Thread) := t.Keeps [] t'
      s.targetFault t x = none →
      (s.Alone gd [] t → CompletesAlone (.j gd lit) s t fun t t' => keeps t t' ∧ t'.GoesTo x) ∧
      (s.Alone gd [aUse b] t → t.readA b = x → CompletesAlone (.jx gd b) s t fun t t' => keeps t t' ∧ t'.GoesTo x) ∧
      (s.Alone gd [cUse b] t →
        CompletesAlone (.bc gd b lit) s t fun t t' =>
          keeps t t' ∧ if t.readC b = .zero then t.GoesOn t' else t'.GoesTo x) ∧
      (s.Alone gd [cUse b] t → s.targetFault t (wrap 54 (t.pc + 3 * pos)) = none →
        CompletesAlone (.bcase gd b lit pos) s t fun t t' => keeps t t' ∧
          (t.readC b = .neg → t'.GoesTo x) ∧ (t.readC b = .zero → t.GoesOn t') ∧
          (t.readC b = .pos → t'.GoesTo (wrap 54 (t.pc + 3 * pos)))) ∧
      (s.Alone gd [gUse b] t → CompletesAlone (.loop gd b lit) s t fun t t' =>
        let v := wrap 27 (t.readG b - 1)
        t'.GotG b v ∧ t.Keeps [gUse b] t' ∧ if 0 < v then t'.GoesTo x else t.GoesOn t')) ∧
  (∀ (s : State) (t : Thread) (x : Int), (t.capture.any fun c => c.1 == x) = false →
    s.targetFault t x =
      if t.status.system = false ∧ x < 0 then some ⟨4, 3, x⟩
      else if ¬ (-((3 ^ 48 - 1) / 2) ≤ x ∧ x ≤ (3 ^ 48 - 1) / 2) then some ⟨5, 2, x⟩
      else if x % 3 ≠ 0 then some ⟨3, 2, x⟩
      else if (3 ^ 48 - 1) / 2 < x + 2 then some ⟨5, 2, x⟩
      else match s.fetchWord t x with
        | .error c => some c
        | .ok w => match role w with
          | .header => none
          | .continuation => some ⟨3, 1, x⟩
          | _ => some ⟨3, 2, x⟩) ∧
  ∀ (gd : Guard) (b : Nat) (lit pos x : Int) (s : State) (t : Thread) (c : Cause), t.status.intrap = false →
    t.trapvec ≠ 0 → s.targetFault t x = some c →
    let traps (i : Instr) (uses : List RegUse) := s.Alone gd uses t → CompletesAlone i s t fun t t' =>
      Thread.Trapped c t t' ∧ (t'.rstack, t'.rsdepth) = (t.rstack, t.rsdepth)
    (x = wrap 54 (t.pc + 3 * lit) →
      traps (.j gd lit) [] ∧ traps (.call gd lit) [] ∧ (t.readC b ≠ .zero → traps (.bc gd b lit) [cUse b]) ∧
      (t.readC b = .neg → traps (.bcase gd b lit pos) [cUse b]) ∧
      (0 < wrap 27 (t.readG b - 1) → traps (.loop gd b lit) [gUse b])) ∧
    (x = wrap 54 (t.pc + 3 * pos) → t.readC b = .pos → traps (.bcase gd b lit pos) [cUse b]) ∧
    (x = t.readA b → traps (.jx gd b) [aUse b] ∧ traps (.callx gd b) [aUse b]) ∧
    (t.rstack.headD 0 = x → 1 ≤ t.rsdepth → t.rsdepth ≤ 9 → traps (.ret gd) [])

/-- R131, R135, R152, R158. FRCP, FRSQ, FEXP3 and FLOG3 of a finite operand x: 1/x, 1/√x, 3 to the power x and log₃ x as
exact real numbers, rounded once; FRSQ and FLOG3 of a negative operand are invalid. -/
def Obligations.SpecialFunctionResults : Prop :=
  ∀ f ∈ [tf27, tf9], ∀ w : Int, f.Finite w →
    let x : ℝ := (f.value w : ℚ)
    (x ≠ 0 → f.RoundsTo (1 / x) (f.rcpOf w)) ∧
    (0 < x → f.RoundsTo (1 / Real.sqrt x) (f.rsqOf w)) ∧
    f.RoundsTo ((3 : ℝ) ^ x) (f.exp3Of w) ∧
    (0 < x → f.RoundsTo (Real.logb 3 x) (f.log3Of w)) ∧
    (x < 0 → f.rsqOf w = (f.nan, ⟨true, false, false, false⟩) ∧ f.log3Of w = (f.nan, ⟨true, false, false, false⟩))

/-- R44, R45, R123, R124. CALL and CALLX push the address after the clause while fewer than nine are held, and RET takes
the newest; RET with none held raises return-stack underflow. A tenth call, by CALL or CALLX, spills: a1 goes down by six
trytes and the return address stands in memory there, its low word first; a spill below SPLIMIT raises stack limit with
subcode 2. RET with more than nine held takes the pair that stands at a1, and a1 goes up by six trytes; where that pair is
poisoned it raises data poison at once. -/
def Obligations.CallAndReturnResults : Prop :=
  (∀ (gd : Guard) (b : Nat) (lit : Int) (s : State) (t : Thread),
    let pushed := { t with rstack := t.fallAddr :: t.rstack, rsdepth := t.rsdepth + 1 }
    (t.rsdepth < 9 →
      (s.Alone gd [] t → s.targetFault t (wrap 54 (t.pc + 3 * lit)) = none →
        CompletesAlone (.call gd lit) s t fun t t' =>
          pushed.Keeps [] t' ∧ t'.GoesTo (wrap 54 (t.pc + 3 * lit))) ∧
      (s.Alone gd [aUse b] t → s.targetFault t (t.readA b) = none →
        CompletesAlone (.callx gd b) s t fun t t' => pushed.Keeps [] t' ∧ t'.GoesTo (t.readA b))) ∧
    (∀ x rest, t.rstack = x :: rest → 1 ≤ t.rsdepth → t.rsdepth ≤ 9 → s.Alone gd [] t → s.targetFault t x = none →
      CompletesAlone (.ret gd) s t fun t t' =>
        ({ t with rstack := rest, rsdepth := t.rsdepth - 1 }).Keeps [] t' ∧ t'.GoesTo x) ∧
    (t.rsdepth = 0 → s.Alone gd [] t → t.status.intrap = false → t.trapvec ≠ 0 →
      CompletesAlone (.ret gd) s t (Thread.Trapped ⟨9, 0, 0⟩))) ∧
  (∀ (gd : Guard) (b : Nat) (lit x : Int) (i : Instr) (s : State) (t : Thread),
    i = .call gd lit ∧ s.Alone gd [] t ∧ x = wrap 54 (t.pc + 3 * lit) ∨
      i = .callx gd b ∧ s.Alone gd [aUse b] t ∧ x = t.readA b →
    9 ≤ t.rsdepth → s.targetFault t x = none → t.status.det = false →
    let sp := wrap 54 (t.readA 1 - 6)
    (sp < t.splimit → t.status.intrap = false → t.trapvec ≠ 0 →
      CompletesAlone i s t (Thread.Trapped ⟨8, 2, sp⟩)) ∧
    ∀ segs, t.splimit ≤ sp → s.check (s.agentOf t) .store sp 6 (some ⟨3, 2⟩) false true = .ok segs →
      ∃ t', exec i s = .next
          (((s.noteSegs (s.agentOf t) segs).storeAll t.core .default segs
            (trytesOfWord (wrap 27 t.fallAddr) ++ trytesOfWord (trunc 27 t.fallAddr))).becomes t t') ∧
        t'.readA 1 = sp ∧ ({ t with rsdepth := t.rsdepth + 1 }).Keeps [aUse 1] t' ∧ t'.GoesTo x) ∧
  (∀ (gd : Guard) (s s1 : State) (t : Thread) (vals : List Int) (mark : Nat), s.Alone gd [] t → 9 < t.rsdepth →
    s.loadMem t .default (t.readA 1) 6 (some ⟨3, 2⟩) false true = .ok ((vals, mark), s1) →
    let x := wordOfTrytes vals + 3 ^ 27 * wordOfTrytes (vals.drop 3)
    (mark = 0 → s1.targetFault t x = none → s1.Calm → ∃ t', exec (.ret gd) s = .next (s1.becomes t t') ∧
      t'.readA 1 = wrap 54 (t.readA 1 + 6) ∧ ({ t with rsdepth := t.rsdepth - 1 }).Keeps [aUse 1] t' ∧ t'.GoesTo x) ∧
    (∀ c, mark = 0 → s1.targetFault t x = some c → t.status.intrap = false → t.trapvec ≠ 0 →
      CompletesAlone (.ret gd) s t (Thread.Trapped c)) ∧
    (mark ≠ 0 → t.status.intrap = false → t.trapvec ≠ 0 →
      CompletesAlone (.ret gd) s t (Thread.Trapped ⟨11, mark, t.readA 1⟩)))

/-- R36, R70, R72, R92, R126, R127, R128, R349, R413 to R416. NOP and YIELD only go on, EXIT and HALT stop
the thread, PMODE sets PM, BRK and TRAP take their causes, and an undefined opcode in probe mode sets PROBEFLAG and
otherwise only goes on. Where the system instructions trap instead: EXIT in a handler run, HALT and RETT where they
may not stand, PMODE with another literal, an undefined opcode outside probe mode. -/
def Obligations.SystemResults : Prop :=
  (∀ (gd : Guard) (b : Nat) (n : Int) (s : State),
    (s.Ready gd [] →
      Completes (.nop gd) gd (fun t t' => t.Keeps [] t' ∧ t.GoesOn t') s ∧
      Completes (.yield gd) gd (fun t t' => t.Keeps [] t' ∧ t.GoesOn t') s ∧
      ((s.Executing gd fun t => t.element = none) →
        Completes (.exit gd) gd (fun t t' => t' = { t with run := .exiting none }) s) ∧
      (n = 0 ∨ n = 1 →
        Completes (.pmode gd n) gd (fun t t' => t' = ({ t with status := { t.status with pm := n == 1 } } : Thread).advance) s) ∧
      ((s.Executing gd fun t => t.status.intrap = false ∧ t.trapvec ≠ 0) →
        Completes (.brk gd) gd (Thread.Trapped ⟨12, 0, 0⟩) s ∧ Completes (.trap gd n) gd (Thread.Trapped ⟨13, n, 0⟩) s)) ∧
    (s.Ready gd [gUse b] → (s.Executing gd fun t => t.status.system = true) →
      Completes (.halt gd b) gd (fun t t' => t' = { t with run := .exiting (some (t.readG b)) }) s) ∧
    (∀ t, s.Alone gd [] t → t.status.pm = true →
      exec (.undefinedOpcode gd) s = .next ((s.mapTeam t.team fun m => { m with probe := m.probe.set t.grp true }).becomes t
        t.advance))) ∧
  (∀ (gd : Guard) (b : Nat) (n : Int) (s : State) (t : Thread), t.status.intrap = false → t.trapvec ≠ 0 →
    (s.Alone gd [] t →
      (t.element ≠ none → CompletesAlone (.exit gd) s t (Thread.Trapped ⟨18, 1, 0⟩)) ∧
      CompletesAlone (.rett gd) s t (Thread.Trapped ⟨21, 1, 0⟩) ∧
      (n ≠ 0 → n ≠ 1 → CompletesAlone (.pmode gd n) s t (Thread.Trapped (t.illegal 5))) ∧
      (t.status.pm = false → CompletesAlone (.undefinedOpcode gd) s t (Thread.Trapped (t.illegal 1)))) ∧
    (s.Alone gd [gUse b] t → t.status.system = false →
      CompletesAlone (.halt gd b) s t (Thread.Trapped ⟨4, 2, 0⟩)))

/-- R48, R413, R421. RETT leaves the handler: INTRAP becomes 0 and the thread goes to the clause of TRAPPC at the slot
of TRAPINFO (1 when it is 0), where a BRK or TRAP that was the cause then executes once as a NOP. Every cause that is
delivered inside a handler, or with no handler named, ends the thread's bolt with failure: no thread of its team is left and
the bolt is done; and every cause that an instruction raises for a thread of its own, or for the machine beyond it, is so
delivered at its slot. -/
def Obligations.HandlerResults : Prop :=
  (∀ (gd : Guard) (s : State), s.Ready gd [] →
    (s.Executing gd fun t => t.status.intrap = true ∧ s.targetFault { t with capture := [] } t.trappc = none) →
    Completes (.rett gd) gd (fun t t' =>
      ({ t with status := { t.status with intrap := false } }).Keeps [] t' ∧ t'.pc = t.trappc ∧
      t'.run = .boundary .rett ∧ (t'.slot : Int) = max 1 (trits t.trapinfo 21 18) ∧
      (t'.nopOnce = true ↔ 1 ≤ trits t.trapinfo 21 18 ∧ (trits t.trapinfo 8 0 = 12 ∨ trits t.trapinfo 8 0 = 13))) s) ∧
  (∀ (s : State) (t : Thread) (b : Bolt) (slot : Nat) (pc : Int) (c : Cause), s.Calm → s.thread? t.id = some t →
    (∀ u ∈ s.threads, u.id = t.id → u = t) → t.status.intrap = true ∨ t.trapvec = 0 → s.bolt? t.id.bolt = some b →
    b.outcome = 0 → t.team.bolt = t.id.bolt → (∃ m, s.team? t.team = some m) →
    let s' := (s.mapThread t.id fun u => u.deliver slot pc c).settle
    (∀ u ∈ s'.threads, u.team ≠ t.team) ∧
      ∃ b', s'.bolt? t.id.bolt = some b' ∧ b'.outcome = -1 ∧ b'.ended = b.record.teams) ∧
  (∀ (gd : Guard) (uses : List RegUse) (c : Cause) (s : State) (t : Thread), s.Alone gd uses t →
    let s' := (s.mapThread t.id fun u => u.deliver t.slot t.pc c).settle
    (uses.all t.owns = true → ∀ f, f t = .error c → s.runLocal gd uses f = .next s') ∧ (∀ f, f t s = .error c → s.lanes gd uses f = .next s') ∧
    (uses = [] → c = ⟨12, 0, 0⟩ → exec (.brk gd) s = .next s'))

/-- R145, R150, R154 to R156, R158, R159. The real instructions: each element of gd is the result that the operation
gives for the elements of the operands, and FLAGS gains the flags of every element. -/
def Obligations.RealArithmeticResults : Prop :=
  ∀ (gd : Guard) (sh : Shape) (d b c e : Nat) (lit : Int) (s : State),
    let x (r : Nat) (k : Nat) (t : Thread) := elem sh (t.readG r) k
    let f := shapeFmt sh
    (s.Ready gd [gUse d, gUse b, gUse c] →
      Completes (.fadd gd sh d b c) gd (PutReal sh d fun t k => f.addOf (x b k t) (x c k t)) s ∧
      Completes (.fsub gd sh d b c) gd (PutReal sh d fun t k => f.subOf (x b k t) (x c k t)) s ∧
      Completes (.fmul gd sh d b c) gd (PutReal sh d fun t k => f.mulOf (x b k t) (x c k t)) s ∧
      Completes (.ffma gd sh d b c) gd (PutReal sh d fun t k => f.fmaOf (x b k t) (x c k t) (x d k t)) s ∧
      Completes (.fmin gd sh d b c) gd (PutReal sh d fun t k => f.minOf (x b k t) (x c k t)) s ∧
      Completes (.fmax gd sh d b c) gd (PutReal sh d fun t k => f.maxOf (x b k t) (x c k t)) s) ∧
    (s.Ready gd [gUse d, gUse b, gUse c, gUse e] →
      Completes (.ffmaE gd sh d b c e) gd (PutReal sh d fun t k => f.fmaOf (x b k t) (x c k t) (x e k t)) s) ∧
    (s.Ready gd [gUse d, gUse b] →
      Completes (.fabs gd sh d b) gd (PutReal sh d fun t k => f.absOf (x b k t)) s ∧
      Completes (.fabsNeg gd sh d b) gd (PutReal sh d fun t k => f.negOf (x b k t)) s ∧
      Completes (.fabsNabs gd sh d b) gd (PutReal sh d fun t k => f.nabsOf (x b k t)) s ∧
      Completes (.frcp gd sh d b) gd (PutReal sh d fun t k => f.rcpOf (x b k t)) s ∧
      Completes (.frsq gd sh d b) gd (PutReal sh d fun t k => f.rsqOf (x b k t)) s ∧
      Completes (.fexp3 gd sh d b) gd (PutReal sh d fun t k => f.exp3Of (x b k t)) s ∧
      Completes (.flog3 gd sh d b) gd (PutReal sh d fun t k => f.log3Of (x b k t)) s ∧
      Completes (.fscl gd sh d b lit) gd (PutReal sh d fun t k => f.sclOf (x b k t) lit) s ∧
      Completes (.fclass gd sh d b) gd (PutReal sh d fun t k => (f.classOf (x b k t), RealFlags.clear)) s) ∧
    (s.Ready gd [gUse d, gUse b, gUse e] →
      Completes (.fsclReg gd sh d b e) gd (PutReal sh d fun t k => f.sclOf (x b k t) (x e k t)) s)

/-- R23, R157, R161, R162, R163. FCMP and FCMP.q write the sign of the exact difference, or report an unordered
comparison; FCVT converts the trytes or the one tryte or word that its formats and placement name. What a conversion
gives: of a finite value or an integer, the product with 3^SCALE, exact and then rounded once to the destination format,
or narrowed to an integer of its width, where the nearest integer that does not fit is invalid and saturates; an infinity
stays one, or becomes the extreme integer of its sign; a NaN keeps its payload, or becomes 0. -/
def Obligations.RealCompareAndConvertResults : Prop :=
  (∀ (dst src : Fmt) (scale v : Int),
    let c := convert dst src scale v
    let reals : List (Fmt × RFmt) := [(.tf9, tf9), (.tf27, tf27)]
    let integer (x : Fmt) := x ≠ .tf9 ∧ x ≠ .tf27
    let w := fmtTrits dst
    let max := ((3 : Int) ^ w - 1) / 2
    let none : RealFlags := ⟨false, false, false, false⟩
    let inv : RealFlags := ⟨true, false, false, false⟩
    (integer src → integer dst →
      c = (sat w (if 0 ≤ scale then v * 3 ^ scale.toNat else trunc (-scale).toNat v), none)) ∧
    (integer src → ∀ d ∈ reals, d.1 = dst → d.2.RoundsTo (v * 3 ^ scale) c) ∧
    (∀ q ∈ reals, q.1 = src → ∀ d ∈ reals, d.1 = dst →
      (q.2.Finite v → d.2.RoundsTo (q.2.value v * 3 ^ scale) c) ∧ (∀ b, v = q.2.inf b → c = (d.2.inf b, none)) ∧
      ((q.2.read v).isNan = true → c.2 = none ∧ (src = dst → c.1 = v) ∧
        (src = .tf9 → dst = .tf27 → trits c.1 26 21 = 364 ∧ trits c.1 20 15 = trits v 5 0 ∧ trits c.1 14 0 = 0) ∧
        (src = .tf27 → dst = .tf9 → if |trits v 20 15| = 243 then c.1 = tf9.nan
          else trits c.1 8 6 = 13 ∧ trits c.1 5 0 = trits v 20 15))) ∧
    (∀ q ∈ reals, q.1 = src → integer dst →
      (q.2.Finite v → ∃ y : Int, |(y : ℚ) - q.2.value v * 3 ^ scale| < 1 / 2 ∧
        c = if |y| ≤ max then (y, { none with inx := decide ((y : ℚ) ≠ q.2.value v * 3 ^ scale) }) else (sat w y, inv)) ∧
      (∀ b, v = q.2.inf b → c = (if b then -max else max, inv)) ∧ ((q.2.read v).isNan = true → c = (0, inv)))) ∧
  ∀ (gd : Guard) (d b c e k : Nat) (dst src : Fmt) (scale : Int) (s : State),
    let nan (w : Int) := (tf27.read w).isNan = true
    let order (t : Thread) : Trit :=
      if nan (t.readG b) ∨ nan (t.readG c) then .zero
      else if (tf27.read (t.readG b)).cmp (tf27.read (t.readG c)) < 0 then .neg
      else if (tf27.read (t.readG b)).cmp (tf27.read (t.readG c)) = 0 then .zero else .pos
    let read (t : Thread) := if src.narrow then elem .trytes (t.readG b) k else t.readG b
    (s.Ready gd [cUse d, gUse b, gUse c] →
      Completes (.fcmp gd d b c) gd (fun t t' => t'.GotC d (order t) ∧ t.Frame [cUse d] t' ∧ t.GoesOn t' ∧
        t'.flags = { t.flags with inv := t.flags.inv || decide (nan (t.readG b) ∨ nan (t.readG c)) }) s) ∧
    (s.Ready gd [cUse d, gUse b, gUse c, cUse e] →
      Completes (.fcmpQ gd d b c e) gd (fun t t' => (d ≠ e → t'.GotC d (order t)) ∧
        t'.GotC e (if nan (t.readG b) ∨ nan (t.readG c) then .pos else .neg) ∧
        t.Keeps [cUse d, cUse e] t' ∧ t.GoesOn t') s) ∧
    (s.Ready gd [gUse d, gUse b] → k < 3 →
      Completes (.fcvt gd .trytes k d b dst src scale) gd
        (PutReal .trytes d fun t j => convert dst src scale (elem .trytes (t.readG b) j)) s ∧
      Completes (.fcvt gd .word k d b dst src scale) gd (fun t t' =>
        let r := convert dst src scale (read t)
        t'.GotG d (if dst.narrow then packElems .trytes
          ((List.range 3).map fun j => if j = k then r.1 else elem .trytes (t.readG d) j) else r.1) ∧
        t'.flags = t.flags.or r.2 ∧ t.Frame [gUse d] t' ∧ t.GoesOn t') s)

/-- R135, R136, R137. Rounding to TF27 and TF9 is to the nearest value of the format: unless the result overflows no finite
word of the format is nearer to n·3^k than the word that rounding gives, and the result is marked inexact just when
it differs. It overflows just when it lies at least half way from the largest finite value to the grid value above; it is tiny just when n·3^k is below the smallest normal; and word and flags are those of the value rounded once. -/
def Obligations.RealRoundingIsNearest : Prop :=
  ∀ f ∈ [tf27, tf9], ∀ n k : Int,
    let x : ℚ := n * 3 ^ k
    let r := f.round ⟨n, k⟩
    (r.ovf = false →
      (∀ w : Int, f.expOf w ≠ f.lim → |f.value r.word - x| ≤ |f.value w - x|) ∧
      (r.inexact = false ↔ f.value r.word = x)) ∧
    (r.ovf = true ↔ ((f.maxF : ℚ) + 1) * 3 ^ (f.lim - 1 - f.frac) ≤ |x|) ∧
    (n ≠ 0 → (r.tiny = true ↔ |x| < f.minF * 3 ^ (-f.lim - f.frac))) ∧ f.RoundsTo (x : ℚ) (f.rounded ⟨n, k⟩)

/-- R151, R153 to R156, R158, R159, R160. Finite operands: FADD, FSUB, FMUL, FFMA and FSCL give the exact sum, difference,
product, fused result and power-of-three multiple rounded once, FMIN, FMAX and FABS an operand or its negation in canonical
form, FCLASS the class. Operands that are not finite: the invalid operations give the default NaN and set INV alone, an
infinity otherwise stays one, a NaN is passed on unchanged and sets no flag, and the special functions have the stated
results at 0 and at the infinities. FFMA rounds once: with an addend of 0 it is FMUL, and with a factor of 1 it is FADD,
result and flags. -/
def Obligations.RealOperandLaws : Prop :=
  (∀ f ∈ [tf27, tf9], ∀ x y u n : Int, f.Finite x → f.Finite y → f.Finite u →
    let vx : ℝ := (f.value x : ℚ)
    let vy : ℝ := (f.value y : ℚ)
    let vu : ℝ := (f.value u : ℚ)
    f.RoundsTo (vx + vy) (f.addOf x y) ∧ f.RoundsTo (vx - vy) (f.subOf x y) ∧ f.RoundsTo (vx * vy) (f.mulOf x y) ∧
    f.RoundsTo (vx * vy + vu) (f.fmaOf x y u) ∧ f.RoundsTo (vx * 3 ^ n) (f.sclOf x n) ∧
    f.RoundsTo (min vx vy) (f.minOf x y) ∧ f.RoundsTo (max vx vy) (f.maxOf x y) ∧ f.RoundsTo |vx| (f.absOf x) ∧
    f.RoundsTo (-vx) (f.negOf x) ∧ f.RoundsTo (-|vx|) (f.nabsOf x) ∧
    (f.classOf x = (if vx = 0 then 0 else (if 0 < vx then 1 else -1) *
      if |vx| < f.minF * 3 ^ (-f.lim - f.frac) then 2 else 3) + if f.unnormal x = true then 9 else 0) ∧
    ∀ b, f.addOf (f.inf b) y = (f.inf b, ⟨false, false, false, false⟩) ∧
      f.addOf x (f.inf b) = (f.inf b, ⟨false, false, false, false⟩) ∧
      f.subOf (f.inf b) y = (f.inf b, ⟨false, false, false, false⟩) ∧
      (vy ≠ 0 → f.mulOf (f.inf b) y = (f.inf (b != decide (vy < 0)), ⟨false, false, false, false⟩) ∧
        f.mulOf y (f.inf b) = (f.inf (b != decide (vy < 0)), ⟨false, false, false, false⟩))) ∧
  (let inv : RealFlags := ⟨true, false, false, false⟩
  let ofl : RealFlags := ⟨false, true, false, false⟩
  let none : RealFlags := ⟨false, false, false, false⟩
  ∀ f ∈ [tf27, tf9],
    let pinf := f.inf false
    let minf := f.inf true
    f.addOf pinf minf = (f.nan, inv) ∧ f.subOf pinf pinf = (f.nan, inv) ∧
    f.mulOf f.zero pinf = (f.nan, inv) ∧ f.mulOf minf f.zero = (f.nan, inv) ∧
    (∀ u, f.fmaOf f.zero pinf u = (f.nan, inv)) ∧
    (∀ x y, (f.read x).isNan = true → f.addOf x y = (x, none) ∧ f.subOf x y = (x, none) ∧ f.mulOf x y = (x, none) ∧
      f.minOf x y = (x, none) ∧ f.maxOf x y = (x, none) ∧ f.absOf x = (x, none) ∧ f.negOf x = (x, none) ∧
      f.rcpOf x = (x, none) ∧ f.rsqOf x = (x, none) ∧ f.exp3Of x = (x, none) ∧ f.log3Of x = (x, none) ∧
      f.sclOf x y = (x, none) ∧ f.classOf x = if x = f.nan then 1 else -1) ∧
    (∀ x y u, (f.read x).isNan = false → (f.read y).isNan = true → f.addOf x y = (y, none) ∧ f.subOf x y = (y, none) ∧
      f.mulOf x y = (y, none) ∧ f.minOf x y = (y, none) ∧ f.maxOf x y = (y, none) ∧ f.fmaOf x y u = (y, none)) ∧
    (∀ x y u, (f.read x).isNan = true → f.fmaOf x y u = (x, none)) ∧
    (∀ x y u, f.Finite x → f.Finite y → ((f.read u).isNan = true → f.fmaOf x y u = (u, none) ∧
      ∀ b c, (f.value y ≠ 0 → f.fmaOf (f.inf b) y u = (u, none) ∧ f.fmaOf y (f.inf b) u = (u, none)) ∧
        f.fmaOf (f.inf b) (f.inf c) u = (u, none)) ∧
      ∀ b, f.fmaOf x y (f.inf b) = (f.inf b, none) ∧ (f.value y ≠ 0 →
        f.fmaOf (f.inf b) y (f.inf (b == decide (f.value y < 0))) = (f.nan, inv))) ∧
    (∀ b, f.classOf (f.inf b) = if b then -4 else 4) ∧
    f.rcpOf f.zero = (f.nan, inv) ∧ f.rcpOf pinf = (f.zero, none) ∧ f.rcpOf minf = (f.zero, none) ∧
    f.rsqOf f.zero = (pinf, ofl) ∧ f.rsqOf pinf = (f.zero, none) ∧ f.rsqOf minf = (f.nan, inv) ∧
    f.exp3Of minf = (f.zero, none) ∧ f.exp3Of pinf = (pinf, none) ∧
    f.log3Of f.zero = (minf, ofl) ∧ f.log3Of minf = (f.nan, inv) ∧ f.log3Of pinf = (pinf, none)) ∧
  (∀ f ∈ [tf27, tf9], ∀ x y u : Int,
    f.fmaOf x y f.zero = f.mulOf x y ∧ f.fmaOf x (f.word 1 (p3 (f.frac - 1))) u = f.addOf x u)

/-- R229, R230, R231, R232, R235 to R237, R268. The row instructions on a shaped tile that no boarding holds, for a row
within 0 to 80: TZERO clears the row, TLD and TLD.x load it from memory, TST stores it, and clears the poison mark of a
sector that its row covers whole, TGET reads the shape word and TSET sets one. The lane's row is its LANEID plus gc; of a
row at or beyond ROWS no access is made. The tile faults of the row
instructions: subcode 1 without a shape, for TLD.x without one of the format T9, and for TSET of a shape that is not valid,
3 for a row outside 0 to 80, 5 for a tile that a boarding holds, the lowest first; nothing is read or written. -/
def Obligations.TileRowResults : Prop :=
  (∀ (gd : Guard) (rs : Trit) (m a c d : Nat) (s : State) (t : Thread), s.HasTile t m → s.boarded t m = false →
    Memory.wf (s.tileAt t m).data = true →
    let x := s.tileAt t m
    let r := t.lane + t.readG c
    let op := { LongOp.plain (t.raisedFlag rs) with dests := [mUse m], tileOp := some s.tick }
    let ld := { op with load := true }
    (s.Alone gd [gUse d, mUse m] t → CompletesAlone (.tget gd d m) s t (Word1 d fun _ => x.shape)) ∧
    (s.Alone gd [mUse m, gUse d] t → validShape (t.readG d) = true →
      (∀ u ∈ s.threads, u.team = t.team → u.grp = t.grp → u.ops = []) →
      ∃ s', exec (.tset gd m d) s = .next (s'.becomes t t.advance) ∧ s.OnlyTile s' t m ∧
        (s'.tileAt t m).shape = t.readG d ∧ (s'.tileAt t m).data = x.data) ∧
    (0 ≤ r → r ≤ 80 →
      (s.Alone gd [mUse m, gUse c] t → ∃ s', exec (.tzero gd rs m c) s = .next (s'.becomes t (t.begin op).advance) ∧
        s.OnlyTile s' t m ∧ TileRowPut x (s'.tileAt t m) r.toNat (List.replicate 81 0)) ∧
      (s.Alone gd [mUse m, aUse a, gUse c] t → x.shape ≠ 0 → validShape x.shape = true →
        (x.sh.rows ≤ r →
          exec (.tld gd rs m a c) s = .next (s.becomes t (t.begin op).advance) ∧
          exec (.tst gd rs m a c) s = .next (s.becomes t (t.begin op).advance)) ∧
        (r < x.sh.rows → ∀ vals s1,
          s.loadMem t .default (t.readA a) x.sh.rowLen (rowAlign x.sh.fmt) false false = .ok ((vals, 0), s1) →
          ∃ s', exec (.tld gd rs m a c) s = .next (s'.becomes t (t.begin ld).advance) ∧ s1.OnlyTile s' t m ∧
            TileRowPut x (s'.tileAt t m) r.toNat vals) ∧
        (r < x.sh.rows → x.sh.fmt = -1 → ∀ vals s1,
          s.loadMem t .default (t.readA a) ((x.sh.cols + 2) / 3).toNat none false false = .ok ((vals, 0), s1) →
          ∃ s', exec (.tldX gd rs m a c) s = .next (s'.becomes t (t.begin ld).advance) ∧ s1.OnlyTile s' t m ∧
            TileRowPut x (s'.tileAt t m) r.toNat ((List.range x.sh.cols.toNat).map fun k =>
              trits (vals.getD (k / 3) 0) (3 * (k % 3) + 2) (3 * (k % 3)))) ∧
        (r < x.sh.rows → t.status.det = false → ∀ segs,
          s.check (s.agentOf t) .store (t.readA a) x.sh.rowLen (rowAlign x.sh.fmt) false false = .ok segs →
          exec (.tst gd rs m a c) s = .next ((((s.noteSegs (s.agentOf t) segs).storeAll t.core .default segs
            ((List.range x.sh.rowLen).map fun k => x.tryte r.toNat k)).becomes t (t.begin op).advance).cleanedBy t.core
              (s.keysOf segs)))))) ∧
  (∀ (gd : Guard) (rs : Trit) (m a c : Nat) (s : State) (t : Thread), s.Alone gd [mUse m, aUse a, gUse c] t →
    t.status.intrap = false → t.trapvec ≠ 0 →
    let x := s.tileAt t m
    let r := t.lane + t.readG c
    (x.shape = 0 → CompletesAlone (.tld gd rs m a c) s t (Thread.Trapped ⟨15, 1, 0⟩) ∧
      CompletesAlone (.tst gd rs m a c) s t (Thread.Trapped ⟨15, 1, 0⟩)) ∧
    (x.shape ≠ 0 → r < 0 ∨ 80 < r → CompletesAlone (.tld gd rs m a c) s t (Thread.Trapped ⟨15, 3, 0⟩) ∧
      CompletesAlone (.tst gd rs m a c) s t (Thread.Trapped ⟨15, 3, 0⟩)) ∧
    (x.shape ≠ 0 → 0 ≤ r → r ≤ 80 → s.boarded t m = true →
      CompletesAlone (.tld gd rs m a c) s t (Thread.Trapped ⟨15, 5, 0⟩) ∧
      CompletesAlone (.tst gd rs m a c) s t (Thread.Trapped ⟨15, 5, 0⟩)) ∧
    (x.shape = 0 ∨ x.sh.fmt ≠ -1 → CompletesAlone (.tldX gd rs m a c) s t (Thread.Trapped ⟨15, 1, 0⟩)) ∧
    (x.shape ≠ 0 → x.sh.fmt = -1 →
      (r < 0 ∨ 80 < r → CompletesAlone (.tldX gd rs m a c) s t (Thread.Trapped ⟨15, 3, 0⟩)) ∧
      (0 ≤ r → r ≤ 80 → s.boarded t m = true →
        CompletesAlone (.tldX gd rs m a c) s t (Thread.Trapped ⟨15, 5, 0⟩)))) ∧
  (∀ (gd : Guard) (rs : Trit) (m c : Nat) (s : State) (t : Thread), s.Alone gd [mUse m, gUse c] t →
    t.status.intrap = false → t.trapvec ≠ 0 →
    let r := t.lane + t.readG c
    (r < 0 ∨ 80 < r → CompletesAlone (.tzero gd rs m c) s t (Thread.Trapped ⟨15, 3, 0⟩)) ∧
    (0 ≤ r → r ≤ 80 → s.boarded t m = true → CompletesAlone (.tzero gd rs m c) s t (Thread.Trapped ⟨15, 5, 0⟩)) ∧
    (validShape (t.readG c) = false → CompletesAlone (.tset gd m c) s t (Thread.Trapped ⟨15, 1, 0⟩)) ∧
    (validShape (t.readG c) = true → s.boarded t m = true → CompletesAlone (.tset gd m c) s t (Thread.Trapped ⟨15, 5, 0⟩)))

/-- R142, R143, R238, R239, R240. MMA9 and MSPA: in the row of the lane every accumulator word gains the whole dot product
of the row of A and a column of B, wrapped to 27 trits; a sum that does not fit after some block of 27 marks the row. No
real flag is set. -/
def Obligations.IntegerMatrixResults : Prop :=
  ∀ (gd : Guard) (rs : Trit) (q a b e : Nat) (s : State) (t : Thread), s.HasAcc t q → t.lane < 81 →
    Memory.wf (s.accAt t q).data = true →
    let A := s.tileAt t a
    let B := s.tileAt t b
    let M := s.tileAt t e
    let n := B.sh.cols
    let dense (k : Nat) := A.elem t.lane k
    let sparse (k : Nat) := if M.elem t.lane (k / 3) + 1 = ((k % 3 : Nat) : Int) then A.elem t.lane (k / 3) else 0
    let block (row : Nat → Int) (K m j : Nat) :=
      (((List.range K).filter fun k => k / 27 = m).map fun k => row k * B.elem k j).sum
    let marked (row : Nat → Int) (K : Nat) (s' : State) := ∀ i, i ∈ (s'.accAt t q).rovf ↔
      i ∈ (s.accAt t q).rovf ∨ i = t.lane ∧ ∃ j < n.toNat, ∃ m < (K + 26) / 27,
        fits 27 ((List.range m).foldl (fun v b => wrap 27 (v + block row K b j)) ((s.accAt t q).word t.lane j) +
          block row K m j) = false
    let op (names : List RegUse) :=
      { LongOp.plain (t.raisedFlag rs) with dests := qUse q :: names, tileOp := some s.tick }
    s.boarded t a = false → s.boarded t b = false → A.sh.fmt = -1 → B.sh.fmt = -1 → n ≤ 27 → t.lane < A.sh.rows →
    1 ≤ A.sh.cols →
    (s.Alone gd [qUse q, mUse a, mUse b] t → B.sh.rows = A.sh.cols →
      ∃ s', exec (.mma9 gd rs q a b) s = .next (s'.becomes t (t.begin (op [mUse a, mUse b])).advance) ∧ s.OnlyAcc s' t q ∧
        (AccRowPut (s.accAt t q) (s'.accAt t q) t.lane n.toNat fun j x =>
          wrap 27 (x + ((List.range A.sh.cols.toNat).map fun k => dense k * B.elem k j).sum)) ∧
        marked dense A.sh.cols.toNat s') ∧
    (s.Alone gd [qUse q, mUse a, mUse b, mUse e] t → s.boarded t e = false → M.sh.fmt = -3 →
      B.sh.rows = 3 * A.sh.cols → 3 * A.sh.cols ≤ 81 → A.sh.rows ≤ M.sh.rows → M.sh.cols = A.sh.cols →
      ∃ s', exec (.mspa gd rs q a b e) s = .next (s'.becomes t (t.begin (op [mUse a, mUse b, mUse e])).advance) ∧
        s.OnlyAcc s' t q ∧ (AccRowPut (s.accAt t q) (s'.accAt t q) t.lane n.toNat fun j x =>
          wrap 27 (x + ((List.range (3 * A.sh.cols).toNat).map fun k => sparse k * B.elem k j).sum)) ∧
        marked sparse (3 * A.sh.cols).toNat s')

/-- R138, R139, R143, R144, R145, R146, R238 to R240. MSHA, MMAF and MBS: in the row of the lane every accumulator word
takes the blocks of 27 reduction indices in order, each narrowed or rounded once: MSHA saturates, and a sum that does not
fit marks the row; MMAF and MBS round to TF27, leave the overflow mark, and set at completion the flags that any block of
any column raises. A block of MMAF with finite inputs is the accumulator plus the exact sum of the products, rounded once;
one of MBS the accumulator plus the integer sum times both block scales. -/
def Obligations.BlockMatrixResults : Prop :=
  (∀ (v : Int) (ps : List (Int × Int)), tf27.Finite v → (∀ p ∈ ps, tf9.Finite p.1 ∧ tf9.Finite p.2) →
    (mmafBlock v ps).2.1 = false ∧ tf27.RoundsTo
      ((tf27.value v + (ps.map fun p => tf9.value p.1 * tf9.value p.2).sum : ℚ) : ℝ)
      ((mmafBlock v ps).1, (mmafBlock v ps).2.2)) ∧
  (∀ v n sa sb : Int, tf27.Finite v →
    let scale (w : Int) : ℚ := (243 + trits w 4 0) * 3 ^ (trits w 8 5 - 5)
    (mbsBlock v n sa sb).2.1 = false ∧ tf27.RoundsTo ((tf27.value v + n * scale sa * scale sb : ℚ) : ℝ)
      ((mbsBlock v n sa sb).1, (mbsBlock v n sa sb).2.2)) ∧
  ∀ (gd : Guard) (rs : Trit) (q a b e : Nat) (s : State) (t : Thread), s.HasAcc t q → t.lane < 81 →
    Memory.wf (s.accAt t q).data = true →
    let A := s.tileAt t a
    let B := s.tileAt t b
    let E := s.tileAt t e
    let k := A.sh.cols.toNat
    let n := B.sh.cols
    let op (names : List RegUse) (real : Bool) (fl : RealFlags) :=
      { LongOp.plain (t.raisedFlag rs) with
        dests := qUse q :: names, tileOp := some s.tick, flagging := real, sets := fl }
    let block (m : Nat) := (List.range k).filter fun i => i / 27 = m
    let blocks (x : Int) (m : Nat) (f : Nat → Int → Int) := (List.range m).foldl (fun v b => f b v) x
    let all := (k + 26) / 27
    let word (j : Nat) := (s.accAt t q).word t.lane j
    let row (s' : State) (f : Nat → Nat → Int → Int) := s.OnlyAcc s' t q ∧
      AccRowPut (s.accAt t q) (s'.accAt t q) t.lane n.toNat fun j x => blocks x all (f j)
    let saturates (s' : State) (f : Nat → Nat → Int) := row s' (fun j b v => sat 27 (v + f j b)) ∧
      ∀ i, i ∈ (s'.accAt t q).rovf ↔ i ∈ (s.accAt t q).rovf ∨ i = t.lane ∧ ∃ j < n.toNat, ∃ m < all,
        fits 27 (blocks (word j) m (fun b v => sat 27 (v + f j b)) + f j m) = false
    let rounds (s' : State) (fl : RealFlags) (f : Nat → Nat → Int → Int × Bool × RealFlags) :=
      row s' (fun j b v => (f j b v).1) ∧ (s'.accAt t q).rovf = (s.accAt t q).rovf ∧
      ∀ p ∈ [RealFlags.inv, RealFlags.ofl, RealFlags.ufl, RealFlags.inx], p fl = true ↔
        ∃ j < n.toNat, ∃ m < all, p (f j m (blocks (word j) m fun b v => (f j b v).1)).2.2 = true
    s.boarded t a = false → s.boarded t b = false → n ≤ 27 → t.lane < A.sh.rows → B.sh.rows = A.sh.cols →
    (s.Alone gd [qUse q, mUse a, mUse b] t → A.sh.fmt = -1 → B.sh.fmt = 3 →
      ∃ s', exec (.mshaW3 gd rs q a b) s =
          .next (s'.becomes t (t.begin (op [mUse a, mUse b] false RealFlags.clear)).advance) ∧
        saturates s' fun j b => ((block b).map fun i => A.elem t.lane i * termOf (B.elem i j)).sum) ∧
    (s.Alone gd [qUse q, mUse a, mUse b, mUse e] t → s.boarded t e = false → A.sh.fmt = -1 → B.sh.fmt = 3 →
      E.sh.fmt = 3 → E.sh.rows = A.sh.cols → E.sh.cols = B.sh.cols →
      ∃ s', exec (.mshaW6 gd rs q a b e) s =
          .next (s'.becomes t (t.begin (op [mUse a, mUse b, mUse e] false RealFlags.clear)).advance) ∧
        saturates s' fun j b =>
          ((block b).map fun i => A.elem t.lane i * (termOf (B.elem i j) + termOf (E.elem i j))).sum) ∧
    (s.Alone gd [qUse q, mUse a, mUse b] t → A.sh.fmt = -2 → B.sh.fmt = -2 →
      ∃ s' fl, exec (.mmaf gd rs q a b) s = .next (s'.becomes t (t.begin (op [mUse a, mUse b] true fl)).advance) ∧
        rounds s' fl fun j b v => mmafBlock v ((block b).map fun i => (A.elem t.lane i, B.elem i j))) ∧
    (s.Alone gd [qUse q, mUse a, mUse b, mUse e] t → s.boarded t e = false → A.sh.fmt = -1 → B.sh.fmt = -1 →
      E.sh.fmt = 4 → A.sh.rows ≤ E.sh.rows → (A.sh.cols + 26) / 27 ≤ E.sh.rows → 3 + B.sh.cols ≤ E.sh.cols →
      ∃ s' fl, exec (.mbs gd rs q a b e) s =
          .next (s'.becomes t (t.begin (op [mUse a, mUse b, mUse e] true fl)).advance) ∧
        rounds s' fl fun j b v => mbsBlock v ((block b).map fun i => A.elem t.lane i * B.elem i j).sum (E.elem t.lane b)
          (E.elem b (3 + j)))

/-- R230, R241 to R244, R268. TZERO of an accumulator row, AROW with and without clearing, and DRAIN: the words of the row of
the lane go to general registers with the overflow mark, or quantised to memory with their residues. An element of DRAIN:
the word times 3 to the power -QSH, to the nearest integer of the format or rounded or converted to it; its residue is the
error times 3 to the power -RSH, or 0 where word or element is no finite value; three elements of T3 make a tryte. In
deterministic mode the rows of DRAIN go to the buffer of the thread alone, and its flags are set at once. The tile faults:
subcode 3 for a row outside 0 to 80, 4 for a control word of AROW or DRAIN that is not valid. -/
def Obligations.AccumulatorRowResults : Prop :=
  (∀ (real : Bool) (c : DrainCtl) (x : Int), c.qfmt = -1 ∨ c.qfmt = 0 ∨ c.qfmt = 1 →
    let (y, r, fl) := drainElem real c x
    let none : RealFlags := ⟨false, false, false, false⟩
    let nearest (v : ℝ) (w : Nat) (z : Int) :=
      ∃ k : Int, |k - v| < 1 / 2 ∧ z = max (-(((3 : Int) ^ w - 1) / 2)) (min (((3 : Int) ^ w - 1) / 2) k)
    let finite := (real = true → tf27.Finite x) ∧ (c.qfmt = 1 → tf9.Finite y)
    ∃ (fq : RealFlags) (err : ℝ), (¬ finite → err = 0) ∧ (finite → err = (if real then (tf27.value x : ℝ) else x) -
        (if c.qfmt = 1 then (tf9.value y : ℝ) else y) * 3 ^ c.qsh) ∧
      (real = true → (y, fq) = convert (if c.qfmt = 1 then .tf9 else if c.qfmt = 0 then .t3 else .t9) .tf27 (-c.qsh) x) ∧
      (real = false → (c.qfmt = 1 → tf9.RoundsTo (x * 3 ^ (-c.qsh)) (y, fq)) ∧
        (c.qfmt ≠ 1 → nearest (x * 3 ^ (-c.qsh)) (if c.qfmt = 0 then 3 else 9) y ∧ fq = none)) ∧
      (c.rfmt = 0 → fl = fq) ∧ (c.rfmt = -1 → nearest (err * 3 ^ (-c.rsh)) 9 r ∧ fl = fq) ∧
      (c.rfmt = 1 → ∃ fr : RealFlags, tf9.RoundsTo (err * 3 ^ (-c.rsh)) (r, fr) ∧ fl = ⟨fq.inv || fr.inv, fq.ofl || fr.ofl,
        fq.ufl || fr.ufl, fq.inx || fr.inx⟩)) ∧
  (∀ l : List Int, (∀ v ∈ l, |v| ≤ 13) → (packT3 l).length = (l.length + 2) / 3 ∧
    ∀ i k, i < (l.length + 2) / 3 → k < 3 →
      trits ((packT3 l).getD i 0) (3 * k + 2) (3 * k) = l.getD (3 * i + k) 0 ∧ trits ((packT3 l).getD i 0) 26 9 = 0) ∧
  ∀ (gd : Guard) (rs : Trit) (d q c e : Nat) (s : State) (t : Thread), s.HasAcc t q → t.lane < 81 →
    Memory.wf (s.accAt t q).data = true →
    let x := t.readG c
    let acc := s.accAt t q
    let n := trits x 17 9
    let j0 := trits x 8 0
    let op (names : List RegUse) :=
      { LongOp.plain (t.raisedFlag rs) with dests := names ++ [qUse q], tileOp := some s.tick }
    let mark : Trit := if t.lane ∈ acc.rovf then .pos else .zero
    let reads := (List.range n.toNat).map fun k => (d + k, acc.word t.lane (j0.toNat + k))
    let arow := { op [] with
      dests := cUse e :: qUse q :: (List.range n.toNat).map fun k => gUse (d + k), gs := reads, cs := [(e, mark)] }
    let ctl : DrainCtl := ⟨trits x 20 17, trits x 16 15, trits x 14 13, trits x 12 8, trits x 7 3⟩
    let out (real : Bool) := (List.range ctl.ncol.toNat).map fun j => drainElem real ctl (acc.word t.lane j)
    let row (real : Bool) := if ctl.qfmt = 0 then packT3 ((out real).map fun o => o.1) else (out real).map fun o => o.1
    (s.Alone gd [qUse q, gUse c] t → 0 ≤ t.lane + x → t.lane + x ≤ 80 →
      ∃ s', exec (.tzeroQ gd rs q c) s = .next (s'.becomes t (t.begin (op [])).advance) ∧ s.OnlyAcc s' t q ∧
        AccRowPut acc (s'.accAt t q) (t.lane + x).toNat 27 (fun _ _ => 0) ∧
        ∀ i, i ∈ (s'.accAt t q).rovf ↔ i ∈ acc.rovf ∧ i ≠ (t.lane + x).toNat) ∧
    (s.Alone gd [gUse d, qUse q, gUse c, cUse e] t → trits x 26 18 = 0 → 1 ≤ n → 0 ≤ j0 → j0 + n ≤ 27 →
      d + n ≤ t.nregs →
      exec (.arow gd rs d q c e) s = .next (s.becomes t (t.begin arow).advance) ∧
      ∃ s', exec (.arowClr gd rs d q c e) s = .next (s'.becomes t (t.begin arow).advance) ∧ s.OnlyAcc s' t q ∧
        (∀ i j, j < 27 → (s'.accAt t q).word i j =
          if i = t.lane ∧ j0 ≤ j ∧ j < j0 + n then 0 else acc.word i j) ∧
        ∀ i, i ∈ (s'.accAt t q).rovf ↔ i ∈ acc.rovf ∧ i ≠ t.lane) ∧
    (s.Alone gd [aUse d, qUse q, gUse c, aUse e] t → trits x 26 21 = 0 → trits x 2 0 = 0 →
      1 ≤ ctl.ncol → ctl.ncol ≤ 27 → |ctl.qfmt| ≤ 1 → |ctl.rfmt| ≤ 1 → t.status.det = false →
      ∀ (i : Bool) (segs : List Seg),
        s.check (s.agentOf t) .store (t.readA d) (row i).length none false false = .ok segs →
        let drain : Instr := if i then .drainF gd rs d q c e else .drain gd rs d q c e
        let o := { op [] with flagging := true, sets := RealFlags.any ((out i).map fun o => o.2.2) }
        let s1 := s.noteSegs (s.agentOf t) segs
        (ctl.rfmt = 0 →
          exec drain s = .next (((s1.storeAll t.core .default segs (row i)).becomes t (t.begin o).advance).cleanedBy t.core
            (s.keysOf segs))) ∧
        (ctl.rfmt ≠ 0 → ∀ segs2,
          s.check (s.agentOf t) .store (t.readA e) ctl.ncol.toNat none false false = .ok segs2 →
          exec drain s = .next (((((s1.noteSegs (s.agentOf t) segs2).storeAll t.core .default segs (row i)).storeAll t.core
            .default segs2 ((out i).map fun o => o.2.1)).becomes t (t.begin o).advance).cleanedBy t.core
              (s.keysOf (segs ++ segs2))))) ∧
    (s.Alone gd [aUse d, qUse q, gUse c, aUse e] t → trits x 26 21 = 0 → trits x 2 0 = 0 →
      1 ≤ ctl.ncol → ctl.ncol ≤ 27 → |ctl.qfmt| ≤ 1 → |ctl.rfmt| ≤ 1 → t.status.det = true →
      ∀ (i : Bool) (segs : List Seg),
        s.check (s.agentOf t) .store (t.readA d) (row i).length none false false = .ok segs →
        let drain : Instr := if i then .drainF gd rs d q c e else .drain gd rs d q c e
        let s1 := s.noteSegs (s.agentOf t) segs
        let buffers (s' : State) (new : List BufTryte) :=
          (bufSectors (t.buf ++ new) ≤ 27 → exec drain s = .next (s'.becomes t
            (({ t with buf := t.buf ++ new } : Thread).raise (RealFlags.any ((out i).map fun o => o.2.2))).advance)) ∧
          (27 < bufSectors (t.buf ++ new) → exec drain s = .next (s'.becomes t { t with run := .quantum, resumed := false }))
        (ctl.rfmt = 0 → buffers s1 (s1.bufferOf .default t.quantum segs (row i))) ∧
        (ctl.rfmt ≠ 0 → ∀ segs2,
          s.check (s.agentOf t) .store (t.readA e) ctl.ncol.toNat none false false = .ok segs2 →
          let s2 := s1.noteSegs (s.agentOf t) segs2
          buffers s2 (s2.bufferOf .default t.quantum segs (row i) ++
            s2.bufferOf .default t.quantum segs2 ((out i).map fun o => o.2.1)))) ∧
    (t.status.intrap = false → t.trapvec ≠ 0 →
      (s.Alone gd [qUse q, gUse c] t → t.lane + x < 0 ∨ 80 < t.lane + x →
        CompletesAlone (.tzeroQ gd rs q c) s t (Thread.Trapped ⟨15, 3, 0⟩)) ∧
      (s.Alone gd [gUse d, qUse q, gUse c, cUse e] t →
        trits x 26 18 ≠ 0 ∨ n < 1 ∨ j0 < 0 ∨ 27 < j0 + n ∨ t.nregs < d + n →
        CompletesAlone (.arow gd rs d q c e) s t (Thread.Trapped ⟨15, 4, 0⟩) ∧
        CompletesAlone (.arowClr gd rs d q c e) s t (Thread.Trapped ⟨15, 4, 0⟩)) ∧
      (s.Alone gd [aUse d, qUse q, gUse c, aUse e] t →
        trits x 26 21 ≠ 0 ∨ trits x 2 0 ≠ 0 ∨ ctl.ncol < 1 ∨ 27 < ctl.ncol ∨ 1 < |ctl.qfmt| ∨ 1 < |ctl.rfmt| →
        CompletesAlone (.drain gd rs d q c e) s t (Thread.Trapped ⟨15, 4, 0⟩) ∧
        CompletesAlone (.drainF gd rs d q c e) s t (Thread.Trapped ⟨15, 4, 0⟩)))

/-- R180, R181, R213, R214. The cross-lane instructions and TBAR, where no member waits at the instruction with another
mask: the thread leaves its gang and waits with its effective mask and the values of its sources. The members a mask
operand names: every member of the group for g0, else those whose trit of three registers is +, and none where a
trit is -. Where a member waits at the instruction with another mask, the thread and every member that waits there take
convergence mismatch. -/
def Obligations.CrossLaneArrivals : Prop :=
  (∀ (gd : Guard) (sh : Shape) (op : RedOp) (d b c m cd k : Nat) (l : List Int) (s : State) (t : Thread),
    t.element = none → t.ops = [] →
    let mask := ((List.range 81).map fun i : Nat => (i : Int)).filter fun i => l.contains i || i == t.member
    let waits (i : Instr) (uses : List RegUse) (vals : List Int) (index : Int) (cond : Trit) :=
      s.Alone gd (uses ++ maskUses m) t →
        exec i s = .next (s.becomes t { t with run := .arrived ⟨i, t.instrAddr, mask, vals, index, cond⟩ })
    (t.maskOf m = some l → (∀ u ∈ s.waitingAt t.team t.grp t.instrAddr, u.arrival?.map Arrival.mask = some mask) →
      waits (.perm gd d b c m cd) [gUse d, gUse b, gUse c] [t.readG b] (t.readG c) .zero ∧
      waits (.shuf gd d b c m cd) [gUse d, gUse b, gUse c] [t.readG b] (t.readG c) .zero ∧
      waits (.bcast gd d b m cd) [gUse d, gUse b] [t.readG b] 0 .zero ∧
      waits (.vote gd d b m cd) [gUse d, cUse b] [] 0 (t.readC b) ∧
      waits (.ballot gd d b m cd) [gUse d, gUse (d + 1), gUse (d + 2), cUse b] [] 0 (t.readC b) ∧
      waits (.red gd sh op d b m cd) [gUse d, gUse b, cUse cd] [t.readG b] 0 .zero ∧
      waits (.scan gd sh op d b m cd) [gUse d, gUse b, cUse cd] [t.readG b] 0 .zero ∧
      waits (.zip gd sh d b m cd k) (runUses d b k) ((List.range k).map fun i => t.readG (b + i)) 0 .zero ∧
      waits (.unzip gd sh d b m cd k) (runUses d b k) ((List.range k).map fun i => t.readG (b + i)) 0 .zero ∧
      waits (.gbar gd m cd) [] [] 0 .zero) ∧
    (let here := s.waitingAt t.team t.grp t.instrAddr
     t.maskOf m = some l → (∃ u ∈ here, u.arrival?.map Arrival.mask ≠ some mask) → t ∉ here →
      (∀ u ∈ t :: here, u.status.intrap = false ∧ u.trapvec ≠ 0) → (s.threads.map Thread.id).Nodup →
      let clashes (i : Instr) (uses : List RegUse) := s.Alone gd (uses ++ maskUses m) t →
        ∃ s' : State, exec i s = .next s' ∧ { s' with threads := s.threads } = s ∧
          (∀ u ∈ s.threads, u ∉ t :: here → u ∈ s'.threads) ∧
          ∀ u ∈ t :: here, ∃ u', s'.thread? u.id = some u' ∧ Thread.Trapped ⟨14, 1, 0⟩ u u'
      clashes (.perm gd d b c m cd) [gUse d, gUse b, gUse c] ∧ clashes (.shuf gd d b c m cd) [gUse d, gUse b, gUse c] ∧
      clashes (.bcast gd d b m cd) [gUse d, gUse b] ∧ clashes (.vote gd d b m cd) [gUse d, cUse b] ∧
      clashes (.ballot gd d b m cd) [gUse d, gUse (d + 1), gUse (d + 2), cUse b] ∧
      clashes (.red gd sh op d b m cd) [gUse d, gUse b, cUse cd] ∧
      clashes (.scan gd sh op d b m cd) [gUse d, gUse b, cUse cd] ∧
      clashes (.zip gd sh d b m cd k) (runUses d b k) ∧ clashes (.unzip gd sh d b m cd k) (runUses d b k) ∧
      clashes (.gbar gd m cd) []) ∧
    (s.Alone gd [gUse b] t → 0 ≤ t.readG b → t.readG b < s.barCount t.id.bolt →
      (∀ u ∈ s.threads, u.team = t.team → u.id ≠ t.id → u.barrier? = none ∨ u.barrier? = some (t.readG b)) →
      exec (.tbar gd b) s = .next (s.becomes t { t with run := .barrier (t.readG b) }))) ∧
  (∀ (t : Thread) (m : Nat) (l : List Int),
    (t.maskOf 0 = some ((List.range (if t.status.width < 0 then 9 else if t.status.width = 0 then 27 else 81)).map
      fun i : Nat => (i : Int))) ∧
    (m ≠ 0 → (t.maskOf m = none ↔ ∃ w < 3, ∃ i < 27, trits (t.readG (m + w)) i i = -1)) ∧
    (m ≠ 0 → t.maskOf m = some l → ∀ x, x ∈ l ↔ ∃ w < 3, ∃ i < 27, x = (27 * w + i : Nat) ∧ trits (t.readG (m + w)) i i = 1))

/-- R181, R182, R212, R213, R216 to R222. When every named member has arrived or is absent, each arrived thread gets the
result of its instruction, - in the condition destination if a member is absent, and stands after the instruction. -/
def Obligations.CrossLaneResults : Prop :=
  ∀ (team : TeamId) (grp : Nat) (addr : Int) (s : State) (u : Thread) (a : Arrival),
    let ws := s.waitingAt team grp addr
    let l : Arrivals := ws.filterMap fun t => t.arrival?.map fun a => ((t.member : Int), a)
    let v (k : Nat) (m : Int) := Arrivals.val l k m
    let here (m : Int) := m ∈ a.mask ∧ 0 ≤ m ∧ m ≤ 80 ∧ ∃ w ∈ ws, (w.member : Int) = m
    let missing := ∃ m ∈ a.mask, s.absent team grp u.lanes m = true
    let rho := a.mask.findIdx fun x => x == (u.member : Int)
    let M := a.mask.length
    s.crossLaneReady team grp addr = true → (s.threads.map Thread.id).Nodup → u ∈ ws → u.arrival? = some a →
    u.Sized → (u.member : Int) ∈ a.mask →
    ∃ s' u', exec (.crossLaneCompletion team.bolt team.team grp addr) s = .next s' ∧ s'.thread? u.id = some u' ∧
      (∀ w ∈ s.threads, w ∉ ws → w ∈ s'.threads) ∧ u.Resumes u' ∧
      let c (cd : Nat) := u'.GotC cd (if missing then .neg else .pos)
      let pick (d cd : Nat) (x : Int) := u'.GotG d (if here x then v 0 x else 0) ∧
        u'.GotC cd (if missing then .neg else if here x then .pos else .zero) ∧ u.Keeps [gUse d, cUse cd] u'
      (∀ gd d b e m cd, a.instr = .perm gd d b e m cd → d < u.nregs → cd < 9 → pick d cd a.index) ∧
      (∀ gd d b e m cd, a.instr = .shuf gd d b e m cd → d < u.nregs → cd < 9 →
        let n := trits a.index 8 0
        (trits a.index 9 9 = -1 → pick d cd (u.member - n)) ∧ (trits a.index 9 9 = 1 → pick d cd (u.member + n)) ∧
        (trits a.index 9 9 = 0 → pick d cd (((List.range 4).map fun i =>
          ((u.member / 3 ^ i + (n % 81).toNat / 3 ^ i) % 3) * 3 ^ i).sum : Nat))) ∧
      (∀ gd d b m cd, a.instr = .bcast gd d b m cd → d < u.nregs → cd < 9 → a.mask.Pairwise (· < ·) →
        (∀ x, here x → (∀ y, here y → x ≤ y) → u'.GotG d (v 0 x)) ∧ c cd ∧ u.Keeps [gUse d, cUse cd] u') ∧
      (∀ gd d b m cd, a.instr = .vote gd d b m cd → d < u.nregs → cd < 9 →
        let cs := a.mask.map (Arrivals.cond l)
        (∃ lo hi, u'.GotG d (packElems .trytes [cs.sum, lo, hi]) ∧ lo ∈ cs ∧ hi ∈ cs ∧ ∀ x ∈ cs, lo ≤ x ∧ x ≤ hi) ∧
          c cd ∧ u.Keeps [gUse d, cUse cd] u') ∧
      (∀ gd d b m cd, a.instr = .ballot gd d b m cd → d + 2 < u.nregs → cd < 9 →
        (∀ w < 3, d + w ≠ 0 → ∀ i < 27, trits (u'.readG (d + w)) i i =
          if (27 * w + i : Int) ∈ a.mask then Arrivals.cond l (27 * w + i : Int) else 0) ∧ c cd ∧
          u.Keeps [gUse d, gUse (d + 1), gUse (d + 2), cUse cd] u') ∧
      (∀ gd sh op d b m cd, a.instr = .red gd sh op d b m cd → d < u.nregs → cd < 9 →
        (∃ r, u'.GotG d r ∧ ∀ k < elemCount sh,
          Reduces op sh.width (a.mask.map fun m => elem sh (v 0 m) k) (elem sh r k)) ∧ c cd ∧
          u.Keeps [gUse d, cUse cd] u') ∧
      (∀ gd sh op d b m cd, a.instr = .scan gd sh op d b m cd → d < u.nregs → cd < 9 →
        (∃ r, u'.GotG d r ∧ ∀ k < elemCount sh, Reduces op sh.width
          ((a.mask.filter fun x => decide (x ≤ (u.member : Int))).map fun m => elem sh (v 0 m) k) (elem sh r k)) ∧
          c cd ∧ u.Keeps [gUse d, cUse cd] u') ∧
      (∀ gd sh d b m cd k, a.instr = .zip gd sh d b m cd k → d + k ≤ u.nregs → cd < 9 →
        (∀ r < k, d + r ≠ 0 → ∀ e < elemCount sh, let p := (r * M + rho) * elemCount sh + e
          elem sh (u'.readG (d + r)) e =
            elem sh (v (p % k) (a.mask.getD (p / k / elemCount sh) (-1))) (p / k % elemCount sh)) ∧ c cd) ∧
      (∀ gd sh d b m cd k, a.instr = .unzip gd sh d b m cd k → d + k ≤ u.nregs → cd < 9 →
        (∀ r < k, d + r ≠ 0 → ∀ e < elemCount sh, let p := (rho * elemCount sh + e) * k + r
          elem sh (u'.readG (d + r)) e = elem sh (v (p / (M * elemCount sh))
            (a.mask.getD (p / elemCount sh % M) (-1))) (p % elemCount sh)) ∧ c cd) ∧
      (∀ gd m cd, a.instr = .gbar gd m cd → cd < 9 → c cd ∧ u.Keeps [cUse cd] u' ∧ s'.Acquired s u.core)

/-- R224, R225. When every thread of a team that has not exited waits at barrier b, each goes on after an acquire by its
core; while one has not arrived nothing changes; and threads that all wait at differing barriers take the mismatch. -/
def Obligations.TeamBarrierResults : Prop :=
  (∀ (team : TeamId) (b : Nat) (s : State) (u : Thread), (s.threads.map Thread.id).Nodup → s.teamLive team = true →
    u ∈ s.threads → u.team = team → u.run = .barrier b →
    ((∀ w ∈ s.threads, w.team = team → w.run = .barrier b ∨ w.run = .exited) →
      ∃ s' u', exec (.barrierCompletion team b) s = .next s' ∧ s'.thread? u.id = some u' ∧ u.Resumes u' ∧ u.Keeps [] u' ∧
        s'.Acquired s u.core ∧ ∀ w ∈ s.threads, w.team ≠ team → w ∈ s'.threads) ∧
    ((∃ w ∈ s.threads, w.team = team ∧ w.run ≠ .exited ∧ w.run ≠ .barrier b) →
      exec (.barrierCompletion team b) s = .next s)) ∧
  ∀ (gd : Guard) (b : Nat) (s : State) (t u : Thread), s.Alone gd [gUse b] t → t.element = none → t.ops = [] →
    0 ≤ t.readG b → t.readG b < s.barCount t.id.bolt → u ∈ s.threads → u.id ≠ t.id → u.team = t.team →
    (∀ w ∈ s.threads, w.team = t.team → w.status.intrap = false ∧ w.trapvec ≠ 0 ∧
      (w.id = t.id ∨ w.run = .exited ∨ ∃ k, w.run = .barrier k)) →
    (∃ k, u.run = .barrier k ∧ k ≠ t.readG b) → (s.threads.map Thread.id).Nodup →
    ∃ s' t' u', exec (.tbar gd b) s = .next s' ∧ s'.thread? t.id = some t' ∧ s'.thread? u.id = some u' ∧
      Thread.Trapped ⟨14, 2, 0⟩ t t' ∧ Thread.Trapped ⟨14, 2, 0⟩ u u'

/-- R43, R49, R263, R264, R292, R298. The checks of an access of n trytes at ea in their order: privilege, canonical
address, alignment, the sector of a LDH or STH; then translation, whose pieces cover the access, and at last the range
locks of the core. With a private window: an access that stands in one private word, or in two as an address pair at a word
boundary, is performed where those words of its lane lie, and raises stack limit below SPLIMIT; one that meets the window
otherwise is misaligned; one outside it goes as without a window. That a translation cause there has the address at which
the access is performed is the model's choice (log 73). An access that passes every other check and shares a tryte with a destination range on its core raises a
range-lock fault with subcode 1 at an address of both. -/
def Obligations.AccessChecks : Prop :=
  (∀ (s : State) (a : Agent) (p : Perm) (ea : Int) (n : Nat) (al : Option Align) (sector whole : Bool),
    a.win = none → p ≠ .fetch → p ≠ .none → 1 ≤ n →
    let r := s.check a p ea n al sector whole
    let user := a.system = false ∧ ea < 0
    let far := fits 48 ea = false ∨ fits 48 (ea + n - 1) = false
    let skew := ∃ k sub, al = some ⟨k, sub⟩ ∧ ea % k ≠ 0
    let split := sector = true ∧ ea / 81 ≠ (ea + n - 1) / 81
    (user → r = .error ⟨4, 3, ea⟩) ∧
    (¬ user → far → r = .error ⟨5, 1, if fits 48 ea then (3 ^ 48 - 1) / 2 + 1 else ea⟩) ∧
    (¬ user → ¬ far → ∀ k sub, al = some ⟨k, sub⟩ → ea % k ≠ 0 → r = .error ⟨7, sub, ea⟩) ∧
    (¬ user → ¬ far → ¬ skew → split → r = .error ⟨7, 3, ea⟩) ∧
    (¬ user → ¬ far → ¬ skew → ¬ split → s.leafFor a.queue a.qroot ea = none → r = .error ⟨6, 1, ea⟩) ∧
    (∀ segs, r = .ok segs → ¬ user ∧ ¬ far ∧ ¬ skew ∧ ¬ split ∧ (segs.map Seg.n).sum = n ∧
      (∀ g ∈ segs, ea ≤ g.v ∧ g.v + g.n ≤ ea + n ∧ permits g.leaf p = true) ∧
      ∀ l ∈ s.memLocks a.core, l.lo ≤ l.hi → lockSub l.kind p ≠ none → l.hi < ea ∨ ea + n - 1 < l.lo)) ∧
  (∀ (s : State) (a : Agent) (w : PrivWin) (p : Perm) (ea : Int) (n : Nat) (al : Option Align) (sector whole : Bool),
    a.win = some w → p ≠ .fetch → p ≠ .none → 1 ≤ n → a.system = true ∨ 0 ≤ ea →
    fits 48 ea = true → fits 48 (ea + n - 1) = true →
    let r := s.check a p ea n al sector whole
    let inside (x : Int) := w.plow ≤ x ∧ x < w.plow + 3 * w.pwords
    let place (x : Int) := w.base + 3 * (81 * ((x - w.plow) / 3) + w.lane) + (x - w.plow) % 3
    let oneWord := inside ea ∧ (ea - w.plow) % 3 + n ≤ 3
    let twoWords := whole = true ∧ n = 6 ∧ inside ea ∧ (ea - w.plow) % 3 = 0 ∧ inside (ea + 5)
    let covers (l : List Seg) (x : Int) (n : Nat) := (l.map Seg.n).sum = n ∧
      ∀ g ∈ l, x ≤ g.v ∧ g.v + g.n ≤ x + n ∧ permits g.leaf p = true
    ((∀ i < n, ¬ inside (ea + i)) → r = s.check { a with win := none } p ea n al sector whole) ∧
    ((∃ i < n, inside (ea + i)) → ¬ oneWord → ¬ twoWords → r = .error ⟨7, 1, ea⟩) ∧
    (oneWord ∨ twoWords → (∀ k sub, al = some ⟨k, sub⟩ → ea % k = 0) → (sector = true → ea / 81 = (ea + n - 1) / 81) →
      (ea < w.splimit → r = .error ⟨8, 1, ea⟩) ∧
      (w.splimit ≤ ea → s.leafFor a.queue a.qroot (place ea) = none → r = .error ⟨6, 1, place ea⟩) ∧
      ∀ segs, r = .ok segs → w.splimit ≤ ea ∧ (oneWord → covers segs (place ea) n) ∧
        (twoWords → ∃ l k, segs = l ++ k ∧ covers l (place ea) 3 ∧ covers k (place (ea + 3)) 3))) ∧
  (∀ (s : State) (a : Agent) (p : Perm) (ea : Int) (n core : Nat) (al : Option Align) (sector whole : Bool)
    (segs : List Seg) (l : Lock), a.win = none → p ≠ .fetch → p ≠ .none → (∀ l ∈ s.locks, l.core ≠ core) →
    s.check { a with core := core } p ea n al sector whole = .ok segs →
    l ∈ s.locks → l.core = a.core → l.scratch = false → l.kind = .dest →
    (∃ x, l.lo ≤ x ∧ x ≤ l.hi ∧ ea ≤ x ∧ x < ea + n) →
    ∃ x, s.check a p ea n al sector whole = .error ⟨16, 1, x⟩ ∧ ea ≤ x ∧ x < ea + n ∧
      ∃ l ∈ s.locks, l.core = a.core ∧ l.kind = .dest ∧ l.lo ≤ x ∧ x ≤ l.hi)

/-- R287, R299, R300, R302. The loads, once the access is checked and read: the operation is issued under the flag that
RAISE selects, with the value its trytes form, or with a deferred data poison and no result. The stores, once the
access is checked: the trytes of the source go to memory and the operation is issued; in deterministic mode they go
to the buffer of the thread alone and the store is done. -/
def Obligations.LoadAndStoreResults : Prop :=
  (∀ (gd : Guard) (h : Hint) (rs : Trit) (d b : Nat) (off : Int) (s s1 : State) (t : Thread) (vals : List Int) (mark : Nat),
    let ea := wrap 54 (t.readA b + off)
    let cause := if mark = 0 then none else some (Cause.mk 11 mark ea)
    let issues (i : Instr) (use : RegUse) (gs prs : List (Nat × Int)) :=
      s.Alone gd [use, aUse b] t → exec i s = .next (s1.becomes t (t.begin { LongOp.plain (t.raisedFlag rs) with
        gs := if mark = 0 then gs else [], prs := if mark = 0 then prs else [], dests := [use], cause := cause, load := true }).advance)
    let read (n : Nat) (al : Option Align) (sector whole : Bool) :=
      s.loadMem t h ea n al sector whole = .ok ((vals, mark), s1)
    (read 1 none false false → issues (.ld9 gd h rs d b off) (gUse d) [(d, vals.getD 0 0)] []) ∧
    (read 3 (some ⟨3, 1⟩) false true → issues (.ld27 gd h rs d b off) (gUse d) [(d, wordOfTrytes vals)] []) ∧
    (read 2 none true false → issues (.ldh gd h rs d b off) (gUse d) [(d, packElems .halves vals)] []) ∧
    (read 6 (some ⟨3, 2⟩) false true → issues (.lda gd h rs d b off) (aUse d) []
      [(d, wordOfTrytes vals + 3 ^ 27 * wordOfTrytes (vals.drop 3))])) ∧
  (∀ (gd : Guard) (h : Hint) (rs : Trit) (d b : Nat) (off : Int) (s : State) (t : Thread) (segs : List Seg),
    let ea := wrap 54 (t.readA b + off)
    let s1 := s.noteSegs (s.agentOf t) segs
    let issues (i : Instr) (use : RegUse) (al : Option Align) (sector whole : Bool) (vals : List Int) :=
      s.Alone gd [use, aUse b] t → s.check (s.agentOf t) .store ea vals.length al sector whole = .ok segs →
        (t.status.det = false → exec i s =
          .next ((s1.storeAll t.core h segs vals).becomes t (t.begin (LongOp.plain (t.raisedFlag rs))).advance)) ∧
        (t.status.det = true → bufSectors (t.buf ++ s1.bufferOf h t.quantum segs vals) ≤ 27 → exec i s =
          .next (s1.becomes t ({ t with buf := t.buf ++ s1.bufferOf h t.quantum segs vals } : Thread).advance)) ∧
        (t.status.det = true → 27 < bufSectors (t.buf ++ s1.bufferOf h t.quantum segs vals) → exec i s =
          .next (s1.becomes t { t with run := .quantum, resumed := false }))
    issues (.st9 gd h rs d b off) (gUse d) none false false [trits (t.readG d) 8 0] ∧
    issues (.st27 gd h rs d b off) (gUse d) (some ⟨3, 1⟩) false true
      [trits (t.readG d) 8 0, trits (t.readG d) 17 9, trits (t.readG d) 26 18] ∧
    issues (.sth gd h rs d b off) (gUse d) none true false
      [sat 9 (elem .halves (t.readG d) 0), sat 9 (elem .halves (t.readG d) 1)] ∧
    issues (.sta gd h rs d b off) (aUse d) (some ⟨3, 2⟩) false true
      ((List.range 6).map fun i => trits (t.readA d) (9 * i + 8) (9 * i)))

/-- R258, R262, R275, R276, R284, R287, R302. What a checked load within one sector of HBM reads: the core's own copy
where it is valid for every tryte, else all of them as they stand at the home slice; in deterministic mode always as at
the home slice. Threads, teams and locks are as before, and on a page with CACHE - nothing is allocated. A store
within one sector, where no cache holds anything: every tryte stored reads as its value at its home slice and every
other tryte of memory reads as before. Whatever the caches hold, after its own store within one sector a core sees
the values stored, nothing but memory and its caches changes, and every other tryte reads at its home slice as before where
the copies of it agree: a sector that two home slices cache is two locations (R273). -/
def Obligations.MemoryReadAndWritten : Prop :=
  (∀ (s : State) (t : Thread) (h : Hint) (ea : Int) (n : Nat) (al : Option Align) (sector whole : Bool) (g : Seg),
    s.check (s.agentOf t) .load ea n al sector whole = .ok [g] → 0 ≤ g.pa → g.pa.toNat % 81 + g.n ≤ 81 → 1 ≤ g.n →
    t.buf = [] →
    let home := s.homeOf (leafDom g.leaf) g.pa.toNat
    s.poisonAt home (g.pa.toNat / 81) = 0 → (∀ e ∈ s.l1, e.poison = 0) →
    s.MemorySound →
    let vals := if t.status.det then (List.range g.n).map fun i => s.peek home (g.pa.toNat + i)
      else s.finds t.core home g.pa.toNat g.n
    ∃ s1, s.loadMem t h ea n al sector whole = .ok ((vals, 0), s1) ∧
      s1.threads = s.threads ∧ s1.teams = s.teams ∧ s1.bolts = s.bolts ∧ s1.locks = s.locks ∧
      (leafCache g.leaf = .neg → { s1 with l1 := s.l1, stalled := s.stalled } = s.noteSegs (s.agentOf t) [g])) ∧
  (∀ (s : State) (core : Nat) (h : Hint) (g : Seg) (vals : List Int), Memory.wf s.hbm = true → s.l1 = [] →
    s.slices = [] → 0 ≤ g.pa →
    g.pa.toNat % 81 + g.n ≤ 81 → vals.length = g.n → 1 ≤ g.n →
    let s' := s.storeAll core h [g] vals
    let home := s.homeOf (leafDom g.leaf) g.pa.toNat
    (∀ i, i < g.n → s'.peek home (g.pa.toNat + i) = vals.getD i 0 ∧ s'.sees core home (g.pa.toNat + i) = vals.getD i 0) ∧
    (∀ home' pa, pa < g.pa.toNat ∨ g.pa.toNat + g.n ≤ pa → s'.peek home' pa = s.peek home' pa) ∧
    { s' with l1 := s.l1, slices := s.slices, hbm := s.hbm, hbmPoison := s.hbmPoison, stalled := s.stalled } = s) ∧
  (∀ (s : State) (core : Nat) (h : Hint) (g : Seg) (vals : List Int), s.MemorySound → 0 ≤ g.pa →
    g.pa.toNat % 81 + g.n ≤ 81 → vals.length = g.n →
    let s' := s.storeAll core h [g] vals
    let home := s.homeOf (leafDom g.leaf) g.pa.toNat
    (∀ i, i < g.n → s'.sees core home (g.pa.toNat + i) = vals.getD i 0 ∧ s'.peek home (g.pa.toNat + i) = vals.getD i 0) ∧
    (∀ home' pa, s.Agrees home' pa → pa < g.pa.toNat ∨ g.pa.toNat + g.n ≤ pa → s'.peek home' pa = s.peek home' pa) ∧
    { s' with l1 := s.l1, slices := s.slices, hbm := s.hbm, hbmPoison := s.hbmPoison, stalled := s.stalled } = s)

/-- R305. The scratchpad accesses: an offset within the bolt's scratchpad, aligned for a word and not locked. A load
issues the trytes of the team's scratchpad; a store writes them and leaves every other tryte of every scratchpad as
it was, and in deterministic mode it goes to the buffer of the thread alone (R287). An offset beyond the scratchpad takes
translation fault with subcode 3, a word at an offset that is no multiple of 3 misaligned access. -/
def Obligations.ScratchpadResults : Prop :=
  (∀ (gd : Guard) (rs : Trit) (d b : Nat) (off : Int) (s : State) (t : Thread) (m : Team),
    s.Alone gd [gUse d, gUse b] t → s.team? t.team = some m → t.buf = [] → m.scratchBad = [] →
    Memory.wf m.scratch = true →
    let o := t.readG b + off
    let within (p : Perm) (n : Nat) := 0 ≤ o ∧ o + n ≤ s.scratchSize t.id.bolt ∧
      lockFault (s.scratchLocks t.core t.team) p [(o, n)] = none
    let loaded (v : Int) := (t.begin { LongOp.plain (t.raisedFlag rs) with
      gs := [(d, v)], dests := [gUse d], load := true }).advance
    let stored (s' : State) (n : Nat) (v : Int) :=
      { s' with teams := s.teams } = s ∧ ∀ id k, (s'.team? id).map (fun u => memGet u.scratch k) =
        (s.team? id).map fun u => if id = t.team ∧ o ≤ k ∧ k < o + n then
          trits v (9 * (k - o.toNat) + 8) (9 * (k - o.toNat)) else memGet u.scratch k
    (within .load 1 → ∃ v, exec (.lds9 gd rs d b off) s = .next (s.becomes t (loaded v)) ∧ v = memGet m.scratch o.toNat) ∧
    (within .load 3 → o % 3 = 0 → exec (.lds27 gd rs d b off) s =
      .next (s.becomes t (loaded (memGetWord m.scratch o.toNat)))) ∧
    (t.status.det = false →
      (within .store 1 → ∃ s' : State, stored s' 1 (t.readG d) ∧ exec (.sts9 gd rs d b off) s =
        .next (s'.becomes t (t.begin (LongOp.plain (t.raisedFlag rs))).advance)) ∧
      (within .store 3 → o % 3 = 0 → ∃ s' : State, stored s' 3 (t.readG d) ∧ exec (.sts27 gd rs d b off) s =
        .next (s'.becomes t (t.begin (LongOp.plain (t.raisedFlag rs))).advance))) ∧
    (t.status.intrap = false → t.trapvec ≠ 0 →
      (o < 0 ∨ s.scratchSize t.id.bolt < o + 1 →
        CompletesAlone (.lds9 gd rs d b off) s t (Thread.Trapped ⟨6, 3, o⟩) ∧
        CompletesAlone (.sts9 gd rs d b off) s t (Thread.Trapped ⟨6, 3, o⟩)) ∧
      (o < 0 ∨ s.scratchSize t.id.bolt < o + 3 →
        CompletesAlone (.lds27 gd rs d b off) s t (Thread.Trapped ⟨6, 3, o⟩) ∧
        CompletesAlone (.sts27 gd rs d b off) s t (Thread.Trapped ⟨6, 3, o⟩)) ∧
      (0 ≤ o → o + 3 ≤ s.scratchSize t.id.bolt → o % 3 ≠ 0 →
        CompletesAlone (.lds27 gd rs d b off) s t (Thread.Trapped ⟨7, 1, o⟩) ∧
        CompletesAlone (.sts27 gd rs d b off) s t (Thread.Trapped ⟨7, 1, o⟩)))) ∧
  ∀ (gd : Guard) (rs : Trit) (d b : Nat) (off : Int) (s : State) (t : Thread), s.Alone gd [gUse d, gUse b] t →
    t.status.det = true →
    let o := t.readG b + off
    let buffers (i : Instr) (n : Nat) :=
      0 ≤ o → o + n ≤ s.scratchSize t.id.bolt → lockFault (s.scratchLocks t.core t.team) .store [(o, n)] = none →
      let new := (List.range n).map fun k => BufTryte.scratch (o.toNat + k) (trits (t.readG d) (9 * k + 8) (9 * k))
      (bufSectors (t.buf ++ new) ≤ 27 → exec i s = .next (s.becomes t ({ t with buf := t.buf ++ new } : Thread).advance)) ∧
      (27 < bufSectors (t.buf ++ new) → exec i s = .next (s.becomes t { t with run := .quantum, resumed := false }))
    buffers (.sts9 gd rs d b off) 1 ∧ (o % 3 = 0 → buffers (.sts27 gd rs d b off) 3)

/-- R281, R285, R288, R289, R307, R308. The atomics, checked and with no earlier operation outstanding: the word at its home
slice is replaced as one step by the stated function of it and of gc (by XCAS only where it equals gc), and gd is to get
the old word; every other tryte reads at its home slice as before where the copies of it agree (R273). In deterministic mode
the team then holds the trytes written; one that another team of the bolt holds is a
race, whose address is the lowest such one: such a tryte is not written, the others are written and held. That this address is the virtual one, and that a .sc atomic waits where
the sequencer is not in service, are the model's choices (logs 32 and 35). -/
def Obligations.AtomicResults : Prop :=
  (∀ (s : State) (team : TeamId) (cells : List (Nat × Nat × Int)),
    (s.raceOf team cells = none ↔ ∀ x ∈ cells, s.heldElsewhere team x.1 x.2.1 = false) ∧
    ∀ a, s.raceOf team cells = some a → (∃ x ∈ cells, s.heldElsewhere team x.1 x.2.1 = true ∧ x.2.2 = a) ∧
      ∀ x ∈ cells, s.heldElsewhere team x.1 x.2.1 = true → a ≤ x.2.2) ∧
  ∀ (gd : Guard) (o : Order) (rs : Trit) (d b c e : Nat) (s : State) (t : Thread) (g : Seg), t.ops = [] →
    s.check (s.agentOf t) .atomic (t.readA b) 3 (some ⟨3, 1⟩) false true = .ok [g] → 0 ≤ g.pa →
    g.pa.toNat % 81 + 3 ≤ 81 → g.n = 3 → s.MemorySound →
    let home := s.homeOf (leafDom g.leaf) g.pa.toNat
    let old := s.memWordAt home g.pa.toNat
    s.poisonAt home (g.pa.toNat / 81) = 0 →
    let races (i : Instr) (v : Int) := ∀ a, t.status.det = true → s.raceOf t.team (s.cellsAt [g]) = some a →
      t.status.intrap = false → t.trapvec ≠ 0 → ∃ (s' : State) (t' : Thread), exec i s = .next (s'.becomes t t') ∧
        Thread.Trapped ⟨17, 1, a⟩ t t' ∧ s.RaceLeft s' t (s.cellsAt [g]) ∧ s'.threads = s.threads ∧ s'.teams = s.teams ∧
        ∀ k < 3, s.heldElsewhere t.team home (g.pa.toNat + k) = false →
          s'.peek home (g.pa.toNat + k) = trits v (9 * k + 8) (9 * k)
    let xsum := ofTrits ((List.range 27).map fun i => wrap 1 (trits old i i + trits (t.readG c) i i))
    let done (i : Instr) (v : Int) := ∃ s' : State, exec i s = .next (s'.becomes t
        (t.begin { LongOp.plain (t.raisedFlag rs) with gs := [(d, old)], dests := [gUse d], load := true }).advance) ∧
      (o = .sc → s.sequencerReady = false → s'.stalled = true) ∧
      s'.memWordAt home g.pa.toNat = wrap 27 v ∧ s'.tickets = s.tickets + (if o = .sc then 1 else 0) ∧
      (o = .acq ∨ o = .sc → ∀ e ∈ s'.l1, e.core = t.core → ∀ k, e.valid.getD k false = true →
        e.owned.getD (k / 3) false = true) ∧ s'.threads = s.threads ∧ s'.teams = s.teams ∧
      ∀ home' pa, s.Agrees home' pa → pa < g.pa.toNat ∨ g.pa.toNat + 3 ≤ pa → s'.peek home' pa = s.peek home' pa
    (s.Alone gd [gUse d, aUse b, gUse c] t →
      races (.xadd gd o rs d b c) (old + t.readG c) ∧ races (.xmin gd o rs d b c) (min old (t.readG c)) ∧
      races (.xmax gd o rs d b c) (max old (t.readG c)) ∧ races (.xswp gd o rs d b c) (t.readG c) ∧
      races (.xsum gd o rs d b c) xsum) ∧
    (s.Alone gd [gUse d, aUse b, gUse c, gUse e] t → old = t.readG c → races (.xcas gd o rs d b c e) (t.readG e)) ∧
    (s.Alone gd [gUse d, aUse b, gUse c] t → s.MayClaim t (s.cellsAt [g]) →
      let done (i : Instr) (v : Int) := done i v ∧ (t.status.det = true →
        ∀ s', exec i s = .next s' → ∀ x ∈ s.cellsAt [g], (x.1, x.2.1, t.team) ∈ s'.heldTrytes)
      done (.xadd gd o rs d b c) (old + t.readG c) ∧ done (.xmin gd o rs d b c) (min old (t.readG c)) ∧
      done (.xmax gd o rs d b c) (max old (t.readG c)) ∧ done (.xswp gd o rs d b c) (t.readG c) ∧
      done (.xsum gd o rs d b c) xsum) ∧
    (s.Alone gd [gUse d, aUse b, gUse c, gUse e] t → fits 27 old = true →
      (old = t.readG c → s.MayClaim t (s.cellsAt [g])) →
      done (.xcas gd o rs d b c e) (if old = t.readG c then t.readG e else old))

/-- R68, R69, R147, R233, R244, R299, R300. A long-latency operation completes: its results are written, a pair by LDA, the
flags that it raises are set, its completion flag counts one
less and it is outstanding no more; a deferred cause joins the pending causes instead of a result. A tile operation completes
for every thread that it was issued for, and AROW then writes its words and its overflow mark. -/
def Obligations.CompletionResults : Prop :=
  (∀ (s : State) (t : Thread) (o : LongOp) (k d : Nat) (v : Int), s.thread? t.id = some t →
    (∀ u ∈ s.threads, u.id = t.id → u = t) → s.Calm → t.Sized → o ∈ t.ops → (t.ops.map LongOp.num).Nodup →
    o.tileOp = none → o.flag = some k → k < 12 → t.pend = [] → (∀ cd l n b, t.run ≠ .waiting cd l n b) →
    let left := { t with cflags := t.cflags.set k (t.cflags.getD k 0 - 1), ops := t.ops.filter fun x => x.num != o.num }
    (o.gs = [(d, v)] → o.prs = [] → o.cs = [] → o.cause = none → o.sets = RealFlags.clear → d < t.nregs →
      ∃ t', exec (.longLatencyCompletion t.id o.num) s = .next (s.becomes t t') ∧ t'.GotG d v ∧
        left.Keeps [gUse d] t' ∧ (t'.pc, t'.slot, t'.run) = (t.pc, t.slot, t.run)) ∧
    (o.gs = [] → o.prs = [(d, v)] → o.cs = [] → o.cause = none → d < 27 →
      ∃ t', exec (.longLatencyCompletion t.id o.num) s = .next (s.becomes t t') ∧ t'.readA d = v ∧
        left.Frame [aUse d] t' ∧ t'.flags = t.flags.or o.sets ∧ (t'.pc, t'.slot, t'.run) = (t.pc, t.slot, t.run)) ∧
    (o.gs = [] → o.prs = [] → o.cs = [] → o.cause = none →
      exec (.longLatencyCompletion t.id o.num) s = .next (s.becomes t { left with flags := t.flags.or o.sets })) ∧
    (∀ c, o.gs = [] → o.prs = [] → o.cs = [] → o.cause = some c → o.sets = RealFlags.clear →
      (∀ u ∈ o.dests, u ∉ t.slotUses) →
      exec (.longLatencyCompletion t.id o.num) s = .next (s.becomes t { left with pend := [⟨c, o.dests⟩] }))) ∧
  ∀ (s : State) (t : Thread) (o : LongOp) (k : Nat), s.thread? t.id = some t → s.Calm → (s.threads.map Thread.id).Nodup →
    o ∈ t.ops → (t.ops.map LongOp.num).Nodup → o.tileOp = some k → t.pend = [] →
    (∀ u ∈ s.threads, ∀ x ∈ u.ops, x.tileOp = some k → x.cause = none ∧ ∀ cd l n b, u.run ≠ .waiting cd l n b) →
    ∃ s' : State, exec (.longLatencyCompletion t.id o.num) s = .next s' ∧ { s' with threads := s.threads } = s ∧
      ∀ u ∈ s.threads, ((∀ x ∈ u.ops, x.tileOp ≠ some k) → u ∈ s'.threads) ∧
        ∀ x, (u.ops.find? fun x => x.tileOp == some k) = some x → u.Sized → (x.gs.map Prod.fst).Nodup →
          (∀ p ∈ x.gs, p.1 < u.nregs ∧ gUse p.1 ∈ x.dests) → x.prs = [] →
          (∀ p ∈ x.cs, p.1 < 9 ∧ cUse p.1 ∈ x.dests) → x.cs.length ≤ 1 →
          ∃ u', s'.thread? u.id = some u' ∧ (∀ p ∈ x.gs, u'.GotG p.1 p.2) ∧ (∀ p ∈ x.cs, u'.GotC p.1 p.2) ∧
            u'.flags = u.flags.or x.sets ∧ u'.ops = u.ops.filter (fun y => y.num != x.num) ∧
            (∀ i, gUse i ∉ x.dests → u'.readG i = u.readG i) ∧ (∀ i, u'.readA i = u.readA i) ∧
            (∀ i, cUse i ∉ x.dests → u'.readC i = u.readC i) ∧ (u'.pc, u'.slot, u'.run) = (u.pc, u.slot, u.run)

/-- R277, R292, R306, R309, R310, R311, R312, R313. The fences complete what the thread has outstanding and go on: REL, and
ACQ and FENCE after an acquire; CFENCE drops the captured clauses. PF and CPRI go on whatever their address is. PROBE
reports the leaf that maps an address or its absence. CFLUSH and CDROP over a range of addresses: the core's dirty
trytes of its lines go to their home slices; CFLUSH.mem leaves no dirty sector there, CDROP no copy in the core's L1,
and CDROP.code none in its instruction cache. None of them, nor PF or CPRI, loses a stored value: every tryte reads at its
home slice as before where the copies of it agree (a sector that two home slices cache is two locations, R273). A count outside 1 to 3^12 raises illegal instruction with subcode 5; that
TRAPADDR is then 0, the count being held in a register, is the model's choice (log 50). -/
def Obligations.FenceAndCacheResults : Prop :=
  (∀ (gd : Guard) (s : State) (t : Thread), s.Alone gd [] t →
    exec (.cfence gd) s = .next (s.becomes t ({ t with capture := [], fenced := true } : Thread).advance) ∧
    (t.run = .ganged → (t.ops.map LongOp.num).Nodup → (∀ o ∈ t.ops, o.cause = none ∧ o.tileOp = none) →
      ∃ (t' : Thread) (s' : State), exec (.rel gd) s = .next (s.becomes t t') ∧
        exec (.acq gd) s = .next (s'.becomes t t') ∧ exec (.fence gd) s = .next (s'.becomes t t') ∧
        s'.Acquired s t.core ∧ { s' with l1 := s.l1 } = s ∧ (t.ops = [] → t' = t.advance) ∧ t.GoesOn t' ∧ t'.ops = [] ∧
        (t'.rstack, t'.status, t'.pend, t'.buf) = (t.rstack, t.status, t.pend, t.buf))) ∧
  (∀ (gd : Guard) (h : Hint) (p : Trit) (b : Nat) (off : Int) (s : State) (t : Thread), s.Alone gd [aUse b] t →
    let kept (s' : State) := s'.threads = s.threads ∧ s'.teams = s.teams ∧
      (s.MemorySound → ∀ home pa, s.Agrees home pa → s'.peek home pa = s.peek home pa)
    (∃ s' : State, exec (.pf gd h b off) s = .next (s'.becomes t t.advance) ∧ kept s' ∧ (s.quietPiece t (wrap 54 (t.readA b + off)) = none → s' = s) ∧
      ∀ g, s.quietPiece t (wrap 54 (t.readA b + off)) = some g → leafCache g.leaf ≠ .neg →
        s.sliceAt (s.homeOf (leafDom g.leaf) g.pa.toNat) (g.pa.toNat / 81) = none →
        (s'.sliceAt (s.homeOf (leafDom g.leaf) g.pa.toNat) (g.pa.toNat / 81)).isSome = true) ∧
    ∃ s' : State, exec (.cpri gd b p) s = .next (s'.becomes t t.advance) ∧ s'.hbm = s.hbm ∧ s'.threads = s.threads ∧
      (∀ home pa, s'.peek home pa = s.peek home pa) ∧ (s.quietPiece t (t.readA b) = none → s' = s) ∧
      ∀ g, s.quietPiece t (t.readA b) = some g →
        (∀ e ∈ s'.l1, e.core = t.core → e.home = s.homeOf (leafDom g.leaf) g.pa.toNat →
          e.sector / 9 = g.pa.toNat / 729 → e.prio = p.toInt) ∧
        ∀ e ∈ s'.slices, e.home = s.homeOf (leafDom g.leaf) g.pa.toNat → e.sector / 9 = g.pa.toNat / 729 →
          e.prio = p.toInt) ∧
  (∀ (gd : Guard) (rs : Trit) (d b : Nat) (s : State) (t : Thread), s.Alone gd [gUse d, aUse b] t →
    t.status.system = true ∨ 0 ≤ t.readA b → fits 48 (t.readA b) = true →
    ∃ v, exec (.probe gd rs d b) s = .next (s.becomes t
        (t.begin { LongOp.plain (t.raisedFlag rs) with gs := [(d, v)], dests := [gUse d] }).advance) ∧
      (s.leafFor (s.agentOf t).queue (s.agentOf t).qroot (t.readA b) = none → v = -(3 ^ 26)) ∧
      (∀ e, s.leafFor (s.agentOf t).queue (s.agentOf t).qroot (t.readA b) = some (e, 3) →
        v = (trits e 25 8 + trits (t.readA b) 20 12) * 3 ^ 8 + trits e 7 0) ∧
      ∀ e, s.leafFor (s.agentOf t).queue (s.agentOf t).qroot (t.readA b) = some (e, 4) →
        v = 3 ^ 26 + trits e 25 8 * 3 ^ 8 + trits e 7 0) ∧
  (∀ (gd : Guard) (rs : Trit) (b c : Nat) (s : State) (t : Thread) (segs : List Seg), s.Alone gd [aUse b, gUse c] t →
    let issued := (t.begin (LongOp.plain (t.raisedFlag rs))).advance
    let kept (s' : State) := s'.threads = s.threads ∧ s'.teams = s.teams ∧
      (s.MemorySound → ∀ home pa, s.Agrees home pa → s'.peek home pa = s.peek home pa)
    let clean (s' : State) := ∀ e ∈ s'.l1, e.core = t.core → s.inLines segs e.home e.sector = true →
      (∀ k, e.dirty.getD k false = false) ∧ ∀ k, e.owned.getD k false = false
    (s.rangePieces t .load (t.readA b) (t.readG c) = .ok segs →
      (∃ s' : State, exec (.cflush gd rs b c) s = .next (s'.becomes t issued) ∧ kept s' ∧ clean s') ∧
      (∃ s' : State, exec (.cflushMem gd rs b c) s = .next (s'.becomes t issued) ∧ kept s' ∧ clean s' ∧
        ∀ e ∈ s'.slices, s.inLines segs e.home e.sector = true → e.dirty = false) ∧
      (∃ s' : State, exec (.cdrop gd rs b c) s = .next (s'.becomes t issued) ∧ kept s' ∧
        ∀ e ∈ s'.l1, e.core = t.core → s.inLines segs e.home e.sector = false)) ∧
    (s.rangePieces t .fetch (t.readA b) (t.readG c) = .ok segs →
      ∃ s' : State, exec (.cdropCode gd rs b c) s = .next (s'.becomes t issued) ∧ kept s' ∧ s'.l1 = s.l1 ∧
        s'.slices = s.slices ∧ s'.hbm = s.hbm ∧ (∀ home pa, s'.peek home pa = s.peek home pa) ∧
        ∀ e ∈ s'.icache, e.core = t.core → s.inLines segs e.home (9 * e.line) = false) ∧
    (t.readG c < 1 ∨ 3 ^ 12 < t.readG c → t.status.intrap = false → t.trapvec ≠ 0 →
      CompletesAlone (.cflush gd rs b c) s t (Thread.Trapped ⟨1, 5, 0⟩) ∧
      CompletesAlone (.cflushMem gd rs b c) s t (Thread.Trapped ⟨1, 5, 0⟩) ∧
      CompletesAlone (.cdrop gd rs b c) s t (Thread.Trapped ⟨1, 5, 0⟩) ∧
      CompletesAlone (.cdropCode gd rs b c) s t (Thread.Trapped ⟨1, 5, 0⟩)))

/-- R265, R281, R320 to R322, R334. A raise by n counts in COUNT, saturated; where TARGET is at least 1 and
is reached, GEN advances by the quotient modulo 3^18 and COUNT keeps the remainder. TARGET and ERR stay; setting ERR
changes nothing else of the word. A raise
from a thread's core at a sync word in memory, on one page or two, or in the scratchpad of a resident team: the word becomes the raised
word, and a thread that waits there for a generation now reached goes on with ERR in its condition. Words written by
a unit within one sector at its home slice read back there. -/
def Obligations.SyncWordRaise : Prop :=
  (∀ (w : SyncWord) (n : Int), 1 ≤ n → 0 ≤ w.count →
    let c := min (w.count + n) ((3 ^ 27 - 1) / 2)
    let r := w.raise n
    r.1.target = w.target ∧ r.1.err = w.err ∧
    (1 ≤ w.target → w.target ≤ c → r.1.count = c % w.target ∧ r.1.gen = wrap 18 (w.gen + c / w.target) ∧
      (r.2 : Int) = c / w.target ∧ 1 ≤ r.2) ∧
    (w.target < 1 ∨ c < w.target → r.1.count = c ∧ r.1.word2 = w.word2 ∧ r.2 = 0)) ∧
  (∀ (s : State) (core : Nat) (loc : SyncLoc) (n : Int) (w : SyncWord), s.MemorySound → s.syncAt loc = some w → 1 ≤ n →
    0 ≤ w.count → fits 27 w.count = true → fits 27 w.target = true → fits 27 w.word2 = true →
    (match loc with
      | .memory _ pa _ => 0 ≤ pa ∧ pa % 81 + 9 ≤ 81
      | .cut h pa _ k h' pa' _ => 0 ≤ pa ∧ 0 ≤ pa' ∧ 0 < k ∧ k < 9 ∧ pa % 81 + k ≤ 81 ∧ pa' % 81 + (9 - k) ≤ 81 ∧
          (pa + k ≤ pa' ∨ pa' + (9 - k) ≤ pa) ∧ s.OnlyAt h (pa / 81).toNat ∧ s.OnlyAt h' (pa' / 81).toNat
      | .scratch team off => 0 ≤ off ∧ ∃ m, s.team? team = some m ∧ m.state = .resident ∧ Memory.wf m.scratch = true) →
    let s' := s.raiseBy core loc core n
    s'.syncAt loc = some (w.raise n).1 ∧
    (s.setErr loc).syncAt loc = some (w.setErr .pos) ∧
    ((w.setErr .pos).count, (w.setErr .pos).target, (w.setErr .pos).gen, (w.setErr .pos).err) =
      (w.count, w.target, w.gen, .pos) ∧
    ∀ u ∈ s.threads, ∀ cd g b, u.run = .waiting cd loc g b → s.teamLive u.team = true → u.Sized → cd < 9 →
      (s.threads.map Thread.id).Nodup →
      ∃ u', s'.thread? u.id = some u' ∧
        (1 ≤ (w.raise n).2 → 0 ≤ wrap 18 ((w.raise n).1.gen - g) →
          u'.GotC cd w.err ∧ u.Resumes u' ∧ u.Keeps [cUse cd] u') ∧
        ((w.raise n).2 = 0 → u' = u)) ∧
  (∀ (s : State) (core home pa : Nat) (leaf : Word) (ws : List Int), s.MemorySound → pa % 81 + 3 * ws.length ≤ 81 →
    let s' := s.putWordsAt core home pa leaf ws
    (∀ i, i < ws.length → s'.memWordAt home (pa + 3 * i) = wrap 27 (ws.getD i 0)) ∧ s'.MemorySound ∧
      s'.threads = s.threads ∧ s'.teams = s.teams)

/-- R289, R320, R384, R385, R386, R387. The instructions on a sync word that the thread's team or memory holds: SARM arms it,
SADD raises it, SGET reads its three words, SWAIT and SPOOL go on where the generation is reached and else wait for it; one
that reads a poisoned sector takes data poison. In deterministic mode SARM and SADD hold the trytes that they write, and take
race trap where another team of the bolt holds one of them, which is not written. That TRAPADDR of the race trap is the
virtual address, and that SADD takes part in races at all, are the model's choices (log 32). SADD by a register below 1 raises
illegal instruction with subcode 5; that TRAPADDR is then 0 is the model's choice (log 50). -/
def Obligations.SyncInstructionResults : Prop :=
  ∀ (gd : Guard) (p : Place) (c d : Nat) (n : Int) (s : State) (t : Thread) (loc : SyncLoc) (mark : Nat) (w : SyncWord),
    s.syncAt loc = some w → t.ops = [] → t.run = .ganged →
    let raised (i : Instr) (n : Int) :=
      (s.MayClaim t (s.raiseCells t p loc n) → exec i s =
        .next (((s.holdFree t (s.raiseCells t p loc n)).raiseBy t.core loc t.core n).mapThread t.id Thread.advance)) ∧
      Races i s t (s.raiseCells t p loc n)
    (s.syncPlace t p .store = .ok (loc, mark) →
      (s.Alone gd [placeUse p, gUse c] t →
        (s.MayClaim t (syncCells t p loc) → ∃ w' : SyncWord, w'.count = 0 ∧ w'.target = t.readG c ∧ w'.gen = w.gen ∧
          w'.err = .zero ∧
          exec (.sarm gd p c) s = .next (((s.holdFree t (syncCells t p loc)).putSync t.core loc w').becomes t t.advance)) ∧
        Races (.sarm gd p c) s t (syncCells t p loc) ∧ (1 ≤ t.readG c → raised (.saddReg gd p c) (t.readG c)) ∧
        (t.readG c < 1 → t.status.intrap = false → t.trapvec ≠ 0 →
          CompletesAlone (.saddReg gd p c) s t (Thread.Trapped ⟨1, 5, 0⟩))) ∧
      (s.Alone gd [placeUse p] t → 1 ≤ n → raised (.sadd gd p n) n)) ∧
    (s.syncPlace t p .load = .ok (loc, mark) → mark ≠ 0 → t.status.intrap = false → t.trapvec ≠ 0 →
      let at_ := match p with
        | .g i => t.readG i
        | .a i => t.readA i
      (s.Alone gd [gUse d, gUse (d + 1), gUse (d + 2), placeUse p] t →
        CompletesAlone (.sget gd d p) s t (Thread.Trapped ⟨11, mark, at_⟩)) ∧
      (s.Alone gd [cUse d, placeUse p, gUse c] t →
        CompletesAlone (.swait gd d p c) s t (Thread.Trapped ⟨11, mark, at_⟩) ∧
        CompletesAlone (.spool gd d p c) s t (Thread.Trapped ⟨11, mark, at_⟩))) ∧
    (s.syncPlace t p .load = .ok (loc, 0) →
      (s.Alone gd [gUse d, gUse (d + 1), gUse (d + 2), placeUse p] t → d ≠ 0 →
        ∃ t', exec (.sget gd d p) s = .next ((s.visitLoc loc).becomes t t') ∧ t'.readG d = w.count ∧
          t'.readG (d + 1) = w.target ∧ t'.readG (d + 2) = w.word2 ∧
          t.Keeps [gUse d, gUse (d + 1), gUse (d + 2)] t' ∧ t.GoesOn t') ∧
      (s.Alone gd [cUse d, placeUse p, gUse c] t → t.pend = [] →
        let g := wrap 18 (t.readG c)
        (0 ≤ wrap 18 (w.gen - g) → ∃ (s' : State) (t' : Thread), s'.Acquired s t.core ∧ { s' with l1 := s.l1 } = s.visitLoc loc ∧
          exec (.swait gd d p c) s = .next (s'.becomes t t') ∧ exec (.spool gd d p c) s = .next (s'.becomes t t') ∧
          PutC d (fun _ => w.err) t t') ∧
        (wrap 18 (w.gen - g) < 0 →
          exec (.swait gd d p c) s = .next ((s.visitLoc loc).becomes t { t with run := .waiting d loc g false }) ∧
          exec (.spool gd d p c) s = .next ((s.visitLoc loc).becomes t { t with run := .waiting d loc g true }))))

/-- R291, R388, R389, R409. RLOCK and RLOCK.rd by a team of one core: where an entry is free and nothing conflicts the range
is registered there under the thread's next number and gd gets the handle; else the thread waits at the instruction, and a
cause that is pending for it ends the wait. Which number a lock gets, and that the handle of a deterministic thread names a
number of its own in place of the entry, are the model's choices (log 102). When a
range may register: an entry of the core's table is free, and no range registered there in the same space shares a
tryte with it unless both are sources. RUNLOCK releases the locks of its handle and RUNLOCK.torn the TORN locks that
contain a place, on the thread's core; the condition register is + where there was one and 0 where there was none. -/
def Obligations.RangeLockResults : Prop :=
  (∀ (gd : Guard) (dest : Bool) (d c : Nat) (l : Place) (s : State) (t : Thread) (m : Team) (r : LockRange),
    let i : Instr := if dest then .rlock gd d l c else .rlockRd gd d l c
    s.Alone gd [gUse d, placeUse l, gUse c] t → 1 ≤ t.readG c → t.readG c ≤ 3 ^ 12 →
    s.lockRange t l (t.readG c) dest = .ok r → s.team? t.team = some m → m.pair = false → m.core = t.core →
    let held (l : List (Int × ThreadId)) := l.filter fun x => x != (lockToken, t.id)
    (∀ k, s.freeEntry t.core = some k → s.canLock t.core t.team [r] false = true →
      t.pend = [] ∨ t.status.intrap = true ∨ (lockToken, t.id) ∉ s.tokens →
      exec i s = .next (({ s with
          locks := s.locks ++ [⟨t.core, k, t.team, .rlock (s.lockNumber t), r.scratch, r.lo, r.hi,
            if r.dest then .dest else .src⟩],
          tokens := held s.tokens } : State).becomes t
        ({ t.writeG d (s.lockNumber t * 3 ^ 9 + (if t.status.det then t.locks % 27 else k : Nat) * 3 ^ 4) with locks := t.locks + 1 } : Thread).advance)) ∧
    (s.canLock t.core t.team [r] false = false → t.pend = [] ∨ t.status.intrap = true →
      ∃ l, exec i s = .next { s with tokens := l } ∧ ∀ x, x ∈ l ↔ x ∈ s.tokens ∨ x = (lockToken, t.id)) ∧
    (∀ q rest, s.canLock t.core t.team [r] false = false ∨ (lockToken, t.id) ∈ s.tokens → t.pend = q :: rest →
      t.status.intrap = false → t.trapvec ≠ 0 →
      ∃ t', exec i s = .next (({ s with tokens := held s.tokens } : State).becomes t t') ∧ Thread.Trapped q.cause t t' ∧
        t'.pend = rest)) ∧
  (∀ (s : State) (core : Nat) (team : TeamId) (r : LockRange),
    s.canLock core team [r] false = true ↔
      (∃ k < 27, ∀ l ∈ s.locks, l.core = core → l.entry ≠ k) ∧
      ∀ l ∈ s.locks, l.core = core → l.scratch = r.scratch → (r.scratch = true → l.team = team) →
        l.lo ≤ r.hi → r.lo ≤ l.hi → r.dest = false ∧ l.kind = .src) ∧
  (∀ (gd : Guard) (d b i : Nat) (s : State) (t : Thread),
    (s.Alone gd [cUse d, gUse b] t → trits (t.readG b) 8 8 = 0 → trits (t.readG b) 3 0 = 0 →
      let mine (l : Lock) := l.team = t.team ∧ l.owner = .rlock (trits (t.readG b) 26 9)
      ∃ (s' : State) (t' : Thread), exec (.runlock gd d b) s = .next (s'.becomes t t') ∧ { s' with locks := s.locks } = s ∧
        (∀ l, l ∈ s'.locks ↔ l ∈ s.locks ∧ ¬ mine l) ∧
        ((∃ l ∈ s.locks, mine l) → PutC d (fun _ => .pos) t t') ∧
        ((¬ ∃ l ∈ s.locks, mine l) → PutC d (fun _ => .zero) t t')) ∧
    (s.Alone gd [cUse d, aUse i] t →
      let torn (l : Lock) := l.core = t.core ∧ l.kind = .torn ∧ l.scratch = false ∧ l.lo ≤ t.readA i ∧ t.readA i ≤ l.hi
      ∃ (s' : State) (t' : Thread), exec (.runlockTorn gd d (.a i)) s = .next (s'.becomes t t') ∧ { s' with locks := s.locks } = s ∧
        (∀ l, l ∈ s'.locks ↔ l ∈ s.locks ∧ ¬ torn l) ∧
        ((∃ l ∈ s.locks, torn l) → PutC d (fun _ => .pos) t t') ∧
        ((¬ ∃ l ∈ s.locks, torn l) → PutC d (fun _ => .zero) t t')))

/-- R334 to R336, R397 to R399. The work lists. APPEND offers its item and holds; the compaction unit counts it in PEND,
stores it at TAIL and advances TAIL, or answers 0 when the list is full; TAKE takes the item at HEAD, or answers 0
when the list is empty; an invalid header answers -; QDONE counts PEND down and raises the sync word after it at 0. In
deterministic mode TAKE and QDONE hold the word that they write, or take race trap. A poisoned header gives APPEND the answer -;
that TAKE traps at once on a header or an item that is poisoned is the model's choice (log 47), as are that the unit waits
for its readiness trit (log 35) and the virtual address of a race (log 32). -/
def Obligations.WorkListResults : Prop :=
  ∀ (gd : Guard) (d b c : Nat) (s : State) (t : Thread) (p : HomePlace), t.ops = [] → t.run = .ganged →
    (s.Alone gd [cUse d, aUse b, gUse c] t → s.listPlace (s.agentOf t) (t.readA b) 27 (some ⟨81, 3⟩) = .ok p →
      exec (.append gd d b c) s =
        .next (({ s with appends := s.appends ++ [⟨t.id, d, t.readA b, t.readG c⟩] } : State).becomes t
          { t with run := .answer })) ∧
    (∀ r rest, s.appends = r :: rest → r.id = t.id → s.thread? t.id = some t →
      (∀ u ∈ s.threads, u.id = t.id → u = t) → s.listPlace (s.listAgent t) r.list 27 none = .ok p →
      let h := s.header p
      let s0 : State := { s.needs s.compactionReady with appends := rest }
      let answer (v : Trit) := (t.writeC r.cd v).resume s.tick
      (p.poison ≠ 0 ∨ h.ok = false → exec .appendAnswer s = .next (s0.becomes t (answer .neg))) ∧
      (p.poison = 0 → h.ok = true → ∀ pool ring, s.listPlace (s.listAgent t) h.pool 3 (some ⟨3, 1⟩) = .ok pool →
        s.listPlace (s.listAgent t) (wrap 54 (h.ring + 3 * (h.tail % h.cap))) 3 (some ⟨3, 1⟩) = .ok ring →
        (h.cap ≤ h.tail - h.head → exec .appendAnswer s = .next ((s0.visitLoc p.loc).becomes t (answer .zero))) ∧
        (h.tail - h.head < h.cap → exec .appendAnswer s = .next ((((s0.putWordAt t.core pool.loc
          (wrap 27 (s.wordAt pool.loc + 1))).putWordAt t.core ring.loc r.item).putWordAt t.core (p.loc.up 3)
          (wrap 27 (h.tail + 1))).becomes t (answer .pos))))) ∧
    (s.Alone gd [gUse d, aUse b, cUse c] t → s.listPlace (s.agentOf t) (t.readA b) 27 (some ⟨81, 3⟩) = .ok p →
      let h := s.header p
      let cells := p.loc.cells (t.readA b) 3
      (p.poison ≠ 0 → t.status.intrap = false → t.trapvec ≠ 0 →
        CompletesAlone (.take gd d b c) s t (Thread.Trapped ⟨11, p.poison, t.readA b⟩)) ∧
      (p.poison = 0 → h.ok = false →
        ∃ t', exec (.take gd d b c) s = .next ((s.visitLoc p.loc).becomes t t') ∧ PutC c (fun _ => .neg) t t') ∧
      (p.poison = 0 → h.ok = true → h.head = h.tail →
        ∃ t', exec (.take gd d b c) s = .next ((s.visitLoc p.loc).becomes t t') ∧ PutC c (fun _ => .zero) t t') ∧
      (p.poison = 0 → h.ok = true → h.head ≠ h.tail → ∀ ring,
        let item := wrap 54 (h.ring + 3 * (h.head % h.cap))
        s.listPlace (s.listAgent t) item 3 (some ⟨3, 1⟩) = .ok ring →
        (ring.poison ≠ 0 → t.status.intrap = false → t.trapvec ≠ 0 →
          CompletesAlone (.take gd d b c) s t (Thread.Trapped ⟨11, ring.poison, item⟩)) ∧
        (ring.poison = 0 → Races (.take gd d b c) s t cells ∧ (s.MayClaim t cells → exec (.take gd d b c) s =
          .next ((((((s.visitLoc p.loc).holdFree t cells).visitLoc ring.loc).putWordAt t.core p.loc
            (h.head + 1)).acquire t.core).becomes t
              ((t.writeG d (s.wordAt ring.loc)).writeC c .pos).advance))))) ∧
    (s.Alone gd [aUse b] t → s.poolPlace t (t.readA b) = .ok p →
      let v := wrap 27 (s.wordAt p.loc - 1)
      let cells := p.loc.cells (t.readA b) 3
      let s1 := (s.holdFree t cells).putWordAt t.core p.loc v
      Races (.qdone gd b) s t cells ∧ (s.MayClaim t cells → ∀ segs loc,
        s1.check (s1.freeAgent t) .none (t.readA b + 3) 9 none false true = .ok segs → s1.placeOfSegs segs = some loc →
        loc.below = false → exec (.qdone gd b) s = .next ((if v = 0 then
          (s1.needs s1.compactionReady).raiseBy t.core loc t.core 1 else s1).mapThread t.id Thread.advance)))

/-- R293, R319, R382, R383. ENGAGE with a free place of the core on the engine enters a chain at the offset in gb under the
next number and gives its handle, and the chain keeps the memory that its entries read, as it stands at the release (the
model's form of R293, log 84); without a place, or behind another that waits, the thread waits. EPOLL reads the state word
of a handle's chain. -/
def Obligations.EngageResults : Prop :=
  ∀ (gd : Guard) (d b : Nat) (eng : Int) (s : State) (t : Thread) (m : Team), t.ops = [] → s.team? t.team = some m →
    let off := t.readG b
    let key := placeToken t.core eng
    (s.Alone gd [gUse d, gUse b] t → -1 ≤ eng → eng ≤ 1 → 0 ≤ off → off + 81 ≤ s.scratchSize t.id.bolt → off % 81 = 0 →
      ((s.placed t.core eng).length < 9 → s.firstFor key t.id = true →
        ∃ (s' : State) (m' : Team) (c : Chain), exec (.engage gd d b eng) s =
            .next (s'.becomes t (t.writeG d (m.nextSeq * 3 ^ 9 + eng * 3 ^ 7)).advance) ∧
          { s' with teams := s.teams, tokens := s.tokens } = s ∧ s'.team? t.team = some m' ∧ m'.nextSeq = wrap 18 (m.nextSeq + 1) ∧ c ∈ m'.chains ∧
          (c.seq, c.engine, c.core, c.issuer, c.pos, c.lp, c.flight, c.state, c.stat) =
            (m.nextSeq, eng, t.core, t.id, off, none, [], 0, 0) ∧ c.asOf = s.snapshot t.team ∧
          (∀ x ∈ m.chains, x.state = 0 → x ∈ m'.chains) ∧ (key, t.id) ∉ s'.tokens) ∧
      (9 ≤ (s.placed t.core eng).length ∨ s.firstFor key t.id = false → ∃ s' : State,
        exec (.engage gd d b eng) s = .next (s'.becomes t { t with resumed := false }) ∧ (key, t.id) ∈ s'.tokens ∧
        { s' with tokens := s.tokens } = s)) ∧
    (s.Alone gd [gUse d, gUse b] t → CompletesAlone (.epoll gd d b) s t (Word1 d fun _ =>
      match m.chain? (trits (t.readG b) 26 9) with
      | none => 2
      | some c => if (m.nextSeq - c.seq) % 3 ^ 18 ≤ 27 ∧ c.engine = trits (t.readG b) 8 7 ∧ trits (t.readG b) 6 0 = 0
        then c.word else 2))

/-- R291, R293, R324 to R327. An entry that accesses memory is issued once its ranges register: it enters flight and the
chain goes on. It waits while they cannot, and one whose records or fields, as they stood at the release, are not valid ends
its chain with BADENTRY. The memory as of the release is the model's form of R293 (log 84). -/
def Obligations.ChainEntryIssues : Prop :=
  ∀ (team : TeamId) (seq : Int) (s : State) (m : Team) (c : Chain) (ws : List Int) (ref : Option SyncLoc) (k : Int),
    s.team? team = some m → m.id = team → s.liveChain team seq = some c → c.seq = seq → s.current team c = .ok ws →
    entryKind (ws.getD 0 0) = some k → 1 ≤ k → k ≤ 4 → s.entryRef (s.unitCtx team c.system) ws = .ok ref →
    (∀ w r, (s.viewOf team c).workOf team c.engine c.sshift ws = .ok w → s.reach (s.unitCtx team c.system) w c.sshift c.dshift = .ok r →
      entryOverlaps w r = false →
      (∀ s1, s.lockAll m.cores team (.entry seq c.pos c.iter) (entryRanges w r) (w.kind != .decomp) = some s1 →
        exec (.chainEntryIssue team seq) s = .next (s1.mapChain team seq fun c => { c.passEntry 0 with
          flight := c.flight ++ [newFlight c w ref (trits (ws.getD 0 0) 23 23)] })) ∧
      (s.lockAll m.cores team (.entry seq c.pos c.iter) (entryRanges w r) (w.kind != .decomp) = none →
        exec (.chainEntryIssue team seq) s = .next s)) ∧
    ((s.viewOf team c).workOf team c.engine c.sshift ws = .error badEntry → ref = none → c.stat = 0 → c.flight = [] → c.state = 0 →
      (∀ x ∈ m.chains, x.seq = seq → x = c) →
      ∃ s' m' c', exec (.chainEntryIssue team seq) s = .next s' ∧ s'.team? team = some m' ∧ m'.chain? seq = some c' ∧
        c'.state = -1 ∧ c'.stat = 1 ∧ c'.endPos = c.pos / 81 ∧ { s' with teams := s.teams } = s)

/-- R325, R326, R381. The entries that direct a chain: LOOP sets the entries that follow to run k times with stepped
bases, COND skips entries unless its test holds, SIGNAL raises its sync word, STOP completes the chain; the last
three wait until no entry is in flight. Where a chain goes after an entry, skipping n: on; or at the end of the
entries of a LOOP back to its first until it has run k times, and then past it. That a COND whose skip runs past the end
of a LOOP ends the pass, and that it reads a trit as of the release and a generation as it stands, are the model's choices
(logs 45 and 84). -/
def Obligations.ChainControlResults : Prop :=
  (∀ (team : TeamId) (seq : Int) (s : State) (c : Chain) (ws : List Int), s.liveChain team seq = some c →
    s.current team c = .ok ws →
    let kind := entryKind (ws.getD 0 0)
    let ctx := s.unitCtx team c.system
    let n := trits (ws.getD 3 0) 26 24
    let k := trits (ws.getD 3 0) 23 15
    (kind = some 5 → namesNone ws = true → trits (ws.getD 0 0) 22 22 ≠ 1 → c.lp = none → 1 ≤ n → n ≤ 8 → 1 ≤ k →
      trits (ws.getD 3 0) 14 0 = 0 → allZero (ws.drop 6) = true →
      exec (.chainLoop team seq) s = .next (s.mapChain team seq fun c => { c with
        pos := c.pos + 81, lp := some ⟨c.pos + 81, n, k, 0, ws.getD 4 0, ws.getD 5 0⟩ })) ∧
    (kind = some 6 → condOk ws = true →
      (c.flight ≠ [] → exec (.cond team seq) s = .next s) ∧
      (c.flight = [] → ∀ b, s.condHolds (s.viewOf team c) ctx ws = .ok b →
        exec (.cond team seq) s = .next ((s.visitAll (s.condPlaces ctx ws)).mapChain team seq fun c =>
          c.passEntry (if b then 0 else n)))) ∧
    (kind = some 7 → ∀ ref, s.entryRef ctx ws = .ok (some ref) → 1 ≤ ws.getD 3 0 → allZero (ws.drop 4) = true →
      (c.flight ≠ [] → exec (.signal team seq) s = .next s) ∧
      (c.flight = [] → exec (.signal team seq) s =
        .next ((s.raise ref c.core (ws.getD 3 0)).mapChain team seq fun c => c.passEntry 0))) ∧
    (kind = some 0 →
      (c.flight ≠ [] → exec (.stop team seq) s = .next s) ∧
      (c.flight = [] → exec (.stop team seq) s = .next (s.mapChain team seq fun c =>
        { c with state := 1, endPos := c.pos / 81, endIter := c.iter })))) ∧
  (∀ (c : Chain) (n : Int), 0 ≤ n →
    (c.lp = none → (c.passEntry n).pos = c.pos + 81 * (1 + n) ∧ (c.passEntry n).lp = none) ∧
    ∀ l, c.lp = some l →
      (c.pos + 81 * (1 + n) < l.first + 81 * l.n → (c.passEntry n).pos = c.pos + 81 * (1 + n) ∧ (c.passEntry n).lp = some l) ∧
      (l.first + 81 * l.n ≤ c.pos + 81 * (1 + n) →
        (l.iter + 1 < l.k → (c.passEntry n).pos = l.first ∧ (c.passEntry n).lp = some { l with iter := l.iter + 1 }) ∧
        (l.k ≤ l.iter + 1 → (c.passEntry n).pos = l.first + 81 * l.n ∧ (c.passEntry n).lp = none)))

/-- R293, R322, R325, R328, R329, R381. COPY, CONV, DECOMP and FILL read their elements as of the release (log 84) and
compute them: the entry then has the trytes to write in parts of one sector, with what its elements give, or the status with which it will end. What one
element of an entry becomes: FILL and a plain COPY write the value itself, CONV saturates an integer to a narrower
one, and ACC of +1 adds to the old element. -/
def Obligations.EntryComputation : Prop :=
  (∀ (team : TeamId) (seq off : Int) (k : EntryKind) (s : State) (c : Chain) (f : Flight) (r : Reach),
    let i : Instr := match k with
      | .copy => .copy team seq off
      | .conv => .conv team seq off
      | .decomp => .decomp team seq off
      | .fill => .fill team seq off
    let ready (f : Flight) := f.off == off && f.work.kind == k && !f.computed
    s.flight? team seq ready = some (c, f) →
    (∀ m ∈ s.teams, m.id = team → ∀ x ∈ m.chains, x.seq = seq → x = c) → (∀ a, f.work.src = some a → a.space ≠ 1) →
    s.reach (s.unitCtx team c.system) f.work f.sshift f.dshift = .ok r →
    ∃ f', exec i s = .next ((s.visitAll (s.readPlaces (s.unitCtx team c.system) f)).mapFlight team seq ready fun _ => f') ∧
      f'.computed = true ∧
      (f'.off, f'.iter, f'.work, f'.ref, f'.raise, f'.total, f'.started) =
        (f.off, f.iter, f.work, f.ref, f.raise, f.total, f.started) ∧
      (k ≠ .decomp → (s.workOut (s.viewOf team c) f.work r).2 = none → f'.stat = 0) ∧
      (k ≠ .decomp → ∀ x, (s.workOut (s.viewOf team c) f.work r).2 = some x → f'.stat = 4 ∧ f'.addr = x) ∧
      (k ≠ .decomp → ∀ x, x ∈ f'.todo.flatten ↔ x ∈ (s.workOut (s.viewOf team c) f.work r).1) ∧
      (k = .decomp → (f'.stat, f'.addr) = (s.decompOut (s.viewOf team c) f.work r).2 ∧
        ∀ x, x ∈ f'.todo.flatten ↔ x ∈ (s.decompOut (s.viewOf team c) f.work r).1) ∧
      ∀ part ∈ f'.todo, ∀ x ∈ part, ∀ y ∈ part, sectorKey x.loc = sectorKey y.loc) ∧
  ((∀ v, convElem 1 (-1) 0 v = max (-9841) (min 9841 v)) ∧ (∀ v, convElem (-1) 1 0 v = max (-(maxTrits 27)) (min (maxTrits 27) v)) ∧
  (∀ v, convElem 1 4 0 v = max (-13) (min 13 v)) ∧
  (∀ old y, accElem 1 (-1) old y = wrap 9 (old + y)) ∧ (∀ old y, accElem 2 1 old y = sat 27 (old + y)) ∧
  (∀ old y, accElem (-1) 1 old y = min old y) ∧ (∀ old y, accElem (-2) 1 old y = max old y) ∧
  ∀ (s : State) (o : Out) (d : Tensor) (a v : Int) (l : SyncLoc), d.fmt = -1 → fits 9 v = true →
    Out.get (s.writeElem o d [⟨a, [l], 0⟩] v) s l = v ∧
    ∀ l', l.same l' = false → Out.get (s.writeElem o d [⟨a, [l], 0⟩] v) s l' = Out.get o s l')

/-- R295, R296, R322, R327, R333, R450. How an entry in flight goes on: a part that no command still to complete shares its
sector with lands and raises its sync word where RAISE is 0, a storage command brings its bytes or its status and the engine
rings the completion doorbell of its drive, a reset abandons the entry, and an entry that has done all completes. A storage
entry is divided into commands of whole blocks within the transfer limit, one after another. That a drive that is not in
service completes nothing is the model's choice (log 35), and so are the commands that an entry leaves out (log 86). An entry
that ends with a status other than OK makes no raise of its completion: it sets ERR of its sync word, stops its chain with
its status and place, where no earlier entry has, releases its locks but those marked TORN, and a status FAULT, POISON or
STORAGE bears a cause to the issuing thread. -/
def Obligations.EntryProgress : Prop :=
  (∀ (team : TeamId) (seq off : Int) (s : State) (c : Chain) (f : Flight),
    let finished (f : Flight) := f.off == off && f.done
    let drop (c : Chain) (f : Flight) : Chain :=
      { c with flight := c.flight.filter fun x => !(x.off == f.off && x.iter == f.iter) }
    (∀ part, s.ripeFlight team seq off = some (c, f, part) →
      let n : Int := ((part.filter PartCell.counts).length : Nat)
      let s1 := (s.writePart noCore part).noteUnit (s.coresOf team) (part.map fun x => (x.loc, x.v))
      let s2 := match f.ref with
        | some l => if f.raise = 0 ∧ 1 ≤ n then s1.raise l c.core n else s1
        | none => s1
      f ∈ c.flight ∧ f.off = off ∧ f.computed = true ∧ part ∈ f.todo ∧
      (f.stat = 0 → ∀ r ∈ f.cmds, r.done = false → ∀ i < r.bytes,
        ∀ l ∈ s.bytePlaces (s.unitCtx team c.system) f (r.first + i : Nat), ∀ x ∈ part, sectorKey x.loc ≠ sectorKey l) ∧
      exec (.entryPartWritten team seq off) s = .next (s2.mapFlight team seq (· == f) fun f =>
        { f with todo := f.todo.erase part, total := f.total + n, started := true })) ∧
    (∀ (cmd status : Nat) (bytes : List (BitVec 8)),
      let waiting (f : Flight) := f.off == off && f.cmds.any fun r => r.cid == some cmd && !r.done
      s.flight? team seq waiting = some (c, f) → ∀ r, (f.cmds.find? fun r => r.cid == some cmd && !r.done) = some r →
      bytes.length = r.bytes → s.driveReady r.drive = true →
      let s1 := s.stageRead r.drive cmd status bytes
      let gone (f : Flight) : Flight := { f with cmds := f.cmds.map fun q => if q = r then { q with done := true } else q }
      let depth := max 1 (s.queueDepth r.drive)
      s1.doorbells = s.doorbells ++ [⟨tritAt (s.stortab r.drive 0) 25,
        s.stortab r.drive 4 + 3 ^ 27 * s.stortab r.drive 5, ((s.queueAt r.drive).2 + 1) % depth⟩] ∧
      (f.stat ≠ 0 → exec (.nvmeCommandCompletion team seq off cmd ⟨status, bytes⟩) s =
        .next (s1.mapFlight team seq waiting gone).sendReads) ∧
      (f.stat = 0 → status ≠ 0 → exec (.nvmeCommandCompletion team seq off cmd ⟨status, bytes⟩) s =
        .next (s1.mapFlight team seq waiting fun f => { gone f with stat := 7, addr := (status : Int) }).sendReads) ∧
      (f.stat = 0 → status = 0 → ∀ x, s1.storeBytes (s1.unitCtx team c.system) f r bytes = .error x →
        exec (.nvmeCommandCompletion team seq off cmd ⟨0, bytes⟩) s =
          .next (s1.mapFlight team seq waiting fun f => { gone f with stat := 3, addr := x }).sendReads) ∧
      (f.stat = 0 → status = 0 → ∀ o, s1.storeBytes (s1.unitCtx team c.system) f r bytes = .ok o →
        exec (.nvmeCommandCompletion team seq off cmd ⟨0, bytes⟩) s =
          .next (s1.mapFlight team seq waiting fun f => { gone f with todo := partsOf o }).sendReads)) ∧
    (s.flight? team seq finished = some (c, f) → f.stat = 0 →
      let s1 := match f.ref with
        | some l => if f.raise = 1 ∧ 1 ≤ f.total then s.raise l c.core f.total else s
        | none => s
      let owner := LockOwner.entry seq f.off f.iter
      let s2 := if f.work.kind = .decomp then s1.unlock team owner else s1.unlockDone team owner
      exec (.entryCompletion team seq off) s = .next ((({ s2 with orphans := s2.orphans ++ f.orphans team seq } : State).mapChain
        team seq fun c => drop c f).mapChain team seq Chain.settle)) ∧
    (s.flight? team seq finished = some (c, f) → f.stat ≠ 0 →
      let owner := LockOwner.entry seq f.off f.iter
      let s1 := ({ s with
        locks := s.locks.filter fun l => !(l.team == team && l.owner == owner && l.kind != .torn)
        orphans := s.orphans ++ f.orphans team seq } : State).mapChain team seq fun c => drop c f
      let s2 := match f.ref with
        | some l => s1.setErr l
        | none => s1
      let s3 : State := if f.stat = 3 ∨ f.stat = 4 ∨ f.stat = 7 then
          { s2 with engineCauses := s2.engineCauses ++ [(team, c.issuer, ⟨20, f.stat, f.addr⟩)] }
        else s2
      exec (.entryCompletion team seq off) s = .next (s3.mapChain team c.seq fun c =>
        (if c.stat = 0 then { c with stat := f.stat, endPos := f.off / 81, endIter := f.iter } else c).settle)) ∧
    (∀ c : Chain, (c.stat ≠ 0 → c.flight = [] → c.state = 0 → c.settle = { c with state := -1 }) ∧
      (c.stat = 0 ∨ c.flight ≠ [] ∨ c.state ≠ 0 → c.settle = c)) ∧
    (s.flight? team seq (fun f => f.off == off) = some (c, f) →
      ∃ s1 : State, { s1 with locks := s.locks } = s ∧
        (∀ l ∈ s1.locks, l.team = team → l.owner = .entry seq f.off f.iter → l.kind = .torn) ∧
        (∀ l ∈ s.locks, ¬ (l.team = team ∧ l.owner = .entry seq f.off f.iter) → l ∈ s1.locks) ∧
        (f.paired = true → f.started = true → ∀ l ∈ s.locks, l.team = team → l.owner = .entry seq f.off f.iter →
          l.kind = .dest → { l with kind := .torn } ∈ s1.locks) ∧
        exec (.engineReset team seq off) s = .next (({ s1 with orphans := s1.orphans ++ f.orphans team seq } : State).mapChain
          team seq fun c => (drop c f).settle))) ∧
  ∀ (bsz maxx : Int) (drive bytes : Nat) (block : Int), 1 ≤ bsz → bsz ≤ maxx → bsz ∣ bytes →
    let l := readCommands bsz maxx drive block bytes
    (l.map ReadCommand.bytes).sum = bytes ∧ ∀ (i : Nat) (r : ReadCommand), l[i]? = some r →
      (r.bytes : Int) ≤ maxx ∧ 1 ≤ r.bytes ∧ (r.bytes : Int) = bsz * r.blocks ∧ r.drive = drive ∧
      (r.first : Int) = bsz * (r.block - block) ∧ r.first = ((l.take i).map ReadCommand.bytes).sum

/-- R220, R221, R337, R401, R402, R403, R426, R451, R455. MCAST and REDUCE with a valid record and nothing outstanding: where no
other operation uses the identifier the thread joins with its ranges registered and its source as it then stands at the home
slices; while an earlier generation drains it waits, counted once in REUSE. An operation that all its participants have
joined, those of other devices among them, is performed: MCAST gives the others the source of its root, REDUCE gives its root,
or with ROOT -1 every participant, the combination of all the sources element by element; then every SYNC is raised by 1, and
its identifier and locks are released. One whose records disagree, or that has lost a device, ends for every participant with
ERR + and the raise of its SYNC. That participants must agree in executing MCAST or REDUCE is the model's choice (log 116);
so are the end with ERR of one whose source cannot be read and of the thread whose record has an uncorrectable error
(log 46), the end of one whose device is behind a port out of service (log 38), and what joins from other devices, in which
sectors (log 10). -/
def Obligations.CollectiveResults : Prop :=
  (∀ (gd : Guard) (mcast : Bool) (b : Nat) (s : State) (t : Thread), t.ops = [] → s.Alone gd [gUse b] t →
    let i : Instr := if mcast then .mcast gd b else .reduce gd b
    let o := t.readG b
    let r := s.collRecord t mcast o
    let at_ : SyncLoc := .scratch t.team r.m.sync
    s.offsetFault t o 27 27 = none → s.collValid t o r = true → s.collFault t r.m = none → s.collReaches r.cid = true →
    (s.recordBad t.team o 27 = true → exec i s = .next (((s.setErr at_).raise at_ t.core 1).mapThread t.id Thread.advance)) ∧
    (s.recordBad t.team o 27 = false → (∀ c, s.collOpen r.cid = some c → c.gen = r.gen) →
      ∀ s1, s.lockAll [t.core] t.team (.collective r.cid r.m.rank) r.m.ranges false = some s1 →
      let source := (s1.collRead t r.m).1
      let s2 := (s1.collRead t r.m).2
      let joined : State := { s2 with
        tokens := s.tokens.filter fun x => x != (collToken r.cid, t.id)
        collectives := (s.collectives.filter fun c => c.cid != r.cid) ++
          [⟨r.cid, r.gen, (((s.collOpen r.cid).map Collective.members).getD []) ++ [{ r.m with source := source }]⟩] }
      { s2 with stalled := s.stalled } = s1 ∧
      (s.collHere r.cid = true → exec i s = .next (joined.becomes t t.advance)) ∧
      (s.collHere r.cid = false → s.peerReady (s.collHome r.cid) = true → ∃ l, exec i s = .next (({ joined with
        collSends := s.collSends ++ [⟨s.collHome r.cid, r.cid, r.gen, r.m.rank, true, false, l⟩] } : State).becomes t
          t.advance) ∧ l.length = 1 + (r.m.size + 80) / 81 ∧ ∀ x ∈ l, x.length = 160 ∧ checkHolds x = true)) ∧
    (s.recordBad t.team o 27 = false → ∀ c, s.collOpen r.cid = some c → c.gen ≠ r.gen →
      (collToken r.cid, t.id) ∉ s.tokens → t.core / 18 < s.dies.length →
      ∃ s' : State, exec i s = .next (s'.becomes t { t with resumed := false }) ∧ (collToken r.cid, t.id) ∈ s'.tokens ∧
        (s'.dieAt (t.core / 18)).reuse = sat 54 ((s.dieAt (t.core / 18)).reuse + 1) ∧
        { s' with tokens := s.tokens, dies := s.dies } = s)) ∧
  (∀ (s : State) (t : Thread) (m : Member) (g : Seg), (∀ e ∈ s.l1, e.core < 486) →
    s.check (s.collAgent t) .load m.src m.size none false false = .ok [g] → 0 ≤ g.pa → g.pa.toNat % 81 + g.n ≤ 81 → 1 ≤ g.n →
    let home := s.homeOf (leafDom g.leaf) g.pa.toNat
    (s.collRead t m).1 = if s.poisonAt home (g.pa.toNat / 81) = 0 then
      some ((List.range g.n).map fun i => s.peek home (g.pa.toNat + i)) else none) ∧
  (∀ (s : State) (c : Collective), s.collNext = some c →
    let l := s.joined c
    let gets (m : Member) := (l.head?.map fun x => x.receives m).getD false
    (s.collFull c = true ∨ s.collLost c = true) ∧ (s.collHere c.cid = true → s.collectiveReady = true) ∧
    (∀ m ∈ c.members, s.standsStill m.core = false) ∧
    (s.window.word (972 + c.cid) = -1 → l = c.members ∧ s.collLost c = false ∧
      (∃ m ∈ c.members, c.members.head? = some m ∧ m.parts ≤ c.members.length)) ∧
    (∀ v, collAgree l = true → s.collLost c = false → collResult l = some v →
      exec .collectiveProceed s = .next (c.members.foldl (fun s m => s.raise (.scratch m.team m.sync) m.core 1)
        (((c.members.filter gets).foldl (fun s m => s.collGive c.cid v m) s).closeCollective c false fun m =>
          if gets m ∧ m.dst ≠ 0 then packAll v false else []))) ∧
    (collAgree l = false ∨ s.collLost c = true ∨ collResult l = none →
      exec .collectiveProceed s = .next (s.abortCollective c))) ∧
  (∀ (l : List Member), collAgree l = true ↔ ∀ x ∈ l, ∀ y ∈ l,
    (x.parts, x.root, x.op, x.fmt, x.count, x.mcast) = (y.parts, y.root, y.op, y.fmt, y.count, y.mcast)) ∧
  (∀ (x y : Member), x.receives y = true ↔
    if x.mcast = true then y.rank ≠ x.root else x.root = -1 ∨ y.rank = x.root) ∧
  (∀ (x : Member) (l : List Member), collAgree (x :: l) = true → -1 ≤ x.fmt → x.fmt ≤ 1 → 1 ≤ x.count →
    let of (y : Member) (v : List Int) := y.source = some v ∧ v.length = x.size ∧ ∀ z ∈ v, fits 9 z = true
    let word (v : List Int) (i : Nat) := wordOfTrytes (v.drop (3 * i))
    (x.mcast = true →
      ((∀ y ∈ x :: l, y.rank ≠ x.root) → collResult (x :: l) = some []) ∧
      ∀ y ∈ x :: l, y.rank = x.root → (∀ z ∈ x :: l, z.rank = x.root → z = y) →
        (y.source = none → collResult (x :: l) = none) ∧
        ∀ v, of y v → ∃ v', collResult (x :: l) = some v' ∧ v'.length = v.length ∧ ∀ k < v.length,
          v'.getD k 0 = if x.fmt = 1 ∧ k % 3 = 2 then trits (v.getD k 0) 7 0 else v.getD k 0) ∧
    (x.mcast = false →
      ((∃ y ∈ x :: l, y.source = none) → collResult (x :: l) = none) ∧
      ∀ vs : List (List Int), vs.length = l.length + 1 → (∀ p ∈ (x :: l).zip vs, of p.1 p.2) →
        ∃ v, collResult (x :: l) = some v ∧ v.length = x.size ∧ ∀ i : Nat, i < x.count →
          (x.fmt = -1 → Reduces (redOpOf x.op) 9 (vs.map fun u => u.getD i 0) (v.getD i 0)) ∧
          (x.fmt = 0 → Reduces (redOpOf x.op) 27 (vs.map fun u => word u i) (word v i)) ∧
          (x.fmt = 1 → trits (word v i) 26 26 = 0 ∧ ∀ k < 2,
            Reduces (redOpOf x.op) 13 (vs.map fun u => elem .halves (word u i) k) (elem .halves (word v i) k)))) ∧
  (∀ (s : State) (cid : Int) (m : Member) (v : List Int),
    (m.dst = 0 → s.collGive cid v m = s) ∧
    (m.dst ≠ 0 → s.collHere cid = true → s.MemorySound → ∀ g,
      s.check { s.unitAgent m.id.bolt m.team with system := true } .store m.dst v.length none false false = .ok [g] →
      0 ≤ g.pa → g.pa.toNat % 81 + g.n ≤ 81 → g.n = v.length →
      let s' := s.collGive cid v m
      let home := s.homeOf (leafDom g.leaf) g.pa.toNat
      (∀ i < g.n, s'.peek home (g.pa.toNat + i) = v.getD i 0) ∧
      (∀ home' pa, s.Agrees home' pa → pa < g.pa.toNat ∨ g.pa.toNat + g.n ≤ pa → s'.peek home' pa = s.peek home' pa) ∧
      (s'.threads, s'.bolts, s'.locks, s'.collectives) = (s.threads, s.bolts, s.locks, s.collectives))) ∧
  (∀ (s : State) (c : Collective),
    (∀ (err : Bool) (give : Member → List (List (BitVec 8))), let s' := s.closeCollective c err give
      (∀ x, x ∈ s'.collectives ↔ x ∈ s.collectives ∧ x.cid ≠ c.cid) ∧
      (∀ x, x ∈ s'.locks ↔ x ∈ s.locks ∧ ∀ rank, x.owner ≠ .collective c.cid rank) ∧
      { s' with collectives := s.collectives, locks := s.locks, remotes := s.remotes, collSends := s.collSends } = s) ∧
    ((∀ m ∈ c.members, 0 ≤ m.sync ∧ ∃ u, s.team? m.team = some u ∧ u.state = .resident ∧ Memory.wf u.scratch = true ∧
        ∀ k, fits 9 (memGet u.scratch k) = true) →
      c.members.Pairwise (fun x y => x.team ≠ y.team ∨ x.sync + 9 ≤ y.sync ∨ y.sync + 9 ≤ x.sync) →
      ∀ m ∈ c.members, ∀ w, s.syncAt (.scratch m.team m.sync) = some w →
        (s.abortCollective c).syncAt (.scratch m.team m.sync) = some ((w.setErr .pos).raise 1).1) ∧
    (∀ x, x ∈ (s.abortCollective c).collectives ↔ x ∈ s.collectives ∧ x.cid ≠ c.cid) ∧
    (s.operations = [c] → ∀ dev : Nat, exec (.peerDeviceFailure dev) s = .next (if s.collHome c.cid ≠ -1 ∧
      (s.collHome c.cid = dev ∨ ∃ m ∈ s.joined c, m.device = some (dev : Int)) then s.abortCollective c else s)))

/-- R344 to R349, R351, R352, R394, R426. SWEEP with a valid record puts the executing threads of its group in the crew of a
new sweep; with an invalid one it writes RESULT 1, and with one that cannot be read RESULT 3; inside a handler run it
raises knot fault. The shuttle skips a block whose heddle trit is - and else meets its elements in range: a ready knot is enqueued,
one of wait kind COUNT is counted down, a bad one is recorded with 2 and one that cannot be read with 3, the highest code at
its lowest index; an access that takes a cause records 4 and stops the sweep. A wave starts a handler run on each thread of the crew with
the element, its knot, its index and coordinates in registers. That RESULT is 3 when words 0 to 4
of the record have the error, and that a block whose heddle tryte cannot be read is not read and its first element recorded
with 3, are the model's choices (log 48). -/
def Obligations.SweepResults : Prop :=
  (∀ (gd : Guard) (d b : Nat) (s : State) (t : Thread) (m : Team) (ts : List Thread),
    s.Together gd [gUse d, gUse b] (t :: ts) → (∀ u ∈ t :: ts, u.ops = [] ∧ u.element = none) →
    s.offsetFault t (t.readG b) 27 27 = none → s.team? t.team = some m → Memory.wf m.scratch = true →
    let o := t.readG b
    let w := s.scratchWord t.team o
    let valid (x : Tensor) := x.knot = true ∧ 0 ≤ w 1 ∧ w 1 ≤ w 2 ∧ w 2 < x.size ∧ 0 ≤ w 3 ∧ w 3 % 9 = 0 ∧
      0 ≤ trits (w 4) 4 1 ∧ trits (w 4) 4 1 ≤ 27 ∧ w 3 + 9 * trits (w 4) 4 1 ≤ s.scratchSize t.id.bolt ∧
      trits (w 4) 26 5 = 0 ∧ trits (w 4) 0 0 ≠ -1 ∧ ∀ u ∈ t :: ts, 13 ≤ u.nregs
    (s.recordBad t.team o 15 = false → ∀ x, s.tensorRecord t.team (w 0) = .ok x → valid x → ∃ v : Sweep,
      exec (.sweep gd d b) s = .next ((t :: ts).foldl (fun s u => s.becomes u
        { u with run := .crew, committed := false, nopOnce := false,
                 quantum := if u.status.det then u.quantum + 1 else u.quantum })
        (s.mapTeam t.team fun m => { m with sweeps := m.sweeps ++ [v] })) ∧
      (v.core, v.issuer, v.recAt, v.base, v.fmt, v.exts, v.htab) = (t.core, t.id, o, x.base, x.fmt, x.ext, x.htab) ∧
      (v.first, v.last, v.elems, v.stab, v.nslot, v.full) =
        (w 1, w 2, x.size, w 3, trits (w 4) 4 1, decide (trits (w 4) 0 0 = 1)) ∧
      (v.next, v.queue, v.running, v.open_, v.written, v.runs, v.blocks) = (w 1 / 27, [], [], [], [], 0, 0) ∧
      (v.result, v.firstBad, v.stopped) = (0, -1, false) ∧
      v.crew = (t :: ts).map fun u => ⟨u.id, u.pc, u.slot, u.clause, d⟩) ∧
    (∀ code : Int, (s.recordBad t.team o 15 = true ∧ code = 3) ∨ (s.recordBad t.team o 15 = false ∧
        ((∃ a, s.tensorRecord t.team (w 0) = .error (4, a)) ∧ code = 3 ∨ s.tensorRecord t.team (w 0) = .error badEntry ∧ code = 1 ∨
          (∃ x, s.tensorRecord t.team (w 0) = .ok x ∧ ¬ valid x) ∧ code = 1)) →
      ∃ s' : State, exec (.sweep gd d b) s = .next s' ∧
        (∀ u ∈ t :: ts, ∃ u', s'.thread? u.id = some u' ∧ PutG d (fun _ v => v = code) u u') ∧ s'.Acquired s t.core ∧
        (∀ i < 4, s'.scratchWord t.team o (5 + i : Nat) = [code, 0, -1, 0].getD i 0) ∧
        (∀ id, id ∉ s.members → s'.thread? id = s.thread? id) ∧
        { s' with l1 := s.l1, teams := s.teams, threads := s.threads } = s)) ∧
  (∀ (gd : Guard) (d b : Nat) (s : State) (t : Thread), s.Alone gd [gUse d, gUse b] t → t.element ≠ none →
    s.offsetFault t (t.readG b) 27 27 = none → t.status.intrap = false → t.trapvec ≠ 0 →
    CompletesAlone (.sweep gd d b) s t (Thread.Trapped ⟨18, 1, 0⟩)) ∧
  (∀ (core : Nat) (s : State) (team : TeamId) (w : Sweep) (m : Team),
    s.activeSweep core = some (team, w) → s.team? team = some m → w ∈ m.sweeps →
    (∀ y ∈ s.teams, y.id = team → ∀ x ∈ y.sweeps, x.issuer = w.issuer → x = w) → w.mayRead = true →
    let c := s.unitCtx team w.system
    let b := w.next
    let faults (s : State) (a : Int) := ({ s with engineCauses := s.engineCauses ++ [(team, w.issuer, ⟨20, 8, a⟩)] } : State).mapSweep
      team w.issuer fun v => { v with next := b + 1, begun := true, result := 4, firstBad := 27 * b, stopped := true }
    (∀ a, s.cells c w.space (w.heddleAddr b) 1 .load = .error a → w.result < 4 →
      exec (.blockRead core) s = .next (faults s a)) ∧
    (∀ hl : List SyncLoc, s.cells c w.space (w.heddleAddr b) 1 .load = .ok hl →
      let s0 := hl.foldl State.visitLoc s
      let bit := trits (s.tryteAt (hl.headD noPlace)) (b % 9).toNat (b % 9).toNat
      let bad := hl.any s.badAt
      (bad = true ∨ bit = -1 ∧ w.full = false → exec (.blockRead core) s = .next (s0.mapSweep team w.issuer fun w =>
        if bad then { w with next := b + 1, begun := true }.record 3 (27 * b) else { w with next := b + 1, begun := true })) ∧
      (bad = false → bit ≠ -1 ∨ w.full = true →
        let ls := (w.blockElems b).filter w.inRange
        (∀ a, ∀ l ∈ ls, s.seeKnot c w l = .error a → (∀ l' ∈ ls, l' < l → ∃ x, s.seeKnot c w l' = .ok x) → w.result < 4 →
          exec (.blockRead core) s = .next (faults s0 a)) ∧
        ∀ seen : Int → KnotSeen, (∀ l ∈ ls, s.seeKnot c w l = .ok (seen l)) →
          let meets (s : State) (l : Int) := match seen l with
            | .poison => s
            | .knot k entry loc => if w.badKnot k entry = false ∧ knotWait k = 3 ∧ knotArg k ≠ 1
                then (s.visitLoc loc).putTrytesAt noCore loc (trytesOfWord (k - 3 ^ 5)) else s.visitLoc loc
          let enqueues (l : Int) := ∃ k entry loc, seen l = .knot k entry loc ∧ w.badKnot k entry = false ∧
            (knotWait k = 0 ∨ knotWait k = 3 ∧ knotArg k = 1 ∨
              knotWait k = 2 ∧ ((ls.filter (· < l)).foldl meets s0).slotReached team w (knotArg k) = true)
          let code (l : Int) : Int := match seen l with
            | .poison => 3
            | .knot k entry _ => if w.badKnot k entry = true then 2 else 0
          ∃ (new : List Int) (r f : Int), exec (.blockRead core) s = .next ((ls.foldl meets s0).mapSweep team w.issuer
              fun v => { v with next := b + 1, begun := true, blocks := v.blocks + 1, open_ := v.open_ ++ [b],
                                queue := v.queue ++ new, result := r, firstBad := f }) ∧
            new.Sublist ls ∧ (∀ l, l ∈ new ↔ l ∈ ls ∧ enqueues l) ∧
            (∀ l ∈ ls, w.result < code l → (∀ l' ∈ ls, code l' < code l ∨ code l' = code l ∧ l ≤ l') → (r, f) = (code l, l)) ∧
            ((∀ l ∈ ls, code l = 0 ∨ code l < w.result ∨ code l = w.result ∧ w.firstBad ≤ l) →
              (r, f) = (w.result, w.firstBad))))) ∧
  ∀ (s : State) (team : TeamId) (w : Sweep), s.someSweep Sweep.mayStart = some (team, w) → (w.crew.map Crew.id).Nodup →
    (∀ y ∈ s.teams, y.id = team → ∀ x ∈ y.sweeps, x.issuer = w.issuer → x = w) →
    let c := s.unitCtx team w.system
    let pairs := w.crew.zip w.queue
    (∀ (t : ThreadId → Thread) (k entry e : Int → Int), (∀ p ∈ pairs, s.thread? p.1.id = some (t p.1.id) ∧ (t p.1.id).core = w.core ∧
          (t p.1.id).Sized ∧ 13 ≤ (t p.1.id).nregs ∧
          ∀ r, r = s ∨ r = s.acquire w.core ∧ pairs.length ≠ 1 →
            (∃ loc, r.runKnot c w p.2 = .ok (.knot (k p.2) (entry p.2) loc)) ∧ r.seeElem c w p.2 = .ok (some (e p.2))) →
      ∃ s', exec .waveStart s = .next s' ∧ (pairs ≠ [] → s'.Acquired s w.core) ∧
        (∀ m, s.team? team = some m → ∃ m', s'.team? team = some m' ∧ m'.sweeps = m.sweeps.map fun v => if v.issuer = w.issuer then
          { v with queue := w.queue.drop w.crew.length, runs := v.runs + pairs.length,
                   running := v.running ++ pairs.map fun p => (p.1.id, p.2) } else v) ∧
        ∀ p ∈ pairs, ∃ t' : Thread, s'.thread? p.1.id = some t' ∧
          t'.readG 1 = (if w.fmt = -2 ∨ w.fmt = -1 then trits (e p.2) 8 0 else e p.2) ∧ t'.readG 2 = k p.2 ∧ t'.readG 3 = p.2 ∧
          (∀ i < 9, i < w.exts.length → t'.readG (4 + i) = (coordsOf w.exts p.2).getD i 0) ∧ t'.readA 3 = w.elemAddr p.2 ∧
          t'.pc = entry p.2 ∧ t'.run = .boundary .handler ∧ t'.element = some p.2) ∧
    ∀ (x : Crew) (l : Int) (rest : List Int), w.crew = [x] → w.queue = l :: rest → s.wakesFor team w.issuer l = [] →
      w.result < 3 →
      (∀ a, s.runKnot c w l = .error a ∨ (∃ k, s.runKnot c w l = .ok k) ∧ s.seeElem c w l = .error a →
        exec .waveStart s = .next (({ s with engineCauses := s.engineCauses ++ [(team, w.issuer, ⟨20, 8, a⟩)] } : State).mapSweep team
          w.issuer fun v => { v with queue := rest, result := 4, firstBad := 27 * (l / 27), stopped := true })) ∧
      ((s.runKnot c w l = .ok .poison ∧ (∃ e, s.seeElem c w l = .ok e)) ∨
          (∃ k, s.runKnot c w l = .ok k) ∧ s.seeElem c w l = .ok none →
        exec .waveStart s = .next (s.mapSweep team w.issuer fun v => { v with queue := rest, result := 3, firstBad := l }))

/-- R287, R289, R299, R308, R349, R350 to R354, R356, R395, R396, R426. The ends of a handler run give the knot its wait kind and
argument and the element its word; in deterministic mode the end write enters the thread's buffer, or the quantum ends first
where it has no room, and the run ends after the commit. Outside a run they raise knot fault with subcode 2, and with an argument
that is not valid with subcode 3. The heddle trit of a finished block says whether a knot is ready or may become so; a complete
sweep writes its words and its crew goes on with RESULT; KWAKE makes a waiting knot ready, or is held while its
element is swept. That KWAKE on a poisoned word is performed, with data poison deferred as for an atomic, and that one held
takes no race check, are the model's choices (log 47), as is TRAPADDR of its race trap, the virtual address (log 32); so are that
the end write passes no private window (log 71), that the run whose end write was buffered ends after the commit and counts
in the next quantum (log 71), and that a knot or a tensor record which cannot be read counts as the model says: the knot for the heddle
trit as a bad one, recorded with POISON, the record as data poison of KWAKE (log 48). -/
def Obligations.HandlerRunResults : Prop :=
  (∀ (gd : Guard) (n : Nat) (arg : Int) (b : Nat) (s : State) (t : Thread) (l : Int) (w : Sweep), t.ops = [] →
    s.wakes = [] → 1 ≤ n → n ≤ 3 → fits 9 arg = true → t.element = some l → s.sweepOf t = some w →
    let argR := trits (t.readG b) 8 0
    let valid (a : Int) := (n = 2 → argSlot a < w.nslot) ∧ (n = 3 → 1 ≤ a)
    (t.status.intrap = false → t.trapvec ≠ 0 →
      (s.Alone gd [] t → ¬ valid arg → CompletesAlone (.kwait gd n arg) s t (Thread.Trapped ⟨18, 3, 0⟩)) ∧
      (s.Alone gd [gUse b] t → ¬ valid argR → CompletesAlone (.kwaitR gd n b) s t (Thread.Trapped ⟨18, 3, 0⟩))) ∧
    ∀ x y : List Seg, s.endCheck t w (w.elemAddr l) = .ok x → s.endCheck t w (w.elemAddr l + 27) = .ok y →
      let g1 := t.readG 1
      let e := if w.fmt = -2 ∨ w.fmt = -1 then trits g1 8 0 else if w.fmt = 3 then trits g1 25 0 else g1
      let ended (s : State) (q : Nat) := (s.mapThread t.id fun t =>
          { t with run := .crew, element := none, committed := false, quantum := q }).mapSweep t.team w.issuer
        fun w => { w with running := w.running.filter fun x => x.1 != t.id, written := w.written.filter fun x => x != t.id }
      let ends (i : Instr) (wait a : Int) := ∃ k, trits k 1 0 = wait ∧ trits k 13 5 = a ∧
        trits k 4 2 = trits (t.readG 2) 4 2 ∧ trits k 26 14 = trits (t.readG 2) 26 14 ∧
        (t.status.det = false → ¬ (t.committed = true ∧ t.id ∈ w.written) → exec i s = .next (ended (s.writeParts t.core
          (s.endCells t w (w.elemAddr l) x e ++ s.endCells t w (w.elemAddr l + 27) y k)) t.quantum)) ∧
        (t.status.det = true → t.committed = true → t.id ∈ w.written → exec i s = .next (ended s (t.quantum + 1))) ∧
        (t.status.det = true → ¬ (t.committed = true ∧ t.id ∈ w.written) →
          let new := s.bufferEnd t w (w.elemAddr l) x e ++ s.bufferEnd t w (w.elemAddr l + 27) y k
          (bufSectors (t.buf ++ new) ≤ 27 → exec i s = .next ((s.becomes t { t with buf := t.buf ++ new, run := .quantum }).mapSweep
            t.team w.issuer fun w => { w with written := t.id :: w.written.filter fun x => x != t.id })) ∧
          (27 < bufSectors (t.buf ++ new) → exec i s = .next ((s.becomes t { t with run := .quantum, resumed := false }).mapSweep
            t.team w.issuer fun w => { w with written := w.written.filter fun x => x != t.id })))
      (s.Alone gd [] t → valid arg → ends (.kwait gd n arg) n arg) ∧
      (s.Alone gd [gUse b] t → valid argR → ends (.kwaitR gd n b) n argR) ∧
      (s.Alone gd [] t → ends (.kyld gd) 0 (trits (t.readG 2) 13 5) ∧ ends (.kret gd) 4 (trits (t.readG 2) 13 5))) ∧
  (∀ (gd : Guard) (n : Nat) (arg : Int) (b : Nat) (s : State) (t : Thread), t.element = none → t.status.intrap = false → t.trapvec ≠ 0 →
    let outside (i : Instr) := CompletesAlone i s t (Thread.Trapped ⟨18, 2, 0⟩)
    (s.Alone gd [] t → outside (.kwait gd n arg) ∧ outside (.kyld gd) ∧ outside (.kret gd)) ∧
    (s.Alone gd [gUse b] t → outside (.kwaitR gd n b))) ∧
  (∀ (core : Nat) (block : Int) (s : State) (team : TeamId) (w : Sweep) (ks : List (Int × KnotSeen)) (loc : SyncLoc),
    s.activeSweep core = some (team, w) → w.blockDone block = true →
    let s1 := s.mapSweep team w.issuer fun w => { w with open_ := w.open_.filter fun x => x != block }
    s1.blockKnots (s.unitCtx team w.system) w block = .ok ks →
    s1.cells (s.unitCtx team w.system) w.space (w.heddleAddr block) 1 .store = .ok [loc] → s.badAt loc = false →
    ∃ v : Trit, exec (.heddleWrite core block) s = .next ((ks.foldl (fun s x => match x.2 with
          | .knot _ _ p => s.visitLoc p
          | .poison => s) (s1.mapSweep team w.issuer fun w => match ks.find? fun x => x.2 == .poison with
            | some x => w.record 3 x.1
            | none => w)).putTryteAt noCore loc (putTrit (s.tryteAt loc) (block % 9).toNat v)) ∧
      (v = .pos ↔ ∃ x ∈ ks, ∃ k entry p, x.2 = .knot k entry p ∧ knotWait k = 0) ∧
      (v = .neg ↔ ∀ x ∈ ks, ∃ k entry p, x.2 = .knot k entry p ∧ knotWait k ≠ 0 ∧ knotWait k ≠ 2 ∧ knotWait k ≠ 3 ∧
        w.badKnot k entry = false)) ∧
  (∀ (s : State) (team : TeamId) (w : Sweep) (m : Team),
    s.someSweep Sweep.complete = some (team, w) → (w.crew.map Crew.id).Nodup →
    s.team? team = some m → Memory.wf m.scratch = true → 0 ≤ w.recAt →
    ∃ (s' : State) (m' : Team), exec .sweepCompletion s = .next s' ∧
      (∀ c ∈ w.crew, ∀ t, s.thread? c.id = some t → t.Sized → c.gd < t.nregs →
        ∃ t', s'.thread? c.id = some t' ∧ t'.GotG c.gd w.result ∧ t'.quantum = t.quantum ∧
          ({ t with pc := c.pc, slot := c.slot, clause := c.clause, element := none } : Thread).Resumes t') ∧
      s'.Acquired s w.core ∧ (∀ i < 4, s'.scratchWord team w.recAt (5 + i : Nat) =
        wrap 27 ([w.result, w.runs, w.firstBad, w.blocks].getD i 0)) ∧
      s'.team? team = some m' ∧ ∀ x ∈ m'.sweeps, x.issuer ≠ w.issuer) ∧
  ∀ (gd : Guard) (d b c : Nat) (s : State) (t : Thread), t.ops = [] → s.Alone gd [cUse d, gUse b, gUse c] t →
    s.offsetFault t (t.readG b) 81 3 = none →
    let l := t.readG c
    let i := Instr.kwake gd d b c
    (s.recordBad t.team (t.readG b) 81 = true → t.status.intrap = false → t.trapvec ≠ 0 →
      CompletesAlone i s t (Thread.Trapped ⟨11, 2, t.readG b⟩)) ∧
    (s.recordBad t.team (t.readG b) 81 = false →
      (s.tensor? t.team (t.readG b) = none → CompletesAlone i s t (PutC d fun _ => .neg)) ∧
      ∀ x, s.tensor? t.team (t.readG b) = some x →
        ((x.knot = false ∨ l < 0 ∨ x.size ≤ l) → CompletesAlone i s t (PutC d fun _ => .neg)) ∧
        (x.knot = true → 0 ≤ l → l < x.size →
          let knotAt := wrap 54 (knotAddr x.base l + 27)
          let heddleAt := wrap 54 (x.base + 243 * ((x.size + 26) / 27) + l / 243)
          ∀ k h, s.wakePlace t x.space knotAt 3 = .ok k → s.wakePlace t x.space heddleAt 1 = .ok h →
          let wk : Wake := ⟨t.id, d, k, h, (l / 27 % 9).toNat, (knotAt, heddleAt), t.team, t.id, l⟩
          (s.sweeping k = none →
            let n := trits (s.wordAt k) 1 0
            let cells := if n = 1 ∨ n = 2 ∨ n = 3 then k.cells knotAt 3 ++ h.cells heddleAt 1 else []
            let woken := (s.holdFree t cells).wake t.core wk
            (s.MayClaim t cells → s.wakeCause wk = none → exec i s = .next (woken.mapThread t.id fun t =>
              (t.writeC d (if n = 1 ∨ n = 2 ∨ n = 3 then .pos else .zero)).advance)) ∧
            (∀ e, s.MayClaim t cells → s.wakeCause wk = some e → t.pend = [] → exec i s =
              .next (woken.mapThread t.id fun t => ({ t with pend := [⟨e, [cUse d]⟩] } : Thread).advance)) ∧
            Races i s t cells ∧
            (∀ m o o', s.team? t.team = some m → Memory.wf m.scratch = true → k = .scratch t.team o →
              h = .scratch t.team o' → 0 ≤ o → 0 ≤ o' → o' < o ∨ o + 3 ≤ o' → (n = 1 ∨ n = 2 ∨ n = 3) →
              (s.wake t.core wk).wordAt k = wrap 27 (s.wordAt k - n) ∧
              trits ((s.wake t.core wk).tryteAt h) wk.bit wk.bit = 1)) ∧
          (∀ team issuer e, s.sweeping k = some (team, issuer, e) → exec i s =
            .next (({ s with wakes := s.wakes ++ [{ wk with sweeper := team, issuer := issuer, elem := e }] } : State).becomes t
              { t with run := .answer, resumed := false, committed := false }))))

/-- R358, R368 to R371, R374, R391 to R393, R405, R438. BOARD and BOARD.tile register a boarding under the next number where the tap
has room, and hold otherwise; the tile registers that one names are held. While the beam is out of service it fails at once with
status 4, ERR of its sync word and the beam-tile trap. UNBOARD ends one with status 2 and ERR; BEAMST reads its word and
BEAMST.lap the laps; a beat at the tap is written to the boarding that rides its layer, in its range of scratch or its tile
registers, raises its sync word after the last, and strikes it when it is bad; the third strike in consecutive laps of a tile
fails it. While its die relocks a tap holds beats back, and meets them before the next. That a tile met by a boarding which does
not ride restarts or keeps its strikes is the model's choice (log 34), as are TRAPADDR 0 of an index out of range (log 50), that a
group which holds at BOARD issues it anew (log 44), and when the tap serves at all (log 35). -/
def Obligations.BoardingResults : Prop :=
  let words (s : State) (team : TeamId) (sync : SyncLoc) := ∃ o u, sync = .scratch team o ∧ 0 ≤ o ∧ s.team? team = some u ∧
    u.state = .resident ∧ Memory.wf u.scratch = true ∧ ∀ k, fits 9 (memGet u.scratch k) = true
  (∀ (gd : Guard) (d b : Nat) (p : Place) (s : State) (t : Thread) (m : Team) (sync : SyncLoc) (mark : Nat), t.ops = [] →
    s.Alone gd (boardUses d b p) t → s.team? t.team = some m → s.syncPlace t p .store = .ok (sync, mark) →
    let layer := t.readG b
    let x := t.readG (b + 1)
    let c := t.readG (b + 2)
    let room := (s.tapBoardings (t.core / 2)).length < 27
    let board (dest : BoardDest) : Boarding := ⟨m.nextBoard, t.core, t.id, layer, dest, sync, .armed, 0, 0, none, (0, none)⟩
    let got (s' : State) (dest : BoardDest) := ∃ m' : Team, { s' with teams := s.teams, locks := s.locks } = s ∧
      s'.team? t.team = some m' ∧ m'.nextBoard = wrap 18 (m.nextBoard + 1) ∧ board dest ∈ m'.boardings ∧
      ∀ y ∈ m.boardings, y.atTap = true → y ∈ m'.boardings
    let fails (s' : State) (dest : BoardDest) := (∀ y ∈ m.boardings, y.num ≠ m.nextBoard) → ∃ m' : Team, s'.team? t.team = some m' ∧
      m'.nextBoard = wrap 18 (m.nextBoard + 1) ∧ { board dest with state := .failed, stat := 4 } ∈ m'.boardings ∧
      s'.engineCauses = s.engineCauses ++ [(t.team, t.id, ⟨19, 2, 3 ^ 16 * layer⟩)] ∧
      (∀ l ∈ s'.locks, l.team = t.team → l.owner = .board m.nextBoard → l.kind = .torn) ∧
      ∀ w, words s t.team sync → s.syncAt sync = some w → s'.syncAt sync = some (w.setErr .pos)
    let done := (t.writeG d (m.nextBoard * 3 ^ 9)).advance
    (0 ≤ layer → layer ≤ 728 → 0 ≤ x → x % 81 = 0 → 1 ≤ c → x + 729 * c ≤ s.scratchSize t.id.bolt →
      (room → ∀ s1, s.lockAll m.cores t.team (.board m.nextBoard) [⟨true, x, x + 729 * c - 1, true⟩] false = some s1 →
        ∃ s' : State, exec (.board gd d b p) s = .next (s'.becomes t done) ∧
          (s.beamReady ≠ .neg → got s' (.scratch x c) ∧ s'.locks = s1.locks) ∧
          (s.beamReady = .neg → fails s' (.scratch x c))) ∧
      (¬ room → exec (.board gd d b p) s = .next (s.becomes t { t with resumed := false }))) ∧
    (0 ≤ layer → layer ≤ 728 → 0 ≤ x → x < s.tileCount t.id.bolt → room →
      (∀ u ∈ s.threads, u.team = t.team → u.grp = t.grp → u.ops = []) →
      ∃ s' : State, exec (.boardTile gd d b p) s = .next (s'.becomes t done) ∧
        (s.beamReady ≠ .neg → got s' (.tile x.toNat) ∧ s'.locks = s.locks ∧
          ∀ k, k = x.toNat ∨ k = x.toNat + 1 → s'.boarded t k = true) ∧
        (s.beamReady = .neg → fails s' (.tile x.toNat))) ∧
    (layer < 0 ∨ 728 < layer → t.status.intrap = false → t.trapvec ≠ 0 →
      CompletesAlone (.board gd d b p) s t (Thread.Trapped ⟨1, 5, 0⟩) ∧
      CompletesAlone (.boardTile gd d b p) s t (Thread.Trapped ⟨1, 5, 0⟩)) ∧
    (x < 0 ∨ s.tileCount t.id.bolt ≤ x → t.status.intrap = false → t.trapvec ≠ 0 →
      CompletesAlone (.boardTile gd d b p) s t (Thread.Trapped ⟨1, 5, 0⟩)) ∧
    (x < 0 ∨ x % 81 ≠ 0 ∨ c < 1 ∨ s.scratchSize t.id.bolt < x + 729 * c → t.status.intrap = false → t.trapvec ≠ 0 →
      CompletesAlone (.board gd d b p) s t (Thread.Trapped ⟨1, 5, 0⟩))) ∧
  (∀ (gd : Guard) (d b : Nat) (s : State) (t : Thread),
    let h := t.readG b
    (s.Alone gd [cUse d, gUse b] t →
      (s.handled t.team h = none → CompletesAlone (.unboard gd d b) s t (PutC d fun _ => .zero)) ∧
      ∀ x, s.handled t.team h = some x →
        (x.atTap = false → CompletesAlone (.unboard gd d b) s t (PutC d fun _ => .zero)) ∧
        (x.atTap = true → ∃ s' : State, exec (.unboard gd d b) s = .next (s'.becomes t (t.writeC d .pos).advance) ∧
          s'.board? t.team x.num = some { x with state := .failed, stat := 2 } ∧ s'.threads = s.threads ∧
          (∀ w, words s t.team x.sync → s.syncAt x.sync = some w → s'.syncAt x.sync = some (w.setErr .pos)) ∧
          (∀ l ∈ s'.locks, l.team = t.team → l.owner = .board x.num → l.kind = .torn))) ∧
    (s.Alone gd [gUse d, gUse b] t →
      (s.handled t.team h = none → CompletesAlone (.beamst gd d b) s t (Word1 d fun _ => -1)) ∧
      ∀ x, s.handled t.team h = some x → 0 ≤ x.layer → x.layer ≤ 728 → x.strike ≤ 2 → x.stat ≤ 4 →
        CompletesAlone (.beamst gd d b) s t (PutG d fun _ v => trits v 26 18 = x.layer ∧ trits v 17 12 = x.strike ∧
          trits v 11 8 = x.stat ∧ trits v 7 0 = match x.state with
            | .armed => 0
            | .riding => 1
            | .done => 2
            | .failed => 3
            | .held => 4)) ∧
    (s.Alone gd [gUse d] t → CompletesAlone (.beamstLap gd d) s t (Word1 d fun _ => wrap 27 s.beam.laps))) ∧
  (∀ (y : Tile) (tile : Int) (data : List Int) (i j : Nat), Memory.wf y.data = true → data.length = 729 → 0 ≤ tile → j < 81 →
    ({ y with data := memSetList y.data (729 * tile).toNat data } : Tile).tryte i j =
      if 9 * tile ≤ i ∧ i < 9 * tile + 9 then data.getD (81 * (i - 9 * tile.toNat) + j) 0 else y.tryte i j) ∧
  ∀ (die pair : Nat) (intact fed : Bool) (s : State),
    let tap := 9 * die + pair
    let i : Instr := .beatArrival die pair ⟨intact, fed⟩
    let k := s.beam.passedBy tap
    let fresh (l : Layer) (x : Beat) (s0 : State) := s.heldBeat tap = none ∧ s.beatMayReach tap = true ∧ s.beamServes = true ∧
      ∃ lap plane tile last, s.beam.lap = some lap ∧ beatOf lap.layers k = some (l, plane, tile, last) ∧
        (if k < lap.sent.length then lap.sent[k]? else s.placeBeat lap k fed) = some x ∧
        s0 = { (if k < lap.sent.length then s else
            s.visit (s.homeOf .zero ((if plane = 1 then l.run1 else l.run2) + 729 * tile).toNat)) with
          beam := { s.beam.pass tap with
            lap := some { lap with sent := if k < lap.sent.length then lap.sent else lap.sent ++ [x] } } }
    (∀ l x s0, fresh l x s0 → (s.dieAt die).relock = true → exec i s = .next { s0 with beam := { s0.beam with
      buffered := s0.beam.buffered ++ [⟨tap, l, x, intact && x.kind == 0, s.beam.laps⟩] } }) ∧
    (∀ h, s.heldBeat tap = some h → s.tapReady (tap / 9) (tap % 9) = false →
      exec i s = .next { s with beam := { s.beam with buffered := s.beam.buffered.erase h } }) ∧
    (∀ (l : Layer) (x : Beat) (good : Bool) (s0 : State) (fin : State → State),
      fresh l x s0 ∧ (s.dieAt die).relock = false ∧ good = (intact && x.kind == 0) ∧ fin = id ∨
        (∃ h, s.heldBeat tap = some h ∧ s.tapReady (tap / 9) (tap % 9) = true ∧ l = h.layer ∧ x = h.beat ∧ good = h.good ∧
          die = tap / 9 ∧ s0 = { s with beam := { s.beam with buffered := s.beam.buffered.erase h, laps := h.lap } } ∧
          fin = fun r => { r with beam := { r.beam with laps := s.beam.laps } }) →
      ∀ (team : TeamId) (num : Int) (b : Boarding), s.tapBoardings tap = [(team, num)] → s.tapWatch tap = [(team, num)] →
      s.returns = [] → s.board? team num = some b →
      let laps := s0.beam.laps
      let key := 3 ^ 15 * x.plane + x.tile
      let lately (v : Boarding) := v.struck = some (key, laps - 1) ∨ v.struck = some (key, laps)
      let strikes := if b.struck = some (key, laps - 1) then b.strike + 1 else if b.struck = some (key, laps) then b.strike else 1
      let sBad := (s0.setDie die fun d => { d with beamflt := sat 54 (d.beamflt + 1) }).mapBoard team num fun v =>
        if v.layer = x.layer ∧ lately v then { v with struck := some (key, laps) } else v
      let sGood := s0.mapBoard team num fun v =>
        if v.layer = x.layer ∧ v.struck.map Prod.fst = some key then { v with strike := 0, struck := none } else v
      let begins := b.state = .armed ∧ x.plane = 1 ∧ x.tile = 0 ∧ b.holds (s.tileCount team.bolt) l = true
      let s2 := if b.state = .armed then sGood.mapBoard team num fun b => { b with state := .riding } else sGood
      let gives (s3 : State) := (x.last = false → exec i s = .next (fin s3)) ∧
        (x.last = true → exec i s = .next (fin (((s3.mapBoard team num fun b => { b with state := .done }).unlock team
          (.board num)).raise b.sync b.core (729 * l.beats))))
      (b.layer ≠ x.layer ∨ b.state = .armed ∧ ¬ (x.plane = 1 ∧ x.tile = 0) →
        exec i s = .next (fin (if good then sGood else sBad))) ∧
      (b.layer = x.layer → b.state = .armed → x.plane = 1 → x.tile = 0 → b.holds (s.tileCount team.bolt) l = false →
        exec i s = .next (fin ((if good then sGood else sBad).failBoard team num 1))) ∧
      (b.layer = x.layer → b.state = .riding ∨ begins →
        (good = true → (∀ off cap, b.dest = .scratch off cap →
            let o := off + 729 * (x.tile + if x.plane = 1 then 0 else l.tiles)
            gives ((s2.scratchWrite team o.toNat x.data).noteUnit [b.core]
              (x.data.zipIdx.map fun p => (.scratch team (o + (p.2 : Int)), p.1)))) ∧
          ∀ n, b.dest = .tile n → gives (s2.mapTeam team fun m => { m with tiles := m.tiles.modify (b.core - m.core) fun c =>
            { c with tiles := c.tiles.modify (if x.plane = 1 then n else n + 1) fun y =>
              { y with data := memSetList y.data (729 * x.tile).toNat x.data } } })) ∧
        (good = false → strikes < 3 → exec i s = .next (fin (sBad.mapBoard team num fun v => { v with
          state := .armed, strike := strikes, struck := some (key, laps) }))) ∧
        (good = false → 3 ≤ strikes → ∃ (s' : State) (b' : Boarding), exec i s = .next s' ∧
          s'.board? team num = some b' ∧ b'.state = .failed ∧ b'.stat = 3 ∧
          (team, b.issuer, ⟨19, 1, 3 ^ 16 * x.layer + key⟩) ∈ s'.engineCauses))) ∧
    ∀ lap x, s.placeBeat lap k fed = some x → fed = false → x.kind = 1

/-- R361, R362, R364 to R367, R371, R373, R374, R438, R474, R475. The control of the beam: the program to switch to and its check,
the bounds of the step, the three values of ENABLE, the mark of a lap, the fold at a first broken link, and the stop at a
second, which fails every boarding at a tap with status 4, ERR of its sync word and the beam-tile trap; a lap that is abandoned
leaves the counts of strikes as they stood before it, and the beats of it that taps hold back are dropped. When a lap is over, and that a lap
which does not carry a tile leaves its strikes to the next, are the model's choices (log 34); so are the replacement request,
MSI-X vector 0 and the place among the fenced links of a broken link (log 38), and the readiness that the beam needs (log 35). -/
def Obligations.BeamControlResults : Prop :=
  ∀ (s : State),
    let still (b : Beam) : Beam := { b with lap := none, passed := [], stopAtEnd := false }
    let abandoned (b : Beam) : Beam := { still b with
      buffered := if s.lapOver = false then b.buffered.filter fun x => x.lap != b.laps else b.buffered }
    let rearmed := s.teams.map fun m : Team => { m with boardings := m.boardings.map fun b =>
      let b := if s.lapOver = false ∧ (b.atTap = true ∨ b.state = .held) then
        { b with strike := b.before.1, struck := b.before.2.map fun x => (x.1, x.2 + 1) } else b
      if b.state = .riding then { b with state := .armed } else b }
    let kept := s.returns.filter fun r => r.layer.isNone
    let stops (i : Instr) := s.ready.length = 73 → s.beamReady ≠ .neg → ∃ s' : State, exec i s = .next s' ∧
      s'.beam.enable = -1 ∧ s'.beam.lap = none ∧ s'.beamReady = .neg ∧ s'.readyTrit 2259 3 = .pos ∧ 0 ∈ s'.msix ∧
      ∀ m b, s.team? m.id = some m → m.state = .resident → b ∈ m.boardings → b.atTap = true →
        (∀ x ∈ m.boardings, x.num = b.num → x = b) → (∀ x ∈ s.teams, x.id = m.id → x = m) →
        (∃ b', s'.board? m.id b.num = some b' ∧ b'.state = .failed ∧ b'.stat = 4) ∧
        (m.id, b.issuer, ⟨19, 2, 3 ^ 16 * b.layer⟩) ∈ s'.engineCauses ∧
        (∀ l ∈ s'.locks, l.team = m.id → l.owner = .board b.num → l.kind = .torn) ∧
        ∀ o, b.sync = .scratch m.id o → Memory.wf m.scratch = true → (∀ k, fits 9 (memGet m.scratch k) = true) →
          (∀ y ∈ s.teams, ∀ x ∈ y.boardings, ∀ k o, x.sync = .scratch k o → 0 ≤ o ∧ o % 9 = 0) →
          ∃ w, s'.syncAt b.sync = some w ∧ w.err = .pos
    (∀ v, exec (.beamnext v) s = .next { s with beam := { s.beam with next := v, nxst := 0 } }) ∧
    (s.beam.next ≠ 0 → s.beam.nxst = 0 → s.beamServes = true →
      (∀ ls, s.program s.beam.next = some ls →
        exec .beamProgramCheck s = .next { s with beam := { s.beam with nxst := 1 } }) ∧
      (s.program s.beam.next = none →
        exec .beamProgramCheck s = .next { s with beam := { s.beam with nxst := -1 } })) ∧
    (∀ pa ls, s.program pa = some ls → pa % 27 = 0 ∧ 0 ≤ pa ∧ 1 ≤ ls.length ∧ ls.length ≤ 729 ∧ (ls.map Layer.id).Nodup ∧
      (ls.map Layer.beats).sum ≤ 531441 ∧ ∀ l ∈ ls, 0 ≤ l.id ∧ l.id ≤ 728 ∧ 1 ≤ l.tiles ∧ l.tiles ≤ 19683 ∧
        (l.planes = 1 ∨ l.planes = 2) ∧ l.run1 % 729 = 0 ∧ 0 ≤ l.run1 ∧ l.run1 + 729 * l.tiles ≤ s.window.hbmtop) ∧
    (∀ lo fix, 1 ≤ lo → lo ≤ 9 → 0 ≤ fix → fix ≤ 9 → exec (.beamctlStep lo fix) s = .next { s with beam := { s.beam with
      minstep := lo, fixstep := fix, step := if fix = 0 then s.beam.step else fix } }) ∧
    (s.beamReady ≠ .neg →
      exec .beamEnableRun s = .next { s with beam := { s.beam with enable := 1, stopAtEnd := false } }) ∧
    exec .beamEnableIdle s = .next { s with beam := { s.beam with
      enable := 0, stopAtEnd := if s.beam.enable = 1 then s.beam.lap.isSome else s.beam.stopAtEnd } } ∧
    (s.beamReady = .neg → exec .beamEnableRun s = .next s) ∧
    exec .beamEnableStop s = .next { s with
      beam := abandoned { s.beam with enable := -1 }, teams := rearmed, returns := kept } ∧
    (s.lapOver = false ∨ s.beamServes = false → exec .lapMark s = .next s) ∧
    (s.lapOver = true → s.beamServes = true → s.beam.enable ≠ 1 → exec .lapMark s = .next { s with beam := still s.beam }) ∧
    (s.lapOver = true → s.beamServes = true → s.beam.enable = 1 → ∀ ls,
      let sw := s.beam.nxst = 1
      let p := if sw then s.beam.next else s.beam.prog
      let next := if sw then 0 else s.beam.next
      let nxst := if sw then 0 else s.beam.nxst
      (p = 0 → exec .lapMark s = .next { s with beam := { still s.beam with prog := p, next := next, nxst := nxst } }) ∧
      (p ≠ 0 → s.program p = some ls → exec .lapMark s = .next { s with
        beam := { still s.beam with
          prog := p, next := next, nxst := nxst, laps := sat 54 (s.beam.laps + 1), lap := some ⟨ls, []⟩ }
        teams := s.teams.map fun m : Team => { m with boardings := m.boardings.map fun b =>
          { b with
            before := (b.strike, b.struck)
            struck := b.struck.map fun x => if ∃ l ∈ ls, l.id = b.layer ∧ trits x.1 14 0 < l.tiles ∧
              (trits x.1 15 15 = 1 ∨ l.planes = 2) then x else (x.1, x.2 + 1) } } })) ∧
    stops .beamStop ∧
    ∀ link, 1 ≤ link → link ≤ 29 → ∀ i, i = .beamLinkFailure link ∨ i = .linkFence link →
      (s.linksOut.contains link = false → s.beam.seg = 0 → ∃ r : List Int, exec i s = .next { s with
        beam := abandoned { s.beam with seg := link }, teams := rearmed, returns := kept, ready := r,
        linksOut := s.linksOut ++ [link], msix := s.msix ++ [0] } ∧
        (s.ready.length = 73 → ({ s with ready := r } : State).readyTrit 2259 3 = .pos)) ∧
      (s.linksOut.contains link = false → s.beam.seg ≠ 0 → s.beam.seg ≠ link → stops i) ∧
      (s.linksOut.contains link = true → exec i s = .next s)

/-- R191 to R202, R323, R400, R429, R473. LAUNCH, LREC and QFLUSH: the status of a record, which of its words decides each, the bolt it
becomes in its queue, and the end of every record of a queue; ADMISSION starts the next team of a record, or a team that is relaunched,
whole on the core that the placement names, under tags of its own; the priority of an eligible record rises a step each interval.
That a record in a poisoned sector, or one whose words a page boundary parts, gets status 1 is the model's choice (log 21), as are
the interval of at least one tick (log 22), a priority that rises no more once the record has left its queue (log 110), the
instruction that waits for the launch unit, and a write of LREC that is dropped while the unit is out of service (log 35), and tags that
advance at an admission (log 74). -/
def Obligations.LaunchResults : Prop :=
  (∀ (s : State) (w : List Int),
    let r := recordOf w
    let st := s.recordStatus w
    let f (i hi lo : Nat) := trits (w.getD i 0) hi lo
    let in_ (lo hi x : Int) := lo ≤ x ∧ x ≤ hi
    let pair (i : Nat) := w.getD i 0 + 3 ^ 27 * w.getD (i + 1) 0
    let there (v : Int) (p : Perm) := ∃ leaf n, s.leafFor r.queue (s.qrootOf r.queue) v = some (leaf, n) ∧ permits leaf p = true
    let lanes : Int := lanesOf (f 7 20 19)
    let valid := in_ 1 2391484 (f 6 26 13) ∧ in_ 1 1458 (f 6 12 0) ∧ in_ 1 243 (f 7 26 21) ∧ in_ (-1) 1 (f 7 20 19) ∧
      in_ 1 18 (f 7 18 15) ∧ in_ 0 9 (f 7 14 12) ∧ in_ 0 3 (f 7 11 10) ∧ in_ 0 9 (f 7 9 7) ∧ in_ 0 1 (f 7 6 6) ∧
      in_ 0 1 (f 7 5 5) ∧ f 7 4 0 = 0 ∧ in_ 0 4374 (f 8 26 18) ∧ in_ 0 26 (f 8 17 14) ∧ in_ 0 4 (f 8 12 11) ∧
      in_ (-1) 88573 (f 8 10 0) ∧ f 6 12 0 ≤ f 7 18 15 * lanes ∧ (f 7 18 15 - 1) * lanes < f 6 12 0 ∧
      fits 48 (pair 4) = true ∧ pair 4 % 729 = 0 ∧ there (pair 4) .store ∧
      ∀ k < 3, if f (11 + 3 * k) 18 18 = 1
        then f (11 + 3 * k) 26 19 = 0 ∧ fits 48 (pair (9 + 3 * k)) = true ∧ there (pair (9 + 3 * k)) .load
        else w.getD (9 + 3 * k) 0 = 0 ∧ w.getD (10 + 3 * k) 0 = 0 ∧ w.getD (11 + 3 * k) 0 = 0
    let full := 243 ≤ (s.queueOf r.queue).length
    (st = 1 ↔ ¬ valid) ∧ (st = 2 ↔ valid ∧ s.noFit r = true) ∧ (st = 3 ↔ valid ∧ s.noFit r = false ∧ full) ∧
    (st = 0 ↔ valid ∧ s.noFit r = false ∧ ¬ full) ∧
    (s.noFit r = false ↔
      (∃ c < 486, s.coresReady r c = true ∧ (Occupancy.mk [] []).fits r c = true) ∧
      ∃ c < 486, s.coreReady c = true ∧ 3 ^ r.eclass ≤ (s.dieAt (c / 18)).eallow) ∧
    (s.accept w).nextBolt = s.nextBolt + 1 ∧ ∃ b ∈ (s.accept w).bolts, b.id = s.nextBolt ∧ b.nextTeam = 0 ∧ b.prio = r.prio ∧
      b.qroot = s.qrootOf r.queue ∧ (b.record.entry, b.record.param, b.record.teams, b.record.queue) =
        (r.entry, r.param, r.teams, r.queue)) ∧
  (∀ (gd : Guard) (d b : Nat) (s : State) (t : Thread), t.ops = [] → s.Alone gd [gUse d, aUse b] t →
    ∀ g rest, s.check (s.listAgent t) .load (t.readA b) 1 none false false = .ok (g :: rest) → s.launchReady = true →
      let home := s.homeOf (leafDom g.leaf) g.pa.toNat
      let w := (List.range 18).map fun i => s.memWordAt home (g.pa.toNat + 3 * i)
      let s1 := s.visit home
      let st := s1.recordStatus w
      (t.readA b % 81 ≠ 0 ∨ g.pa < 0 ∨ s.recordWhole (s.listAgent t) (t.readA b) = false → exec (.launch gd d b) s = .next (s.becomes t (t.writeG d 1).advance)) ∧
      (t.readA b % 81 = 0 → 0 ≤ g.pa → s.recordWhole (s.listAgent t) (t.readA b) = true →
        (s.poisonAt home (g.pa.toNat / 81) ≠ 0 → exec (.launch gd d b) s = .next (s1.becomes t (t.writeG d 1).advance)) ∧
        (s.poisonAt home (g.pa.toNat / 81) = 0 →
          (st ≠ 0 → exec (.launch gd d b) s = .next (s1.becomes t (t.writeG d st).advance)) ∧
          (st = 0 → (s1.accept w).threads = s.threads →
            exec (.launch gd d b) s = .next ((s1.accept w).becomes t (t.writeG d 0).advance))))) ∧
  (∀ (port : Nat) (high : Int) (s : State),
    let s1 : State := { s with window := { s.window with lrec := withHalf s.window.lrec 1 high } }
    let done (s' : State) (st : Int) : State := { s' with ports := s'.ports.modify port fun p => { p with lstat := st } }
    let s2 := if s1.window.lrec < 0 then s1 else s1.visitPhys s1.window.lrec.toNat 54
    (s.launchReady = false → exec (.lrec port high) s = .next s1) ∧
    (s.launchReady = true → s2.recordAt s1.window.lrec = none → exec (.lrec port high) s = .next (done s2 1)) ∧
    ∀ w, s.launchReady = true → s2.recordAt s1.window.lrec = some w → exec (.lrec port high) s =
      .next (done (if s2.recordStatus w = 0 then s2.accept w else s2) (s2.recordStatus w))) ∧
  (∀ (n : Nat) (s : State), n ≤ 26 → (s.bolts.map Bolt.id).Nodup → (∀ b ∈ s.bolts, b.queued = true → b.outcome = 0) →
    ∃ s' : State, exec (.qflush n) s = .next s' ∧ (∀ b ∈ s'.bolts, b.queued = true → b.record.queue ≠ n) ∧
      ∀ b ∈ s.bolts, b.queued = true → b.record.queue = n → ∃ b' ∈ s'.bolts, b'.id = b.id ∧ b'.outcome = -1) ∧
  (∀ (s : State) (c : Cand) (core : Nat) (b : Bolt), s.nextAdmission = some (c, core) → c.kind ≠ .spooled →
    s.bolt? c.team.bolt = some b →
    let r := b.record
    ∃ s' : State, exec .admission s = .next s' ∧
      (∃ m ∈ s'.teams, m.id = ⟨b.id, c.team.team⟩ ∧ m.core = core ∧ m.state = .resident ∧ m.scratch = [] ∧
        m.pair = r.needsPair ∧ m.counter = 0 ∧ m.tags = s.freshTags core) ∧
      (∀ k, s'.tagOf core k = wrap 18 (s.tagOf core k + 1)) ∧
      (c.kind = .fresh → ∃ b' ∈ s'.bolts, b'.id = b.id ∧ b'.nextTeam = b.nextTeam + 1 ∧
        (b'.queued = true ↔ b.nextTeam + 1 < r.teams)) ∧
      (c.kind = .again → ∃ b' ∈ s'.bolts, b'.id = b.id ∧ b'.nextTeam = b.nextTeam ∧ b'.queued = b.queued ∧
        b'.again = b.again.filter fun n => n != c.team.team) ∧
      ∀ g < r.groups, ∀ j < r.members g, ∃ t ∈ s'.threads, t.team = ⟨b.id, c.team.team⟩ ∧ t.grp = g ∧ t.member = j ∧
        t.lane = baseLane r.width g + j ∧ t.core = coreOfGroup core g r.needsPair ∧ t.nregs = r.regs ∧ t.Sized ∧
        t.pc = r.entry ∧ t.run = .boundary .entry ∧ t.readA 1 = b.plan.top ∧ t.readA 2 = r.param ∧
        (∀ i, t.readG i = 0) ∧ (∀ i, t.readC i = .zero) ∧ t.rsdepth = 0 ∧ t.trapvec = 0 ∧
        t.flags = ⟨false, false, false, false⟩ ∧ t.status.system = false ∧ t.status.intrap = false) ∧
  (∀ (s : State) (r : Record) (core : Nat), s.placement r = some core →
    let h (c : Nat) := (s.dieAt (c / 18)).h
    let busy (c : Nat) := s.occupancy.busy r c
    let ok (c : Nat) := c < 486 ∧ s.coresReady r c = true ∧ s.dieAccepts s.occupancy r c = true ∧
      s.occupancy.fits r c = true
    ok core ∧ ∀ c, ok c → h c < h core ∨ h c = h core ∧ (busy core < busy c ∨ busy core = busy c ∧ core ≤ c)) ∧
  ∀ (s : State), ∃ s' : State, exec .priorityPromotion s = .next s' ∧ { s' with bolts := s.bolts } = s ∧
    s'.bolts.length = s.bolts.length ∧ ∀ (k : Nat) (b : Bolt), s.bolts[k]? = some b → ∃ b' : Bolt, s'.bolts[k]? = some b' ∧
      { b' with prio := b.prio } = b ∧ b'.prio = match b.eligible with
        | none => b.prio
        | some e => if b.queued then max b.prio (min 1 (b.record.prio + ((s.now - e) / s.ageguard : Nat))) else b.prio

/-- R127, R188, R189, R323, R410, R414, R421. A thread that leaves counts in its team's counter and HALT ends its bolt; a team
that is done frees all it held, under new generation tags, and raises the completion sync word, the last one with the outcome in the header. -/
def Obligations.EndResults : Prop :=
  (∀ (s : State) (t : Thread) (halt : Option Int), s.Calm → s.thread? t.id = some t →
    (∀ u ∈ s.threads, u.id = t.id → u = t) → t.run = .exiting halt → t.clause ≠ [] → t.ops = [] → s.teamLive t.team = true →
    let i : Instr := .completionCounterAdd t.id
    (t.pend = [] → (∀ u ∈ s.threads, u.team = t.team → u.barrier? = none) →
      let s1 := (s.becomes t { t with run := .exited, capture := [] }).mapTeam t.team fun m =>
        { m with counter := m.counter + 1 }
      (halt = none → exec i s = .next s1) ∧ (∀ v, halt = some v → exec i s = .next (s1.endBolt t.id.bolt 2 [(8, v)]))) ∧
    (∀ p rest, t.pend = p :: rest → t.status.intrap = false → t.trapvec ≠ 0 →
      ∃ t', exec i s = .next (s.becomes t t') ∧ Thread.Trapped p.cause t t' ∧ t'.pend = rest)) ∧
  (∀ (s : State) (m : Team) (b : Bolt), s.team? m.id = some m → s.teamDone m = true →
    let s1 := (s.freeTeam m.id).mapBolt m.id.bolt fun b => { b with ended := b.ended + 1 }
    s1.bolt? m.id.bolt = some b →
    (∀ t ∈ s1.threads, t.team ≠ m.id) ∧ (∀ x ∈ s1.teams, x.id ≠ m.id) ∧
    (∀ l ∈ s1.locks, l.team = m.id → l.kind = .torn ∨ ∃ cid rank, l.owner = .collective cid rank) ∧
    (b.ended < b.record.teams → exec (.teamEnd m.id) s = .next (s1.raiseDone b 1)) ∧
    (b.record.teams ≤ b.ended →
      let s1 : State := { s1 with
        heldTrytes := s1.heldTrytes.filter fun x => x.2.2.bolt != b.id
        heldBefore := s1.heldBefore.filter fun x => x.2.2.bolt != b.id }
      (∀ s2, s1.writeHeader b [(0, 1)] = some s2 →
        exec (.teamEnd m.id) s = .next ((s2.mapBolt b.id fun b => { b with outcome := 1 }).raiseDone b 1)) ∧
      (s1.writeHeader b [(0, 1)] = none → exec (.teamEnd m.id) s =
        .next (((s1.mapBolt b.id fun b => { b with outcome := -1 }).errDone b).raiseDone b 1))) ∧
    ∀ k, s1.tagOf m.core k = wrap 18 (s.tagOf m.core k + 1)) ∧
  ∀ (s : State) (b : Bolt) (outcome : Int) (header : List (Nat × Int)), s.bolt? b.id = some b → b.outcome = 0 →
    let s' := s.endBolt b.id outcome header
    (∀ m ∈ s'.teams, m.id.bolt ≠ b.id) ∧
    (∀ t ∈ s'.threads, ∀ m ∈ s.teams, t.team = m.id → m.id.bolt ≠ b.id) ∧
    ∃ b', s'.bolt? b.id = some b' ∧ (b'.outcome = outcome ∨ b'.outcome = -1) ∧ b'.queued = false ∧
      b'.ended = b.record.teams

/-- R206, R207, R375, R390, R408, R416, R418, R419, R422 to R425. Teams that leave their cores and come back: pre-emption
stops every team on a core, BRESUME makes held teams candidates, a wait beyond its threshold spools a team, and none whose
threshold is -1 unless a thread of it waits in SPOOL, the written context frees its cores under a new tag, and a resumption gives its
threads back their registers on the new cores, where it registers its locks again or waits until it can. That a resumed team's tags are those of an
admission, and advance with it, is the model's choice (log 74), and so is that it registers all that it holds or nothing (log 25). -/
def Obligations.PreemptionResults : Prop :=
  (∀ (s : State) (core : Nat) (hold : Bool), core < 486 → core / 18 < s.dies.length →
    (s.dieAt (core / 18)).pstat.length = 18 → (s.dieAt (core / 18)).pstat.getD (core % 18) 1 ≠ 0 →
    ∃ s' : State, exec (if hold then .preemptHold core else .preemptRequeue core) s = .next s' ∧
      (s'.dieAt (core / 18)).pstat.getD (core % 18) 1 = (if ∃ m ∈ s.teams, m.occupies core = true then 0 else 1) ∧
      ∀ m ∈ s.teams, m.occupies core = true → ∃ m' ∈ s'.teams, m'.id = m.id ∧ m'.state = .stopping hold ∧
        m'.readyAt = (if hold then none else some s.now) ∧ (∀ b ∈ m'.boardings, b.atTap = false) ∧
        ∀ t ∈ s'.threads, t.team = m.id → t.run ≠ .ganged ∧ ∀ g ∈ s'.gangs, t.id ∉ g) ∧
  (∀ (s : State) (bolt : Int), exec (.bresume bolt) s = .next { s with teams := s.teams.map fun m : Team =>
    if (m.id.bolt : Int) = bolt ∧ m.state = (.spooled true) then { m with state := .spooled false, readyAt := some s.now }
    else if (m.id.bolt : Int) = bolt ∧ m.state = (.stopping true) then { m with state := .stopping false, readyAt := some s.now }
    else m }) ∧
  (∀ (s : State) (m : Team), s.toSpool = some m → exec .spoolByWaiting s = .next (s.stopTeam m.id false none) ∧
    m.state = .resident ∧ (∀ t ∈ s.threads, t.team = m.id → t.run ≠ .exited → t.counted = true) ∧
    ∀ b, s.bolt? m.id.bolt = some b → (∃ t ∈ s.threads, t.team = m.id ∧ ∃ cd l g, t.run = .waiting cd l g true) ∨
      b.record.spoolt ≠ -1 ∧ 10 * (if b.record.spoolt = 0 then 40 else b.record.spoolt) < m.waited) ∧
  (∀ (s : State) (m : Team) (b : Bolt) (l : List Seg) (hold : Bool), s.contextReady = some m → s.team? m.id = some m →
    m.state = .stopping hold → s.bolt? m.id.bolt = some b → s.slotSegs b m.id.team .store = some l → m.scratchBad = [] →
    (s.threads.map Thread.id).Nodup → (∀ t ∈ s.threads, t.team = m.id → t.ops = [] ∧ t.status.det = false) →
    ∃ (s' : State) (m' : Team), exec .spoolContextWritten s = .next s' ∧ s'.team? m.id = some m' ∧ m'.state = .spooled hold ∧
      (∀ k, s'.tagOf m.core k = wrap 18 (s.tagOf m.core k + 1)) ∧ m'.scratch = m.scratch ∧ m'.tiles = m.tiles ∧
      (∃ f ∈ s'.forwards, f.team = m.id ∧ f.pair = m.core / 2) ∧
      (∀ x ∈ s'.locks, x.saved m.id = true → 486 ≤ x.core) ∧
      (∀ t ∈ s.threads, t.team = m.id → ∃ t' ∈ s'.threads, t'.id = t.id ∧ t'.g = t.g ∧ t'.a = t.a ∧ t'.c = t.c)) ∧
  (∀ (s : State) (c : Cand) (core : Nat) (m : Team) (b : Bolt), s.nextAdmission = some (c, core) → c.kind = .spooled →
    s.team? c.team = some m → s.bolt? c.team.bolt = some b → s.slotReads b m.id.team = true → s.heldCauses m.id = [] → s.Calm →
    (∀ x ∈ m.boardings, x.state ≠ .held) → (∀ t ∈ s.threads, t.team = m.id → t.pend = []) →
    ∃ (s' : State) (m' : Team), exec .admission s = .next s' ∧ s'.team? m.id = some m' ∧ m'.state = .resident ∧ m'.core = core ∧
      m'.tags = s.freshTags core ∧ m'.scratch = m.scratch ∧ m'.tiles = m.tiles ∧
      ((∀ x ∈ s.teams, x.rejoin = false) → (s.canRelock m.id core = false → m'.rejoin = true ∧ s'.locks = s.locks) ∧
        (s.canRelock m.id core = true → m'.rejoin = false ∧ ∀ l ∈ s'.locks, l.team = m.id → l.core ≠ 487 ∧ l.core ≠ 488)) ∧
      ∀ t ∈ s.threads, t.team = m.id → ∃ t' ∈ s'.threads, t'.id = t.id ∧ t'.core = coreOfGroup core t.grp m.pair ∧
        t'.g = t.g ∧ t'.a = t.a) ∧
  (∀ (s : State) (team : TeamId) (off n : Int) (rest : List (TeamId × Int × Int)), s.transit = (team, off, n) :: rest →
    exec .forwardedRaise s = .next (({ s with transit := rest } : State).applyRaise noCore (.scratch team off) n)) ∧
  ∀ (s : State) (team : TeamId) (id : ThreadId) (c : Cause) (rest : List (TeamId × ThreadId × Cause)) (m : Team),
    s.engineCauses = (team, id, c) :: rest → s.team? team = some m → s.Calm →
    let s1 : State := { s with engineCauses := rest }
    (∀ hold pre f post, m.state = .spooled hold → s.forwards = pre ++ f :: post → f.team = team →
      (∀ g ∈ post, g.team ≠ team) → exec .engineCauseArrival s = .next { s1 with
        forwards := pre ++ { f with causes := f.causes ++ [(id, c)] } :: post }) ∧
    (m.state = .resident → ∀ t ∈ s.threads, t.id = id → t.team = team → t.run ≠ .exited → t.pend.length < 9 →
      (∀ cd l g b, t.run ≠ .waiting cd l g b) → (∀ u ∈ s.threads, u.id = t.id → u = t) →
      exec .engineCauseArrival s = .next (s1.becomes t { t with pend := t.pend ++ [⟨c, []⟩] }))

/-- R262, R265, R267 to R269, R426 to R429. Errors of memories: a fill ends with the trytes written meanwhile kept; a reading whose
check code fails is made once more, and poisons the sector when that fails too; a corrected error only counts; an uncorrectable one drops a clean line, poisons a
dirty or home sector, marks a scratchpad tryte, or kills the team, which an idempotent bolt starts again at most
three times: where the count of relaunches can be written to its header the team is to be admitted again, and where it cannot the bolt
ends with failure; a sector at rest has its format, POISON, reserved bits and check code where the layout has them. That SCRUB
kills the first team with such a tryte with subcode 3 and adds nothing to UECOUNT is the model's choice (log 36); which channel
pair holds a sector, and the format that the IO die chooses, are free (logs 17, 87). -/
def Obligations.MemoryErrorResults : Prop :=
  (∀ (s : State) (home sector : Nat) (noise : List (List (BitVec 8))) (e : SliceSector),
    s.sliceAt home sector = some e → e.pending = true → (∀ x ∈ s.prefetches, x.names home sector = false) → e.poison = 0 → e.valid.length = 81 →
    let got := s.readHbm e.comp sector noise
    (∃ (s' : State) (e' : SliceSector), exec (.sectorFill home sector noise) s = .next s' ∧ s'.sliceAt home sector = some e' ∧
      e'.pending = false ∧ (∀ k < 81, e'.valid.getD k false = true ∧
        e'.data.getD k 0 = if e.valid.getD k false then e.data.getD k 0 else got.1.getD k 0) ∧
      (e'.poison ≠ 0 ↔ got.2 = true) ∧ s'.hbm = s.hbm ∧ s'.l1 = s.l1) ∧
    (s.channelsOut.contains (s.channelAt sector) = true → got.2 = true) ∧
    (let b := s.storedBytes e.comp sector
     b.length = 160 ∧ checkHolds b = true ∧ sectorPoison b = s.hbmPoison.contains sector ∧ sectorReserved b = 0 ∧
      formatPermitted e.comp (sectorFormat b) = true) ∧
    (s.channelsOut.contains (s.channelAt sector) = false →
      let plain := (List.range 81).map fun k => memGet s.hbm (81 * sector + k)
      let bits := packSector plain (s.hbmPoison.contains sector)
      let fails (k : Nat) := checkHolds (flipBits bits (noise.getD k [])) = false
      (noise = [] → got = (plain, s.hbmPoison.contains sector)) ∧
      (e.comp = .zero → fails 0 → fails 1 → got.2 = true) ∧
      (e.comp = .zero → fails 0 → (∀ b ∈ noise.getD 1 [], b = 0) → got = (plain, s.hbmPoison.contains sector)))) ∧
  (∀ (s : State) (site : SoftSite), exec (.softError true site) s =
    .next (s.setDie (s.siteDie site) fun d => { d with cecount := sat 54 (d.cecount + 1) })) ∧
  (∀ (s : State) (core : Nat) (sector : Int) (id : TeamId) (off : Nat) (m : Team),
    let ue (k : Nat) (s : State) := s.setDie k fun d => { d with uecount := sat 54 (d.uecount + 1) }
    let die := s.dieOfTeam id
    (∃ s' : State, exec (.softError false (.cleanLine core sector)) s = .next s' ∧ s'.hbm = s.hbm ∧ s'.slices = s.slices ∧
      (∀ e ∈ s'.l1, e ∈ s.l1) ∧ ∀ e ∈ s'.l1, e.core = core → (e.sector : Int) = sector →
        (∃ k, e.dirty.getD k false = true) ∨ ∃ k, e.owned.getD k false = true) ∧
    (∃ s' : State, exec (.softError false (.dirtyL1 core sector)) s = .next s' ∧ ∀ e ∈ s'.l1, e.core = core →
      (e.sector : Int) = sector → (∃ k, e.dirty.getD k false = true) → e.poison = 2) ∧
    (s.team? id = some m → ∃ (s' : State) (m' : Team), exec (.softError false (.scratch id off)) s = .next s' ∧ s'.team? id = some m' ∧
      (∀ k, k ∈ m'.scratchBad ↔ k ∈ m.scratchBad ∨ k = off) ∧ m'.scratch = m.scratch) ∧
    (∀ home sec, exec (.softError false (.slice home (sec : Nat))) s = .next ((ue (home / 27) s).poisonSlice home sec)) ∧
    exec (.softError false (.scrubbed id)) s = .next ((ue die s).killFor id 3) ∧
    exec (.softError false (.transfer id)) s = .next ((ue die s).killFor id 3) ∧
    exec (.softError false (.tile id)) s = .next ((ue die s).killFor id 2) ∧
    exec (.softError false (.registers id)) s = .next ((ue die s).killFor id 1) ∧
    (s.teams.find? (fun m => !m.scratchBad.isEmpty) = none → exec .scrub s = .next s) ∧
    (s.teams.find? (fun m => !m.scratchBad.isEmpty) = some m →
      exec .scrub s = .next (s.killFor m.id 3))) ∧
  ∀ (s : State) (m : Team) (b : Bolt) (sub : Int), s.team? m.id = some m → s.bolt? m.id.bolt = some b → b.outcome = 0 →
    1 ≤ sub →
    let s' := s.killFor m.id sub
    let times := ((b.relaunched.find? fun p => p.1 == m.id.team).map Prod.snd).getD 0
    (∀ t ∈ s'.threads, t.team ≠ m.id) ∧ (∀ x ∈ s'.teams, x.id ≠ m.id) ∧
    (b.record.idem = false ∨ 3 < sub ∨ 3 ≤ times →
      s' = s.endBolt m.id.bolt (-1) [(1, trapInfo 0 ⟨22, if b.record.idem = true ∧ sub ≤ 3 then 4 else sub, 0⟩), (2, -1),
        (3, m.id.team), (4, 0), (5, 0), (6, 0), (7, 0)] ∧
      ∃ b', s'.bolt? m.id.bolt = some b' ∧ b'.outcome = -1) ∧
    (b.record.idem = true → sub ≤ 3 → times < 3 →
      let counts := (m.id.team, times + 1) :: b.relaunched.filter fun p => p.1 != m.id.team
      let s1 := (s.killTeam m.id).mapBolt m.id.bolt fun b => { b with again := b.again ++ [m.id.team], relaunched := counts }
      let relaunch := s1.writeHeader b [(9, ((counts.map Prod.snd).sum : Nat))]
      (∀ s2, relaunch = some s2 → s' = s2 ∧ ∃ b', s'.bolt? m.id.bolt = some b' ∧ b'.outcome = 0 ∧
        b'.again = b.again ++ [m.id.team] ∧ b'.relaunched = counts) ∧
      (relaunch = none → ∃ b', s'.bolt? m.id.bolt = some b' ∧ b'.outcome = -1 ∧ m.id.team ∉ b'.again))

/-- R11, R205, R366, R436 to R438, R440. Power and clocks: each evaluation sets a die's headroom and rate and the governed beam
step; FCTL bounds the frequency step and asks for one within, whatever its reserved trits hold; a governed step follows nine evaluations of one sign;
a frequency step rescales CYCLES and stops the clock; 120 ticks later the relock adds its share, and a step that was
asked for meanwhile begins; a running clock counts a cycle for each 1 / N of 2 / 3 of a tick. That EMEAS advances at
evaluations alone is the model's choice (log 98), as is the order in which the steps that are due take place before time
passes on (log 88). -/
def Obligations.PowerResults : Prop :=
  (∀ s : State, (s.evalDue = true ↔ s.evals ≠ s.reftime / 100) ∧
    (s.evalDue = false → ∀ energy, exec (.headroomEvaluation energy) s = .next s) ∧
    (s.dueStep ≠ none → s.passing = 0) ∧ (s.evalDue = true ∨ (∃ d ∈ s.dies, d.relocked = true) → s.dueStep ≠ none) ∧
    (s.fine < Config.tickUnits → s.fine + s.passing ≤ (100 - (s.reftime % 100).toNat) * Config.tickUnits) ∧
    (∀ d ∈ s.dies, d.relock = true → s.passing ≤ d.left) ∧
    s.elapse.reftime = wrap 54 (s.reftime + ((s.fine + s.passing) / Config.tickUnits : Nat)) ∧
    s.elapse.fine = (s.fine + s.passing) % Config.tickUnits ∧ s.elapse.dies = s.dies.map (Die.pass s.passing)) ∧
  (∀ (d : Die) (n : Nat),
    ((d.pass n).left, (d.pass n).cycles) = (if d.relock then (d.left - n, d.cycles) else (d.left, (d.pass n).cycles)) ∧
    (d.relock = false → 1 ≤ d.step → d.step ≤ 9 → ∃ q, (d.pass n).cycles = wrap 54 (d.cycles + (q : Nat)) ∧
      (d.pass n).phase < cycleUnits d.step ∧ q * cycleUnits d.step + (d.pass n).phase = d.phase + n ∧
      3 * (cycleUnits d.step * (d.step + 3).toNat) = 2 * Config.tickUnits)) ∧
  (∀ (energy : List Nat) (s : State), s.evalDue = true → ∃ s', exec (.headroomEvaluation energy) s = .next s' ∧
    { s' with dies := s.dies, beam := s.beam, evals := s.evals } = s ∧ s'.evalDue = false ∧
    s'.evals = s.reftime / 100 ∧ s'.dies.length = s.dies.length ∧
    (∀ (k : Nat) (d : Die), s.dies[k]? = some d → ∃ d' : Die, s'.dies[k]? = some d' ∧
      let e : Int := energy.getD k 0
      let h := d.ebudget - (sat 54 (d.emeas + e) - d.emeas)
      d'.h = h ∧ d'.emeas = sat 54 (d.emeas + e) ∧ (h < 0 → d'.headroom = -1 ∧ d'.rate = max 1 (d.rate - 1)) ∧
      (0 ≤ h → 9 * h < d.ebudget → d'.headroom = 0 ∧ d'.rate = d.rate) ∧
      (0 ≤ h → d.ebudget ≤ 9 * h → d'.headroom = 1 ∧ d'.rate = min 9 (d.rate + 1)) ∧
      (d'.evalSign, d'.evalCount) = (if d.relock then (d.evalSign, d.evalCount) else if d'.headroom = 0 then (0, 0)
        else if d'.headroom = d.evalSign then (d.evalSign, d.evalCount + 1) else (d'.headroom, 1)) ∧
      (d'.ebudget, d'.eallow, d'.step, d'.cycles, d'.pstat, d'.request) =
        (d.ebudget, d.eallow, d.step, d.cycles, d.pstat, d.request)) ∧
    (s.beam.fixstep ≠ 0 → s'.beam = s.beam) ∧
    (s.beam.fixstep = 0 → (∃ d ∈ s'.dies, d.headroom < 0) →
      s'.beam = { s.beam with step := max s.beam.minstep (s.beam.step - 1) }) ∧
    (s.beam.fixstep = 0 → (∀ d ∈ s'.dies, 0 < d.headroom) → s'.beam = { s.beam with step := min 9 (s.beam.step + 1) })) ∧
  (∀ (die : Nat) (v : Int) (s : State), die < s.dies.length →
    let lo := trits v 4 1
    let hi := trits v 8 5
    let fix := trits v 12 9
    (¬ (1 ≤ lo ∧ lo ≤ 9 ∧ lo ≤ hi ∧ hi ≤ 9 ∧ 0 ≤ fix ∧ fix ≤ 9) → exec (.fctl die v) s = .next s) ∧
    (1 ≤ lo → lo ≤ hi → hi ≤ 9 → 0 ≤ fix → fix ≤ 9 → ∃ d' : Die, exec (.fctl die v) s = .next (s.setDie die fun _ => d') ∧
      let d := s.dieAt die
      let may (n : Int) := if fix = 0 then lo ≤ n ∧ n ≤ hi else n = fix
      (d'.fmin, d'.fmax, d'.ffix, d'.step, d'.cycles) = (lo, hi, fix, d.step, d.cycles) ∧
      (∀ n, d'.request = some n → may n) ∧ (¬ may d.step → d'.request ≠ none))) ∧
  (∀ (k : Nat) (s : State), k < s.dies.length →
    let d := s.dieAt k
    (s.dies.findIdx? (fun d : Die => d.governs.isSome) = some k →
      d.ffix = 0 ∧ 9 ≤ d.evalCount ∧ d.fmin ≤ d.step + d.evalSign ∧ d.step + d.evalSign ≤ d.fmax ∧
      exec .governedStep s = .next (s.setDie k fun _ => { d with
        request := some (d.step + d.evalSign), evalCount := 0, evalSign := 0 })) ∧
    (∀ n, s.dies.findIdx? (fun d : Die => d.request.isSome && !d.relock) = some k → d.request = some n → n ≠ d.step →
      0 < d.step + 3 → ∃ c, 2 * |c * (d.step + 3) - d.cycles * (n + 3)| ≤ d.step + 3 ∧
        exec .frequencyStep s = .next (s.setDie k fun _ => { d with
          cycles := wrap 54 c, step := n, relock := true, left := 120 * Config.tickUnits, phase := 0, request := none,
          evalCount := 0, evalSign := 0 })) ∧
    ((∀ d ∈ s.dies, d.relock = true → 0 < d.left) → exec .relockEnd s = .next s) ∧
    (s.dies.findIdx? Die.relocked = some k → d.request = none → d.relock = true ∧ d.left = 0 ∧
      exec .relockEnd s = .next (s.setDie k fun _ => { d with
        relock := false, cycles := wrap 54 (d.cycles + 180 * (d.step + 3)) })) ∧
    (s.dies.findIdx? Die.relocked = some k → ∀ n, d.request = some n → n ≠ d.step → 0 < d.step + 3 →
      let old := wrap 54 (d.cycles + 180 * (d.step + 3))
      ∃ c, 2 * |c * (d.step + 3) - old * (n + 3)| ≤ d.step + 3 ∧
        exec .relockEnd s = .next (s.setDie k fun _ => { d with
          cycles := wrap 54 c, step := n, relock := true, left := 120 * Config.tickUnits, phase := 0, request := none,
          evalCount := 0, evalSign := 0 })))

/-- R255, R265 to R267, R432, R441 to R448, R451 to R454, R473, R474. The host and the peers: invalidations of translations, HRAISE,
the two-word reads and writes of a port in eight bytes, BAR2 and BAR4, the packing of trytes in the 160 bytes of a sector
and in the body of a flit, and the flits, sectors, writes and reads of peers; nothing passes a port that is out of service.
When a port serves before the firmware runs is the model's choice (log 35). -/
def Obligations.HostAndLinkResults : Prop :=
  ∀ (s : State) (port : Nat) (w v n : Int),
    let at_ (pa : Int) := SyncLoc.memory (s.homeOf .zero pa.toNat) pa uncached
    (-1 ≤ n → n ≤ 26 → exec (.tinval n) s = .next { s with
      window := { s.window with tinval := 0 }, tinvPending := s.tinvPending ++ [n] }) ∧
    (∀ rest, s.tinvPending = n :: rest → ∃ s' : State, exec .translationInvalidationDone s = .next s' ∧
      s'.tinvPending = rest ∧ (∀ e, e ∈ s'.tcache ↔ e ∈ s.tcache ∧ n ≠ -1 ∧ (e.queue : Int) ≠ n) ∧
      s'.window = { s.window with tinval := if rest = [] then 1 else 0 } ∧
      { s' with tinvPending := s.tinvPending, tcache := s.tcache, window := s.window } = s) ∧
    (let pa := s.window.hrsync
     (1 ≤ n → 0 ≤ pa → pa % 9 = 0 → pa < s.window.hbmtop → exec (.hraise n) s = .next (s.raise (at_ pa) 486 n)) ∧
     (n < 1 → exec (.hraise n) s = .next s)) ∧
    (s.portServes port = false → ∀ bytes, exec (.hostLowWordRead port w) s = .next s ∧
      exec (.hostLowWordWrite port w bytes) s = .next s ∧ exec (.hostHighWordWrite port w bytes) s = .next s) ∧
    (0 ≤ w → w < 8388608 → s.portServes port = true →
      (pairLow w = true → ∃ s' : State, exec (.hostLowWordRead port w) s = .next s' ∧
        s'.hostReads = bytesOfInt 8 (s.windowWord w) :: s.hostReads ∧
        (port < s.ports.length → portWord (s'.port? port).latch (w + 1) = some (s.windowWord (w + 1)))) ∧
      (pairLow w = false → w ≠ 56 → ∃ s' : State, exec (.hostLowWordRead port w) s = .next s' ∧
        s'.hostReads = bytesOfInt 8 ((portWord (s.port? port).latch w).getD (s.windowWord w)) :: s.hostReads ∧
        portWord (s'.port? port).latch w = none) ∧
      (fits 27 v = true → bytesOfInt 8 v = (List.range 8).map (fun k => BitVec.ofInt 8 (v / 256 ^ k)) ∧
        let bytes := bytesOfInt 8 v
        (pairLow w = false → exec (.hostLowWordWrite port w bytes) s = .next (s.writeWord w v)) ∧
        (pairLow w = true → port < s.ports.length → ∃ s' : State, exec (.hostLowWordWrite port w bytes) s = .next s' ∧
          portWord (s'.port? port).held w = some v ∧ { s' with ports := s.ports } = s) ∧
        (pairLow (w - 1) = false → exec (.hostHighWordWrite port w bytes) s = .next (s.writeWord w v)) ∧
        (pairLow (w - 1) = true → w ≠ 55 → ∀ low, portWord (s.port? port).held (w - 1) = some low →
          ∃ s1 : State, { s1 with ports := s.ports } = s ∧
            exec (.hostHighWordWrite port w bytes) s = .next (s1.writePair (w - 1) (low + 3 ^ 27 * v)))) ∧
      (∀ bytes : List (BitVec 8), fits 27 (intOfBytes (bytes.take 8)) = false →
        exec (.hostLowWordWrite port w bytes) s = .next s ∧ exec (.hostHighWordWrite port w bytes) s = .next s)) ∧
    (fits 27 v = true → s.hostServes = true → exec (.registerWrite w v) s = .next (s.writeWord w v)) ∧
    (fits 27 v = false ∨ s.hostServes = false → exec (.registerWrite w v) s = .next s) ∧
    (let tryte := if n < 0 ∨ s.window.hbmtop ≤ n then 0
        else if s.physPoison n.toNat ≠ 0 then -32768 else s.readPhys n.toNat
     let s1 := if n < 0 ∨ s.window.hbmtop ≤ n then s else s.visit (s.homeOf .zero (81 * (n.toNat / 81)))
     s.hostServes = true → exec (.bar2Read n 1) s = .next { s1 with hostReads := bytesOfInt 2 tryte :: s.hostReads }) ∧
    (∀ (k : Nat) (lo hi : BitVec 8), (k : Int) < s.window.hbmtop → s.hostServes = true →
      let x := (hi ++ lo : BitVec 16).toInt
      (fits 9 x = true → exec (.bar2Write (2 * k) [lo, hi]) s = .next (s.writePhys (k / 81) [(k % 81, x)])) ∧
      (fits 9 x = false → exec (.bar2Write (2 * k) [lo, hi]) s = .next s)) ∧
    (∀ (off : Nat) (bytes : List (BitVec 8)), off + bytes.length ≤ 16777216 → bytes ≠ [] → s.hostServes = true →
      byteWfFrom 0 s.staging = true → ∃ m, exec (.bar4Access off bytes 0) s = .next { s with staging := m } ∧
        ∀ a, byteGet m a = if off ≤ a ∧ a < off + bytes.length then bytes.getD (a - off) 0 else byteGet s.staging a) ∧
    (∀ off k : Nat, off + k ≤ 16777216 → s.hostServes = true → exec (.bar4Access off [] k) s =
      .next { s with hostReads := ((List.range k).map fun i => byteGet s.staging (off + i)) :: s.hostReads }) ∧
    (∀ (link : Nat) (body : List (BitVec 8)) (crc : Bool), link ∉ s.linksOut → ∃ f, exec (.flitReceive link body crc) s =
        .next { s with flits := ⟨link, f⟩ :: s.flits } ∧
      let code (j : Nat) : Nat := numOfBytes body / 32 ^ j % 32
      (f = none ↔ crc = false ∨ body.length ≠ 240 ∨ ∃ j < 384, 26 < code j) ∧
      ∀ l, f = some l → l.length = 128 ∧ ∀ k < 128, ∀ j < 3,
        trits (l.getD k 0) (3 * j + 2) (3 * j) = (code (3 * k + j) : Int) - 13) ∧
    (∀ (ts : List Int) (poison : Bool), ts.length = 81 → (∀ x ∈ ts, fits 9 x = true) →
      let b := packSector ts poison
      (b.length = 160 ∧ checkHolds b = true ∧ codeTrytes (sectorCodes b) = ts ∧ sectorPoison b = poison ∧
        sectorFormat b = 0 ∧ sectorReserved b = 0) ∧
      ∀ link hdr, link ∉ s.linksOut → exec (.flitReceive link (sectorFlit hdr ts) true) s = .next { s with
        flits := ⟨link, some ([trits hdr 8 0, trits hdr 17 9, trits hdr 26 18] ++ ts ++ List.replicate 44 0)⟩ :: s.flits }) ∧
    (∀ (dev win sector : Nat) (mask : List Nat) (sent : List (List (BitVec 8))), 81 * (sector : Int) + 81 ≤ s.window.hbmtop →
      s.peerReady dev = true → mask ≠ [] → mask.Nodup → (∀ k ∈ mask, k < 81) →
      ((∀ b ∈ sent.take 2, peerAccepts b = false) → exec (.peerSectorReceive dev win sector mask sent) s = .next s) ∧
      (∀ b, (sent.take 2).find? peerAccepts = some b → exec (.peerSectorReceive dev win sector mask sent) s =
        .next ((s.writePhys sector (mask.map fun k => (k, (codeTrytes (sectorCodes b)).getD k 0))).inboundRaise dev win
          (mask.length : Nat))) ∧
      exec (.peerReadTransaction dev sector) s = .next { s.visitPhys (81 * sector) 81 with peerReads := ⟨dev, sector,
        packSector ((List.range 81).map fun i => s.readPhys (81 * sector + i)) (s.physPoison (81 * sector) != 0)⟩ ::
          s.peerReads }) ∧
    (∀ (l : List (Int × Int)), (∀ c ∈ l, s.peerReady (s.peerTarget c.1).1 = false) → s.sendPeers l = s) ∧
    ∀ (dev sector : Int) (ks : List Nat) (pa val : Nat → Int), ks ≠ [] → ks.Nodup → s.peerReady dev = true →
      (∀ k ∈ ks, k < 81 ∧ s.peerTarget (pa k) = (dev, 81 * sector + (k : Int))) →
      ∃ (data : List Int) (mask : List Bool), data.length = 81 ∧ mask.length = 81 ∧
        (∀ k < 81, mask.getD k false = decide (k ∈ ks) ∧ data.getD k 0 = if k ∈ ks then val k else 0) ∧
        s.sendPeers (ks.map fun k => (pa k, val k)) =
          { s with peerWrites := s.peerWrites ++ [⟨dev, sector, packSector data false, mask⟩] }

/-- R431, R472 to R477. Bringing units up and taking them out: self-test results, fences and what a fenced core, tap, slice, port and
channel pair lose: the lines of a slice have their homes at the next that is in service and keep their data, but for sectors
that cannot be read, and a die without slices loses its cores; a cold start, the firmware's verification and the quote. That HBM is empty after a cold start is the
model's choice (log 5), as are what the fence of a link does beside routing (log 38), that a channel pair withdrawn once stays
so (log 39), that a length outside its limits fails the firmware and FWGO begins a check anew (log 40), that a slice coming
into service empties the caches and that fences wait for the firmware (log 35), the length of the digests, whether a signature
holds and its bytes (logs 11, 12). -/
def Obligations.BringUpResults : Prop :=
  ∀ (s : State),
    (∀ (w i : Nat), isFunction w i = true → s.readyTrit 2259 0 = .pos → s.readyTrit w i = .zero →
      ((w < 2187 ∨ 2240 < w ∨ w % 2 = 1) → exec (.selfTestResult w i true) s = .next (s.setReady w i .pos)) ∧
      (2187 ≤ w → w ≤ 2240 → w % 2 = 0 → ∃ s' : State, exec (.selfTestResult w i true) s = .next s' ∧
        s'.ready = (s.setReady w i .pos).ready ∧ s'.l1 = [] ∧ s'.slices = [] ∧ s'.dies = s.dies) ∧
      exec (.selfTestResult w i false) s = .next (s.fence w i)) ∧
    (∀ (w i : Nat), s.readyTrit w i = .pos → exec (.unitFence w i) s = .next (s.fence w i)) ∧
    (∀ (w i : Nat), exec (.readinessFence w i) s = .next (s.fence w i) ∧
      (s.readyTrit w i = .neg ∨ s.readyTrit 2259 0 ≠ .pos → s.fence w i = s)) ∧
    (∀ (die i : Nat), die < 27 → i < 18 → s.ready.length = 73 → s.readyTrit 2259 0 = .pos → s.readyTrit (2187 + 2 * die) i ≠ .neg →
      (∀ m ∈ s.teams, ∀ b, s.bolt? m.id.bolt = some b → b.outcome = 0) →
      let s' := s.fence (2187 + 2 * die) i
      s'.readyTrit (2187 + 2 * die) i = .neg ∧ s'.readyTrit 2259 3 = .pos ∧ (∃ l, s'.msix = s.msix ++ 0 :: l) ∧
        ∀ m ∈ s'.teams, m.occupies (18 * die + i) = false) ∧
    (∀ (die pair : Nat), die < 27 → pair < 9 → s.ready.length = 73 → s.readyTrit 2259 0 = .pos →
      s.readyTrit (2187 + 2 * die) (18 + pair) ≠ .neg → (∀ m ∈ s.teams, ∀ b, s.bolt? m.id.bolt = some b → b.outcome = 0) →
      let s' := s.fence (2187 + 2 * die) (18 + pair)
      s'.tapReady die pair = false ∧ ∀ c, c = 2 * pair ∨ c = 2 * pair + 1 → s'.readyTrit (2187 + 2 * die) c = .neg ∧
        ((∀ x, x = 2 * pair ∨ x = 2 * pair + 1 → s.readyTrit (2187 + 2 * die) x ≠ .neg) →
          ∀ m ∈ s'.teams, m.occupies (18 * die + c) = false)) ∧
    (∀ (die i : Nat), die < 27 → i < 27 → s.ready.length = 73 → s.readyTrit 2259 0 = .pos → s.readyTrit (2188 + 2 * die) i ≠ .neg →
      let s' := s.fence (2188 + 2 * die) i
      let left (d k : Nat) := d < 27 ∧ k < 27 ∧ (d, k) ≠ (die, i) ∧ s.readyTrit (2188 + 2 * d) k = .pos
      s'.readyTrit (2188 + 2 * die) i = .neg ∧ s'.readyTrit 2259 3 = .pos ∧ (∃ l, s'.msix = s.msix ++ 0 :: l) ∧
      ((∃ d k, left d k) → ∀ dom pa, s'.homeOf dom pa ≠ 27 * die + i) ∧
      ((∃ k, left die k) → s'.l1 = [] ∧ s'.slices = [] ∧ s'.teams.map Team.id = s.teams.map Team.id ∧
        s'.threads.map (fun t => (t.id, t.g, t.a, t.c, t.pc)) = s.threads.map (fun t => (t.id, t.g, t.a, t.c, t.pc)) ∧
        (s.MemorySound → ∀ home pa, s.Agrees home pa → memGet s'.hbm pa = s.peek home pa ∨ s'.hbmPoison.contains (pa / 81) = true) ∧
        (∀ sec, s'.hbmPoison.contains sec = true → s.hbmPoison.contains sec = true ∨ (∃ e ∈ s.slices, e.sector = sec) ∨
          ∃ e ∈ s.l1, e.sector = sec) ∧
        ∀ dom pa, homeSlice (729 * (pa / 729) : Nat) = i → homeDie dom (729 * (pa / 729) : Nat) = die →
          ∃ j, 1 ≤ j ∧ j < 27 ∧ left die ((i + j) % 27) ∧ (∀ k, 1 ≤ k → k < j → ¬ left die ((i + k) % 27)) ∧
            s'.homeOf dom pa = 27 * die + (i + j) % 27) ∧
      ((∀ k < 27, k ≠ i → s.readyTrit (2188 + 2 * die) k = .neg) → ∀ c < 18, s'.readyTrit (2187 + 2 * die) c = .neg) ∧
      ((∀ k < 27, k ≠ i → s.readyTrit (2188 + 2 * die) k = .neg) → (¬ ∃ d k, left d k) → s'.readyTrit 2241 0 = .neg ∧
        (∀ c < 486, s'.coreReady c = false) ∧ ∀ r, s'.noFit r = true)) ∧
    (∀ (w i : Nat), 2241 ≤ w → ¬ (w = 2259 ∧ i = 2) → isFunction w i = true → s.ready.length = 73 → s.readyTrit 2259 0 = .pos →
      s.readyTrit w i ≠ .neg → ∃ r, s.fence w i = { s with ready := r, msix := s.msix ++ [0] } ∧
        ({ s with ready := r } : State).readyTrit w i = .neg ∧ ({ s with ready := r } : State).readyTrit 2259 3 = .pos ∧
        (∀ port < 2, w = 2241 + 3 * port → i = 1 → ({ s with ready := r } : State).portServes port = false) ∧
        ∀ dev p, Config.portOf dev % 9 = p → (p < 5 → w = 2253 ∧ i = 5 + p) → (5 ≤ p → w = 2256 ∧ i = p) →
          ({ s with ready := r } : State).peerReady dev = false ∧ ({ s with ready := r } : State).peerFailed dev = true) ∧
    (∀ (k i : Nat), k < 18 → k % 3 ≠ 0 → i < 16 → s.ready.length = 73 → s.readyTrit 2259 0 = .pos → s.readyTrit (2241 + k) i ≠ .neg →
      let s' := s.fence (2241 + k) i
      s'.readyTrit (2241 + k) i = .neg ∧ s'.readyTrit 2259 3 = .pos ∧ s'.msix = s.msix ++ [0] ∧
        ∀ c, c ∈ s'.channelsOut ↔ c ∈ s.channelsOut ∨ c = 16 * (2 * (k / 3) + (k % 3 - 1)) + i) ∧
    (∀ link, link < 1 ∨ 29 < link → link ∉ s.linksOut → ∃ r, exec (.linkFence link) s = .next { s with
      ready := r, linksOut := s.linksOut ++ [link], msix := s.msix ++ [0] }) ∧
    (∃ s' : State, exec .coldStart s = .next s' ∧ s'.ready = List.replicate 73 0 ∧ s'.threads = [] ∧ s'.teams = [] ∧
      s'.bolts = [] ∧ s'.hbm = [] ∧ s'.l1 = [] ∧ s'.slices = [] ∧
      s'.window.hbmtop = 388800000000 - 2025000000 * (s'.withdrawn.length : Nat) ∧
      (∀ c, c ∈ s'.withdrawn ↔ c ∈ s.withdrawn ∨ ∃ k i, k < 12 ∧ i < 16 ∧ c = 16 * k + i ∧
        s.readyTrit (2241 + 3 * (k / 2) + 1 + k % 2) i = .neg) ∧
      (∀ sector, s'.withdrawn.length < 192 → s'.channelAt sector ∉ s'.withdrawn)) ∧
    (s.readyTrit 2259 0 = .zero →
      ∃ l : List (BitVec 8), exec (.fwgo 1) s = .next { s with fwPending := true, image := l } ∧
        l.length = s.window.fwlen.toNat ∧ ∀ k < l.length, l.getD k 0 = byteGet s.staging k) ∧
    (∀ v, v ≠ 1 ∨ s.readyTrit 2259 0 ≠ .zero → exec (.fwgo v) s = .next s) ∧
    (s.fwPending = true → s.readyTrit 2259 0 = .zero → s.ready.length = 73 →
      ∃ s' : State, exec .firmwareVerified s = .next s' ∧ s'.fwPending = false ∧
        { s' with ready := s.ready, fwPending := s.fwPending, staging := s.staging } = s ∧
        (s'.readyTrit 2259 0 = .neg → s'.staging = s.staging) ∧
        (s'.readyTrit 2259 0 = .pos → byteWfFrom 0 s.staging = true → ∀ a, byteGet s'.staging a =
          if 14172864 ≤ a ∧ a < 16777216 ∧ a < 14172864 + Config.certificate.length then
            Config.certificate.getD (a - 14172864) 0 else byteGet s.staging a) ∧
        let tail := (List.range (64 + 29792)).map fun i => byteGet s.staging (s.image.length + i)
        (s'.readyTrit 2259 0 = .pos ↔ 1 ≤ s.window.fwlen ∧ s.window.fwlen ≤ 16747360 ∧
          shake256 (tail.take 64) 64 = (List.range 64).map (fun i => Config.fusedDigest.getD i 0) ∧
          Config.signatureHolds s.image (tail.take 64) (tail.drop 64) = true) ∧
        (s'.readyTrit 2259 0 = .neg ∨ s'.readyTrit 2259 0 = .pos)) ∧
    (s.window.attst ≠ 0 → exec (.attgo 1) s = .next { s with
      window := { s.window with attst := 0 }, quote := (s.window.nonce, s.ready) }) ∧
    (s.window.attst = 0 → byteWfFrom 0 s.staging = true → ∃ m, exec .attestationDone s = .next { s with
        staging := m, window := { s.window with attst := 1 } } ∧
      let identity := (List.range 32).map fun i => Config.identity.getD i 0
      let message := shake256 s.image 64 ++ identity ++ s.quote.1.flatMap (bytesOfInt 4) ++ s.quote.2.flatMap (bytesOfInt 8)
      ∀ k < 17088, byteGet m (14155776 + k) = Config.signatureByte (shake256 message 64) k)

/-- R70, R120, R173, R176, R179, R287 to R290, R406, R409, R479. A thread at a boundary fetches its clause whole from the
words at its PC, or takes its first pending cause or the fetch's; a gang is formed of ready threads at one slot of
one clause on different lanes, at the oldest PC unless a thread has been passed over too often; and a commit applies the buffers of a
team's deterministic threads in increasing THREADID, each in program order, or traps on a tryte of another team, the others being
written; the atomics that ended quanta are performed in increasing THREADID before anything else of the team goes on. That TRAPADDR of the race trap is the virtual address is the model's choice (log 32), as are when
threads of two bolts run one kernel (log 94), from when a thread that has yet to fetch counts (log 54), how often a thread may be
passed over (log 115), and that what a commit lets issue together is one gang (log 31). -/
def Obligations.FetchAndCommitResults : Prop :=
  (∀ (s : State) (t : Thread) (via : Via), s.Calm → s.thread? t.id = some t → (∀ u ∈ s.threads, u.id = t.id → u = t) →
    t.run = .boundary via →
    (t.pend = [] ∨ t.status.intrap = true → t.capture = [] → ∀ h ws, s.fetchWord t t.pc = .ok h → role h = .header →
      s.readClause t t.pc h = .clause ws → t.slot ≤ ({ t with clause := ws } : Thread).len →
      (∃ (s' : State) (t' : Thread), exec (.clauseFetch t.id) s = .next (s'.becomes t t') ∧
        { s' with icache := s.icache, tcache := s.tcache, stalled := s.stalled } = s ∧ t'.clause = ws ∧ t'.pc = t.pc ∧ t'.slot = t.slot ∧
        t'.run = .ready (via != .resume) ∧ (t'.g, t'.a, t'.c, t'.flags, t'.status) = (t.g, t.a, t.c, t.flags, t.status)) ∧
      hdrOk h = true ∧ ∀ k < ws.length, s.fetchWord t (t.pc + 3 * (k : Int)) = .ok (ws.getD k 0)) ∧
    (t.status.intrap = false → t.trapvec ≠ 0 → via ≠ .resume → via ≠ .resumeWait → via ≠ .rett →
      (∀ p rest, t.pend = p :: rest → ∃ (s' : State) (t' : Thread), exec (.clauseFetch t.id) s = .next (s'.becomes t t') ∧
        Thread.Trapped p.cause { t with slot := 0 } t' ∧ t'.pend = rest) ∧
      (t.pend = [] → t.capture = [] → ∀ c, s.fetchWord t t.pc = .error c → ∃ (s' : State) (t' : Thread),
        exec (.clauseFetch t.id) s = .next (s'.becomes t t') ∧ Thread.Trapped c { t with slot := 0 } t'))) ∧
  (∀ (s : State) (core : Nat) (ids : List ThreadId), s.Calm → s.gangOk core ids = true →
    (s.threads.map Thread.id).Nodup → (∀ t ∈ s.threads, t.id ∈ ids → t.pend = []) →
    exec (.gangFormation core ids) s = .next { s with
      threads := s.threads.map fun t : Thread => if t.id ∈ ids then { t with run := .ganged, passed := 0 }
        else if t.core = core ∧ s.waitsForPicker t = true then { t with passed := t.passed + 1 } else t
      gangs := s.gangs ++ [ids] } ∧
    (∀ a ∈ ids, ∀ b ∈ ids, ∃ t u, s.thread? a = some t ∧ s.thread? b = some u ∧ t.core = core ∧
      (t.pc, t.slot, t.clause, s.kernelOf t) = (u.pc, u.slot, u.clause, s.kernelOf u) ∧ (t.lane = u.lane → a = b ∨ t = u) ∧
      ∃ wait, t.run = .ready wait ∧ (wait = true → t.flagsClear = true)) ∧
    ((∀ u ∈ s.candidates core, u.passed < 243) →
      ∀ t ∈ s.threads, t.id ∈ ids → ∀ u ∈ s.candidates core, s.ageOf core t ≤ s.ageOf core u) ∧
    ((∃ u ∈ s.candidates core, 243 ≤ u.passed) → ∃ u ∈ s.candidates core, (∀ v ∈ s.candidates core, v.passed ≤ u.passed) ∧
      ∀ t ∈ s.threads, t.id ∈ ids → s.samePlace u t = true) ∧ (s.gangsOf core).length < 3) ∧
  (∀ (s : State) (t u : Thread) (x : List ThreadId), x ∈ s.forced → x.head? = some u.id → s.thread? u.id = some u →
    u.team = t.team → u.commitKind = some 0 → t.id ∉ x →
    (∀ pre post, s.forced = pre ++ x :: post → ∀ y ∈ pre, t.id ∉ y) → s.pickable t = false) ∧
  (∀ (s : State) (team : TeamId) (ts : List Thread), s.Calm → s.MemorySound → s.commitReady team = true →
    s.liveThreads team = ts → (ts.map fun t => t.id.tid).Pairwise (· < ·) → (s.threads.map Thread.id).Nodup →
    (∀ t ∈ ts, t.status.intrap = false ∧ t.trapvec ≠ 0 ∧ t.pend.length < 9) →
    (∀ t ∈ ts, ∀ b ∈ t.buf, (∃ home pa va leaf h issue v, b = .memory home pa va leaf h issue v) ∨ ∃ off v, b = .scratch off v) →
    let stores (l : List BufTryte) := l.filterMap fun b => match b with
      | .memory home pa va _ _ _ v => some (home, pa, va, v)
      | _ => none
    let mem := stores (ts.flatMap Thread.buf)
    let free (home pa : Nat) := s.heldElsewhere team home pa = false
    let going (t : Thread) := t.run = .quantum ∧ ∀ x ∈ stores t.buf, free x.1 x.2.1
    ∃ s' : State, exec (.teamCommit team) s = .next s' ∧
      (∀ home pa, s.Agrees home pa → (∀ x ∈ mem, x.2.1 / 81 = pa / 81 → x.1 = home) →
        let own := mem.filter fun x => x.1 == home && x.2.1 == pa
        s'.peek home pa = if own = [] ∨ ¬ free home pa then s.peek home pa else (own.getLast?.map fun x => x.2.2.2).getD 0) ∧
      (∀ home pa, (home, pa, team) ∈ s'.heldTrytes ↔ free home pa ∧ ∃ va v, (home, pa, va, v) ∈ mem) ∧
      (∀ x ∈ s.heldTrytes, x.2.2 = team → x ∈ s'.heldBefore) ∧
      (∀ m, s.team? team = some m → Memory.wf m.scratch = true → ∃ m', s'.team? team = some m' ∧ ∀ off,
        let own := (ts.flatMap Thread.buf).filterMap fun b => match b with
          | .scratch o v => if o = off then some v else none
          | _ => none
        memGet m'.scratch off = own.getLast?.getD (memGet m.scratch off)) ∧
      (∀ t ∈ ts, ∃ t', s'.thread? t.id = some t' ∧
        ((∀ x ∈ stores t.buf, free x.1 x.2.1) → t' = if t.run = .quantum
          then { t with buf := [], quantum := 0, run := .ready false, readySince := s.tick, committed := true }
          else { t with buf := [], quantum := 0 }) ∧
        ∀ a, (∃ x ∈ stores t.buf, ¬ free x.1 x.2.1 ∧ x.2.2.1 = a) → (∀ x ∈ stores t.buf, ¬ free x.1 x.2.1 → a ≤ x.2.2.1) →
          (t.run = .quantum → Thread.Trapped ⟨17, 1, a⟩ t t' ∧ t'.buf = []) ∧
          (t.run ≠ .quantum → t' = { t with buf := [], quantum := 0, pend := t.pend ++ [⟨⟨17, 1, a⟩, []⟩] })) ∧
      ∃ atomics groups : List (List ThreadId), s'.forced = s.forced ++ atomics ++ groups ∧
        atomics.flatten.Sublist (ts.map Thread.id) ∧ (∀ x ∈ atomics, x.length = 1) ∧
        (∀ t ∈ ts, t.id ∈ atomics.flatten ↔ going t ∧ t.commitKind = some 0) ∧
        ∀ t ∈ ts, going t → t.commitKind ≠ some 0 → t.commitKind ≠ none → t.id ∈ groups.flatten) ∧
  ∀ (s : State) (t : Thread) (home pa issue : Nat) (va leaf v : Int) (h : Hint), s.Calm → s.MemorySound →
    s.thread? t.id = some t → (∀ u ∈ s.threads, u.id = t.id → u = t) → s.commitReady t.team = true →
    s.liveThreads t.team = [t] → t.buf = [.memory home pa va leaf h issue v] →
    ∃ (s' : State) (t' : Thread), exec (.teamCommit t.team) s = .next s' ∧ s'.thread? t.id = some t' ∧
      (s.heldElsewhere t.team home pa = false → s'.sees t.core home pa = v ∧ (home, pa, t.team) ∈ s'.heldTrytes ∧
        t' = { t with buf := [], quantum := 0, run := .ready false, readySince := s.tick, committed := true }) ∧
      (s.heldElsewhere t.team home pa = true → t.status.intrap = false → t.trapvec ≠ 0 →
        Thread.Trapped ⟨17, 1, va⟩ t t' ∧ (∀ home' a, s'.peek home' a = s.peek home' a) ∧
        (home, pa, t.team) ∉ s'.heldTrytes)
end

