-- ==== Sys2Proof/Laws/Commit.lean ====
section
/-!
SUPPORT. What the shared operations of a commit, of the snapshots of chains and of joins from other devices change, and that
what a team holds hinders no thread of its own (R289).
-/

namespace Sys2Proof.Machine

theorem State.holdTrytes_frame (s : State) (team : TeamId) (cells : List (Nat × Nat)) :
    s.holdTrytes team cells = { s with heldTrytes := (s.holdTrytes team cells).heldTrytes } := rfl

theorem State.noteUnit_frame (s : State) (cores : List Nat) (l : List (SyncLoc × Int)) :
    s.noteUnit cores l = { s with teams := (s.noteUnit cores l).teams } := rfl

theorem State.takeJoins_frame (s : State) : s.takeJoins = { s with remotes := s.takeJoins.remotes } := rfl

theorem State.trimForced_frame (s : State) :
    s.trimForced = { s with forced := s.trimForced.forced, heldBefore := s.trimForced.heldBefore } := rfl

/-- Every tryte given is held by the team, and what was held before still is (R289). -/
theorem State.mem_holdTrytes (s : State) (team : TeamId) (cells : List (Nat × Nat)) (h : Nat × Nat × TeamId) :
    h ∈ (s.holdTrytes team cells).heldTrytes ↔ h ∈ s.heldTrytes ∨ ((h.1, h.2.1) ∈ cells ∧ h.2.2 = team) := by
  obtain ⟨home, pa, id⟩ := h
  simp only [State.holdTrytes, List.mem_append, List.mem_map, List.mem_filter, Prod.mk.injEq]
  constructor
  · rintro (h | ⟨⟨a, b⟩, ⟨h, -⟩, rfl, rfl, rfl⟩)
    · exact .inl h
    · exact .inr ⟨h, rfl⟩
  · rintro (h | ⟨h, rfl⟩)
    · exact .inl h
    · by_cases k : (home, pa, id) ∈ s.heldTrytes
      · exact .inl k
      · exact .inr ⟨(home, pa), ⟨h, by simpa using k⟩, rfl, rfl, rfl⟩

/-- What a team comes to hold hinders none of its own threads (R289). -/
theorem State.heldElsewhere_holdTrytes (s : State) (team : TeamId) (cells : List (Nat × Nat)) (home pa : Nat) :
    (s.holdTrytes team cells).heldElsewhere team home pa = s.heldElsewhere team home pa := by
  rw [Bool.eq_iff_iff]
  simp only [State.heldElsewhere, List.any_eq_true, List.mem_append, State.mem_holdTrytes, Bool.and_eq_true, bne_iff_ne]
  refine exists_congr fun h => and_congr_left fun k => ?_
  have : (s.holdTrytes team cells).heldBefore = s.heldBefore := rfl
  simp [this, k.2]

/-- What a unit writes changes nothing of a team but the snapshots of its chains (R293). -/
theorem State.noteUnit_chains (s : State) (cores : List Nat) (l : List (SyncLoc × Int)) :
    (s.noteUnit cores l).teams.map (fun m => { m with chains := [] }) = s.teams.map fun m => { m with chains := [] } := by
  simp only [State.noteUnit, List.map_map]
  refine List.map_congr_left fun m _ => ?_
  simp only [Function.comp]
  split <;> rfl

end Sys2Proof.Machine
end

