-- ==== Sys2Proof/Laws/Edge.lean ====
section
/-!
SUPPORT. What the bytes of a sector hold: a number in its bytes, and the check code of a packed sector (R265, R267).
-/

namespace Sys2Proof.Machine

@[simp] theorem length_bytesOf (n x : Nat) : (bytesOf n x).length = n := by
  induction n generalizing x with
  | zero => rfl
  | succ n ih => simp [bytesOf, ih]

theorem numOfBytes_lt (l : List (BitVec 8)) : numOfBytes l < 256 ^ l.length := by
  induction l with
  | nil => simp [numOfBytes]
  | cons b l ih =>
    have := b.isLt
    simp only [numOfBytes, List.length_cons, Nat.pow_succ]
    omega

/-- The lowest n bytes of a number hold it modulo 256^n. -/
theorem numOfBytes_bytesOf (n x : Nat) : numOfBytes (bytesOf n x) = x % 256 ^ n := by
  induction n generalizing x with
  | zero => simp [bytesOf, numOfBytes, Nat.mod_one]
  | succ n ih =>
    rw [bytesOf, numOfBytes, ih, BitVec.toNat_ofNat, Nat.pow_succ 256 n, Nat.mul_comm (256 ^ n) 256, Nat.mod_mul]

@[simp] theorem length_shake256 (m : List (BitVec 8)) (n : Nat) : (shake256 m n).length = n := by simp [shake256]

theorem checkCode_lt (b : List (BitVec 8)) : checkCode b < 256 ^ 6 := by
  simpa [checkCode] using numOfBytes_lt (shake256 (b.take 154) 6)

/-- Whatever CHECK bits follow a body of 154 bytes, the check code holds where they are the body's. -/
theorem checkHolds_append (body tail : List (BitVec 8)) (h : body.length = 154) :
    checkHolds (body ++ tail) = (numOfBytes tail == checkCode body) := by
  have ht : body.take 154 = body := List.take_of_length_le (by omega)
  simp [checkHolds, checkCode, h, ht]

theorem checkHolds_withCheck (body : List (BitVec 8)) (h : body.length = 154) : checkHolds (withCheck body) = true := by
  have ht : body.take 154 = body := List.take_of_length_le (by omega)
  rw [withCheck, ht, checkHolds_append _ _ h, numOfBytes_bytesOf, Nat.mod_eq_of_lt (checkCode_lt body), beq_self_eq_true]

/-- R267: what the model packs passes its own check. -/
@[simp] theorem checkHolds_packSector (ts : List Int) (poison : Bool) : checkHolds (packSector ts poison) = true :=
  checkHolds_withCheck _ (length_bytesOf 154 _)

@[simp] theorem length_packSector (ts : List Int) (poison : Bool) : (packSector ts poison).length = 160 := by
  simp [packSector, withCheck]

/-- Bits that differ only beyond a prefix leave the prefix. -/
theorem flipBits_append (x y n : List (BitVec 8)) :
    flipBits (x ++ y) (List.replicate x.length 0 ++ n) = x ++ flipBits y n := by
  simp only [flipBits, List.zipIdx_append, List.map_append]
  congr 1
  · refine List.ext_getElem (by simp) fun i h1 h2 => ?_
    simp [List.getElem?_append_left, h2]
  · refine List.ext_getElem (by simp) fun i h1 h2 => ?_
    simp [List.getElem?_append_right]

end Sys2Proof.Machine
end

