-- ==== Sys2Proof/Laws/Memory.lean ====
section
/-!
SUPPORT. The canonical form of the memories: what a write does to the value at every address, that every operation
keeps the form, and that two memories in the form that read alike are equal.
-/

namespace Sys2Proof.Machine

/-! ### Trytes -/

theorem memWfFrom_mono {m : Mem} {lo lo' : Nat} (h : lo' ≤ lo) (hw : memWfFrom lo m = true) : memWfFrom lo' m = true := by
  cases m with
  | nil => rfl
  | cons p m =>
    simp only [memWfFrom, Bool.and_eq_true, decide_eq_true_eq] at hw ⊢
    exact ⟨⟨by omega, hw.1.2⟩, hw.2⟩

theorem memGet_below {m : Mem} {lo k : Nat} (hw : memWfFrom lo m = true) (h : k < lo) : memGet m k = 0 := by
  induction m generalizing lo with
  | nil => rfl
  | cons p m ih =>
    simp only [memWfFrom, Bool.and_eq_true, decide_eq_true_eq] at hw
    rw [memGet, if_neg (by omega)]
    exact ih hw.2 (by omega)

/-- A write of one address keeps the canonical form. -/
theorem memWfFrom_memSet {m : Mem} {lo k : Nat} (v : Int) (hw : memWfFrom lo m = true) (h : lo ≤ k) :
    memWfFrom lo (memSet m k v) = true := by
  induction m generalizing lo with
  | nil => unfold memSet; split <;> simp_all [memWfFrom]
  | cons p m ih =>
    have hw' := hw
    simp only [memWfFrom, Bool.and_eq_true, decide_eq_true_eq] at hw'
    obtain ⟨⟨h1, h2⟩, h3⟩ := hw'
    unfold memSet
    split
    · split
      · exact hw
      · simp only [memWfFrom, Bool.and_eq_true, decide_eq_true_eq]
        exact ⟨⟨h, ‹_›⟩, ⟨by omega, h2⟩, h3⟩
    · split
      · split
        · exact memWfFrom_mono (by omega) h3
        · simp only [memWfFrom, Bool.and_eq_true, decide_eq_true_eq]
          exact ⟨⟨by omega, ‹_›⟩, memWfFrom_mono (by omega) h3⟩
      · simp only [memWfFrom, Bool.and_eq_true, decide_eq_true_eq]
        exact ⟨⟨h1, h2⟩, ih h3 (by omega)⟩

theorem Memory.wf_memSet {m : Mem} (k : Nat) (v : Int) (h : Memory.wf m = true) : Memory.wf (memSet m k v) = true :=
  memWfFrom_memSet v h (Nat.zero_le k)

/-- What stands at every address after a write of one. -/
theorem memGet_memSet {m : Mem} {lo : Nat} (hw : memWfFrom lo m = true) (k : Nat) (v : Int) (a : Nat) :
    memGet (memSet m k v) a = if a = k then v else memGet m a := by
  induction m generalizing lo with
  | nil =>
    unfold memSet
    split
    · subst v; simp [memGet]
    · simp [memGet, eq_comm]
  | cons p m ih =>
    simp only [memWfFrom, Bool.and_eq_true, decide_eq_true_eq] at hw
    obtain ⟨⟨h1, h2⟩, h3⟩ := hw
    have hbelow : ∀ b, b ≤ p.1 → memGet m b = 0 := fun b hb => memGet_below h3 (by omega)
    unfold memSet
    split
    · split
      · subst v
        split
        · subst a; rw [memGet, if_neg (by omega), hbelow _ (by omega)]
        · rfl
      · simp only [memGet]
        by_cases ha : a = k
        · simp [ha]
        · rw [if_neg (by omega), if_neg ha]
    · split
      · rename_i hk
        split
        · subst v
          split
          · subst a; exact hbelow _ (by omega)
          · rw [memGet, if_neg (by omega)]
        · simp only [memGet]
          by_cases ha : a = k
          · simp [ha]
          · rw [if_neg (by omega), if_neg ha, if_neg (by omega)]
      · simp only [memGet]
        by_cases ha : p.1 = a
        · rw [if_pos ha, if_neg (by omega), if_pos ha]
        · rw [if_neg ha, if_neg ha]
          exact ih h3

theorem Memory.wf_memSetList {m : Mem} (k : Nat) (vs : List Int) (h : Memory.wf m = true) :
    Memory.wf (memSetList m k vs) = true := by
  induction vs generalizing m k with
  | nil => exact h
  | cons v vs ih => exact ih (k + 1) (Memory.wf_memSet k v h)

/-- What stands at every address after a write of consecutive ones. -/
theorem memGet_memSetList {m : Mem} (hw : Memory.wf m = true) (k : Nat) (vs : List Int) (a : Nat) :
    memGet (memSetList m k vs) a = if k ≤ a ∧ a < k + vs.length then vs.getD (a - k) 0 else memGet m a := by
  induction vs generalizing m k with
  | nil => rw [memSetList, if_neg (by simp)]
  | cons v vs ih =>
    rw [memSetList, ih (Memory.wf_memSet k v hw), memGet_memSet hw]
    by_cases h1 : a = k
    · subst a; rw [if_neg (by omega), if_pos rfl, if_pos (by simp)]; simp
    · simp only [if_neg h1, List.length_cons]
      by_cases h2 : k + 1 ≤ a ∧ a < k + 1 + vs.length
      · rw [if_pos h2, if_pos (by omega)]
        obtain ⟨j, hj⟩ : ∃ j, a - k = j + 1 := ⟨a - k - 1, by omega⟩
        rw [hj, List.getD_cons_succ]
        congr 1; omega
      · rw [if_neg h2, if_neg (by omega)]

theorem Memory.wf_memSetWord {m : Mem} (k : Nat) (x : Int) (h : Memory.wf m = true) :
    Memory.wf (memSetWord m k x) = true := Memory.wf_memSetList k _ h

theorem memWfFrom_ext {m m' : Mem} {lo lo' : Nat} (h : memWfFrom lo m = true) (h' : memWfFrom lo' m' = true)
    (e : ∀ a, memGet m a = memGet m' a) : m = m' := by
  induction m generalizing m' lo lo' with
  | nil =>
    cases m' with
    | nil => rfl
    | cons q m' =>
      simp only [memWfFrom, Bool.and_eq_true, decide_eq_true_eq] at h'
      have := e q.1
      simp [memGet] at this
      exact absurd this.symm h'.1.2
  | cons p m ih =>
    simp only [memWfFrom, Bool.and_eq_true, decide_eq_true_eq] at h
    cases m' with
    | nil =>
      have := e p.1
      simp [memGet] at this
      exact absurd this h.1.2
    | cons q m' =>
      simp only [memWfFrom, Bool.and_eq_true, decide_eq_true_eq] at h'
      have hp := e p.1
      have hq := e q.1
      rw [memGet, memGet, if_pos rfl] at hp
      rw [memGet, memGet, if_pos rfl] at hq
      have hk : p.1 = q.1 := by
        by_contra hne
        rw [if_neg (Ne.symm hne)] at hp
        rw [if_neg hne] at hq
        rcases Nat.lt_or_gt_of_ne hne with hlt | hlt
        · exact h.1.2 (hp.trans (memGet_below h'.2 (by omega)))
        · exact h'.1.2 (hq.symm.trans (memGet_below h.2 (by omega)))
      have hv : p.2 = q.2 := by simpa [hk] using hp
      have hpq : p = q := Prod.ext hk hv
      subst hpq
      rw [ih h.2 h'.2 fun a => ?_]
      have ha := e a
      rw [memGet, memGet] at ha
      by_cases hap : p.1 = a
      · rw [memGet_below h.2 (by omega), memGet_below h'.2 (by omega)]
      · simpa [hap] using ha

/-- Memories in canonical form that read alike are equal. -/
theorem Memory.ext {m m' : Mem} (h : Memory.wf m = true) (h' : Memory.wf m' = true)
    (e : ∀ a, memGet m a = memGet m' a) : m = m' := memWfFrom_ext h h' e

/-! ### Bytes -/

theorem byteWfFrom_mono {m : List Host.Cell} {lo lo' : Nat} (h : lo' ≤ lo) (hw : byteWfFrom lo m = true) :
    byteWfFrom lo' m = true := by
  cases m with
  | nil => rfl
  | cons p m =>
    simp only [byteWfFrom, Bool.and_eq_true, decide_eq_true_eq] at hw ⊢
    exact ⟨⟨by omega, hw.1.2⟩, hw.2⟩

theorem byteGet_below {m : List Host.Cell} {lo k : Nat} (hw : byteWfFrom lo m = true) (h : k < lo) : byteGet m k = 0 := by
  induction m generalizing lo with
  | nil => rfl
  | cons p m ih =>
    simp only [byteWfFrom, Bool.and_eq_true, decide_eq_true_eq] at hw
    rw [byteGet, if_neg (by omega)]
    exact ih hw.2 (by omega)

theorem byteWfFrom_byteSet {m : List Host.Cell} {lo k : Nat} (v : BitVec 8) (hw : byteWfFrom lo m = true) (h : lo ≤ k) :
    byteWfFrom lo (byteSet m k v) = true := by
  induction m generalizing lo with
  | nil => unfold byteSet; split <;> simp_all [byteWfFrom]
  | cons p m ih =>
    have hw' := hw
    simp only [byteWfFrom, Bool.and_eq_true, decide_eq_true_eq] at hw'
    obtain ⟨⟨h1, h2⟩, h3⟩ := hw'
    unfold byteSet
    split
    · split
      · exact hw
      · simp only [byteWfFrom, Bool.and_eq_true, decide_eq_true_eq]
        exact ⟨⟨h, ‹_›⟩, ⟨by omega, h2⟩, h3⟩
    · split
      · split
        · exact byteWfFrom_mono (by omega) h3
        · simp only [byteWfFrom, Bool.and_eq_true, decide_eq_true_eq]
          exact ⟨⟨by omega, ‹_›⟩, byteWfFrom_mono (by omega) h3⟩
      · simp only [byteWfFrom, Bool.and_eq_true, decide_eq_true_eq]
        exact ⟨⟨h1, h2⟩, ih h3 (by omega)⟩

theorem byteGet_byteSet {m : List Host.Cell} {lo : Nat} (hw : byteWfFrom lo m = true) (k : Nat) (v : BitVec 8) (a : Nat) :
    byteGet (byteSet m k v) a = if a = k then v else byteGet m a := by
  induction m generalizing lo with
  | nil =>
    unfold byteSet
    split
    · subst v; simp [byteGet]
    · simp [byteGet, eq_comm]
  | cons p m ih =>
    simp only [byteWfFrom, Bool.and_eq_true, decide_eq_true_eq] at hw
    obtain ⟨⟨h1, h2⟩, h3⟩ := hw
    have hbelow : ∀ b, b ≤ p.1 → byteGet m b = 0 := fun b hb => byteGet_below h3 (by omega)
    unfold byteSet
    split
    · split
      · subst v
        split
        · subst a; rw [byteGet, if_neg (by omega), hbelow _ (by omega)]
        · rfl
      · simp only [byteGet]
        by_cases ha : a = k
        · simp [ha]
        · rw [if_neg (by omega), if_neg ha]
    · split
      · rename_i hk
        split
        · subst v
          split
          · subst a; exact hbelow _ (by omega)
          · rw [byteGet, if_neg (by omega)]
        · simp only [byteGet]
          by_cases ha : a = k
          · simp [ha]
          · rw [if_neg (by omega), if_neg ha, if_neg (by omega)]
      · simp only [byteGet]
        by_cases ha : p.1 = a
        · rw [if_pos ha, if_neg (by omega), if_pos ha]
        · rw [if_neg ha, if_neg ha]
          exact ih h3

theorem byteWf_byteSetList {m : List Host.Cell} (k : Nat) (vs : List (BitVec 8)) (h : byteWfFrom 0 m = true) :
    byteWfFrom 0 (byteSetList m k vs) = true := by
  induction vs generalizing m k with
  | nil => exact h
  | cons v vs ih => exact ih (k + 1) (byteWfFrom_byteSet v h (Nat.zero_le k))

/-! ### Every memory operation keeps the canonical form of HBM -/

/-- HBM is in canonical form. -/
abbrev State.HbmOk (s : State) : Prop := Memory.wf s.hbm = true

theorem State.reset_hbmOk : State.reset.HbmOk := rfl

theorem foldl_keeps {α β : Type} (P : α → Prop) (f : α → β → α) (h : ∀ a b, P a → P (f a b)) (l : List β) (a : α) (ha : P a) :
    P (l.foldl f a) := by
  induction l generalizing a with
  | nil => exact ha
  | cons b l ih => exact ih _ (h a b ha)

@[simp] theorem State.putL1_hbm (s : State) (e : L1Sector) : (s.putL1 e).hbm = s.hbm := by
  unfold State.putL1; split <;> rfl

@[simp] theorem State.putSlice_hbm (s : State) (e : SliceSector) : (s.putSlice e).hbm = s.hbm := by
  unfold State.putSlice; split <;> rfl

@[simp] theorem State.dropL1_hbm (s : State) (core home sector : Nat) : (s.dropL1 core home sector).hbm = s.hbm := rfl

@[simp] theorem State.acquire_hbm (s : State) (core : Nat) : (s.acquire core).hbm = s.hbm := rfl

@[simp] theorem State.needs_hbm (s : State) (b : Bool) : (s.needs b).hbm = s.hbm := by
  unfold State.needs; split <;> rfl

@[simp] theorem State.visit_hbm (s : State) (home : Nat) : (s.visit home).hbm = s.hbm := State.needs_hbm _ _

@[simp] theorem State.visitDie_hbm (s : State) (die : Nat) : (s.visitDie die).hbm = s.hbm := State.needs_hbm _ _

@[simp] theorem State.visitOwners_hbm (s : State) (home sector : Nat) (words : List Nat) :
    (s.visitOwners home sector words).hbm = s.hbm :=
  foldl_keeps (fun x : State => x.hbm = s.hbm) _ (fun _ _ h => (State.visitDie_hbm _ _).trans h) _ _ rfl

@[simp] theorem State.mergeFill_hbm (s : State) (home sector : Nat) (noise : List (List (BitVec 8))) :
    (s.mergeFill home sector noise).hbm = s.hbm := by
  unfold State.mergeFill
  split
  · rfl
  · dsimp only; split <;> simp

@[simp] theorem State.lowerHit_hbm (s : State) (home sector : Nat) : (s.lowerHit home sector).hbm = s.hbm := by
  unfold State.lowerHit; split <;> rfl

@[simp] theorem State.refreshL1_hbm (s : State) (core home sector : Nat) : (s.refreshL1 core home sector).hbm = s.hbm := by
  unfold State.refreshL1; split <;> simp

@[simp] theorem State.clearMark_hbm (s : State) (home sector : Nat) : (s.clearMark home sector).hbm = s.hbm := by
  unfold State.clearMark; split <;> simp

@[simp] theorem State.setL1Prio_hbm (s : State) (core home line : Nat) (p : Int) : (s.setL1Prio core home line p).hbm = s.hbm := rfl

@[simp] theorem State.setSlicePrio_hbm (s : State) (home line : Nat) (p : Int) : (s.setSlicePrio home line p).hbm = s.hbm := rfl

theorem State.HbmOk.writeBackSlice {s : State} (h : s.HbmOk) (e : SliceSector) : (s.writeBackSlice e).HbmOk := by
  unfold State.writeBackSlice
  split
  · exact h
  · refine foldl_keeps (fun m => Memory.wf m = true) _ (fun m k hm => ?_) _ _ h
    split
    · exact Memory.wf_memSet _ _ hm
    · exact hm

theorem State.HbmOk.roomInSlice {s : State} (h : s.HbmOk) (home sector : Nat) : (s.roomInSlice home sector).HbmOk := by
  unfold State.roomInSlice
  simp only
  split
  · exact h
  · split
    · exact h
    · exact foldl_keeps State.HbmOk _ (fun _ _ ha => ha.writeBackSlice _) _ _ h

theorem State.HbmOk.allocSlice {s : State} (h : s.HbmOk) (home sector : Nat) (leaf : Word) :
    (s.allocSlice home sector leaf).HbmOk := by
  unfold State.allocSlice
  split
  · exact h
  · simpa [State.HbmOk] using h.roomInSlice home sector

theorem State.HbmOk.applyHome {s : State} (h : s.HbmOk) (home sector : Nat) (alloc : Bool) (leaf : Word)
    (ws : List (Nat × Int)) : (s.applyHome home sector alloc leaf ws).HbmOk := by
  have h' : (if alloc then s.allocSlice home sector leaf else s).HbmOk := by
    split
    · exact h.allocSlice home sector leaf
    · exact h
  unfold State.applyHome
  simp only
  split
  · simpa [State.HbmOk] using h'
  · exact foldl_keeps (fun m => Memory.wf m = true) _ (fun m w hm => Memory.wf_memSet _ _ hm) _ _ h'

theorem State.HbmOk.bringHome {s : State} (h : s.HbmOk) (e : L1Sector) : (s.bringHome e).HbmOk := by
  unfold State.bringHome
  simp only
  split
  · exact h
  · split
    · exact h.applyHome _ _ _ _ _
    · split
      · exact h.applyHome _ _ _ _ _
      · simpa [State.HbmOk] using h.applyHome e.home e.sector true e.leaf _

theorem State.HbmOk.cleanL1 {s : State} (h : s.HbmOk) (e : L1Sector) : (s.cleanL1 e).HbmOk := by
  simpa [State.HbmOk, State.cleanL1] using h.bringHome e

theorem State.HbmOk.roomInL1 {s : State} (h : s.HbmOk) (core home sector : Nat) : (s.roomInL1 core home sector).HbmOk := by
  unfold State.roomInL1
  simp only
  split
  · exact h
  · split
    · exact h
    · exact foldl_keeps State.HbmOk _ (fun _ _ ha => ha.cleanL1 _) _ _ h

theorem State.HbmOk.fillL1 {s : State} (h : s.HbmOk) (core home sector : Nat) (leaf : Word) :
    (s.fillL1 core home sector leaf).HbmOk := by
  unfold State.fillL1
  simp only
  split <;> simpa [State.HbmOk] using h.roomInL1 core home sector

theorem State.HbmOk.fillFor {s : State} (h : s.HbmOk) (x : Prefetch) : (s.fillFor x).HbmOk := by
  unfold State.fillFor
  split
  · exact h
  · dsimp only
    split
    · simpa [State.HbmOk] using h.fillL1 x.core x.home x.sector x.leaf
    · exact h.fillL1 _ _ _ _

theorem State.HbmOk.completeFill {s : State} (h : s.HbmOk) (home sector : Nat) (noise : List (List (BitVec 8))) :
    (s.completeFill home sector noise).HbmOk :=
  foldl_keeps State.HbmOk _ (fun _ x ha => ha.fillFor x) _ _
    (by simpa [State.HbmOk] using h : (s.mergeFill home sector noise).HbmOk)

theorem State.HbmOk.fillSlice {s : State} (h : s.HbmOk) (home sector : Nat) (leaf : Word) :
    (s.fillSlice home sector leaf).HbmOk := (h.allocSlice home sector leaf).completeFill home sector []

theorem State.HbmOk.recall {s : State} (h : s.HbmOk) (keep : Option Nat) (home sector : Nat) (words : List Nat) :
    (s.recall keep home sector words).HbmOk := by
  unfold State.recall
  refine foldl_keeps State.HbmOk _ (fun a e ha => ?_) _ _ h
  have h' : (a.visitDie (e.core / 18)).HbmOk := by simpa [State.HbmOk] using ha
  simpa [State.HbmOk] using h'.bringHome e

theorem State.HbmOk.visit {s : State} (h : s.HbmOk) (home : Nat) : (s.visit home).HbmOk := by
  simpa [State.HbmOk] using h

theorem State.HbmOk.storeHome {s : State} (h : s.HbmOk) (core : Nat) (leaf : Word) (hint : Hint) (home sector : Nat)
    (ws : List (Nat × Int)) : (s.storeHome core leaf hint home sector ws).HbmOk := by
  unfold State.storeHome
  simp only [State.HbmOk, State.refreshL1_hbm]
  split
  · rw [State.lowerHit_hbm]; exact ((h.visit home).recall _ _ _ _).applyHome _ _ _ _ _
  · exact ((h.visit home).recall _ _ _ _).applyHome _ _ _ _ _

theorem State.HbmOk.storeSector {s : State} (h : s.HbmOk) (core : Nat) (leaf : Word) (hint : Hint) (home sector : Nat)
    (ws : List (Nat × Int)) : (s.storeSector core leaf hint home sector ws).HbmOk := by
  unfold State.storeSector
  simp only
  split
  · have h1 := (h.visit home).recall (some core) home sector (wordsOf ws)
    have h2 : (if (s.l1At core home sector).isSome = true then (s.visit home).recall (some core) home sector (wordsOf ws)
        else (((s.visit home).recall (some core) home sector (wordsOf ws)).allocSlice home sector leaf).fillL1 core home
          sector leaf).HbmOk := by
      split
      · exact h1
      · exact (h1.allocSlice _ _ _).fillL1 _ _ _ _
    split
    · exact h2
    · split <;> split <;> simpa [State.HbmOk] using h2
  · have h1 : (if hint = .by ∧ (s.l1At core home sector).isSome = true then (s.storeHome core leaf hint home sector ws).setL1Prio core home (sector / 9) (-1)
        else s.storeHome core leaf hint home sector ws).HbmOk := by
      split <;> exact h.storeHome core leaf hint home sector ws
    split
    · split
      · exact h1
      · exact h1.cleanL1 _
    · exact h1

theorem State.HbmOk.loadSector {s : State} (h : s.HbmOk) (core : Nat) (leaf : Word) (hint : Hint) (home sector k n : Nat) :
    (s.loadSector core leaf hint home sector k n).2.HbmOk := by
  unfold State.loadSector
  cases hs : (s.l1At core home sector).filter fun e => (List.range n).all fun i => e.valid.getD (k + i) false with
  | some e => dsimp only; split <;> exact h
  | none =>
    have h' : ((s.visit home).visitOwners home sector ((List.range n).map fun i => (k + i) / 3)).HbmOk := by
      simpa [State.HbmOk] using h
    dsimp only
    split
    · exact h'
    · split
      · simpa [State.HbmOk] using h'
      · split
        · exact h'
        · split
          · exact (h'.fillSlice _ _ _).fillL1 _ _ _ _
          · exact h'.fillSlice _ _ _

theorem State.HbmOk.poisonSlice {s : State} (h : s.HbmOk) (home sector : Nat) : (s.poisonSlice home sector).HbmOk := by
  unfold State.poisonSlice
  simp only
  split
  · exact h.fillSlice _ _ _
  · simpa [State.HbmOk] using h.fillSlice home sector uncached

theorem State.HbmOk.rehome {s : State} (h : s.HbmOk) (leaves : Option Nat) : (s.rehome leaves).HbmOk := by
  unfold State.rehome
  exact foldl_keeps State.HbmOk _ (fun _ _ ha => ha.writeBackSlice _) _ _
    (foldl_keeps State.HbmOk _ (fun _ _ ha => ha.cleanL1 _) _ _ h)

theorem State.HbmOk.writePhys {s : State} (h : s.HbmOk) (sector : Nat) (ws : List (Nat × Int)) :
    (s.writePhys sector ws).HbmOk := by
  unfold State.writePhys
  exact ((h.visit _).recall _ _ _ _).applyHome _ _ _ _ _

end Sys2Proof.Machine
end

