-- ==== Sys2Proof/Laws/PerInstr.lean ====
section
/-!
SUPPORT. Statements about every instruction as syntax, one lemma per constructor: an instruction of a program has words,
and no other has.
-/

namespace Sys2Proof.Laws

/-- The encoder has words for the instruction exactly when a program can hold it (R50, R51). -/
def HasWords.Statement (i : Instr) : Prop := (encode i).isSome = i.inProgram

theorem HasWords.nop (gd : Guard) : HasWords.Statement (.nop gd) := rfl
theorem HasWords.add (gd : Guard) (sh : Shape) (d b c : Nat) : HasWords.Statement (.add gd sh d b c) := rfl
theorem HasWords.adds (gd : Guard) (sh : Shape) (d b c : Nat) : HasWords.Statement (.adds gd sh d b c) := rfl
theorem HasWords.addi (gd : Guard) (sh : Shape) (d b : Nat) (lit : Int) :
    HasWords.Statement (.addi gd sh d b lit) := rfl
theorem HasWords.sub (gd : Guard) (sh : Shape) (d b c : Nat) : HasWords.Statement (.sub gd sh d b c) := rfl
theorem HasWords.subs (gd : Guard) (sh : Shape) (d b c : Nat) : HasWords.Statement (.subs gd sh d b c) := rfl
theorem HasWords.neg (gd : Guard) (sh : Shape) (d b : Nat) : HasWords.Statement (.neg gd sh d b) := rfl
theorem HasWords.abs (gd : Guard) (sh : Shape) (d b : Nat) : HasWords.Statement (.abs gd sh d b) := rfl
theorem HasWords.mul (gd : Guard) (sh : Shape) (d b c : Nat) : HasWords.Statement (.mul gd sh d b c) := rfl
theorem HasWords.mulh (gd : Guard) (sh : Shape) (d b c : Nat) : HasWords.Statement (.mulh gd sh d b c) := rfl
theorem HasWords.div (gd : Guard) (sh : Shape) (d b c : Nat) : HasWords.Statement (.div gd sh d b c) := rfl
theorem HasWords.mod (gd : Guard) (sh : Shape) (d b c : Nat) : HasWords.Statement (.mod gd sh d b c) := rfl
theorem HasWords.min (gd : Guard) (sh : Shape) (d b c : Nat) : HasWords.Statement (.min gd sh d b c) := rfl
theorem HasWords.max (gd : Guard) (sh : Shape) (d b c : Nat) : HasWords.Statement (.max gd sh d b c) := rfl
theorem HasWords.clamp (gd : Guard) (sh : Shape) (d b c : Nat) : HasWords.Statement (.clamp gd sh d b c) := rfl
theorem HasWords.sht (gd : Guard) (sh : Shape) (d b : Nat) (lit : Int) :
    HasWords.Statement (.sht gd sh d b lit) := rfl
theorem HasWords.shtReg (gd : Guard) (sh : Shape) (d b e : Nat) : HasWords.Statement (.shtReg gd sh d b e) := rfl
theorem HasWords.rot (gd : Guard) (sh : Shape) (d b : Nat) (lit : Int) :
    HasWords.Statement (.rot gd sh d b lit) := rfl
theorem HasWords.rotReg (gd : Guard) (sh : Shape) (d b e : Nat) : HasWords.Statement (.rotReg gd sh d b e) := rfl
theorem HasWords.trn (gd : Guard) (sh : Shape) (d b : Nat) (lit : Int) :
    HasWords.Statement (.trn gd sh d b lit) := rfl
theorem HasWords.trnReg (gd : Guard) (sh : Shape) (d b e : Nat) : HasWords.Statement (.trnReg gd sh d b e) := rfl
theorem HasWords.nrw9 (gd : Guard) (d b : Nat) : HasWords.Statement (.nrw9 gd d b) := rfl
theorem HasWords.sat9 (gd : Guard) (d b : Nat) : HasWords.Statement (.sat9 gd d b) := rfl
theorem HasWords.sgn (gd : Guard) (sh : Shape) (d b : Nat) : HasWords.Statement (.sgn gd sh d b) := rfl
theorem HasWords.lead (gd : Guard) (sh : Shape) (d b : Nat) : HasWords.Statement (.lead gd sh d b) := rfl
theorem HasWords.cnt (gd : Guard) (sh : Shape) (d b : Nat) : HasWords.Statement (.cnt gd sh d b) := rfl
theorem HasWords.tmin (gd : Guard) (d b c : Nat) : HasWords.Statement (.tmin gd d b c) := rfl
theorem HasWords.tmax (gd : Guard) (d b c : Nat) : HasWords.Statement (.tmax gd d b c) := rfl
theorem HasWords.tsum (gd : Guard) (d b c : Nat) : HasWords.Statement (.tsum gd d b c) := rfl
theorem HasWords.tmul (gd : Guard) (d b c : Nat) : HasWords.Statement (.tmul gd d b c) := rfl
theorem HasWords.cons (gd : Guard) (d b c : Nat) : HasWords.Statement (.cons gd d b c) := rfl
theorem HasWords.field (gd : Guard) (d b hi lo : Nat) : HasWords.Statement (.field gd d b hi lo) := rfl
theorem HasWords.deposit (gd : Guard) (d b hi lo : Nat) : HasWords.Statement (.deposit gd d b hi lo) := rfl
theorem HasWords.cmp (gd : Guard) (d b c : Nat) : HasWords.Statement (.cmp gd d b c) := rfl
theorem HasWords.cmpi (gd : Guard) (d b : Nat) (lit : Int) : HasWords.Statement (.cmpi gd d b lit) := rfl
theorem HasWords.cset (gd : Guard) (d b : Nat) : HasWords.Statement (.cset gd d b) := rfl
theorem HasWords.cand (gd : Guard) (d b c : Nat) : HasWords.Statement (.cand gd d b c) := rfl
theorem HasWords.cor (gd : Guard) (d b c : Nat) : HasWords.Statement (.cor gd d b c) := rfl
theorem HasWords.sel3 (gd : Guard) (d m b c e : Nat) : HasWords.Statement (.sel3 gd d m b c e) := rfl
theorem HasWords.mov (gd : Guard) (d b : Nat) : HasWords.Statement (.mov gd d b) := rfl
theorem HasWords.movi (gd : Guard) (d : Nat) (lit : Int) : HasWords.Statement (.movi gd d lit) := rfl
theorem HasWords.movcG (gd : Guard) (d b : Nat) : HasWords.Statement (.movcG gd d b) := rfl
theorem HasWords.movcC (gd : Guard) (d b : Nat) : HasWords.Statement (.movcC gd d b) := rfl
theorem HasWords.movs (gd : Guard) (d : Nat) (sp : Special) : HasWords.Statement (.movs gd d sp) := rfl
theorem HasWords.movsA (gd : Guard) (d : Nat) (sp : Special) : HasWords.Statement (.movsA gd d sp) := rfl
theorem HasWords.sets (gd : Guard) (sp : Special) (b : Nat) : HasWords.Statement (.sets gd sp b) := rfl
theorem HasWords.setsA (gd : Guard) (sp : Special) (b : Nat) : HasWords.Statement (.setsA gd sp b) := rfl
theorem HasWords.movx (gd : Guard) (d b : Nat) : HasWords.Statement (.movx gd d b) := rfl
theorem HasWords.movy (gd : Guard) (d b : Nat) : HasWords.Statement (.movy gd d b) := rfl
theorem HasWords.aadd (gd : Guard) (d b c : Nat) : HasWords.Statement (.aadd gd d b c) := rfl
theorem HasWords.asub (gd : Guard) (d b c : Nat) : HasWords.Statement (.asub gd d b c) := rfl
theorem HasWords.amov (gd : Guard) (d b : Nat) : HasWords.Statement (.amov gd d b) := rfl
theorem HasWords.amovPair (gd : Guard) (d b c : Nat) : HasWords.Statement (.amovPair gd d b c) := rfl
theorem HasWords.amovLo (gd : Guard) (d b : Nat) : HasWords.Statement (.amovLo gd d b) := rfl
theorem HasWords.amovHi (gd : Guard) (d b : Nat) : HasWords.Statement (.amovHi gd d b) := rfl
theorem HasWords.alea (gd : Guard) (d b e k : Nat) : HasWords.Statement (.alea gd d b e k) := rfl
theorem HasWords.hadd (gd : Guard) (r : Route) (d b c : Nat) : HasWords.Statement (.hadd gd r d b c) := rfl
theorem HasWords.hsub (gd : Guard) (r : Route) (d b c : Nat) : HasWords.Statement (.hsub gd r d b c) := rfl
theorem HasWords.hmin (gd : Guard) (r : Route) (d b c : Nat) : HasWords.Statement (.hmin gd r d b c) := rfl
theorem HasWords.hmax (gd : Guard) (r : Route) (d b c : Nat) : HasWords.Statement (.hmax gd r d b c) := rfl
theorem HasWords.hcmp (gd : Guard) (r : Route) (d b c : Nat) : HasWords.Statement (.hcmp gd r d b c) := rfl
theorem HasWords.hacs (gd : Guard) (d b c k : Nat) : HasWords.Statement (.hacs gd d b c k) := rfl
theorem HasWords.hpack (gd : Guard) (d b c : Nat) : HasWords.Statement (.hpack gd d b c) := rfl
theorem HasWords.hunpk (gd : Guard) (d c b : Nat) : HasWords.Statement (.hunpk gd d c b) := rfl
theorem HasWords.pxin (gd : Guard) (d b : Nat) : HasWords.Statement (.pxin gd d b) := rfl
theorem HasWords.pxinS (gd : Guard) (d b : Nat) : HasWords.Statement (.pxinS gd d b) := rfl
theorem HasWords.j (gd : Guard) (lit : Int) : HasWords.Statement (.j gd lit) := rfl
theorem HasWords.jx (gd : Guard) (b : Nat) : HasWords.Statement (.jx gd b) := rfl
theorem HasWords.bc (gd : Guard) (b : Nat) (lit : Int) : HasWords.Statement (.bc gd b lit) := rfl
theorem HasWords.bcase (gd : Guard) (b : Nat) (tneg tpos : Int) : HasWords.Statement (.bcase gd b tneg tpos) := rfl
theorem HasWords.call (gd : Guard) (lit : Int) : HasWords.Statement (.call gd lit) := rfl
theorem HasWords.callx (gd : Guard) (b : Nat) : HasWords.Statement (.callx gd b) := rfl
theorem HasWords.ret (gd : Guard) : HasWords.Statement (.ret gd) := rfl
theorem HasWords.loop (gd : Guard) (d : Nat) (lit : Int) : HasWords.Statement (.loop gd d lit) := rfl
theorem HasWords.yield (gd : Guard) : HasWords.Statement (.yield gd) := rfl
theorem HasWords.exit (gd : Guard) : HasWords.Statement (.exit gd) := rfl
theorem HasWords.brk (gd : Guard) : HasWords.Statement (.brk gd) := rfl
theorem HasWords.fadd (gd : Guard) (sh : Shape) (d b c : Nat) : HasWords.Statement (.fadd gd sh d b c) := rfl
theorem HasWords.fsub (gd : Guard) (sh : Shape) (d b c : Nat) : HasWords.Statement (.fsub gd sh d b c) := rfl
theorem HasWords.fmul (gd : Guard) (sh : Shape) (d b c : Nat) : HasWords.Statement (.fmul gd sh d b c) := rfl
theorem HasWords.ffma (gd : Guard) (sh : Shape) (d b c : Nat) : HasWords.Statement (.ffma gd sh d b c) := rfl
theorem HasWords.ffmaE (gd : Guard) (sh : Shape) (d b c e : Nat) : HasWords.Statement (.ffmaE gd sh d b c e) := rfl
theorem HasWords.fmin (gd : Guard) (sh : Shape) (d b c : Nat) : HasWords.Statement (.fmin gd sh d b c) := rfl
theorem HasWords.fmax (gd : Guard) (sh : Shape) (d b c : Nat) : HasWords.Statement (.fmax gd sh d b c) := rfl
theorem HasWords.fcmp (gd : Guard) (d b c : Nat) : HasWords.Statement (.fcmp gd d b c) := rfl
theorem HasWords.fcmpQ (gd : Guard) (d b c e : Nat) : HasWords.Statement (.fcmpQ gd d b c e) := rfl
theorem HasWords.fabs (gd : Guard) (sh : Shape) (d b : Nat) : HasWords.Statement (.fabs gd sh d b) := rfl
theorem HasWords.fabsNeg (gd : Guard) (sh : Shape) (d b : Nat) : HasWords.Statement (.fabsNeg gd sh d b) := rfl
theorem HasWords.fabsNabs (gd : Guard) (sh : Shape) (d b : Nat) : HasWords.Statement (.fabsNabs gd sh d b) := rfl
theorem HasWords.frcp (gd : Guard) (sh : Shape) (d b : Nat) : HasWords.Statement (.frcp gd sh d b) := rfl
theorem HasWords.frsq (gd : Guard) (sh : Shape) (d b : Nat) : HasWords.Statement (.frsq gd sh d b) := rfl
theorem HasWords.fexp3 (gd : Guard) (sh : Shape) (d b : Nat) : HasWords.Statement (.fexp3 gd sh d b) := rfl
theorem HasWords.flog3 (gd : Guard) (sh : Shape) (d b : Nat) : HasWords.Statement (.flog3 gd sh d b) := rfl
theorem HasWords.fscl (gd : Guard) (sh : Shape) (d b : Nat) (lit : Int) :
    HasWords.Statement (.fscl gd sh d b lit) := rfl
theorem HasWords.fsclReg (gd : Guard) (sh : Shape) (d b e : Nat) : HasWords.Statement (.fsclReg gd sh d b e) := rfl
theorem HasWords.fclass (gd : Guard) (sh : Shape) (d b : Nat) : HasWords.Statement (.fclass gd sh d b) := rfl
theorem HasWords.fcvt (gd : Guard) (sh : Shape) (tryte d b : Nat) (dst src : Fmt) (scale : Int) :
    HasWords.Statement (.fcvt gd sh tryte d b dst src scale) := rfl
theorem HasWords.arow (gd : Guard) (rs : Trit) (d q c e : Nat) : HasWords.Statement (.arow gd rs d q c e) := rfl
theorem HasWords.arowClr (gd : Guard) (rs : Trit) (d q c e : Nat) : HasWords.Statement (.arowClr gd rs d q c e) := rfl
theorem HasWords.drain (gd : Guard) (rs : Trit) (d q c e : Nat) : HasWords.Statement (.drain gd rs d q c e) := rfl
theorem HasWords.drainF (gd : Guard) (rs : Trit) (d q c e : Nat) : HasWords.Statement (.drainF gd rs d q c e) := rfl
theorem HasWords.mbs (gd : Guard) (rs : Trit) (q a b e : Nat) : HasWords.Statement (.mbs gd rs q a b e) := rfl
theorem HasWords.mspa (gd : Guard) (rs : Trit) (q a b e : Nat) : HasWords.Statement (.mspa gd rs q a b e) := rfl
theorem HasWords.mshaW3 (gd : Guard) (rs : Trit) (q a b : Nat) : HasWords.Statement (.mshaW3 gd rs q a b) := rfl
theorem HasWords.mshaW6 (gd : Guard) (rs : Trit) (q a b e : Nat) : HasWords.Statement (.mshaW6 gd rs q a b e) := rfl
theorem HasWords.mmaf (gd : Guard) (rs : Trit) (q a b : Nat) : HasWords.Statement (.mmaf gd rs q a b) := rfl
theorem HasWords.mma9 (gd : Guard) (rs : Trit) (q a b : Nat) : HasWords.Statement (.mma9 gd rs q a b) := rfl
theorem HasWords.tzero (gd : Guard) (rs : Trit) (m c : Nat) : HasWords.Statement (.tzero gd rs m c) := rfl
theorem HasWords.tzeroQ (gd : Guard) (rs : Trit) (q c : Nat) : HasWords.Statement (.tzeroQ gd rs q c) := rfl
theorem HasWords.tst (gd : Guard) (rs : Trit) (m a c : Nat) : HasWords.Statement (.tst gd rs m a c) := rfl
theorem HasWords.tld (gd : Guard) (rs : Trit) (m a c : Nat) : HasWords.Statement (.tld gd rs m a c) := rfl
theorem HasWords.tldX (gd : Guard) (rs : Trit) (m a c : Nat) : HasWords.Statement (.tldX gd rs m a c) := rfl
theorem HasWords.tget (gd : Guard) (d m : Nat) : HasWords.Statement (.tget gd d m) := rfl
theorem HasWords.tset (gd : Guard) (m b : Nat) : HasWords.Statement (.tset gd m b) := rfl
theorem HasWords.perm (gd : Guard) (d b c m cd : Nat) : HasWords.Statement (.perm gd d b c m cd) := rfl
theorem HasWords.shuf (gd : Guard) (d b c m cd : Nat) : HasWords.Statement (.shuf gd d b c m cd) := rfl
theorem HasWords.bcast (gd : Guard) (d b m cd : Nat) : HasWords.Statement (.bcast gd d b m cd) := rfl
theorem HasWords.vote (gd : Guard) (d b m cd : Nat) : HasWords.Statement (.vote gd d b m cd) := rfl
theorem HasWords.ballot (gd : Guard) (d b m cd : Nat) : HasWords.Statement (.ballot gd d b m cd) := rfl
theorem HasWords.red (gd : Guard) (sh : Shape) (op : RedOp) (d b m cd : Nat) :
    HasWords.Statement (.red gd sh op d b m cd) := rfl
theorem HasWords.scan (gd : Guard) (sh : Shape) (op : RedOp) (d b m cd : Nat) :
    HasWords.Statement (.scan gd sh op d b m cd) := rfl
theorem HasWords.zip (gd : Guard) (sh : Shape) (d b m cd k : Nat) : HasWords.Statement (.zip gd sh d b m cd k) := rfl
theorem HasWords.unzip (gd : Guard) (sh : Shape) (d b m cd k : Nat) :
    HasWords.Statement (.unzip gd sh d b m cd k) := rfl
theorem HasWords.gbar (gd : Guard) (m cd : Nat) : HasWords.Statement (.gbar gd m cd) := rfl
theorem HasWords.tbar (gd : Guard) (b : Nat) : HasWords.Statement (.tbar gd b) := rfl
theorem HasWords.crossLaneCompletion (bolt team grp : Nat) (addr : Int) :
    HasWords.Statement (.crossLaneCompletion bolt team grp addr) := rfl
theorem HasWords.barrierCompletion (t : TeamId) (bar : Nat) : HasWords.Statement (.barrierCompletion t bar) := rfl
theorem HasWords.probe (gd : Guard) (rs : Trit) (d b : Nat) : HasWords.Statement (.probe gd rs d b) := rfl
theorem HasWords.cpri (gd : Guard) (b : Nat) (p : Trit) : HasWords.Statement (.cpri gd b p) := rfl
theorem HasWords.cdrop (gd : Guard) (rs : Trit) (b c : Nat) : HasWords.Statement (.cdrop gd rs b c) := rfl
theorem HasWords.cdropCode (gd : Guard) (rs : Trit) (b c : Nat) : HasWords.Statement (.cdropCode gd rs b c) := rfl
theorem HasWords.cflush (gd : Guard) (rs : Trit) (b c : Nat) : HasWords.Statement (.cflush gd rs b c) := rfl
theorem HasWords.cflushMem (gd : Guard) (rs : Trit) (b c : Nat) : HasWords.Statement (.cflushMem gd rs b c) := rfl
theorem HasWords.cfence (gd : Guard) : HasWords.Statement (.cfence gd) := rfl
theorem HasWords.rel (gd : Guard) : HasWords.Statement (.rel gd) := rfl
theorem HasWords.acq (gd : Guard) : HasWords.Statement (.acq gd) := rfl
theorem HasWords.fence (gd : Guard) : HasWords.Statement (.fence gd) := rfl
theorem HasWords.ld9 (gd : Guard) (h : Hint) (rs : Trit) (d b : Nat) (off : Int) :
    HasWords.Statement (.ld9 gd h rs d b off) := rfl
theorem HasWords.ld27 (gd : Guard) (h : Hint) (rs : Trit) (d b : Nat) (off : Int) :
    HasWords.Statement (.ld27 gd h rs d b off) := rfl
theorem HasWords.ldh (gd : Guard) (h : Hint) (rs : Trit) (d b : Nat) (off : Int) :
    HasWords.Statement (.ldh gd h rs d b off) := rfl
theorem HasWords.lda (gd : Guard) (h : Hint) (rs : Trit) (d b : Nat) (off : Int) :
    HasWords.Statement (.lda gd h rs d b off) := rfl
theorem HasWords.st9 (gd : Guard) (h : Hint) (rs : Trit) (d b : Nat) (off : Int) :
    HasWords.Statement (.st9 gd h rs d b off) := rfl
theorem HasWords.st27 (gd : Guard) (h : Hint) (rs : Trit) (d b : Nat) (off : Int) :
    HasWords.Statement (.st27 gd h rs d b off) := rfl
theorem HasWords.sth (gd : Guard) (h : Hint) (rs : Trit) (d b : Nat) (off : Int) :
    HasWords.Statement (.sth gd h rs d b off) := rfl
theorem HasWords.sta (gd : Guard) (h : Hint) (rs : Trit) (d b : Nat) (off : Int) :
    HasWords.Statement (.sta gd h rs d b off) := rfl
theorem HasWords.lds9 (gd : Guard) (rs : Trit) (d b : Nat) (off : Int) :
    HasWords.Statement (.lds9 gd rs d b off) := rfl
theorem HasWords.lds27 (gd : Guard) (rs : Trit) (d b : Nat) (off : Int) :
    HasWords.Statement (.lds27 gd rs d b off) := rfl
theorem HasWords.sts9 (gd : Guard) (rs : Trit) (d b : Nat) (off : Int) :
    HasWords.Statement (.sts9 gd rs d b off) := rfl
theorem HasWords.sts27 (gd : Guard) (rs : Trit) (d b : Nat) (off : Int) :
    HasWords.Statement (.sts27 gd rs d b off) := rfl
theorem HasWords.pf (gd : Guard) (h : Hint) (b : Nat) (off : Int) : HasWords.Statement (.pf gd h b off) := rfl
theorem HasWords.xadd (gd : Guard) (o : Order) (rs : Trit) (d b c : Nat) :
    HasWords.Statement (.xadd gd o rs d b c) := rfl
theorem HasWords.xmin (gd : Guard) (o : Order) (rs : Trit) (d b c : Nat) :
    HasWords.Statement (.xmin gd o rs d b c) := rfl
theorem HasWords.xmax (gd : Guard) (o : Order) (rs : Trit) (d b c : Nat) :
    HasWords.Statement (.xmax gd o rs d b c) := rfl
theorem HasWords.xswp (gd : Guard) (o : Order) (rs : Trit) (d b c : Nat) :
    HasWords.Statement (.xswp gd o rs d b c) := rfl
theorem HasWords.xcas (gd : Guard) (o : Order) (rs : Trit) (d b c e : Nat) :
    HasWords.Statement (.xcas gd o rs d b c e) := rfl
theorem HasWords.xsum (gd : Guard) (o : Order) (rs : Trit) (d b c : Nat) :
    HasWords.Statement (.xsum gd o rs d b c) := rfl
theorem HasWords.longLatencyCompletion (id : ThreadId) (op : Nat) :
    HasWords.Statement (.longLatencyCompletion id op) := rfl
theorem HasWords.sectorFill (home : Nat) (sector : Int) (noise : List (List (BitVec 8))) :
    HasWords.Statement (.sectorFill home sector noise) := rfl
theorem HasWords.reduce (gd : Guard) (b : Nat) : HasWords.Statement (.reduce gd b) := rfl
theorem HasWords.mcast (gd : Guard) (b : Nat) : HasWords.Statement (.mcast gd b) := rfl
theorem HasWords.launch (gd : Guard) (d b : Nat) : HasWords.Statement (.launch gd d b) := rfl
theorem HasWords.qdone (gd : Guard) (b : Nat) : HasWords.Statement (.qdone gd b) := rfl
theorem HasWords.take (gd : Guard) (d b c : Nat) : HasWords.Statement (.take gd d b c) := rfl
theorem HasWords.append (gd : Guard) (d b c : Nat) : HasWords.Statement (.append gd d b c) := rfl
theorem HasWords.kyld (gd : Guard) : HasWords.Statement (.kyld gd) := rfl
theorem HasWords.kret (gd : Guard) : HasWords.Statement (.kret gd) := rfl
theorem HasWords.kwait (gd : Guard) (w : Nat) (arg : Int) : HasWords.Statement (.kwait gd w arg) := rfl
theorem HasWords.kwaitR (gd : Guard) (w b : Nat) : HasWords.Statement (.kwaitR gd w b) := rfl
theorem HasWords.kwake (gd : Guard) (d b c : Nat) : HasWords.Statement (.kwake gd d b c) := rfl
theorem HasWords.sweep (gd : Guard) (d b : Nat) : HasWords.Statement (.sweep gd d b) := rfl
theorem HasWords.blockRead (core : Nat) : HasWords.Statement (.blockRead core) := rfl
theorem HasWords.heddleWrite (core : Nat) (block : Int) : HasWords.Statement (.heddleWrite core block) := rfl
theorem HasWords.engage (gd : Guard) (d b : Nat) (eng : Int) : HasWords.Statement (.engage gd d b eng) := rfl
theorem HasWords.epoll (gd : Guard) (d b : Nat) : HasWords.Statement (.epoll gd d b) := rfl
theorem HasWords.sarm (gd : Guard) (s : Place) (c : Nat) : HasWords.Statement (.sarm gd s c) := rfl
theorem HasWords.sadd (gd : Guard) (s : Place) (n : Int) : HasWords.Statement (.sadd gd s n) := rfl
theorem HasWords.saddReg (gd : Guard) (s : Place) (e : Nat) : HasWords.Statement (.saddReg gd s e) := rfl
theorem HasWords.sget (gd : Guard) (d : Nat) (s : Place) : HasWords.Statement (.sget gd d s) := rfl
theorem HasWords.swait (gd : Guard) (d : Nat) (s : Place) (c : Nat) : HasWords.Statement (.swait gd d s c) := rfl
theorem HasWords.rlock (gd : Guard) (d : Nat) (l : Place) (c : Nat) : HasWords.Statement (.rlock gd d l c) := rfl
theorem HasWords.rlockRd (gd : Guard) (d : Nat) (l : Place) (c : Nat) : HasWords.Statement (.rlockRd gd d l c) := rfl
theorem HasWords.runlock (gd : Guard) (d b : Nat) : HasWords.Statement (.runlock gd d b) := rfl
theorem HasWords.runlockTorn (gd : Guard) (d : Nat) (l : Place) : HasWords.Statement (.runlockTorn gd d l) := rfl
theorem HasWords.board (gd : Guard) (d b : Nat) (s : Place) : HasWords.Statement (.board gd d b s) := rfl
theorem HasWords.boardTile (gd : Guard) (d b : Nat) (s : Place) : HasWords.Statement (.boardTile gd d b s) := rfl
theorem HasWords.unboard (gd : Guard) (d b : Nat) : HasWords.Statement (.unboard gd d b) := rfl
theorem HasWords.beamst (gd : Guard) (d b : Nat) : HasWords.Statement (.beamst gd d b) := rfl
theorem HasWords.beamstLap (gd : Guard) (d : Nat) : HasWords.Statement (.beamstLap gd d) := rfl
theorem HasWords.trap (gd : Guard) (n : Int) : HasWords.Statement (.trap gd n) := rfl
theorem HasWords.rett (gd : Guard) : HasWords.Statement (.rett gd) := rfl
theorem HasWords.halt (gd : Guard) (b : Nat) : HasWords.Statement (.halt gd b) := rfl
theorem HasWords.pmode (gd : Guard) (m : Int) : HasWords.Statement (.pmode gd m) := rfl
theorem HasWords.spool (gd : Guard) (d : Nat) (s : Place) (c : Nat) : HasWords.Statement (.spool gd d s c) := rfl
theorem HasWords.clauseFetch (id : ThreadId) : HasWords.Statement (.clauseFetch id) := rfl
theorem HasWords.gangFormation (core : Nat) (ids : List ThreadId) :
    HasWords.Statement (.gangFormation core ids) := rfl
theorem HasWords.completionCounterAdd (id : ThreadId) : HasWords.Statement (.completionCounterAdd id) := rfl
theorem HasWords.teamEnd (t : TeamId) : HasWords.Statement (.teamEnd t) := rfl
theorem HasWords.teamCommit (t : TeamId) : HasWords.Statement (.teamCommit t) := rfl
theorem HasWords.chainEntryIssue (t : TeamId) (seq : Int) : HasWords.Statement (.chainEntryIssue t seq) := rfl
theorem HasWords.copy (t : TeamId) (seq : Int) (off : Int) : HasWords.Statement (.copy t seq off) := rfl
theorem HasWords.conv (t : TeamId) (seq : Int) (off : Int) : HasWords.Statement (.conv t seq off) := rfl
theorem HasWords.decomp (t : TeamId) (seq : Int) (off : Int) : HasWords.Statement (.decomp t seq off) := rfl
theorem HasWords.fill (t : TeamId) (seq : Int) (off : Int) : HasWords.Statement (.fill t seq off) := rfl
theorem HasWords.chainLoop (t : TeamId) (seq : Int) : HasWords.Statement (.chainLoop t seq) := rfl
theorem HasWords.cond (t : TeamId) (seq : Int) : HasWords.Statement (.cond t seq) := rfl
theorem HasWords.signal (t : TeamId) (seq : Int) : HasWords.Statement (.signal t seq) := rfl
theorem HasWords.stop (t : TeamId) (seq : Int) : HasWords.Statement (.stop t seq) := rfl
theorem HasWords.entryPartWritten (t : TeamId) (seq : Int) (off : Int) :
    HasWords.Statement (.entryPartWritten t seq off) := rfl
theorem HasWords.entryCompletion (t : TeamId) (seq : Int) (off : Int) :
    HasWords.Statement (.entryCompletion t seq off) := rfl
theorem HasWords.nvmeCommandCompletion (t : TeamId) (seq : Int) (off : Int) (cmd : Nat) (answer : ReadAnswer) :
    HasWords.Statement (.nvmeCommandCompletion t seq off cmd answer) := rfl
theorem HasWords.qflush (n : Int) : HasWords.Statement (.qflush n) := rfl
theorem HasWords.lrec (port : Nat) (high : Int) : HasWords.Statement (.lrec port high) := rfl
theorem HasWords.headroomEvaluation (energy : List Nat) : HasWords.Statement (.headroomEvaluation energy) := rfl
theorem HasWords.fctl (die : Nat) (v : Int) : HasWords.Statement (.fctl die v) := rfl
theorem HasWords.preemptRequeue (core : Nat) : HasWords.Statement (.preemptRequeue core) := rfl
theorem HasWords.preemptHold (core : Nat) : HasWords.Statement (.preemptHold core) := rfl
theorem HasWords.bresume (bolt : Int) : HasWords.Statement (.bresume bolt) := rfl
theorem HasWords.softError (correctable : Bool) (site : SoftSite) :
    HasWords.Statement (.softError correctable site) := rfl
theorem HasWords.tinval (n : Int) : HasWords.Statement (.tinval n) := rfl
theorem HasWords.hraise (n : Int) : HasWords.Statement (.hraise n) := rfl
theorem HasWords.hostLowWordRead (port : Nat) (w : Int) : HasWords.Statement (.hostLowWordRead port w) := rfl
theorem HasWords.hostLowWordWrite (port : Nat) (w : Int) (bytes : List (BitVec 8)) :
    HasWords.Statement (.hostLowWordWrite port w bytes) := rfl
theorem HasWords.hostHighWordWrite (port : Nat) (w : Int) (bytes : List (BitVec 8)) :
    HasWords.Statement (.hostHighWordWrite port w bytes) := rfl
theorem HasWords.registerWrite (w v : Int) : HasWords.Statement (.registerWrite w v) := rfl
theorem HasWords.bar2Read (k : Int) (n : Nat) : HasWords.Statement (.bar2Read k n) := rfl
theorem HasWords.bar2Write (at_ : Nat) (bytes : List (BitVec 8)) : HasWords.Statement (.bar2Write at_ bytes) := rfl
theorem HasWords.bar4Access (at_ : Nat) (bytes : List (BitVec 8)) (n : Nat) :
    HasWords.Statement (.bar4Access at_ bytes n) := rfl
theorem HasWords.beamnext (v : Int) : HasWords.Statement (.beamnext v) := rfl
theorem HasWords.beamctlStep (minstep fixstep : Int) : HasWords.Statement (.beamctlStep minstep fixstep) := rfl
theorem HasWords.beatArrival (die pair : Nat) (found : BeatCheck) :
    HasWords.Statement (.beatArrival die pair found) := rfl
theorem HasWords.beamLinkFailure (link : Nat) : HasWords.Statement (.beamLinkFailure link) := rfl
theorem HasWords.flitReceive (link : Nat) (body : List (BitVec 8)) (crc : Bool) :
    HasWords.Statement (.flitReceive link body crc) := rfl
theorem HasWords.peerSectorReceive (dev : Nat) (win : Nat) (sector : Int) (mask : List Nat) (sent : List (List (BitVec 8))) :
    HasWords.Statement (.peerSectorReceive dev win sector mask sent) := rfl
theorem HasWords.selfTestResult (w : Int) (trit : Nat) (ok : Bool) :
    HasWords.Statement (.selfTestResult w trit ok) := rfl
theorem HasWords.unitFence (w : Int) (trit : Nat) : HasWords.Statement (.unitFence w trit) := rfl
theorem HasWords.readinessFence (w : Int) (trit : Nat) : HasWords.Statement (.readinessFence w trit) := rfl
theorem HasWords.linkFence (link : Nat) : HasWords.Statement (.linkFence link) := rfl
theorem HasWords.fwgo (v : Int) : HasWords.Statement (.fwgo v) := rfl
theorem HasWords.attgo (v : Int) : HasWords.Statement (.attgo v) := rfl
theorem HasWords.undefinedOpcode (gd : Guard) : HasWords.Statement (.undefinedOpcode gd) := rfl
theorem HasWords.peerReadTransaction (dev : Nat) (sector : Int) :
    HasWords.Statement (.peerReadTransaction dev sector) := rfl
theorem HasWords.peerDeviceFailure (dev : Nat) : HasWords.Statement (.peerDeviceFailure dev) := rfl
theorem HasWords.engineReset (t : TeamId) (seq : Int) (off : Int) : HasWords.Statement (.engineReset t seq off) := rfl
theorem HasWords.collectiveProceed : HasWords.Statement (.collectiveProceed) := rfl
theorem HasWords.appendAnswer : HasWords.Statement (.appendAnswer) := rfl
theorem HasWords.waveStart : HasWords.Statement (.waveStart) := rfl
theorem HasWords.sweepCompletion : HasWords.Statement (.sweepCompletion) := rfl
theorem HasWords.engineCauseArrival : HasWords.Statement (.engineCauseArrival) := rfl
theorem HasWords.admission : HasWords.Statement (.admission) := rfl
theorem HasWords.priorityPromotion : HasWords.Statement (.priorityPromotion) := rfl
theorem HasWords.governedStep : HasWords.Statement (.governedStep) := rfl
theorem HasWords.frequencyStep : HasWords.Statement (.frequencyStep) := rfl
theorem HasWords.relockEnd : HasWords.Statement (.relockEnd) := rfl
theorem HasWords.spoolByWaiting : HasWords.Statement (.spoolByWaiting) := rfl
theorem HasWords.spoolContextWritten : HasWords.Statement (.spoolContextWritten) := rfl
theorem HasWords.forwardedRaise : HasWords.Statement (.forwardedRaise) := rfl
theorem HasWords.scrub : HasWords.Statement (.scrub) := rfl
theorem HasWords.beamProgramCheck : HasWords.Statement (.beamProgramCheck) := rfl
theorem HasWords.beamEnableRun : HasWords.Statement (.beamEnableRun) := rfl
theorem HasWords.beamEnableIdle : HasWords.Statement (.beamEnableIdle) := rfl
theorem HasWords.beamEnableStop : HasWords.Statement (.beamEnableStop) := rfl
theorem HasWords.lapMark : HasWords.Statement (.lapMark) := rfl
theorem HasWords.beamStop : HasWords.Statement (.beamStop) := rfl
theorem HasWords.coldStart : HasWords.Statement (.coldStart) := rfl
theorem HasWords.firmwareVerified : HasWords.Statement (.firmwareVerified) := rfl
theorem HasWords.attestationDone : HasWords.Statement (.attestationDone) := rfl
theorem HasWords.translationInvalidationDone : HasWords.Statement (.translationInvalidationDone) := rfl

end Sys2Proof.Laws
end

