-- ==== Sys2Proof/Laws/State.lean ====
section
/-!
SUPPORT. What the updates by name leave as it was, one lemma for each field, and the reads of a thread after
each of its updates.
-/

namespace Sys2Proof.Machine

/-! ### mapThread -/

@[simp] theorem State.mapThread_tick (s : State) (id : ThreadId) (f : Thread → Thread) : (s.mapThread id f).tick = s.tick := rfl
@[simp] theorem State.mapThread_turn (s : State) (id : ThreadId) (f : Thread → Thread) : (s.mapThread id f).turn = s.turn := rfl
@[simp] theorem State.mapThread_reftime (s : State) (id : ThreadId) (f : Thread → Thread) : (s.mapThread id f).reftime = s.reftime := rfl
@[simp] theorem State.mapThread_fine (s : State) (id : ThreadId) (f : Thread → Thread) : (s.mapThread id f).fine = s.fine := rfl
@[simp] theorem State.mapThread_evals (s : State) (id : ThreadId) (f : Thread → Thread) : (s.mapThread id f).evals = s.evals := rfl
@[simp] theorem State.mapThread_stalled (s : State) (id : ThreadId) (f : Thread → Thread) : (s.mapThread id f).stalled = s.stalled := rfl
@[simp] theorem State.mapThread_gangs (s : State) (id : ThreadId) (f : Thread → Thread) : (s.mapThread id f).gangs = s.gangs := rfl
@[simp] theorem State.mapThread_aside (s : State) (id : ThreadId) (f : Thread → Thread) : (s.mapThread id f).aside = s.aside := rfl
@[simp] theorem State.mapThread_forced (s : State) (id : ThreadId) (f : Thread → Thread) : (s.mapThread id f).forced = s.forced := rfl
@[simp] theorem State.mapThread_teams (s : State) (id : ThreadId) (f : Thread → Thread) : (s.mapThread id f).teams = s.teams := rfl
@[simp] theorem State.mapThread_bolts (s : State) (id : ThreadId) (f : Thread → Thread) : (s.mapThread id f).bolts = s.bolts := rfl
@[simp] theorem State.mapThread_nextBolt (s : State) (id : ThreadId) (f : Thread → Thread) : (s.mapThread id f).nextBolt = s.nextBolt := rfl
@[simp] theorem State.mapThread_plans (s : State) (id : ThreadId) (f : Thread → Thread) : (s.mapThread id f).plans = s.plans := rfl
@[simp] theorem State.mapThread_hbm (s : State) (id : ThreadId) (f : Thread → Thread) : (s.mapThread id f).hbm = s.hbm := rfl
@[simp] theorem State.mapThread_hbmPoison (s : State) (id : ThreadId) (f : Thread → Thread) : (s.mapThread id f).hbmPoison = s.hbmPoison := rfl
@[simp] theorem State.mapThread_withdrawn (s : State) (id : ThreadId) (f : Thread → Thread) : (s.mapThread id f).withdrawn = s.withdrawn := rfl
@[simp] theorem State.mapThread_l1 (s : State) (id : ThreadId) (f : Thread → Thread) : (s.mapThread id f).l1 = s.l1 := rfl
@[simp] theorem State.mapThread_slices (s : State) (id : ThreadId) (f : Thread → Thread) : (s.mapThread id f).slices = s.slices := rfl
@[simp] theorem State.mapThread_prefetches (s : State) (id : ThreadId) (f : Thread → Thread) : (s.mapThread id f).prefetches = s.prefetches := rfl
@[simp] theorem State.mapThread_icache (s : State) (id : ThreadId) (f : Thread → Thread) : (s.mapThread id f).icache = s.icache := rfl
@[simp] theorem State.mapThread_tcache (s : State) (id : ThreadId) (f : Thread → Thread) : (s.mapThread id f).tcache = s.tcache := rfl
@[simp] theorem State.mapThread_tinvPending (s : State) (id : ThreadId) (f : Thread → Thread) : (s.mapThread id f).tinvPending = s.tinvPending := rfl
@[simp] theorem State.mapThread_heldTrytes (s : State) (id : ThreadId) (f : Thread → Thread) : (s.mapThread id f).heldTrytes = s.heldTrytes := rfl
@[simp] theorem State.mapThread_heldBefore (s : State) (id : ThreadId) (f : Thread → Thread) : (s.mapThread id f).heldBefore = s.heldBefore := rfl
@[simp] theorem State.mapThread_locks (s : State) (id : ThreadId) (f : Thread → Thread) : (s.mapThread id f).locks = s.locks := rfl
@[simp] theorem State.mapThread_tickets (s : State) (id : ThreadId) (f : Thread → Thread) : (s.mapThread id f).tickets = s.tickets := rfl
@[simp] theorem State.mapThread_tokens (s : State) (id : ThreadId) (f : Thread → Thread) : (s.mapThread id f).tokens = s.tokens := rfl
@[simp] theorem State.mapThread_collectives (s : State) (id : ThreadId) (f : Thread → Thread) : (s.mapThread id f).collectives = s.collectives := rfl
@[simp] theorem State.mapThread_remotes (s : State) (id : ThreadId) (f : Thread → Thread) : (s.mapThread id f).remotes = s.remotes := rfl
@[simp] theorem State.mapThread_collSends (s : State) (id : ThreadId) (f : Thread → Thread) : (s.mapThread id f).collSends = s.collSends := rfl
@[simp] theorem State.mapThread_appends (s : State) (id : ThreadId) (f : Thread → Thread) : (s.mapThread id f).appends = s.appends := rfl
@[simp] theorem State.mapThread_wakes (s : State) (id : ThreadId) (f : Thread → Thread) : (s.mapThread id f).wakes = s.wakes := rfl
@[simp] theorem State.mapThread_engineCauses (s : State) (id : ThreadId) (f : Thread → Thread) : (s.mapThread id f).engineCauses = s.engineCauses := rfl
@[simp] theorem State.mapThread_forwards (s : State) (id : ThreadId) (f : Thread → Thread) : (s.mapThread id f).forwards = s.forwards := rfl
@[simp] theorem State.mapThread_transit (s : State) (id : ThreadId) (f : Thread → Thread) : (s.mapThread id f).transit = s.transit := rfl
@[simp] theorem State.mapThread_tags (s : State) (id : ThreadId) (f : Thread → Thread) : (s.mapThread id f).tags = s.tags := rfl
@[simp] theorem State.mapThread_returns (s : State) (id : ThreadId) (f : Thread → Thread) : (s.mapThread id f).returns = s.returns := rfl
@[simp] theorem State.mapThread_beam (s : State) (id : ThreadId) (f : Thread → Thread) : (s.mapThread id f).beam = s.beam := rfl
@[simp] theorem State.mapThread_dies (s : State) (id : ThreadId) (f : Thread → Thread) : (s.mapThread id f).dies = s.dies := rfl
@[simp] theorem State.mapThread_window (s : State) (id : ThreadId) (f : Thread → Thread) : (s.mapThread id f).window = s.window := rfl
@[simp] theorem State.mapThread_ports (s : State) (id : ThreadId) (f : Thread → Thread) : (s.mapThread id f).ports = s.ports := rfl
@[simp] theorem State.mapThread_ready (s : State) (id : ThreadId) (f : Thread → Thread) : (s.mapThread id f).ready = s.ready := rfl
@[simp] theorem State.mapThread_linksOut (s : State) (id : ThreadId) (f : Thread → Thread) : (s.mapThread id f).linksOut = s.linksOut := rfl
@[simp] theorem State.mapThread_msix (s : State) (id : ThreadId) (f : Thread → Thread) : (s.mapThread id f).msix = s.msix := rfl
@[simp] theorem State.mapThread_staging (s : State) (id : ThreadId) (f : Thread → Thread) : (s.mapThread id f).staging = s.staging := rfl
@[simp] theorem State.mapThread_queues (s : State) (id : ThreadId) (f : Thread → Thread) : (s.mapThread id f).queues = s.queues := rfl
@[simp] theorem State.mapThread_orphans (s : State) (id : ThreadId) (f : Thread → Thread) : (s.mapThread id f).orphans = s.orphans := rfl
@[simp] theorem State.mapThread_image (s : State) (id : ThreadId) (f : Thread → Thread) : (s.mapThread id f).image = s.image := rfl
@[simp] theorem State.mapThread_hostReads (s : State) (id : ThreadId) (f : Thread → Thread) : (s.mapThread id f).hostReads = s.hostReads := rfl
@[simp] theorem State.mapThread_peerReads (s : State) (id : ThreadId) (f : Thread → Thread) : (s.mapThread id f).peerReads = s.peerReads := rfl
@[simp] theorem State.mapThread_peerWrites (s : State) (id : ThreadId) (f : Thread → Thread) : (s.mapThread id f).peerWrites = s.peerWrites := rfl
@[simp] theorem State.mapThread_doorbells (s : State) (id : ThreadId) (f : Thread → Thread) : (s.mapThread id f).doorbells = s.doorbells := rfl
@[simp] theorem State.mapThread_flits (s : State) (id : ThreadId) (f : Thread → Thread) : (s.mapThread id f).flits = s.flits := rfl
@[simp] theorem State.mapThread_fwPending (s : State) (id : ThreadId) (f : Thread → Thread) : (s.mapThread id f).fwPending = s.fwPending := rfl
@[simp] theorem State.mapThread_quote (s : State) (id : ThreadId) (f : Thread → Thread) : (s.mapThread id f).quote = s.quote := rfl
@[simp] theorem State.mapThread_started (s : State) (id : ThreadId) (f : Thread → Thread) : (s.mapThread id f).started = s.started := rfl
@[simp] theorem State.mapThread_agenda (s : State) (id : ThreadId) (f : Thread → Thread) : (s.mapThread id f).agenda = s.agenda := rfl

/-! ### mapTeam -/

@[simp] theorem State.mapTeam_tick (s : State) (id : TeamId) (f : Team → Team) : (s.mapTeam id f).tick = s.tick := rfl
@[simp] theorem State.mapTeam_turn (s : State) (id : TeamId) (f : Team → Team) : (s.mapTeam id f).turn = s.turn := rfl
@[simp] theorem State.mapTeam_reftime (s : State) (id : TeamId) (f : Team → Team) : (s.mapTeam id f).reftime = s.reftime := rfl
@[simp] theorem State.mapTeam_fine (s : State) (id : TeamId) (f : Team → Team) : (s.mapTeam id f).fine = s.fine := rfl
@[simp] theorem State.mapTeam_evals (s : State) (id : TeamId) (f : Team → Team) : (s.mapTeam id f).evals = s.evals := rfl
@[simp] theorem State.mapTeam_stalled (s : State) (id : TeamId) (f : Team → Team) : (s.mapTeam id f).stalled = s.stalled := rfl
@[simp] theorem State.mapTeam_threads (s : State) (id : TeamId) (f : Team → Team) : (s.mapTeam id f).threads = s.threads := rfl
@[simp] theorem State.mapTeam_gangs (s : State) (id : TeamId) (f : Team → Team) : (s.mapTeam id f).gangs = s.gangs := rfl
@[simp] theorem State.mapTeam_aside (s : State) (id : TeamId) (f : Team → Team) : (s.mapTeam id f).aside = s.aside := rfl
@[simp] theorem State.mapTeam_forced (s : State) (id : TeamId) (f : Team → Team) : (s.mapTeam id f).forced = s.forced := rfl
@[simp] theorem State.mapTeam_bolts (s : State) (id : TeamId) (f : Team → Team) : (s.mapTeam id f).bolts = s.bolts := rfl
@[simp] theorem State.mapTeam_nextBolt (s : State) (id : TeamId) (f : Team → Team) : (s.mapTeam id f).nextBolt = s.nextBolt := rfl
@[simp] theorem State.mapTeam_plans (s : State) (id : TeamId) (f : Team → Team) : (s.mapTeam id f).plans = s.plans := rfl
@[simp] theorem State.mapTeam_hbm (s : State) (id : TeamId) (f : Team → Team) : (s.mapTeam id f).hbm = s.hbm := rfl
@[simp] theorem State.mapTeam_hbmPoison (s : State) (id : TeamId) (f : Team → Team) : (s.mapTeam id f).hbmPoison = s.hbmPoison := rfl
@[simp] theorem State.mapTeam_withdrawn (s : State) (id : TeamId) (f : Team → Team) : (s.mapTeam id f).withdrawn = s.withdrawn := rfl
@[simp] theorem State.mapTeam_l1 (s : State) (id : TeamId) (f : Team → Team) : (s.mapTeam id f).l1 = s.l1 := rfl
@[simp] theorem State.mapTeam_slices (s : State) (id : TeamId) (f : Team → Team) : (s.mapTeam id f).slices = s.slices := rfl
@[simp] theorem State.mapTeam_prefetches (s : State) (id : TeamId) (f : Team → Team) : (s.mapTeam id f).prefetches = s.prefetches := rfl
@[simp] theorem State.mapTeam_icache (s : State) (id : TeamId) (f : Team → Team) : (s.mapTeam id f).icache = s.icache := rfl
@[simp] theorem State.mapTeam_tcache (s : State) (id : TeamId) (f : Team → Team) : (s.mapTeam id f).tcache = s.tcache := rfl
@[simp] theorem State.mapTeam_tinvPending (s : State) (id : TeamId) (f : Team → Team) : (s.mapTeam id f).tinvPending = s.tinvPending := rfl
@[simp] theorem State.mapTeam_heldTrytes (s : State) (id : TeamId) (f : Team → Team) : (s.mapTeam id f).heldTrytes = s.heldTrytes := rfl
@[simp] theorem State.mapTeam_heldBefore (s : State) (id : TeamId) (f : Team → Team) : (s.mapTeam id f).heldBefore = s.heldBefore := rfl
@[simp] theorem State.mapTeam_locks (s : State) (id : TeamId) (f : Team → Team) : (s.mapTeam id f).locks = s.locks := rfl
@[simp] theorem State.mapTeam_tickets (s : State) (id : TeamId) (f : Team → Team) : (s.mapTeam id f).tickets = s.tickets := rfl
@[simp] theorem State.mapTeam_tokens (s : State) (id : TeamId) (f : Team → Team) : (s.mapTeam id f).tokens = s.tokens := rfl
@[simp] theorem State.mapTeam_collectives (s : State) (id : TeamId) (f : Team → Team) : (s.mapTeam id f).collectives = s.collectives := rfl
@[simp] theorem State.mapTeam_remotes (s : State) (id : TeamId) (f : Team → Team) : (s.mapTeam id f).remotes = s.remotes := rfl
@[simp] theorem State.mapTeam_collSends (s : State) (id : TeamId) (f : Team → Team) : (s.mapTeam id f).collSends = s.collSends := rfl
@[simp] theorem State.mapTeam_appends (s : State) (id : TeamId) (f : Team → Team) : (s.mapTeam id f).appends = s.appends := rfl
@[simp] theorem State.mapTeam_wakes (s : State) (id : TeamId) (f : Team → Team) : (s.mapTeam id f).wakes = s.wakes := rfl
@[simp] theorem State.mapTeam_engineCauses (s : State) (id : TeamId) (f : Team → Team) : (s.mapTeam id f).engineCauses = s.engineCauses := rfl
@[simp] theorem State.mapTeam_forwards (s : State) (id : TeamId) (f : Team → Team) : (s.mapTeam id f).forwards = s.forwards := rfl
@[simp] theorem State.mapTeam_transit (s : State) (id : TeamId) (f : Team → Team) : (s.mapTeam id f).transit = s.transit := rfl
@[simp] theorem State.mapTeam_tags (s : State) (id : TeamId) (f : Team → Team) : (s.mapTeam id f).tags = s.tags := rfl
@[simp] theorem State.mapTeam_returns (s : State) (id : TeamId) (f : Team → Team) : (s.mapTeam id f).returns = s.returns := rfl
@[simp] theorem State.mapTeam_beam (s : State) (id : TeamId) (f : Team → Team) : (s.mapTeam id f).beam = s.beam := rfl
@[simp] theorem State.mapTeam_dies (s : State) (id : TeamId) (f : Team → Team) : (s.mapTeam id f).dies = s.dies := rfl
@[simp] theorem State.mapTeam_window (s : State) (id : TeamId) (f : Team → Team) : (s.mapTeam id f).window = s.window := rfl
@[simp] theorem State.mapTeam_ports (s : State) (id : TeamId) (f : Team → Team) : (s.mapTeam id f).ports = s.ports := rfl
@[simp] theorem State.mapTeam_ready (s : State) (id : TeamId) (f : Team → Team) : (s.mapTeam id f).ready = s.ready := rfl
@[simp] theorem State.mapTeam_linksOut (s : State) (id : TeamId) (f : Team → Team) : (s.mapTeam id f).linksOut = s.linksOut := rfl
@[simp] theorem State.mapTeam_msix (s : State) (id : TeamId) (f : Team → Team) : (s.mapTeam id f).msix = s.msix := rfl
@[simp] theorem State.mapTeam_staging (s : State) (id : TeamId) (f : Team → Team) : (s.mapTeam id f).staging = s.staging := rfl
@[simp] theorem State.mapTeam_queues (s : State) (id : TeamId) (f : Team → Team) : (s.mapTeam id f).queues = s.queues := rfl
@[simp] theorem State.mapTeam_orphans (s : State) (id : TeamId) (f : Team → Team) : (s.mapTeam id f).orphans = s.orphans := rfl
@[simp] theorem State.mapTeam_image (s : State) (id : TeamId) (f : Team → Team) : (s.mapTeam id f).image = s.image := rfl
@[simp] theorem State.mapTeam_hostReads (s : State) (id : TeamId) (f : Team → Team) : (s.mapTeam id f).hostReads = s.hostReads := rfl
@[simp] theorem State.mapTeam_peerReads (s : State) (id : TeamId) (f : Team → Team) : (s.mapTeam id f).peerReads = s.peerReads := rfl
@[simp] theorem State.mapTeam_peerWrites (s : State) (id : TeamId) (f : Team → Team) : (s.mapTeam id f).peerWrites = s.peerWrites := rfl
@[simp] theorem State.mapTeam_doorbells (s : State) (id : TeamId) (f : Team → Team) : (s.mapTeam id f).doorbells = s.doorbells := rfl
@[simp] theorem State.mapTeam_flits (s : State) (id : TeamId) (f : Team → Team) : (s.mapTeam id f).flits = s.flits := rfl
@[simp] theorem State.mapTeam_fwPending (s : State) (id : TeamId) (f : Team → Team) : (s.mapTeam id f).fwPending = s.fwPending := rfl
@[simp] theorem State.mapTeam_quote (s : State) (id : TeamId) (f : Team → Team) : (s.mapTeam id f).quote = s.quote := rfl
@[simp] theorem State.mapTeam_started (s : State) (id : TeamId) (f : Team → Team) : (s.mapTeam id f).started = s.started := rfl
@[simp] theorem State.mapTeam_agenda (s : State) (id : TeamId) (f : Team → Team) : (s.mapTeam id f).agenda = s.agenda := rfl

/-! ### mapBolt -/

@[simp] theorem State.mapBolt_tick (s : State) (id : Nat) (f : Bolt → Bolt) : (s.mapBolt id f).tick = s.tick := rfl
@[simp] theorem State.mapBolt_turn (s : State) (id : Nat) (f : Bolt → Bolt) : (s.mapBolt id f).turn = s.turn := rfl
@[simp] theorem State.mapBolt_reftime (s : State) (id : Nat) (f : Bolt → Bolt) : (s.mapBolt id f).reftime = s.reftime := rfl
@[simp] theorem State.mapBolt_fine (s : State) (id : Nat) (f : Bolt → Bolt) : (s.mapBolt id f).fine = s.fine := rfl
@[simp] theorem State.mapBolt_evals (s : State) (id : Nat) (f : Bolt → Bolt) : (s.mapBolt id f).evals = s.evals := rfl
@[simp] theorem State.mapBolt_stalled (s : State) (id : Nat) (f : Bolt → Bolt) : (s.mapBolt id f).stalled = s.stalled := rfl
@[simp] theorem State.mapBolt_threads (s : State) (id : Nat) (f : Bolt → Bolt) : (s.mapBolt id f).threads = s.threads := rfl
@[simp] theorem State.mapBolt_gangs (s : State) (id : Nat) (f : Bolt → Bolt) : (s.mapBolt id f).gangs = s.gangs := rfl
@[simp] theorem State.mapBolt_aside (s : State) (id : Nat) (f : Bolt → Bolt) : (s.mapBolt id f).aside = s.aside := rfl
@[simp] theorem State.mapBolt_forced (s : State) (id : Nat) (f : Bolt → Bolt) : (s.mapBolt id f).forced = s.forced := rfl
@[simp] theorem State.mapBolt_teams (s : State) (id : Nat) (f : Bolt → Bolt) : (s.mapBolt id f).teams = s.teams := rfl
@[simp] theorem State.mapBolt_nextBolt (s : State) (id : Nat) (f : Bolt → Bolt) : (s.mapBolt id f).nextBolt = s.nextBolt := rfl
@[simp] theorem State.mapBolt_plans (s : State) (id : Nat) (f : Bolt → Bolt) : (s.mapBolt id f).plans = s.plans := rfl
@[simp] theorem State.mapBolt_hbm (s : State) (id : Nat) (f : Bolt → Bolt) : (s.mapBolt id f).hbm = s.hbm := rfl
@[simp] theorem State.mapBolt_hbmPoison (s : State) (id : Nat) (f : Bolt → Bolt) : (s.mapBolt id f).hbmPoison = s.hbmPoison := rfl
@[simp] theorem State.mapBolt_withdrawn (s : State) (id : Nat) (f : Bolt → Bolt) : (s.mapBolt id f).withdrawn = s.withdrawn := rfl
@[simp] theorem State.mapBolt_l1 (s : State) (id : Nat) (f : Bolt → Bolt) : (s.mapBolt id f).l1 = s.l1 := rfl
@[simp] theorem State.mapBolt_slices (s : State) (id : Nat) (f : Bolt → Bolt) : (s.mapBolt id f).slices = s.slices := rfl
@[simp] theorem State.mapBolt_prefetches (s : State) (id : Nat) (f : Bolt → Bolt) : (s.mapBolt id f).prefetches = s.prefetches := rfl
@[simp] theorem State.mapBolt_icache (s : State) (id : Nat) (f : Bolt → Bolt) : (s.mapBolt id f).icache = s.icache := rfl
@[simp] theorem State.mapBolt_tcache (s : State) (id : Nat) (f : Bolt → Bolt) : (s.mapBolt id f).tcache = s.tcache := rfl
@[simp] theorem State.mapBolt_tinvPending (s : State) (id : Nat) (f : Bolt → Bolt) : (s.mapBolt id f).tinvPending = s.tinvPending := rfl
@[simp] theorem State.mapBolt_heldTrytes (s : State) (id : Nat) (f : Bolt → Bolt) : (s.mapBolt id f).heldTrytes = s.heldTrytes := rfl
@[simp] theorem State.mapBolt_heldBefore (s : State) (id : Nat) (f : Bolt → Bolt) : (s.mapBolt id f).heldBefore = s.heldBefore := rfl
@[simp] theorem State.mapBolt_locks (s : State) (id : Nat) (f : Bolt → Bolt) : (s.mapBolt id f).locks = s.locks := rfl
@[simp] theorem State.mapBolt_tickets (s : State) (id : Nat) (f : Bolt → Bolt) : (s.mapBolt id f).tickets = s.tickets := rfl
@[simp] theorem State.mapBolt_tokens (s : State) (id : Nat) (f : Bolt → Bolt) : (s.mapBolt id f).tokens = s.tokens := rfl
@[simp] theorem State.mapBolt_collectives (s : State) (id : Nat) (f : Bolt → Bolt) : (s.mapBolt id f).collectives = s.collectives := rfl
@[simp] theorem State.mapBolt_remotes (s : State) (id : Nat) (f : Bolt → Bolt) : (s.mapBolt id f).remotes = s.remotes := rfl
@[simp] theorem State.mapBolt_collSends (s : State) (id : Nat) (f : Bolt → Bolt) : (s.mapBolt id f).collSends = s.collSends := rfl
@[simp] theorem State.mapBolt_appends (s : State) (id : Nat) (f : Bolt → Bolt) : (s.mapBolt id f).appends = s.appends := rfl
@[simp] theorem State.mapBolt_wakes (s : State) (id : Nat) (f : Bolt → Bolt) : (s.mapBolt id f).wakes = s.wakes := rfl
@[simp] theorem State.mapBolt_engineCauses (s : State) (id : Nat) (f : Bolt → Bolt) : (s.mapBolt id f).engineCauses = s.engineCauses := rfl
@[simp] theorem State.mapBolt_forwards (s : State) (id : Nat) (f : Bolt → Bolt) : (s.mapBolt id f).forwards = s.forwards := rfl
@[simp] theorem State.mapBolt_transit (s : State) (id : Nat) (f : Bolt → Bolt) : (s.mapBolt id f).transit = s.transit := rfl
@[simp] theorem State.mapBolt_tags (s : State) (id : Nat) (f : Bolt → Bolt) : (s.mapBolt id f).tags = s.tags := rfl
@[simp] theorem State.mapBolt_returns (s : State) (id : Nat) (f : Bolt → Bolt) : (s.mapBolt id f).returns = s.returns := rfl
@[simp] theorem State.mapBolt_beam (s : State) (id : Nat) (f : Bolt → Bolt) : (s.mapBolt id f).beam = s.beam := rfl
@[simp] theorem State.mapBolt_dies (s : State) (id : Nat) (f : Bolt → Bolt) : (s.mapBolt id f).dies = s.dies := rfl
@[simp] theorem State.mapBolt_window (s : State) (id : Nat) (f : Bolt → Bolt) : (s.mapBolt id f).window = s.window := rfl
@[simp] theorem State.mapBolt_ports (s : State) (id : Nat) (f : Bolt → Bolt) : (s.mapBolt id f).ports = s.ports := rfl
@[simp] theorem State.mapBolt_ready (s : State) (id : Nat) (f : Bolt → Bolt) : (s.mapBolt id f).ready = s.ready := rfl
@[simp] theorem State.mapBolt_linksOut (s : State) (id : Nat) (f : Bolt → Bolt) : (s.mapBolt id f).linksOut = s.linksOut := rfl
@[simp] theorem State.mapBolt_msix (s : State) (id : Nat) (f : Bolt → Bolt) : (s.mapBolt id f).msix = s.msix := rfl
@[simp] theorem State.mapBolt_staging (s : State) (id : Nat) (f : Bolt → Bolt) : (s.mapBolt id f).staging = s.staging := rfl
@[simp] theorem State.mapBolt_queues (s : State) (id : Nat) (f : Bolt → Bolt) : (s.mapBolt id f).queues = s.queues := rfl
@[simp] theorem State.mapBolt_orphans (s : State) (id : Nat) (f : Bolt → Bolt) : (s.mapBolt id f).orphans = s.orphans := rfl
@[simp] theorem State.mapBolt_image (s : State) (id : Nat) (f : Bolt → Bolt) : (s.mapBolt id f).image = s.image := rfl
@[simp] theorem State.mapBolt_hostReads (s : State) (id : Nat) (f : Bolt → Bolt) : (s.mapBolt id f).hostReads = s.hostReads := rfl
@[simp] theorem State.mapBolt_peerReads (s : State) (id : Nat) (f : Bolt → Bolt) : (s.mapBolt id f).peerReads = s.peerReads := rfl
@[simp] theorem State.mapBolt_peerWrites (s : State) (id : Nat) (f : Bolt → Bolt) : (s.mapBolt id f).peerWrites = s.peerWrites := rfl
@[simp] theorem State.mapBolt_doorbells (s : State) (id : Nat) (f : Bolt → Bolt) : (s.mapBolt id f).doorbells = s.doorbells := rfl
@[simp] theorem State.mapBolt_flits (s : State) (id : Nat) (f : Bolt → Bolt) : (s.mapBolt id f).flits = s.flits := rfl
@[simp] theorem State.mapBolt_fwPending (s : State) (id : Nat) (f : Bolt → Bolt) : (s.mapBolt id f).fwPending = s.fwPending := rfl
@[simp] theorem State.mapBolt_quote (s : State) (id : Nat) (f : Bolt → Bolt) : (s.mapBolt id f).quote = s.quote := rfl
@[simp] theorem State.mapBolt_started (s : State) (id : Nat) (f : Bolt → Bolt) : (s.mapBolt id f).started = s.started := rfl
@[simp] theorem State.mapBolt_agenda (s : State) (id : Nat) (f : Bolt → Bolt) : (s.mapBolt id f).agenda = s.agenda := rfl

/-! ### mapGang -/

@[simp] theorem State.mapGang_tick (s : State) (f : Thread → Thread) : (s.mapGang f).tick = s.tick := rfl
@[simp] theorem State.mapGang_turn (s : State) (f : Thread → Thread) : (s.mapGang f).turn = s.turn := rfl
@[simp] theorem State.mapGang_reftime (s : State) (f : Thread → Thread) : (s.mapGang f).reftime = s.reftime := rfl
@[simp] theorem State.mapGang_fine (s : State) (f : Thread → Thread) : (s.mapGang f).fine = s.fine := rfl
@[simp] theorem State.mapGang_evals (s : State) (f : Thread → Thread) : (s.mapGang f).evals = s.evals := rfl
@[simp] theorem State.mapGang_stalled (s : State) (f : Thread → Thread) : (s.mapGang f).stalled = s.stalled := rfl
@[simp] theorem State.mapGang_gangs (s : State) (f : Thread → Thread) : (s.mapGang f).gangs = s.gangs := rfl
@[simp] theorem State.mapGang_aside (s : State) (f : Thread → Thread) : (s.mapGang f).aside = s.aside := rfl
@[simp] theorem State.mapGang_forced (s : State) (f : Thread → Thread) : (s.mapGang f).forced = s.forced := rfl
@[simp] theorem State.mapGang_teams (s : State) (f : Thread → Thread) : (s.mapGang f).teams = s.teams := rfl
@[simp] theorem State.mapGang_bolts (s : State) (f : Thread → Thread) : (s.mapGang f).bolts = s.bolts := rfl
@[simp] theorem State.mapGang_nextBolt (s : State) (f : Thread → Thread) : (s.mapGang f).nextBolt = s.nextBolt := rfl
@[simp] theorem State.mapGang_plans (s : State) (f : Thread → Thread) : (s.mapGang f).plans = s.plans := rfl
@[simp] theorem State.mapGang_hbm (s : State) (f : Thread → Thread) : (s.mapGang f).hbm = s.hbm := rfl
@[simp] theorem State.mapGang_hbmPoison (s : State) (f : Thread → Thread) : (s.mapGang f).hbmPoison = s.hbmPoison := rfl
@[simp] theorem State.mapGang_withdrawn (s : State) (f : Thread → Thread) : (s.mapGang f).withdrawn = s.withdrawn := rfl
@[simp] theorem State.mapGang_l1 (s : State) (f : Thread → Thread) : (s.mapGang f).l1 = s.l1 := rfl
@[simp] theorem State.mapGang_slices (s : State) (f : Thread → Thread) : (s.mapGang f).slices = s.slices := rfl
@[simp] theorem State.mapGang_prefetches (s : State) (f : Thread → Thread) : (s.mapGang f).prefetches = s.prefetches := rfl
@[simp] theorem State.mapGang_icache (s : State) (f : Thread → Thread) : (s.mapGang f).icache = s.icache := rfl
@[simp] theorem State.mapGang_tcache (s : State) (f : Thread → Thread) : (s.mapGang f).tcache = s.tcache := rfl
@[simp] theorem State.mapGang_tinvPending (s : State) (f : Thread → Thread) : (s.mapGang f).tinvPending = s.tinvPending := rfl
@[simp] theorem State.mapGang_heldTrytes (s : State) (f : Thread → Thread) : (s.mapGang f).heldTrytes = s.heldTrytes := rfl
@[simp] theorem State.mapGang_heldBefore (s : State) (f : Thread → Thread) : (s.mapGang f).heldBefore = s.heldBefore := rfl
@[simp] theorem State.mapGang_locks (s : State) (f : Thread → Thread) : (s.mapGang f).locks = s.locks := rfl
@[simp] theorem State.mapGang_tickets (s : State) (f : Thread → Thread) : (s.mapGang f).tickets = s.tickets := rfl
@[simp] theorem State.mapGang_tokens (s : State) (f : Thread → Thread) : (s.mapGang f).tokens = s.tokens := rfl
@[simp] theorem State.mapGang_collectives (s : State) (f : Thread → Thread) : (s.mapGang f).collectives = s.collectives := rfl
@[simp] theorem State.mapGang_remotes (s : State) (f : Thread → Thread) : (s.mapGang f).remotes = s.remotes := rfl
@[simp] theorem State.mapGang_collSends (s : State) (f : Thread → Thread) : (s.mapGang f).collSends = s.collSends := rfl
@[simp] theorem State.mapGang_appends (s : State) (f : Thread → Thread) : (s.mapGang f).appends = s.appends := rfl
@[simp] theorem State.mapGang_wakes (s : State) (f : Thread → Thread) : (s.mapGang f).wakes = s.wakes := rfl
@[simp] theorem State.mapGang_engineCauses (s : State) (f : Thread → Thread) : (s.mapGang f).engineCauses = s.engineCauses := rfl
@[simp] theorem State.mapGang_forwards (s : State) (f : Thread → Thread) : (s.mapGang f).forwards = s.forwards := rfl
@[simp] theorem State.mapGang_transit (s : State) (f : Thread → Thread) : (s.mapGang f).transit = s.transit := rfl
@[simp] theorem State.mapGang_tags (s : State) (f : Thread → Thread) : (s.mapGang f).tags = s.tags := rfl
@[simp] theorem State.mapGang_returns (s : State) (f : Thread → Thread) : (s.mapGang f).returns = s.returns := rfl
@[simp] theorem State.mapGang_beam (s : State) (f : Thread → Thread) : (s.mapGang f).beam = s.beam := rfl
@[simp] theorem State.mapGang_dies (s : State) (f : Thread → Thread) : (s.mapGang f).dies = s.dies := rfl
@[simp] theorem State.mapGang_window (s : State) (f : Thread → Thread) : (s.mapGang f).window = s.window := rfl
@[simp] theorem State.mapGang_ports (s : State) (f : Thread → Thread) : (s.mapGang f).ports = s.ports := rfl
@[simp] theorem State.mapGang_ready (s : State) (f : Thread → Thread) : (s.mapGang f).ready = s.ready := rfl
@[simp] theorem State.mapGang_linksOut (s : State) (f : Thread → Thread) : (s.mapGang f).linksOut = s.linksOut := rfl
@[simp] theorem State.mapGang_msix (s : State) (f : Thread → Thread) : (s.mapGang f).msix = s.msix := rfl
@[simp] theorem State.mapGang_staging (s : State) (f : Thread → Thread) : (s.mapGang f).staging = s.staging := rfl
@[simp] theorem State.mapGang_queues (s : State) (f : Thread → Thread) : (s.mapGang f).queues = s.queues := rfl
@[simp] theorem State.mapGang_orphans (s : State) (f : Thread → Thread) : (s.mapGang f).orphans = s.orphans := rfl
@[simp] theorem State.mapGang_image (s : State) (f : Thread → Thread) : (s.mapGang f).image = s.image := rfl
@[simp] theorem State.mapGang_hostReads (s : State) (f : Thread → Thread) : (s.mapGang f).hostReads = s.hostReads := rfl
@[simp] theorem State.mapGang_peerReads (s : State) (f : Thread → Thread) : (s.mapGang f).peerReads = s.peerReads := rfl
@[simp] theorem State.mapGang_peerWrites (s : State) (f : Thread → Thread) : (s.mapGang f).peerWrites = s.peerWrites := rfl
@[simp] theorem State.mapGang_doorbells (s : State) (f : Thread → Thread) : (s.mapGang f).doorbells = s.doorbells := rfl
@[simp] theorem State.mapGang_flits (s : State) (f : Thread → Thread) : (s.mapGang f).flits = s.flits := rfl
@[simp] theorem State.mapGang_fwPending (s : State) (f : Thread → Thread) : (s.mapGang f).fwPending = s.fwPending := rfl
@[simp] theorem State.mapGang_quote (s : State) (f : Thread → Thread) : (s.mapGang f).quote = s.quote := rfl
@[simp] theorem State.mapGang_started (s : State) (f : Thread → Thread) : (s.mapGang f).started = s.started := rfl
@[simp] theorem State.mapGang_agenda (s : State) (f : Thread → Thread) : (s.mapGang f).agenda = s.agenda := rfl

/-! ### setDie -/

@[simp] theorem State.setDie_tick (s : State) (d : Nat) (f : Die → Die) : (s.setDie d f).tick = s.tick := rfl
@[simp] theorem State.setDie_turn (s : State) (d : Nat) (f : Die → Die) : (s.setDie d f).turn = s.turn := rfl
@[simp] theorem State.setDie_reftime (s : State) (d : Nat) (f : Die → Die) : (s.setDie d f).reftime = s.reftime := rfl
@[simp] theorem State.setDie_fine (s : State) (d : Nat) (f : Die → Die) : (s.setDie d f).fine = s.fine := rfl
@[simp] theorem State.setDie_evals (s : State) (d : Nat) (f : Die → Die) : (s.setDie d f).evals = s.evals := rfl
@[simp] theorem State.setDie_stalled (s : State) (d : Nat) (f : Die → Die) : (s.setDie d f).stalled = s.stalled := rfl
@[simp] theorem State.setDie_threads (s : State) (d : Nat) (f : Die → Die) : (s.setDie d f).threads = s.threads := rfl
@[simp] theorem State.setDie_gangs (s : State) (d : Nat) (f : Die → Die) : (s.setDie d f).gangs = s.gangs := rfl
@[simp] theorem State.setDie_aside (s : State) (d : Nat) (f : Die → Die) : (s.setDie d f).aside = s.aside := rfl
@[simp] theorem State.setDie_forced (s : State) (d : Nat) (f : Die → Die) : (s.setDie d f).forced = s.forced := rfl
@[simp] theorem State.setDie_teams (s : State) (d : Nat) (f : Die → Die) : (s.setDie d f).teams = s.teams := rfl
@[simp] theorem State.setDie_bolts (s : State) (d : Nat) (f : Die → Die) : (s.setDie d f).bolts = s.bolts := rfl
@[simp] theorem State.setDie_nextBolt (s : State) (d : Nat) (f : Die → Die) : (s.setDie d f).nextBolt = s.nextBolt := rfl
@[simp] theorem State.setDie_plans (s : State) (d : Nat) (f : Die → Die) : (s.setDie d f).plans = s.plans := rfl
@[simp] theorem State.setDie_hbm (s : State) (d : Nat) (f : Die → Die) : (s.setDie d f).hbm = s.hbm := rfl
@[simp] theorem State.setDie_hbmPoison (s : State) (d : Nat) (f : Die → Die) : (s.setDie d f).hbmPoison = s.hbmPoison := rfl
@[simp] theorem State.setDie_withdrawn (s : State) (d : Nat) (f : Die → Die) : (s.setDie d f).withdrawn = s.withdrawn := rfl
@[simp] theorem State.setDie_l1 (s : State) (d : Nat) (f : Die → Die) : (s.setDie d f).l1 = s.l1 := rfl
@[simp] theorem State.setDie_slices (s : State) (d : Nat) (f : Die → Die) : (s.setDie d f).slices = s.slices := rfl
@[simp] theorem State.setDie_prefetches (s : State) (d : Nat) (f : Die → Die) : (s.setDie d f).prefetches = s.prefetches := rfl
@[simp] theorem State.setDie_icache (s : State) (d : Nat) (f : Die → Die) : (s.setDie d f).icache = s.icache := rfl
@[simp] theorem State.setDie_tcache (s : State) (d : Nat) (f : Die → Die) : (s.setDie d f).tcache = s.tcache := rfl
@[simp] theorem State.setDie_tinvPending (s : State) (d : Nat) (f : Die → Die) : (s.setDie d f).tinvPending = s.tinvPending := rfl
@[simp] theorem State.setDie_heldTrytes (s : State) (d : Nat) (f : Die → Die) : (s.setDie d f).heldTrytes = s.heldTrytes := rfl
@[simp] theorem State.setDie_heldBefore (s : State) (d : Nat) (f : Die → Die) : (s.setDie d f).heldBefore = s.heldBefore := rfl
@[simp] theorem State.setDie_locks (s : State) (d : Nat) (f : Die → Die) : (s.setDie d f).locks = s.locks := rfl
@[simp] theorem State.setDie_tickets (s : State) (d : Nat) (f : Die → Die) : (s.setDie d f).tickets = s.tickets := rfl
@[simp] theorem State.setDie_tokens (s : State) (d : Nat) (f : Die → Die) : (s.setDie d f).tokens = s.tokens := rfl
@[simp] theorem State.setDie_collectives (s : State) (d : Nat) (f : Die → Die) : (s.setDie d f).collectives = s.collectives := rfl
@[simp] theorem State.setDie_remotes (s : State) (d : Nat) (f : Die → Die) : (s.setDie d f).remotes = s.remotes := rfl
@[simp] theorem State.setDie_collSends (s : State) (d : Nat) (f : Die → Die) : (s.setDie d f).collSends = s.collSends := rfl
@[simp] theorem State.setDie_appends (s : State) (d : Nat) (f : Die → Die) : (s.setDie d f).appends = s.appends := rfl
@[simp] theorem State.setDie_wakes (s : State) (d : Nat) (f : Die → Die) : (s.setDie d f).wakes = s.wakes := rfl
@[simp] theorem State.setDie_engineCauses (s : State) (d : Nat) (f : Die → Die) : (s.setDie d f).engineCauses = s.engineCauses := rfl
@[simp] theorem State.setDie_forwards (s : State) (d : Nat) (f : Die → Die) : (s.setDie d f).forwards = s.forwards := rfl
@[simp] theorem State.setDie_transit (s : State) (d : Nat) (f : Die → Die) : (s.setDie d f).transit = s.transit := rfl
@[simp] theorem State.setDie_tags (s : State) (d : Nat) (f : Die → Die) : (s.setDie d f).tags = s.tags := rfl
@[simp] theorem State.setDie_returns (s : State) (d : Nat) (f : Die → Die) : (s.setDie d f).returns = s.returns := rfl
@[simp] theorem State.setDie_beam (s : State) (d : Nat) (f : Die → Die) : (s.setDie d f).beam = s.beam := rfl
@[simp] theorem State.setDie_window (s : State) (d : Nat) (f : Die → Die) : (s.setDie d f).window = s.window := rfl
@[simp] theorem State.setDie_ports (s : State) (d : Nat) (f : Die → Die) : (s.setDie d f).ports = s.ports := rfl
@[simp] theorem State.setDie_ready (s : State) (d : Nat) (f : Die → Die) : (s.setDie d f).ready = s.ready := rfl
@[simp] theorem State.setDie_linksOut (s : State) (d : Nat) (f : Die → Die) : (s.setDie d f).linksOut = s.linksOut := rfl
@[simp] theorem State.setDie_msix (s : State) (d : Nat) (f : Die → Die) : (s.setDie d f).msix = s.msix := rfl
@[simp] theorem State.setDie_staging (s : State) (d : Nat) (f : Die → Die) : (s.setDie d f).staging = s.staging := rfl
@[simp] theorem State.setDie_queues (s : State) (d : Nat) (f : Die → Die) : (s.setDie d f).queues = s.queues := rfl
@[simp] theorem State.setDie_orphans (s : State) (d : Nat) (f : Die → Die) : (s.setDie d f).orphans = s.orphans := rfl
@[simp] theorem State.setDie_image (s : State) (d : Nat) (f : Die → Die) : (s.setDie d f).image = s.image := rfl
@[simp] theorem State.setDie_hostReads (s : State) (d : Nat) (f : Die → Die) : (s.setDie d f).hostReads = s.hostReads := rfl
@[simp] theorem State.setDie_peerReads (s : State) (d : Nat) (f : Die → Die) : (s.setDie d f).peerReads = s.peerReads := rfl
@[simp] theorem State.setDie_peerWrites (s : State) (d : Nat) (f : Die → Die) : (s.setDie d f).peerWrites = s.peerWrites := rfl
@[simp] theorem State.setDie_doorbells (s : State) (d : Nat) (f : Die → Die) : (s.setDie d f).doorbells = s.doorbells := rfl
@[simp] theorem State.setDie_flits (s : State) (d : Nat) (f : Die → Die) : (s.setDie d f).flits = s.flits := rfl
@[simp] theorem State.setDie_fwPending (s : State) (d : Nat) (f : Die → Die) : (s.setDie d f).fwPending = s.fwPending := rfl
@[simp] theorem State.setDie_quote (s : State) (d : Nat) (f : Die → Die) : (s.setDie d f).quote = s.quote := rfl
@[simp] theorem State.setDie_started (s : State) (d : Nat) (f : Die → Die) : (s.setDie d f).started = s.started := rfl
@[simp] theorem State.setDie_agenda (s : State) (d : Nat) (f : Die → Die) : (s.setDie d f).agenda = s.agenda := rfl

/-! ### setReady -/

@[simp] theorem State.setReady_tick (s : State) (w i : Nat) (t : Trit) : (s.setReady w i t).tick = s.tick := rfl
@[simp] theorem State.setReady_turn (s : State) (w i : Nat) (t : Trit) : (s.setReady w i t).turn = s.turn := rfl
@[simp] theorem State.setReady_reftime (s : State) (w i : Nat) (t : Trit) : (s.setReady w i t).reftime = s.reftime := rfl
@[simp] theorem State.setReady_fine (s : State) (w i : Nat) (t : Trit) : (s.setReady w i t).fine = s.fine := rfl
@[simp] theorem State.setReady_evals (s : State) (w i : Nat) (t : Trit) : (s.setReady w i t).evals = s.evals := rfl
@[simp] theorem State.setReady_stalled (s : State) (w i : Nat) (t : Trit) : (s.setReady w i t).stalled = s.stalled := rfl
@[simp] theorem State.setReady_threads (s : State) (w i : Nat) (t : Trit) : (s.setReady w i t).threads = s.threads := rfl
@[simp] theorem State.setReady_gangs (s : State) (w i : Nat) (t : Trit) : (s.setReady w i t).gangs = s.gangs := rfl
@[simp] theorem State.setReady_aside (s : State) (w i : Nat) (t : Trit) : (s.setReady w i t).aside = s.aside := rfl
@[simp] theorem State.setReady_forced (s : State) (w i : Nat) (t : Trit) : (s.setReady w i t).forced = s.forced := rfl
@[simp] theorem State.setReady_teams (s : State) (w i : Nat) (t : Trit) : (s.setReady w i t).teams = s.teams := rfl
@[simp] theorem State.setReady_bolts (s : State) (w i : Nat) (t : Trit) : (s.setReady w i t).bolts = s.bolts := rfl
@[simp] theorem State.setReady_nextBolt (s : State) (w i : Nat) (t : Trit) : (s.setReady w i t).nextBolt = s.nextBolt := rfl
@[simp] theorem State.setReady_plans (s : State) (w i : Nat) (t : Trit) : (s.setReady w i t).plans = s.plans := rfl
@[simp] theorem State.setReady_hbm (s : State) (w i : Nat) (t : Trit) : (s.setReady w i t).hbm = s.hbm := rfl
@[simp] theorem State.setReady_hbmPoison (s : State) (w i : Nat) (t : Trit) : (s.setReady w i t).hbmPoison = s.hbmPoison := rfl
@[simp] theorem State.setReady_withdrawn (s : State) (w i : Nat) (t : Trit) : (s.setReady w i t).withdrawn = s.withdrawn := rfl
@[simp] theorem State.setReady_l1 (s : State) (w i : Nat) (t : Trit) : (s.setReady w i t).l1 = s.l1 := rfl
@[simp] theorem State.setReady_slices (s : State) (w i : Nat) (t : Trit) : (s.setReady w i t).slices = s.slices := rfl
@[simp] theorem State.setReady_prefetches (s : State) (w i : Nat) (t : Trit) : (s.setReady w i t).prefetches = s.prefetches := rfl
@[simp] theorem State.setReady_icache (s : State) (w i : Nat) (t : Trit) : (s.setReady w i t).icache = s.icache := rfl
@[simp] theorem State.setReady_tcache (s : State) (w i : Nat) (t : Trit) : (s.setReady w i t).tcache = s.tcache := rfl
@[simp] theorem State.setReady_tinvPending (s : State) (w i : Nat) (t : Trit) : (s.setReady w i t).tinvPending = s.tinvPending := rfl
@[simp] theorem State.setReady_heldTrytes (s : State) (w i : Nat) (t : Trit) : (s.setReady w i t).heldTrytes = s.heldTrytes := rfl
@[simp] theorem State.setReady_heldBefore (s : State) (w i : Nat) (t : Trit) : (s.setReady w i t).heldBefore = s.heldBefore := rfl
@[simp] theorem State.setReady_locks (s : State) (w i : Nat) (t : Trit) : (s.setReady w i t).locks = s.locks := rfl
@[simp] theorem State.setReady_tickets (s : State) (w i : Nat) (t : Trit) : (s.setReady w i t).tickets = s.tickets := rfl
@[simp] theorem State.setReady_tokens (s : State) (w i : Nat) (t : Trit) : (s.setReady w i t).tokens = s.tokens := rfl
@[simp] theorem State.setReady_collectives (s : State) (w i : Nat) (t : Trit) : (s.setReady w i t).collectives = s.collectives := rfl
@[simp] theorem State.setReady_remotes (s : State) (w i : Nat) (t : Trit) : (s.setReady w i t).remotes = s.remotes := rfl
@[simp] theorem State.setReady_collSends (s : State) (w i : Nat) (t : Trit) : (s.setReady w i t).collSends = s.collSends := rfl
@[simp] theorem State.setReady_appends (s : State) (w i : Nat) (t : Trit) : (s.setReady w i t).appends = s.appends := rfl
@[simp] theorem State.setReady_wakes (s : State) (w i : Nat) (t : Trit) : (s.setReady w i t).wakes = s.wakes := rfl
@[simp] theorem State.setReady_engineCauses (s : State) (w i : Nat) (t : Trit) : (s.setReady w i t).engineCauses = s.engineCauses := rfl
@[simp] theorem State.setReady_forwards (s : State) (w i : Nat) (t : Trit) : (s.setReady w i t).forwards = s.forwards := rfl
@[simp] theorem State.setReady_transit (s : State) (w i : Nat) (t : Trit) : (s.setReady w i t).transit = s.transit := rfl
@[simp] theorem State.setReady_tags (s : State) (w i : Nat) (t : Trit) : (s.setReady w i t).tags = s.tags := rfl
@[simp] theorem State.setReady_returns (s : State) (w i : Nat) (t : Trit) : (s.setReady w i t).returns = s.returns := rfl
@[simp] theorem State.setReady_beam (s : State) (w i : Nat) (t : Trit) : (s.setReady w i t).beam = s.beam := rfl
@[simp] theorem State.setReady_dies (s : State) (w i : Nat) (t : Trit) : (s.setReady w i t).dies = s.dies := rfl
@[simp] theorem State.setReady_window (s : State) (w i : Nat) (t : Trit) : (s.setReady w i t).window = s.window := rfl
@[simp] theorem State.setReady_ports (s : State) (w i : Nat) (t : Trit) : (s.setReady w i t).ports = s.ports := rfl
@[simp] theorem State.setReady_linksOut (s : State) (w i : Nat) (t : Trit) : (s.setReady w i t).linksOut = s.linksOut := rfl
@[simp] theorem State.setReady_msix (s : State) (w i : Nat) (t : Trit) : (s.setReady w i t).msix = s.msix := rfl
@[simp] theorem State.setReady_staging (s : State) (w i : Nat) (t : Trit) : (s.setReady w i t).staging = s.staging := rfl
@[simp] theorem State.setReady_queues (s : State) (w i : Nat) (t : Trit) : (s.setReady w i t).queues = s.queues := rfl
@[simp] theorem State.setReady_orphans (s : State) (w i : Nat) (t : Trit) : (s.setReady w i t).orphans = s.orphans := rfl
@[simp] theorem State.setReady_image (s : State) (w i : Nat) (t : Trit) : (s.setReady w i t).image = s.image := rfl
@[simp] theorem State.setReady_hostReads (s : State) (w i : Nat) (t : Trit) : (s.setReady w i t).hostReads = s.hostReads := rfl
@[simp] theorem State.setReady_peerReads (s : State) (w i : Nat) (t : Trit) : (s.setReady w i t).peerReads = s.peerReads := rfl
@[simp] theorem State.setReady_peerWrites (s : State) (w i : Nat) (t : Trit) : (s.setReady w i t).peerWrites = s.peerWrites := rfl
@[simp] theorem State.setReady_doorbells (s : State) (w i : Nat) (t : Trit) : (s.setReady w i t).doorbells = s.doorbells := rfl
@[simp] theorem State.setReady_flits (s : State) (w i : Nat) (t : Trit) : (s.setReady w i t).flits = s.flits := rfl
@[simp] theorem State.setReady_fwPending (s : State) (w i : Nat) (t : Trit) : (s.setReady w i t).fwPending = s.fwPending := rfl
@[simp] theorem State.setReady_quote (s : State) (w i : Nat) (t : Trit) : (s.setReady w i t).quote = s.quote := rfl
@[simp] theorem State.setReady_started (s : State) (w i : Nat) (t : Trit) : (s.setReady w i t).started = s.started := rfl
@[simp] theorem State.setReady_agenda (s : State) (w i : Nat) (t : Trit) : (s.setReady w i t).agenda = s.agenda := rfl

/-! ### mapPort -/

@[simp] theorem State.mapPort_tick (s : State) (port : Nat) (f : Port → Port) : (s.mapPort port f).tick = s.tick := rfl
@[simp] theorem State.mapPort_turn (s : State) (port : Nat) (f : Port → Port) : (s.mapPort port f).turn = s.turn := rfl
@[simp] theorem State.mapPort_reftime (s : State) (port : Nat) (f : Port → Port) : (s.mapPort port f).reftime = s.reftime := rfl
@[simp] theorem State.mapPort_fine (s : State) (port : Nat) (f : Port → Port) : (s.mapPort port f).fine = s.fine := rfl
@[simp] theorem State.mapPort_evals (s : State) (port : Nat) (f : Port → Port) : (s.mapPort port f).evals = s.evals := rfl
@[simp] theorem State.mapPort_stalled (s : State) (port : Nat) (f : Port → Port) : (s.mapPort port f).stalled = s.stalled := rfl
@[simp] theorem State.mapPort_threads (s : State) (port : Nat) (f : Port → Port) : (s.mapPort port f).threads = s.threads := rfl
@[simp] theorem State.mapPort_gangs (s : State) (port : Nat) (f : Port → Port) : (s.mapPort port f).gangs = s.gangs := rfl
@[simp] theorem State.mapPort_aside (s : State) (port : Nat) (f : Port → Port) : (s.mapPort port f).aside = s.aside := rfl
@[simp] theorem State.mapPort_forced (s : State) (port : Nat) (f : Port → Port) : (s.mapPort port f).forced = s.forced := rfl
@[simp] theorem State.mapPort_teams (s : State) (port : Nat) (f : Port → Port) : (s.mapPort port f).teams = s.teams := rfl
@[simp] theorem State.mapPort_bolts (s : State) (port : Nat) (f : Port → Port) : (s.mapPort port f).bolts = s.bolts := rfl
@[simp] theorem State.mapPort_nextBolt (s : State) (port : Nat) (f : Port → Port) : (s.mapPort port f).nextBolt = s.nextBolt := rfl
@[simp] theorem State.mapPort_plans (s : State) (port : Nat) (f : Port → Port) : (s.mapPort port f).plans = s.plans := rfl
@[simp] theorem State.mapPort_hbm (s : State) (port : Nat) (f : Port → Port) : (s.mapPort port f).hbm = s.hbm := rfl
@[simp] theorem State.mapPort_hbmPoison (s : State) (port : Nat) (f : Port → Port) : (s.mapPort port f).hbmPoison = s.hbmPoison := rfl
@[simp] theorem State.mapPort_withdrawn (s : State) (port : Nat) (f : Port → Port) : (s.mapPort port f).withdrawn = s.withdrawn := rfl
@[simp] theorem State.mapPort_l1 (s : State) (port : Nat) (f : Port → Port) : (s.mapPort port f).l1 = s.l1 := rfl
@[simp] theorem State.mapPort_slices (s : State) (port : Nat) (f : Port → Port) : (s.mapPort port f).slices = s.slices := rfl
@[simp] theorem State.mapPort_prefetches (s : State) (port : Nat) (f : Port → Port) : (s.mapPort port f).prefetches = s.prefetches := rfl
@[simp] theorem State.mapPort_icache (s : State) (port : Nat) (f : Port → Port) : (s.mapPort port f).icache = s.icache := rfl
@[simp] theorem State.mapPort_tcache (s : State) (port : Nat) (f : Port → Port) : (s.mapPort port f).tcache = s.tcache := rfl
@[simp] theorem State.mapPort_tinvPending (s : State) (port : Nat) (f : Port → Port) : (s.mapPort port f).tinvPending = s.tinvPending := rfl
@[simp] theorem State.mapPort_heldTrytes (s : State) (port : Nat) (f : Port → Port) : (s.mapPort port f).heldTrytes = s.heldTrytes := rfl
@[simp] theorem State.mapPort_heldBefore (s : State) (port : Nat) (f : Port → Port) : (s.mapPort port f).heldBefore = s.heldBefore := rfl
@[simp] theorem State.mapPort_locks (s : State) (port : Nat) (f : Port → Port) : (s.mapPort port f).locks = s.locks := rfl
@[simp] theorem State.mapPort_tickets (s : State) (port : Nat) (f : Port → Port) : (s.mapPort port f).tickets = s.tickets := rfl
@[simp] theorem State.mapPort_tokens (s : State) (port : Nat) (f : Port → Port) : (s.mapPort port f).tokens = s.tokens := rfl
@[simp] theorem State.mapPort_collectives (s : State) (port : Nat) (f : Port → Port) : (s.mapPort port f).collectives = s.collectives := rfl
@[simp] theorem State.mapPort_remotes (s : State) (port : Nat) (f : Port → Port) : (s.mapPort port f).remotes = s.remotes := rfl
@[simp] theorem State.mapPort_collSends (s : State) (port : Nat) (f : Port → Port) : (s.mapPort port f).collSends = s.collSends := rfl
@[simp] theorem State.mapPort_appends (s : State) (port : Nat) (f : Port → Port) : (s.mapPort port f).appends = s.appends := rfl
@[simp] theorem State.mapPort_wakes (s : State) (port : Nat) (f : Port → Port) : (s.mapPort port f).wakes = s.wakes := rfl
@[simp] theorem State.mapPort_engineCauses (s : State) (port : Nat) (f : Port → Port) : (s.mapPort port f).engineCauses = s.engineCauses := rfl
@[simp] theorem State.mapPort_forwards (s : State) (port : Nat) (f : Port → Port) : (s.mapPort port f).forwards = s.forwards := rfl
@[simp] theorem State.mapPort_transit (s : State) (port : Nat) (f : Port → Port) : (s.mapPort port f).transit = s.transit := rfl
@[simp] theorem State.mapPort_tags (s : State) (port : Nat) (f : Port → Port) : (s.mapPort port f).tags = s.tags := rfl
@[simp] theorem State.mapPort_returns (s : State) (port : Nat) (f : Port → Port) : (s.mapPort port f).returns = s.returns := rfl
@[simp] theorem State.mapPort_beam (s : State) (port : Nat) (f : Port → Port) : (s.mapPort port f).beam = s.beam := rfl
@[simp] theorem State.mapPort_dies (s : State) (port : Nat) (f : Port → Port) : (s.mapPort port f).dies = s.dies := rfl
@[simp] theorem State.mapPort_window (s : State) (port : Nat) (f : Port → Port) : (s.mapPort port f).window = s.window := rfl
@[simp] theorem State.mapPort_ready (s : State) (port : Nat) (f : Port → Port) : (s.mapPort port f).ready = s.ready := rfl
@[simp] theorem State.mapPort_linksOut (s : State) (port : Nat) (f : Port → Port) : (s.mapPort port f).linksOut = s.linksOut := rfl
@[simp] theorem State.mapPort_msix (s : State) (port : Nat) (f : Port → Port) : (s.mapPort port f).msix = s.msix := rfl
@[simp] theorem State.mapPort_staging (s : State) (port : Nat) (f : Port → Port) : (s.mapPort port f).staging = s.staging := rfl
@[simp] theorem State.mapPort_queues (s : State) (port : Nat) (f : Port → Port) : (s.mapPort port f).queues = s.queues := rfl
@[simp] theorem State.mapPort_orphans (s : State) (port : Nat) (f : Port → Port) : (s.mapPort port f).orphans = s.orphans := rfl
@[simp] theorem State.mapPort_image (s : State) (port : Nat) (f : Port → Port) : (s.mapPort port f).image = s.image := rfl
@[simp] theorem State.mapPort_hostReads (s : State) (port : Nat) (f : Port → Port) : (s.mapPort port f).hostReads = s.hostReads := rfl
@[simp] theorem State.mapPort_peerReads (s : State) (port : Nat) (f : Port → Port) : (s.mapPort port f).peerReads = s.peerReads := rfl
@[simp] theorem State.mapPort_peerWrites (s : State) (port : Nat) (f : Port → Port) : (s.mapPort port f).peerWrites = s.peerWrites := rfl
@[simp] theorem State.mapPort_doorbells (s : State) (port : Nat) (f : Port → Port) : (s.mapPort port f).doorbells = s.doorbells := rfl
@[simp] theorem State.mapPort_flits (s : State) (port : Nat) (f : Port → Port) : (s.mapPort port f).flits = s.flits := rfl
@[simp] theorem State.mapPort_fwPending (s : State) (port : Nat) (f : Port → Port) : (s.mapPort port f).fwPending = s.fwPending := rfl
@[simp] theorem State.mapPort_quote (s : State) (port : Nat) (f : Port → Port) : (s.mapPort port f).quote = s.quote := rfl
@[simp] theorem State.mapPort_started (s : State) (port : Nat) (f : Port → Port) : (s.mapPort port f).started = s.started := rfl
@[simp] theorem State.mapPort_agenda (s : State) (port : Nat) (f : Port → Port) : (s.mapPort port f).agenda = s.agenda := rfl

/-! ### hostGot -/

@[simp] theorem State.hostGot_tick (s : State) (l : List (BitVec 8)) : (s.hostGot l).tick = s.tick := rfl
@[simp] theorem State.hostGot_turn (s : State) (l : List (BitVec 8)) : (s.hostGot l).turn = s.turn := rfl
@[simp] theorem State.hostGot_reftime (s : State) (l : List (BitVec 8)) : (s.hostGot l).reftime = s.reftime := rfl
@[simp] theorem State.hostGot_fine (s : State) (l : List (BitVec 8)) : (s.hostGot l).fine = s.fine := rfl
@[simp] theorem State.hostGot_evals (s : State) (l : List (BitVec 8)) : (s.hostGot l).evals = s.evals := rfl
@[simp] theorem State.hostGot_stalled (s : State) (l : List (BitVec 8)) : (s.hostGot l).stalled = s.stalled := rfl
@[simp] theorem State.hostGot_threads (s : State) (l : List (BitVec 8)) : (s.hostGot l).threads = s.threads := rfl
@[simp] theorem State.hostGot_gangs (s : State) (l : List (BitVec 8)) : (s.hostGot l).gangs = s.gangs := rfl
@[simp] theorem State.hostGot_aside (s : State) (l : List (BitVec 8)) : (s.hostGot l).aside = s.aside := rfl
@[simp] theorem State.hostGot_forced (s : State) (l : List (BitVec 8)) : (s.hostGot l).forced = s.forced := rfl
@[simp] theorem State.hostGot_teams (s : State) (l : List (BitVec 8)) : (s.hostGot l).teams = s.teams := rfl
@[simp] theorem State.hostGot_bolts (s : State) (l : List (BitVec 8)) : (s.hostGot l).bolts = s.bolts := rfl
@[simp] theorem State.hostGot_nextBolt (s : State) (l : List (BitVec 8)) : (s.hostGot l).nextBolt = s.nextBolt := rfl
@[simp] theorem State.hostGot_plans (s : State) (l : List (BitVec 8)) : (s.hostGot l).plans = s.plans := rfl
@[simp] theorem State.hostGot_hbm (s : State) (l : List (BitVec 8)) : (s.hostGot l).hbm = s.hbm := rfl
@[simp] theorem State.hostGot_hbmPoison (s : State) (l : List (BitVec 8)) : (s.hostGot l).hbmPoison = s.hbmPoison := rfl
@[simp] theorem State.hostGot_withdrawn (s : State) (l : List (BitVec 8)) : (s.hostGot l).withdrawn = s.withdrawn := rfl
@[simp] theorem State.hostGot_l1 (s : State) (l : List (BitVec 8)) : (s.hostGot l).l1 = s.l1 := rfl
@[simp] theorem State.hostGot_slices (s : State) (l : List (BitVec 8)) : (s.hostGot l).slices = s.slices := rfl
@[simp] theorem State.hostGot_prefetches (s : State) (l : List (BitVec 8)) : (s.hostGot l).prefetches = s.prefetches := rfl
@[simp] theorem State.hostGot_icache (s : State) (l : List (BitVec 8)) : (s.hostGot l).icache = s.icache := rfl
@[simp] theorem State.hostGot_tcache (s : State) (l : List (BitVec 8)) : (s.hostGot l).tcache = s.tcache := rfl
@[simp] theorem State.hostGot_tinvPending (s : State) (l : List (BitVec 8)) : (s.hostGot l).tinvPending = s.tinvPending := rfl
@[simp] theorem State.hostGot_heldTrytes (s : State) (l : List (BitVec 8)) : (s.hostGot l).heldTrytes = s.heldTrytes := rfl
@[simp] theorem State.hostGot_heldBefore (s : State) (l : List (BitVec 8)) : (s.hostGot l).heldBefore = s.heldBefore := rfl
@[simp] theorem State.hostGot_locks (s : State) (l : List (BitVec 8)) : (s.hostGot l).locks = s.locks := rfl
@[simp] theorem State.hostGot_tickets (s : State) (l : List (BitVec 8)) : (s.hostGot l).tickets = s.tickets := rfl
@[simp] theorem State.hostGot_tokens (s : State) (l : List (BitVec 8)) : (s.hostGot l).tokens = s.tokens := rfl
@[simp] theorem State.hostGot_collectives (s : State) (l : List (BitVec 8)) : (s.hostGot l).collectives = s.collectives := rfl
@[simp] theorem State.hostGot_remotes (s : State) (l : List (BitVec 8)) : (s.hostGot l).remotes = s.remotes := rfl
@[simp] theorem State.hostGot_collSends (s : State) (l : List (BitVec 8)) : (s.hostGot l).collSends = s.collSends := rfl
@[simp] theorem State.hostGot_appends (s : State) (l : List (BitVec 8)) : (s.hostGot l).appends = s.appends := rfl
@[simp] theorem State.hostGot_wakes (s : State) (l : List (BitVec 8)) : (s.hostGot l).wakes = s.wakes := rfl
@[simp] theorem State.hostGot_engineCauses (s : State) (l : List (BitVec 8)) : (s.hostGot l).engineCauses = s.engineCauses := rfl
@[simp] theorem State.hostGot_forwards (s : State) (l : List (BitVec 8)) : (s.hostGot l).forwards = s.forwards := rfl
@[simp] theorem State.hostGot_transit (s : State) (l : List (BitVec 8)) : (s.hostGot l).transit = s.transit := rfl
@[simp] theorem State.hostGot_tags (s : State) (l : List (BitVec 8)) : (s.hostGot l).tags = s.tags := rfl
@[simp] theorem State.hostGot_returns (s : State) (l : List (BitVec 8)) : (s.hostGot l).returns = s.returns := rfl
@[simp] theorem State.hostGot_beam (s : State) (l : List (BitVec 8)) : (s.hostGot l).beam = s.beam := rfl
@[simp] theorem State.hostGot_dies (s : State) (l : List (BitVec 8)) : (s.hostGot l).dies = s.dies := rfl
@[simp] theorem State.hostGot_window (s : State) (l : List (BitVec 8)) : (s.hostGot l).window = s.window := rfl
@[simp] theorem State.hostGot_ports (s : State) (l : List (BitVec 8)) : (s.hostGot l).ports = s.ports := rfl
@[simp] theorem State.hostGot_ready (s : State) (l : List (BitVec 8)) : (s.hostGot l).ready = s.ready := rfl
@[simp] theorem State.hostGot_linksOut (s : State) (l : List (BitVec 8)) : (s.hostGot l).linksOut = s.linksOut := rfl
@[simp] theorem State.hostGot_msix (s : State) (l : List (BitVec 8)) : (s.hostGot l).msix = s.msix := rfl
@[simp] theorem State.hostGot_staging (s : State) (l : List (BitVec 8)) : (s.hostGot l).staging = s.staging := rfl
@[simp] theorem State.hostGot_queues (s : State) (l : List (BitVec 8)) : (s.hostGot l).queues = s.queues := rfl
@[simp] theorem State.hostGot_orphans (s : State) (l : List (BitVec 8)) : (s.hostGot l).orphans = s.orphans := rfl
@[simp] theorem State.hostGot_image (s : State) (l : List (BitVec 8)) : (s.hostGot l).image = s.image := rfl
@[simp] theorem State.hostGot_peerReads (s : State) (l : List (BitVec 8)) : (s.hostGot l).peerReads = s.peerReads := rfl
@[simp] theorem State.hostGot_peerWrites (s : State) (l : List (BitVec 8)) : (s.hostGot l).peerWrites = s.peerWrites := rfl
@[simp] theorem State.hostGot_doorbells (s : State) (l : List (BitVec 8)) : (s.hostGot l).doorbells = s.doorbells := rfl
@[simp] theorem State.hostGot_flits (s : State) (l : List (BitVec 8)) : (s.hostGot l).flits = s.flits := rfl
@[simp] theorem State.hostGot_fwPending (s : State) (l : List (BitVec 8)) : (s.hostGot l).fwPending = s.fwPending := rfl
@[simp] theorem State.hostGot_quote (s : State) (l : List (BitVec 8)) : (s.hostGot l).quote = s.quote := rfl
@[simp] theorem State.hostGot_started (s : State) (l : List (BitVec 8)) : (s.hostGot l).started = s.started := rfl
@[simp] theorem State.hostGot_agenda (s : State) (l : List (BitVec 8)) : (s.hostGot l).agenda = s.agenda := rfl

/-! ### addStale -/

@[simp] theorem State.addStale_tick (s : State) (core : Nat) (n : Int) : (s.addStale core n).tick = s.tick := rfl
@[simp] theorem State.addStale_turn (s : State) (core : Nat) (n : Int) : (s.addStale core n).turn = s.turn := rfl
@[simp] theorem State.addStale_reftime (s : State) (core : Nat) (n : Int) : (s.addStale core n).reftime = s.reftime := rfl
@[simp] theorem State.addStale_fine (s : State) (core : Nat) (n : Int) : (s.addStale core n).fine = s.fine := rfl
@[simp] theorem State.addStale_evals (s : State) (core : Nat) (n : Int) : (s.addStale core n).evals = s.evals := rfl
@[simp] theorem State.addStale_stalled (s : State) (core : Nat) (n : Int) : (s.addStale core n).stalled = s.stalled := rfl
@[simp] theorem State.addStale_threads (s : State) (core : Nat) (n : Int) : (s.addStale core n).threads = s.threads := rfl
@[simp] theorem State.addStale_gangs (s : State) (core : Nat) (n : Int) : (s.addStale core n).gangs = s.gangs := rfl
@[simp] theorem State.addStale_aside (s : State) (core : Nat) (n : Int) : (s.addStale core n).aside = s.aside := rfl
@[simp] theorem State.addStale_forced (s : State) (core : Nat) (n : Int) : (s.addStale core n).forced = s.forced := rfl
@[simp] theorem State.addStale_teams (s : State) (core : Nat) (n : Int) : (s.addStale core n).teams = s.teams := rfl
@[simp] theorem State.addStale_bolts (s : State) (core : Nat) (n : Int) : (s.addStale core n).bolts = s.bolts := rfl
@[simp] theorem State.addStale_nextBolt (s : State) (core : Nat) (n : Int) : (s.addStale core n).nextBolt = s.nextBolt := rfl
@[simp] theorem State.addStale_plans (s : State) (core : Nat) (n : Int) : (s.addStale core n).plans = s.plans := rfl
@[simp] theorem State.addStale_hbm (s : State) (core : Nat) (n : Int) : (s.addStale core n).hbm = s.hbm := rfl
@[simp] theorem State.addStale_hbmPoison (s : State) (core : Nat) (n : Int) : (s.addStale core n).hbmPoison = s.hbmPoison := rfl
@[simp] theorem State.addStale_withdrawn (s : State) (core : Nat) (n : Int) : (s.addStale core n).withdrawn = s.withdrawn := rfl
@[simp] theorem State.addStale_l1 (s : State) (core : Nat) (n : Int) : (s.addStale core n).l1 = s.l1 := rfl
@[simp] theorem State.addStale_slices (s : State) (core : Nat) (n : Int) : (s.addStale core n).slices = s.slices := rfl
@[simp] theorem State.addStale_prefetches (s : State) (core : Nat) (n : Int) : (s.addStale core n).prefetches = s.prefetches := rfl
@[simp] theorem State.addStale_icache (s : State) (core : Nat) (n : Int) : (s.addStale core n).icache = s.icache := rfl
@[simp] theorem State.addStale_tcache (s : State) (core : Nat) (n : Int) : (s.addStale core n).tcache = s.tcache := rfl
@[simp] theorem State.addStale_tinvPending (s : State) (core : Nat) (n : Int) : (s.addStale core n).tinvPending = s.tinvPending := rfl
@[simp] theorem State.addStale_heldTrytes (s : State) (core : Nat) (n : Int) : (s.addStale core n).heldTrytes = s.heldTrytes := rfl
@[simp] theorem State.addStale_heldBefore (s : State) (core : Nat) (n : Int) : (s.addStale core n).heldBefore = s.heldBefore := rfl
@[simp] theorem State.addStale_locks (s : State) (core : Nat) (n : Int) : (s.addStale core n).locks = s.locks := rfl
@[simp] theorem State.addStale_tickets (s : State) (core : Nat) (n : Int) : (s.addStale core n).tickets = s.tickets := rfl
@[simp] theorem State.addStale_tokens (s : State) (core : Nat) (n : Int) : (s.addStale core n).tokens = s.tokens := rfl
@[simp] theorem State.addStale_collectives (s : State) (core : Nat) (n : Int) : (s.addStale core n).collectives = s.collectives := rfl
@[simp] theorem State.addStale_remotes (s : State) (core : Nat) (n : Int) : (s.addStale core n).remotes = s.remotes := rfl
@[simp] theorem State.addStale_collSends (s : State) (core : Nat) (n : Int) : (s.addStale core n).collSends = s.collSends := rfl
@[simp] theorem State.addStale_appends (s : State) (core : Nat) (n : Int) : (s.addStale core n).appends = s.appends := rfl
@[simp] theorem State.addStale_wakes (s : State) (core : Nat) (n : Int) : (s.addStale core n).wakes = s.wakes := rfl
@[simp] theorem State.addStale_engineCauses (s : State) (core : Nat) (n : Int) : (s.addStale core n).engineCauses = s.engineCauses := rfl
@[simp] theorem State.addStale_forwards (s : State) (core : Nat) (n : Int) : (s.addStale core n).forwards = s.forwards := rfl
@[simp] theorem State.addStale_transit (s : State) (core : Nat) (n : Int) : (s.addStale core n).transit = s.transit := rfl
@[simp] theorem State.addStale_tags (s : State) (core : Nat) (n : Int) : (s.addStale core n).tags = s.tags := rfl
@[simp] theorem State.addStale_returns (s : State) (core : Nat) (n : Int) : (s.addStale core n).returns = s.returns := rfl
@[simp] theorem State.addStale_beam (s : State) (core : Nat) (n : Int) : (s.addStale core n).beam = s.beam := rfl
@[simp] theorem State.addStale_window (s : State) (core : Nat) (n : Int) : (s.addStale core n).window = s.window := rfl
@[simp] theorem State.addStale_ports (s : State) (core : Nat) (n : Int) : (s.addStale core n).ports = s.ports := rfl
@[simp] theorem State.addStale_ready (s : State) (core : Nat) (n : Int) : (s.addStale core n).ready = s.ready := rfl
@[simp] theorem State.addStale_linksOut (s : State) (core : Nat) (n : Int) : (s.addStale core n).linksOut = s.linksOut := rfl
@[simp] theorem State.addStale_msix (s : State) (core : Nat) (n : Int) : (s.addStale core n).msix = s.msix := rfl
@[simp] theorem State.addStale_staging (s : State) (core : Nat) (n : Int) : (s.addStale core n).staging = s.staging := rfl
@[simp] theorem State.addStale_queues (s : State) (core : Nat) (n : Int) : (s.addStale core n).queues = s.queues := rfl
@[simp] theorem State.addStale_orphans (s : State) (core : Nat) (n : Int) : (s.addStale core n).orphans = s.orphans := rfl
@[simp] theorem State.addStale_image (s : State) (core : Nat) (n : Int) : (s.addStale core n).image = s.image := rfl
@[simp] theorem State.addStale_hostReads (s : State) (core : Nat) (n : Int) : (s.addStale core n).hostReads = s.hostReads := rfl
@[simp] theorem State.addStale_peerReads (s : State) (core : Nat) (n : Int) : (s.addStale core n).peerReads = s.peerReads := rfl
@[simp] theorem State.addStale_peerWrites (s : State) (core : Nat) (n : Int) : (s.addStale core n).peerWrites = s.peerWrites := rfl
@[simp] theorem State.addStale_doorbells (s : State) (core : Nat) (n : Int) : (s.addStale core n).doorbells = s.doorbells := rfl
@[simp] theorem State.addStale_flits (s : State) (core : Nat) (n : Int) : (s.addStale core n).flits = s.flits := rfl
@[simp] theorem State.addStale_fwPending (s : State) (core : Nat) (n : Int) : (s.addStale core n).fwPending = s.fwPending := rfl
@[simp] theorem State.addStale_quote (s : State) (core : Nat) (n : Int) : (s.addStale core n).quote = s.quote := rfl
@[simp] theorem State.addStale_started (s : State) (core : Nat) (n : Int) : (s.addStale core n).started = s.started := rfl
@[simp] theorem State.addStale_agenda (s : State) (core : Nat) (n : Int) : (s.addStale core n).agenda = s.agenda := rfl

/-! ### needs, visit and visitDie -/

@[simp] theorem State.needs_tick (s : State) (b : Bool) : (s.needs b).tick = s.tick := by
  unfold State.needs; split <;> rfl
@[simp] theorem State.visit_tick (s : State) (home : Nat) : (s.visit home).tick = s.tick := State.needs_tick _ _
@[simp] theorem State.visitDie_tick (s : State) (die : Nat) : (s.visitDie die).tick = s.tick := State.needs_tick _ _
@[simp] theorem State.needs_turn (s : State) (b : Bool) : (s.needs b).turn = s.turn := by
  unfold State.needs; split <;> rfl
@[simp] theorem State.visit_turn (s : State) (home : Nat) : (s.visit home).turn = s.turn := State.needs_turn _ _
@[simp] theorem State.visitDie_turn (s : State) (die : Nat) : (s.visitDie die).turn = s.turn := State.needs_turn _ _
@[simp] theorem State.needs_reftime (s : State) (b : Bool) : (s.needs b).reftime = s.reftime := by
  unfold State.needs; split <;> rfl
@[simp] theorem State.visit_reftime (s : State) (home : Nat) : (s.visit home).reftime = s.reftime := State.needs_reftime _ _
@[simp] theorem State.visitDie_reftime (s : State) (die : Nat) : (s.visitDie die).reftime = s.reftime := State.needs_reftime _ _
@[simp] theorem State.needs_fine (s : State) (b : Bool) : (s.needs b).fine = s.fine := by
  unfold State.needs; split <;> rfl
@[simp] theorem State.visit_fine (s : State) (home : Nat) : (s.visit home).fine = s.fine := State.needs_fine _ _
@[simp] theorem State.visitDie_fine (s : State) (die : Nat) : (s.visitDie die).fine = s.fine := State.needs_fine _ _
@[simp] theorem State.needs_evals (s : State) (b : Bool) : (s.needs b).evals = s.evals := by
  unfold State.needs; split <;> rfl
@[simp] theorem State.visit_evals (s : State) (home : Nat) : (s.visit home).evals = s.evals := State.needs_evals _ _
@[simp] theorem State.visitDie_evals (s : State) (die : Nat) : (s.visitDie die).evals = s.evals := State.needs_evals _ _
@[simp] theorem State.needs_threads (s : State) (b : Bool) : (s.needs b).threads = s.threads := by
  unfold State.needs; split <;> rfl
@[simp] theorem State.visit_threads (s : State) (home : Nat) : (s.visit home).threads = s.threads := State.needs_threads _ _
@[simp] theorem State.visitDie_threads (s : State) (die : Nat) : (s.visitDie die).threads = s.threads := State.needs_threads _ _
@[simp] theorem State.needs_gangs (s : State) (b : Bool) : (s.needs b).gangs = s.gangs := by
  unfold State.needs; split <;> rfl
@[simp] theorem State.visit_gangs (s : State) (home : Nat) : (s.visit home).gangs = s.gangs := State.needs_gangs _ _
@[simp] theorem State.visitDie_gangs (s : State) (die : Nat) : (s.visitDie die).gangs = s.gangs := State.needs_gangs _ _
@[simp] theorem State.needs_aside (s : State) (b : Bool) : (s.needs b).aside = s.aside := by
  unfold State.needs; split <;> rfl
@[simp] theorem State.visit_aside (s : State) (home : Nat) : (s.visit home).aside = s.aside := State.needs_aside _ _
@[simp] theorem State.visitDie_aside (s : State) (die : Nat) : (s.visitDie die).aside = s.aside := State.needs_aside _ _
@[simp] theorem State.needs_forced (s : State) (b : Bool) : (s.needs b).forced = s.forced := by
  unfold State.needs; split <;> rfl
@[simp] theorem State.visit_forced (s : State) (home : Nat) : (s.visit home).forced = s.forced := State.needs_forced _ _
@[simp] theorem State.visitDie_forced (s : State) (die : Nat) : (s.visitDie die).forced = s.forced := State.needs_forced _ _
@[simp] theorem State.needs_teams (s : State) (b : Bool) : (s.needs b).teams = s.teams := by
  unfold State.needs; split <;> rfl
@[simp] theorem State.visit_teams (s : State) (home : Nat) : (s.visit home).teams = s.teams := State.needs_teams _ _
@[simp] theorem State.visitDie_teams (s : State) (die : Nat) : (s.visitDie die).teams = s.teams := State.needs_teams _ _
@[simp] theorem State.needs_bolts (s : State) (b : Bool) : (s.needs b).bolts = s.bolts := by
  unfold State.needs; split <;> rfl
@[simp] theorem State.visit_bolts (s : State) (home : Nat) : (s.visit home).bolts = s.bolts := State.needs_bolts _ _
@[simp] theorem State.visitDie_bolts (s : State) (die : Nat) : (s.visitDie die).bolts = s.bolts := State.needs_bolts _ _
@[simp] theorem State.needs_nextBolt (s : State) (b : Bool) : (s.needs b).nextBolt = s.nextBolt := by
  unfold State.needs; split <;> rfl
@[simp] theorem State.visit_nextBolt (s : State) (home : Nat) : (s.visit home).nextBolt = s.nextBolt := State.needs_nextBolt _ _
@[simp] theorem State.visitDie_nextBolt (s : State) (die : Nat) : (s.visitDie die).nextBolt = s.nextBolt := State.needs_nextBolt _ _
@[simp] theorem State.needs_plans (s : State) (b : Bool) : (s.needs b).plans = s.plans := by
  unfold State.needs; split <;> rfl
@[simp] theorem State.visit_plans (s : State) (home : Nat) : (s.visit home).plans = s.plans := State.needs_plans _ _
@[simp] theorem State.visitDie_plans (s : State) (die : Nat) : (s.visitDie die).plans = s.plans := State.needs_plans _ _
@[simp] theorem State.needs_hbmPoison (s : State) (b : Bool) : (s.needs b).hbmPoison = s.hbmPoison := by
  unfold State.needs; split <;> rfl
@[simp] theorem State.visit_hbmPoison (s : State) (home : Nat) : (s.visit home).hbmPoison = s.hbmPoison := State.needs_hbmPoison _ _
@[simp] theorem State.visitDie_hbmPoison (s : State) (die : Nat) : (s.visitDie die).hbmPoison = s.hbmPoison := State.needs_hbmPoison _ _
@[simp] theorem State.needs_withdrawn (s : State) (b : Bool) : (s.needs b).withdrawn = s.withdrawn := by
  unfold State.needs; split <;> rfl
@[simp] theorem State.visit_withdrawn (s : State) (home : Nat) : (s.visit home).withdrawn = s.withdrawn := State.needs_withdrawn _ _
@[simp] theorem State.visitDie_withdrawn (s : State) (die : Nat) : (s.visitDie die).withdrawn = s.withdrawn := State.needs_withdrawn _ _
@[simp] theorem State.needs_l1 (s : State) (b : Bool) : (s.needs b).l1 = s.l1 := by
  unfold State.needs; split <;> rfl
@[simp] theorem State.visit_l1 (s : State) (home : Nat) : (s.visit home).l1 = s.l1 := State.needs_l1 _ _
@[simp] theorem State.visitDie_l1 (s : State) (die : Nat) : (s.visitDie die).l1 = s.l1 := State.needs_l1 _ _
@[simp] theorem State.needs_slices (s : State) (b : Bool) : (s.needs b).slices = s.slices := by
  unfold State.needs; split <;> rfl
@[simp] theorem State.visit_slices (s : State) (home : Nat) : (s.visit home).slices = s.slices := State.needs_slices _ _
@[simp] theorem State.visitDie_slices (s : State) (die : Nat) : (s.visitDie die).slices = s.slices := State.needs_slices _ _
@[simp] theorem State.needs_icache (s : State) (b : Bool) : (s.needs b).icache = s.icache := by
  unfold State.needs; split <;> rfl
@[simp] theorem State.visit_icache (s : State) (home : Nat) : (s.visit home).icache = s.icache := State.needs_icache _ _
@[simp] theorem State.visitDie_icache (s : State) (die : Nat) : (s.visitDie die).icache = s.icache := State.needs_icache _ _
@[simp] theorem State.needs_tcache (s : State) (b : Bool) : (s.needs b).tcache = s.tcache := by
  unfold State.needs; split <;> rfl
@[simp] theorem State.visit_tcache (s : State) (home : Nat) : (s.visit home).tcache = s.tcache := State.needs_tcache _ _
@[simp] theorem State.visitDie_tcache (s : State) (die : Nat) : (s.visitDie die).tcache = s.tcache := State.needs_tcache _ _
@[simp] theorem State.needs_tinvPending (s : State) (b : Bool) : (s.needs b).tinvPending = s.tinvPending := by
  unfold State.needs; split <;> rfl
@[simp] theorem State.visit_tinvPending (s : State) (home : Nat) : (s.visit home).tinvPending = s.tinvPending := State.needs_tinvPending _ _
@[simp] theorem State.visitDie_tinvPending (s : State) (die : Nat) : (s.visitDie die).tinvPending = s.tinvPending := State.needs_tinvPending _ _
@[simp] theorem State.needs_heldTrytes (s : State) (b : Bool) : (s.needs b).heldTrytes = s.heldTrytes := by
  unfold State.needs; split <;> rfl
@[simp] theorem State.visit_heldTrytes (s : State) (home : Nat) : (s.visit home).heldTrytes = s.heldTrytes := State.needs_heldTrytes _ _
@[simp] theorem State.visitDie_heldTrytes (s : State) (die : Nat) : (s.visitDie die).heldTrytes = s.heldTrytes := State.needs_heldTrytes _ _
@[simp] theorem State.needs_heldBefore (s : State) (b : Bool) : (s.needs b).heldBefore = s.heldBefore := by
  unfold State.needs; split <;> rfl
@[simp] theorem State.visit_heldBefore (s : State) (home : Nat) : (s.visit home).heldBefore = s.heldBefore := State.needs_heldBefore _ _
@[simp] theorem State.visitDie_heldBefore (s : State) (die : Nat) : (s.visitDie die).heldBefore = s.heldBefore := State.needs_heldBefore _ _
@[simp] theorem State.needs_locks (s : State) (b : Bool) : (s.needs b).locks = s.locks := by
  unfold State.needs; split <;> rfl
@[simp] theorem State.visit_locks (s : State) (home : Nat) : (s.visit home).locks = s.locks := State.needs_locks _ _
@[simp] theorem State.visitDie_locks (s : State) (die : Nat) : (s.visitDie die).locks = s.locks := State.needs_locks _ _
@[simp] theorem State.needs_tickets (s : State) (b : Bool) : (s.needs b).tickets = s.tickets := by
  unfold State.needs; split <;> rfl
@[simp] theorem State.visit_tickets (s : State) (home : Nat) : (s.visit home).tickets = s.tickets := State.needs_tickets _ _
@[simp] theorem State.visitDie_tickets (s : State) (die : Nat) : (s.visitDie die).tickets = s.tickets := State.needs_tickets _ _
@[simp] theorem State.needs_tokens (s : State) (b : Bool) : (s.needs b).tokens = s.tokens := by
  unfold State.needs; split <;> rfl
@[simp] theorem State.visit_tokens (s : State) (home : Nat) : (s.visit home).tokens = s.tokens := State.needs_tokens _ _
@[simp] theorem State.visitDie_tokens (s : State) (die : Nat) : (s.visitDie die).tokens = s.tokens := State.needs_tokens _ _
@[simp] theorem State.needs_collectives (s : State) (b : Bool) : (s.needs b).collectives = s.collectives := by
  unfold State.needs; split <;> rfl
@[simp] theorem State.visit_collectives (s : State) (home : Nat) : (s.visit home).collectives = s.collectives := State.needs_collectives _ _
@[simp] theorem State.visitDie_collectives (s : State) (die : Nat) : (s.visitDie die).collectives = s.collectives := State.needs_collectives _ _
@[simp] theorem State.needs_remotes (s : State) (b : Bool) : (s.needs b).remotes = s.remotes := by
  unfold State.needs; split <;> rfl
@[simp] theorem State.visit_remotes (s : State) (home : Nat) : (s.visit home).remotes = s.remotes := State.needs_remotes _ _
@[simp] theorem State.visitDie_remotes (s : State) (die : Nat) : (s.visitDie die).remotes = s.remotes := State.needs_remotes _ _
@[simp] theorem State.needs_collSends (s : State) (b : Bool) : (s.needs b).collSends = s.collSends := by
  unfold State.needs; split <;> rfl
@[simp] theorem State.visit_collSends (s : State) (home : Nat) : (s.visit home).collSends = s.collSends := State.needs_collSends _ _
@[simp] theorem State.visitDie_collSends (s : State) (die : Nat) : (s.visitDie die).collSends = s.collSends := State.needs_collSends _ _
@[simp] theorem State.needs_appends (s : State) (b : Bool) : (s.needs b).appends = s.appends := by
  unfold State.needs; split <;> rfl
@[simp] theorem State.visit_appends (s : State) (home : Nat) : (s.visit home).appends = s.appends := State.needs_appends _ _
@[simp] theorem State.visitDie_appends (s : State) (die : Nat) : (s.visitDie die).appends = s.appends := State.needs_appends _ _
@[simp] theorem State.needs_wakes (s : State) (b : Bool) : (s.needs b).wakes = s.wakes := by
  unfold State.needs; split <;> rfl
@[simp] theorem State.visit_wakes (s : State) (home : Nat) : (s.visit home).wakes = s.wakes := State.needs_wakes _ _
@[simp] theorem State.visitDie_wakes (s : State) (die : Nat) : (s.visitDie die).wakes = s.wakes := State.needs_wakes _ _
@[simp] theorem State.needs_engineCauses (s : State) (b : Bool) : (s.needs b).engineCauses = s.engineCauses := by
  unfold State.needs; split <;> rfl
@[simp] theorem State.visit_engineCauses (s : State) (home : Nat) : (s.visit home).engineCauses = s.engineCauses := State.needs_engineCauses _ _
@[simp] theorem State.visitDie_engineCauses (s : State) (die : Nat) : (s.visitDie die).engineCauses = s.engineCauses := State.needs_engineCauses _ _
@[simp] theorem State.needs_forwards (s : State) (b : Bool) : (s.needs b).forwards = s.forwards := by
  unfold State.needs; split <;> rfl
@[simp] theorem State.visit_forwards (s : State) (home : Nat) : (s.visit home).forwards = s.forwards := State.needs_forwards _ _
@[simp] theorem State.visitDie_forwards (s : State) (die : Nat) : (s.visitDie die).forwards = s.forwards := State.needs_forwards _ _
@[simp] theorem State.needs_transit (s : State) (b : Bool) : (s.needs b).transit = s.transit := by
  unfold State.needs; split <;> rfl
@[simp] theorem State.visit_transit (s : State) (home : Nat) : (s.visit home).transit = s.transit := State.needs_transit _ _
@[simp] theorem State.visitDie_transit (s : State) (die : Nat) : (s.visitDie die).transit = s.transit := State.needs_transit _ _
@[simp] theorem State.needs_tags (s : State) (b : Bool) : (s.needs b).tags = s.tags := by
  unfold State.needs; split <;> rfl
@[simp] theorem State.visit_tags (s : State) (home : Nat) : (s.visit home).tags = s.tags := State.needs_tags _ _
@[simp] theorem State.visitDie_tags (s : State) (die : Nat) : (s.visitDie die).tags = s.tags := State.needs_tags _ _
@[simp] theorem State.needs_returns (s : State) (b : Bool) : (s.needs b).returns = s.returns := by
  unfold State.needs; split <;> rfl
@[simp] theorem State.visit_returns (s : State) (home : Nat) : (s.visit home).returns = s.returns := State.needs_returns _ _
@[simp] theorem State.visitDie_returns (s : State) (die : Nat) : (s.visitDie die).returns = s.returns := State.needs_returns _ _
@[simp] theorem State.needs_beam (s : State) (b : Bool) : (s.needs b).beam = s.beam := by
  unfold State.needs; split <;> rfl
@[simp] theorem State.visit_beam (s : State) (home : Nat) : (s.visit home).beam = s.beam := State.needs_beam _ _
@[simp] theorem State.visitDie_beam (s : State) (die : Nat) : (s.visitDie die).beam = s.beam := State.needs_beam _ _
@[simp] theorem State.needs_dies (s : State) (b : Bool) : (s.needs b).dies = s.dies := by
  unfold State.needs; split <;> rfl
@[simp] theorem State.visit_dies (s : State) (home : Nat) : (s.visit home).dies = s.dies := State.needs_dies _ _
@[simp] theorem State.visitDie_dies (s : State) (die : Nat) : (s.visitDie die).dies = s.dies := State.needs_dies _ _
@[simp] theorem State.needs_window (s : State) (b : Bool) : (s.needs b).window = s.window := by
  unfold State.needs; split <;> rfl
@[simp] theorem State.visit_window (s : State) (home : Nat) : (s.visit home).window = s.window := State.needs_window _ _
@[simp] theorem State.visitDie_window (s : State) (die : Nat) : (s.visitDie die).window = s.window := State.needs_window _ _
@[simp] theorem State.needs_ports (s : State) (b : Bool) : (s.needs b).ports = s.ports := by
  unfold State.needs; split <;> rfl
@[simp] theorem State.visit_ports (s : State) (home : Nat) : (s.visit home).ports = s.ports := State.needs_ports _ _
@[simp] theorem State.visitDie_ports (s : State) (die : Nat) : (s.visitDie die).ports = s.ports := State.needs_ports _ _
@[simp] theorem State.needs_ready (s : State) (b : Bool) : (s.needs b).ready = s.ready := by
  unfold State.needs; split <;> rfl
@[simp] theorem State.visit_ready (s : State) (home : Nat) : (s.visit home).ready = s.ready := State.needs_ready _ _
@[simp] theorem State.visitDie_ready (s : State) (die : Nat) : (s.visitDie die).ready = s.ready := State.needs_ready _ _
@[simp] theorem State.needs_linksOut (s : State) (b : Bool) : (s.needs b).linksOut = s.linksOut := by
  unfold State.needs; split <;> rfl
@[simp] theorem State.visit_linksOut (s : State) (home : Nat) : (s.visit home).linksOut = s.linksOut := State.needs_linksOut _ _
@[simp] theorem State.visitDie_linksOut (s : State) (die : Nat) : (s.visitDie die).linksOut = s.linksOut := State.needs_linksOut _ _
@[simp] theorem State.needs_msix (s : State) (b : Bool) : (s.needs b).msix = s.msix := by
  unfold State.needs; split <;> rfl
@[simp] theorem State.visit_msix (s : State) (home : Nat) : (s.visit home).msix = s.msix := State.needs_msix _ _
@[simp] theorem State.visitDie_msix (s : State) (die : Nat) : (s.visitDie die).msix = s.msix := State.needs_msix _ _
@[simp] theorem State.needs_staging (s : State) (b : Bool) : (s.needs b).staging = s.staging := by
  unfold State.needs; split <;> rfl
@[simp] theorem State.visit_staging (s : State) (home : Nat) : (s.visit home).staging = s.staging := State.needs_staging _ _
@[simp] theorem State.visitDie_staging (s : State) (die : Nat) : (s.visitDie die).staging = s.staging := State.needs_staging _ _
@[simp] theorem State.needs_queues (s : State) (b : Bool) : (s.needs b).queues = s.queues := by
  unfold State.needs; split <;> rfl
@[simp] theorem State.visit_queues (s : State) (home : Nat) : (s.visit home).queues = s.queues := State.needs_queues _ _
@[simp] theorem State.visitDie_queues (s : State) (die : Nat) : (s.visitDie die).queues = s.queues := State.needs_queues _ _
@[simp] theorem State.needs_orphans (s : State) (b : Bool) : (s.needs b).orphans = s.orphans := by
  unfold State.needs; split <;> rfl
@[simp] theorem State.visit_orphans (s : State) (home : Nat) : (s.visit home).orphans = s.orphans := State.needs_orphans _ _
@[simp] theorem State.visitDie_orphans (s : State) (die : Nat) : (s.visitDie die).orphans = s.orphans := State.needs_orphans _ _
@[simp] theorem State.needs_image (s : State) (b : Bool) : (s.needs b).image = s.image := by
  unfold State.needs; split <;> rfl
@[simp] theorem State.visit_image (s : State) (home : Nat) : (s.visit home).image = s.image := State.needs_image _ _
@[simp] theorem State.visitDie_image (s : State) (die : Nat) : (s.visitDie die).image = s.image := State.needs_image _ _
@[simp] theorem State.needs_hostReads (s : State) (b : Bool) : (s.needs b).hostReads = s.hostReads := by
  unfold State.needs; split <;> rfl
@[simp] theorem State.visit_hostReads (s : State) (home : Nat) : (s.visit home).hostReads = s.hostReads := State.needs_hostReads _ _
@[simp] theorem State.visitDie_hostReads (s : State) (die : Nat) : (s.visitDie die).hostReads = s.hostReads := State.needs_hostReads _ _
@[simp] theorem State.needs_peerReads (s : State) (b : Bool) : (s.needs b).peerReads = s.peerReads := by
  unfold State.needs; split <;> rfl
@[simp] theorem State.visit_peerReads (s : State) (home : Nat) : (s.visit home).peerReads = s.peerReads := State.needs_peerReads _ _
@[simp] theorem State.visitDie_peerReads (s : State) (die : Nat) : (s.visitDie die).peerReads = s.peerReads := State.needs_peerReads _ _
@[simp] theorem State.needs_peerWrites (s : State) (b : Bool) : (s.needs b).peerWrites = s.peerWrites := by
  unfold State.needs; split <;> rfl
@[simp] theorem State.visit_peerWrites (s : State) (home : Nat) : (s.visit home).peerWrites = s.peerWrites := State.needs_peerWrites _ _
@[simp] theorem State.visitDie_peerWrites (s : State) (die : Nat) : (s.visitDie die).peerWrites = s.peerWrites := State.needs_peerWrites _ _
@[simp] theorem State.needs_doorbells (s : State) (b : Bool) : (s.needs b).doorbells = s.doorbells := by
  unfold State.needs; split <;> rfl
@[simp] theorem State.visit_doorbells (s : State) (home : Nat) : (s.visit home).doorbells = s.doorbells := State.needs_doorbells _ _
@[simp] theorem State.visitDie_doorbells (s : State) (die : Nat) : (s.visitDie die).doorbells = s.doorbells := State.needs_doorbells _ _
@[simp] theorem State.needs_flits (s : State) (b : Bool) : (s.needs b).flits = s.flits := by
  unfold State.needs; split <;> rfl
@[simp] theorem State.visit_flits (s : State) (home : Nat) : (s.visit home).flits = s.flits := State.needs_flits _ _
@[simp] theorem State.visitDie_flits (s : State) (die : Nat) : (s.visitDie die).flits = s.flits := State.needs_flits _ _
@[simp] theorem State.needs_fwPending (s : State) (b : Bool) : (s.needs b).fwPending = s.fwPending := by
  unfold State.needs; split <;> rfl
@[simp] theorem State.visit_fwPending (s : State) (home : Nat) : (s.visit home).fwPending = s.fwPending := State.needs_fwPending _ _
@[simp] theorem State.visitDie_fwPending (s : State) (die : Nat) : (s.visitDie die).fwPending = s.fwPending := State.needs_fwPending _ _
@[simp] theorem State.needs_quote (s : State) (b : Bool) : (s.needs b).quote = s.quote := by
  unfold State.needs; split <;> rfl
@[simp] theorem State.visit_quote (s : State) (home : Nat) : (s.visit home).quote = s.quote := State.needs_quote _ _
@[simp] theorem State.visitDie_quote (s : State) (die : Nat) : (s.visitDie die).quote = s.quote := State.needs_quote _ _
@[simp] theorem State.needs_started (s : State) (b : Bool) : (s.needs b).started = s.started := by
  unfold State.needs; split <;> rfl
@[simp] theorem State.visit_started (s : State) (home : Nat) : (s.visit home).started = s.started := State.needs_started _ _
@[simp] theorem State.visitDie_started (s : State) (die : Nat) : (s.visitDie die).started = s.started := State.needs_started _ _
@[simp] theorem State.needs_agenda (s : State) (b : Bool) : (s.needs b).agenda = s.agenda := by
  unfold State.needs; split <;> rfl
@[simp] theorem State.visit_agenda (s : State) (home : Nat) : (s.visit home).agenda = s.agenda := State.needs_agenda _ _
@[simp] theorem State.visitDie_agenda (s : State) (die : Nat) : (s.visitDie die).agenda = s.agenda := State.needs_agenda _ _
@[simp] theorem State.needs_prefetches (s : State) (b : Bool) : (s.needs b).prefetches = s.prefetches := by
  unfold State.needs; split <;> rfl
@[simp] theorem State.visit_prefetches (s : State) (home : Nat) : (s.visit home).prefetches = s.prefetches := State.needs_prefetches _ _
@[simp] theorem State.visitDie_prefetches (s : State) (die : Nat) : (s.visitDie die).prefetches = s.prefetches := State.needs_prefetches _ _

/-! ### Thread.toBoundary -/

@[simp] theorem Thread.toBoundary_id (t : Thread) (pc : Int) (via : Via) : (t.toBoundary pc via).id = t.id := rfl
@[simp] theorem Thread.toBoundary_team (t : Thread) (pc : Int) (via : Via) : (t.toBoundary pc via).team = t.team := rfl
@[simp] theorem Thread.toBoundary_grp (t : Thread) (pc : Int) (via : Via) : (t.toBoundary pc via).grp = t.grp := rfl
@[simp] theorem Thread.toBoundary_member (t : Thread) (pc : Int) (via : Via) : (t.toBoundary pc via).member = t.member := rfl
@[simp] theorem Thread.toBoundary_lane (t : Thread) (pc : Int) (via : Via) : (t.toBoundary pc via).lane = t.lane := rfl
@[simp] theorem Thread.toBoundary_core (t : Thread) (pc : Int) (via : Via) : (t.toBoundary pc via).core = t.core := rfl
@[simp] theorem Thread.toBoundary_nregs (t : Thread) (pc : Int) (via : Via) : (t.toBoundary pc via).nregs = t.nregs := rfl
@[simp] theorem Thread.toBoundary_g (t : Thread) (pc : Int) (via : Via) : (t.toBoundary pc via).g = t.g := rfl
@[simp] theorem Thread.toBoundary_a (t : Thread) (pc : Int) (via : Via) : (t.toBoundary pc via).a = t.a := rfl
@[simp] theorem Thread.toBoundary_c (t : Thread) (pc : Int) (via : Via) : (t.toBoundary pc via).c = t.c := rfl
@[simp] theorem Thread.toBoundary_rstack (t : Thread) (pc : Int) (via : Via) : (t.toBoundary pc via).rstack = t.rstack := rfl
@[simp] theorem Thread.toBoundary_rsdepth (t : Thread) (pc : Int) (via : Via) : (t.toBoundary pc via).rsdepth = t.rsdepth := rfl
@[simp] theorem Thread.toBoundary_flags (t : Thread) (pc : Int) (via : Via) : (t.toBoundary pc via).flags = t.flags := rfl
@[simp] theorem Thread.toBoundary_status (t : Thread) (pc : Int) (via : Via) : (t.toBoundary pc via).status = t.status := rfl
@[simp] theorem Thread.toBoundary_splimit (t : Thread) (pc : Int) (via : Via) : (t.toBoundary pc via).splimit = t.splimit := rfl
@[simp] theorem Thread.toBoundary_trapvec (t : Thread) (pc : Int) (via : Via) : (t.toBoundary pc via).trapvec = t.trapvec := rfl
@[simp] theorem Thread.toBoundary_trappc (t : Thread) (pc : Int) (via : Via) : (t.toBoundary pc via).trappc = t.trappc := rfl
@[simp] theorem Thread.toBoundary_trapinfo (t : Thread) (pc : Int) (via : Via) : (t.toBoundary pc via).trapinfo = t.trapinfo := rfl
@[simp] theorem Thread.toBoundary_trapaddr (t : Thread) (pc : Int) (via : Via) : (t.toBoundary pc via).trapaddr = t.trapaddr := rfl
@[simp] theorem Thread.toBoundary_cflags (t : Thread) (pc : Int) (via : Via) : (t.toBoundary pc via).cflags = t.cflags := rfl
@[simp] theorem Thread.toBoundary_ops (t : Thread) (pc : Int) (via : Via) : (t.toBoundary pc via).ops = t.ops := rfl
@[simp] theorem Thread.toBoundary_nextOp (t : Thread) (pc : Int) (via : Via) : (t.toBoundary pc via).nextOp = t.nextOp := rfl
@[simp] theorem Thread.toBoundary_pend (t : Thread) (pc : Int) (via : Via) : (t.toBoundary pc via).pend = t.pend := rfl
@[simp] theorem Thread.toBoundary_clearSince (t : Thread) (pc : Int) (via : Via) : (t.toBoundary pc via).clearSince = t.clearSince := rfl
@[simp] theorem Thread.toBoundary_capture (t : Thread) (pc : Int) (via : Via) : (t.toBoundary pc via).capture = t.capture := rfl
@[simp] theorem Thread.toBoundary_fenced (t : Thread) (pc : Int) (via : Via) : (t.toBoundary pc via).fenced = t.fenced := rfl
@[simp] theorem Thread.toBoundary_buf (t : Thread) (pc : Int) (via : Via) : (t.toBoundary pc via).buf = t.buf := rfl
@[simp] theorem Thread.toBoundary_quantum (t : Thread) (pc : Int) (via : Via) : (t.toBoundary pc via).quantum = t.quantum := rfl
@[simp] theorem Thread.toBoundary_committed (t : Thread) (pc : Int) (via : Via) : (t.toBoundary pc via).committed = t.committed := rfl
@[simp] theorem Thread.toBoundary_element (t : Thread) (pc : Int) (via : Via) : (t.toBoundary pc via).element = t.element := rfl
@[simp] theorem Thread.toBoundary_locks (t : Thread) (pc : Int) (via : Via) : (t.toBoundary pc via).locks = t.locks := rfl
@[simp] theorem Thread.toBoundary_failed (t : Thread) (pc : Int) (via : Via) : (t.toBoundary pc via).failed = t.failed := rfl

/-! ### Thread.writeA -/

@[simp] theorem Thread.writeA_id (t : Thread) (i : Nat) (v : Int) : (t.writeA i v).id = t.id := rfl
@[simp] theorem Thread.writeA_team (t : Thread) (i : Nat) (v : Int) : (t.writeA i v).team = t.team := rfl
@[simp] theorem Thread.writeA_grp (t : Thread) (i : Nat) (v : Int) : (t.writeA i v).grp = t.grp := rfl
@[simp] theorem Thread.writeA_member (t : Thread) (i : Nat) (v : Int) : (t.writeA i v).member = t.member := rfl
@[simp] theorem Thread.writeA_lane (t : Thread) (i : Nat) (v : Int) : (t.writeA i v).lane = t.lane := rfl
@[simp] theorem Thread.writeA_core (t : Thread) (i : Nat) (v : Int) : (t.writeA i v).core = t.core := rfl
@[simp] theorem Thread.writeA_nregs (t : Thread) (i : Nat) (v : Int) : (t.writeA i v).nregs = t.nregs := rfl
@[simp] theorem Thread.writeA_g (t : Thread) (i : Nat) (v : Int) : (t.writeA i v).g = t.g := rfl
@[simp] theorem Thread.writeA_c (t : Thread) (i : Nat) (v : Int) : (t.writeA i v).c = t.c := rfl
@[simp] theorem Thread.writeA_pc (t : Thread) (i : Nat) (v : Int) : (t.writeA i v).pc = t.pc := rfl
@[simp] theorem Thread.writeA_slot (t : Thread) (i : Nat) (v : Int) : (t.writeA i v).slot = t.slot := rfl
@[simp] theorem Thread.writeA_clause (t : Thread) (i : Nat) (v : Int) : (t.writeA i v).clause = t.clause := rfl
@[simp] theorem Thread.writeA_rstack (t : Thread) (i : Nat) (v : Int) : (t.writeA i v).rstack = t.rstack := rfl
@[simp] theorem Thread.writeA_rsdepth (t : Thread) (i : Nat) (v : Int) : (t.writeA i v).rsdepth = t.rsdepth := rfl
@[simp] theorem Thread.writeA_flags (t : Thread) (i : Nat) (v : Int) : (t.writeA i v).flags = t.flags := rfl
@[simp] theorem Thread.writeA_status (t : Thread) (i : Nat) (v : Int) : (t.writeA i v).status = t.status := rfl
@[simp] theorem Thread.writeA_splimit (t : Thread) (i : Nat) (v : Int) : (t.writeA i v).splimit = t.splimit := rfl
@[simp] theorem Thread.writeA_trapvec (t : Thread) (i : Nat) (v : Int) : (t.writeA i v).trapvec = t.trapvec := rfl
@[simp] theorem Thread.writeA_trappc (t : Thread) (i : Nat) (v : Int) : (t.writeA i v).trappc = t.trappc := rfl
@[simp] theorem Thread.writeA_trapinfo (t : Thread) (i : Nat) (v : Int) : (t.writeA i v).trapinfo = t.trapinfo := rfl
@[simp] theorem Thread.writeA_trapaddr (t : Thread) (i : Nat) (v : Int) : (t.writeA i v).trapaddr = t.trapaddr := rfl
@[simp] theorem Thread.writeA_cflags (t : Thread) (i : Nat) (v : Int) : (t.writeA i v).cflags = t.cflags := rfl
@[simp] theorem Thread.writeA_ops (t : Thread) (i : Nat) (v : Int) : (t.writeA i v).ops = t.ops := rfl
@[simp] theorem Thread.writeA_nextOp (t : Thread) (i : Nat) (v : Int) : (t.writeA i v).nextOp = t.nextOp := rfl
@[simp] theorem Thread.writeA_pend (t : Thread) (i : Nat) (v : Int) : (t.writeA i v).pend = t.pend := rfl
@[simp] theorem Thread.writeA_run (t : Thread) (i : Nat) (v : Int) : (t.writeA i v).run = t.run := rfl
@[simp] theorem Thread.writeA_nopOnce (t : Thread) (i : Nat) (v : Int) : (t.writeA i v).nopOnce = t.nopOnce := rfl
@[simp] theorem Thread.writeA_resumed (t : Thread) (i : Nat) (v : Int) : (t.writeA i v).resumed = t.resumed := rfl
@[simp] theorem Thread.writeA_readySince (t : Thread) (i : Nat) (v : Int) : (t.writeA i v).readySince = t.readySince := rfl
@[simp] theorem Thread.writeA_clearSince (t : Thread) (i : Nat) (v : Int) : (t.writeA i v).clearSince = t.clearSince := rfl
@[simp] theorem Thread.writeA_passed (t : Thread) (i : Nat) (v : Int) : (t.writeA i v).passed = t.passed := rfl
@[simp] theorem Thread.writeA_capture (t : Thread) (i : Nat) (v : Int) : (t.writeA i v).capture = t.capture := rfl
@[simp] theorem Thread.writeA_fenced (t : Thread) (i : Nat) (v : Int) : (t.writeA i v).fenced = t.fenced := rfl
@[simp] theorem Thread.writeA_buf (t : Thread) (i : Nat) (v : Int) : (t.writeA i v).buf = t.buf := rfl
@[simp] theorem Thread.writeA_quantum (t : Thread) (i : Nat) (v : Int) : (t.writeA i v).quantum = t.quantum := rfl
@[simp] theorem Thread.writeA_committed (t : Thread) (i : Nat) (v : Int) : (t.writeA i v).committed = t.committed := rfl
@[simp] theorem Thread.writeA_element (t : Thread) (i : Nat) (v : Int) : (t.writeA i v).element = t.element := rfl
@[simp] theorem Thread.writeA_locks (t : Thread) (i : Nat) (v : Int) : (t.writeA i v).locks = t.locks := rfl
@[simp] theorem Thread.writeA_failed (t : Thread) (i : Nat) (v : Int) : (t.writeA i v).failed = t.failed := rfl

/-! ### Thread.raise -/

@[simp] theorem Thread.raise_id (t : Thread) (f : RealFlags) : (t.raise f).id = t.id := rfl
@[simp] theorem Thread.raise_team (t : Thread) (f : RealFlags) : (t.raise f).team = t.team := rfl
@[simp] theorem Thread.raise_grp (t : Thread) (f : RealFlags) : (t.raise f).grp = t.grp := rfl
@[simp] theorem Thread.raise_member (t : Thread) (f : RealFlags) : (t.raise f).member = t.member := rfl
@[simp] theorem Thread.raise_lane (t : Thread) (f : RealFlags) : (t.raise f).lane = t.lane := rfl
@[simp] theorem Thread.raise_core (t : Thread) (f : RealFlags) : (t.raise f).core = t.core := rfl
@[simp] theorem Thread.raise_nregs (t : Thread) (f : RealFlags) : (t.raise f).nregs = t.nregs := rfl
@[simp] theorem Thread.raise_g (t : Thread) (f : RealFlags) : (t.raise f).g = t.g := rfl
@[simp] theorem Thread.raise_a (t : Thread) (f : RealFlags) : (t.raise f).a = t.a := rfl
@[simp] theorem Thread.raise_c (t : Thread) (f : RealFlags) : (t.raise f).c = t.c := rfl
@[simp] theorem Thread.raise_pc (t : Thread) (f : RealFlags) : (t.raise f).pc = t.pc := rfl
@[simp] theorem Thread.raise_slot (t : Thread) (f : RealFlags) : (t.raise f).slot = t.slot := rfl
@[simp] theorem Thread.raise_clause (t : Thread) (f : RealFlags) : (t.raise f).clause = t.clause := rfl
@[simp] theorem Thread.raise_rstack (t : Thread) (f : RealFlags) : (t.raise f).rstack = t.rstack := rfl
@[simp] theorem Thread.raise_rsdepth (t : Thread) (f : RealFlags) : (t.raise f).rsdepth = t.rsdepth := rfl
@[simp] theorem Thread.raise_status (t : Thread) (f : RealFlags) : (t.raise f).status = t.status := rfl
@[simp] theorem Thread.raise_splimit (t : Thread) (f : RealFlags) : (t.raise f).splimit = t.splimit := rfl
@[simp] theorem Thread.raise_trapvec (t : Thread) (f : RealFlags) : (t.raise f).trapvec = t.trapvec := rfl
@[simp] theorem Thread.raise_trappc (t : Thread) (f : RealFlags) : (t.raise f).trappc = t.trappc := rfl
@[simp] theorem Thread.raise_trapinfo (t : Thread) (f : RealFlags) : (t.raise f).trapinfo = t.trapinfo := rfl
@[simp] theorem Thread.raise_trapaddr (t : Thread) (f : RealFlags) : (t.raise f).trapaddr = t.trapaddr := rfl
@[simp] theorem Thread.raise_cflags (t : Thread) (f : RealFlags) : (t.raise f).cflags = t.cflags := rfl
@[simp] theorem Thread.raise_ops (t : Thread) (f : RealFlags) : (t.raise f).ops = t.ops := rfl
@[simp] theorem Thread.raise_nextOp (t : Thread) (f : RealFlags) : (t.raise f).nextOp = t.nextOp := rfl
@[simp] theorem Thread.raise_pend (t : Thread) (f : RealFlags) : (t.raise f).pend = t.pend := rfl
@[simp] theorem Thread.raise_run (t : Thread) (f : RealFlags) : (t.raise f).run = t.run := rfl
@[simp] theorem Thread.raise_nopOnce (t : Thread) (f : RealFlags) : (t.raise f).nopOnce = t.nopOnce := rfl
@[simp] theorem Thread.raise_resumed (t : Thread) (f : RealFlags) : (t.raise f).resumed = t.resumed := rfl
@[simp] theorem Thread.raise_readySince (t : Thread) (f : RealFlags) : (t.raise f).readySince = t.readySince := rfl
@[simp] theorem Thread.raise_clearSince (t : Thread) (f : RealFlags) : (t.raise f).clearSince = t.clearSince := rfl
@[simp] theorem Thread.raise_passed (t : Thread) (f : RealFlags) : (t.raise f).passed = t.passed := rfl
@[simp] theorem Thread.raise_capture (t : Thread) (f : RealFlags) : (t.raise f).capture = t.capture := rfl
@[simp] theorem Thread.raise_fenced (t : Thread) (f : RealFlags) : (t.raise f).fenced = t.fenced := rfl
@[simp] theorem Thread.raise_buf (t : Thread) (f : RealFlags) : (t.raise f).buf = t.buf := rfl
@[simp] theorem Thread.raise_quantum (t : Thread) (f : RealFlags) : (t.raise f).quantum = t.quantum := rfl
@[simp] theorem Thread.raise_committed (t : Thread) (f : RealFlags) : (t.raise f).committed = t.committed := rfl
@[simp] theorem Thread.raise_element (t : Thread) (f : RealFlags) : (t.raise f).element = t.element := rfl
@[simp] theorem Thread.raise_locks (t : Thread) (f : RealFlags) : (t.raise f).locks = t.locks := rfl
@[simp] theorem Thread.raise_failed (t : Thread) (f : RealFlags) : (t.raise f).failed = t.failed := rfl

/-! ### Thread.begin -/

@[simp] theorem Thread.begin_id (t : Thread) (o : LongOp) : (t.begin o).id = t.id := by unfold Thread.begin Thread.addFlag; split <;> rfl
@[simp] theorem Thread.begin_team (t : Thread) (o : LongOp) : (t.begin o).team = t.team := by unfold Thread.begin Thread.addFlag; split <;> rfl
@[simp] theorem Thread.begin_grp (t : Thread) (o : LongOp) : (t.begin o).grp = t.grp := by unfold Thread.begin Thread.addFlag; split <;> rfl
@[simp] theorem Thread.begin_member (t : Thread) (o : LongOp) : (t.begin o).member = t.member := by unfold Thread.begin Thread.addFlag; split <;> rfl
@[simp] theorem Thread.begin_lane (t : Thread) (o : LongOp) : (t.begin o).lane = t.lane := by unfold Thread.begin Thread.addFlag; split <;> rfl
@[simp] theorem Thread.begin_core (t : Thread) (o : LongOp) : (t.begin o).core = t.core := by unfold Thread.begin Thread.addFlag; split <;> rfl
@[simp] theorem Thread.begin_nregs (t : Thread) (o : LongOp) : (t.begin o).nregs = t.nregs := by unfold Thread.begin Thread.addFlag; split <;> rfl
@[simp] theorem Thread.begin_g (t : Thread) (o : LongOp) : (t.begin o).g = t.g := by unfold Thread.begin Thread.addFlag; split <;> rfl
@[simp] theorem Thread.begin_a (t : Thread) (o : LongOp) : (t.begin o).a = t.a := by unfold Thread.begin Thread.addFlag; split <;> rfl
@[simp] theorem Thread.begin_c (t : Thread) (o : LongOp) : (t.begin o).c = t.c := by unfold Thread.begin Thread.addFlag; split <;> rfl
@[simp] theorem Thread.begin_pc (t : Thread) (o : LongOp) : (t.begin o).pc = t.pc := by unfold Thread.begin Thread.addFlag; split <;> rfl
@[simp] theorem Thread.begin_slot (t : Thread) (o : LongOp) : (t.begin o).slot = t.slot := by unfold Thread.begin Thread.addFlag; split <;> rfl
@[simp] theorem Thread.begin_clause (t : Thread) (o : LongOp) : (t.begin o).clause = t.clause := by unfold Thread.begin Thread.addFlag; split <;> rfl
@[simp] theorem Thread.begin_rstack (t : Thread) (o : LongOp) : (t.begin o).rstack = t.rstack := by unfold Thread.begin Thread.addFlag; split <;> rfl
@[simp] theorem Thread.begin_rsdepth (t : Thread) (o : LongOp) : (t.begin o).rsdepth = t.rsdepth := by unfold Thread.begin Thread.addFlag; split <;> rfl
@[simp] theorem Thread.begin_flags (t : Thread) (o : LongOp) : (t.begin o).flags = t.flags := by unfold Thread.begin Thread.addFlag; split <;> rfl
@[simp] theorem Thread.begin_status (t : Thread) (o : LongOp) : (t.begin o).status = t.status := by unfold Thread.begin Thread.addFlag; split <;> rfl
@[simp] theorem Thread.begin_splimit (t : Thread) (o : LongOp) : (t.begin o).splimit = t.splimit := by unfold Thread.begin Thread.addFlag; split <;> rfl
@[simp] theorem Thread.begin_trapvec (t : Thread) (o : LongOp) : (t.begin o).trapvec = t.trapvec := by unfold Thread.begin Thread.addFlag; split <;> rfl
@[simp] theorem Thread.begin_trappc (t : Thread) (o : LongOp) : (t.begin o).trappc = t.trappc := by unfold Thread.begin Thread.addFlag; split <;> rfl
@[simp] theorem Thread.begin_trapinfo (t : Thread) (o : LongOp) : (t.begin o).trapinfo = t.trapinfo := by unfold Thread.begin Thread.addFlag; split <;> rfl
@[simp] theorem Thread.begin_trapaddr (t : Thread) (o : LongOp) : (t.begin o).trapaddr = t.trapaddr := by unfold Thread.begin Thread.addFlag; split <;> rfl
@[simp] theorem Thread.begin_pend (t : Thread) (o : LongOp) : (t.begin o).pend = t.pend := by unfold Thread.begin Thread.addFlag; split <;> rfl
@[simp] theorem Thread.begin_run (t : Thread) (o : LongOp) : (t.begin o).run = t.run := by unfold Thread.begin Thread.addFlag; split <;> rfl
@[simp] theorem Thread.begin_nopOnce (t : Thread) (o : LongOp) : (t.begin o).nopOnce = t.nopOnce := by unfold Thread.begin Thread.addFlag; split <;> rfl
@[simp] theorem Thread.begin_resumed (t : Thread) (o : LongOp) : (t.begin o).resumed = t.resumed := by unfold Thread.begin Thread.addFlag; split <;> rfl
@[simp] theorem Thread.begin_readySince (t : Thread) (o : LongOp) : (t.begin o).readySince = t.readySince := by unfold Thread.begin Thread.addFlag; split <;> rfl
@[simp] theorem Thread.begin_clearSince (t : Thread) (o : LongOp) : (t.begin o).clearSince = t.clearSince := by unfold Thread.begin Thread.addFlag; split <;> rfl
@[simp] theorem Thread.begin_passed (t : Thread) (o : LongOp) : (t.begin o).passed = t.passed := by unfold Thread.begin Thread.addFlag; split <;> rfl
@[simp] theorem Thread.begin_capture (t : Thread) (o : LongOp) : (t.begin o).capture = t.capture := by unfold Thread.begin Thread.addFlag; split <;> rfl
@[simp] theorem Thread.begin_fenced (t : Thread) (o : LongOp) : (t.begin o).fenced = t.fenced := by unfold Thread.begin Thread.addFlag; split <;> rfl
@[simp] theorem Thread.begin_buf (t : Thread) (o : LongOp) : (t.begin o).buf = t.buf := by unfold Thread.begin Thread.addFlag; split <;> rfl
@[simp] theorem Thread.begin_quantum (t : Thread) (o : LongOp) : (t.begin o).quantum = t.quantum := by unfold Thread.begin Thread.addFlag; split <;> rfl
@[simp] theorem Thread.begin_committed (t : Thread) (o : LongOp) : (t.begin o).committed = t.committed := by unfold Thread.begin Thread.addFlag; split <;> rfl
@[simp] theorem Thread.begin_element (t : Thread) (o : LongOp) : (t.begin o).element = t.element := by unfold Thread.begin Thread.addFlag; split <;> rfl
@[simp] theorem Thread.begin_locks (t : Thread) (o : LongOp) : (t.begin o).locks = t.locks := by unfold Thread.begin Thread.addFlag; split <;> rfl
@[simp] theorem Thread.begin_failed (t : Thread) (o : LongOp) : (t.begin o).failed = t.failed := by unfold Thread.begin Thread.addFlag; split <;> rfl

/-! ### Thread.jump -/

@[simp] theorem Thread.jump_id (t : Thread) (pc : Int) : (t.jump pc).id = t.id := rfl
@[simp] theorem Thread.jump_team (t : Thread) (pc : Int) : (t.jump pc).team = t.team := rfl
@[simp] theorem Thread.jump_grp (t : Thread) (pc : Int) : (t.jump pc).grp = t.grp := rfl
@[simp] theorem Thread.jump_member (t : Thread) (pc : Int) : (t.jump pc).member = t.member := rfl
@[simp] theorem Thread.jump_lane (t : Thread) (pc : Int) : (t.jump pc).lane = t.lane := rfl
@[simp] theorem Thread.jump_core (t : Thread) (pc : Int) : (t.jump pc).core = t.core := rfl
@[simp] theorem Thread.jump_nregs (t : Thread) (pc : Int) : (t.jump pc).nregs = t.nregs := rfl
@[simp] theorem Thread.jump_g (t : Thread) (pc : Int) : (t.jump pc).g = t.g := rfl
@[simp] theorem Thread.jump_a (t : Thread) (pc : Int) : (t.jump pc).a = t.a := rfl
@[simp] theorem Thread.jump_c (t : Thread) (pc : Int) : (t.jump pc).c = t.c := rfl
@[simp] theorem Thread.jump_rstack (t : Thread) (pc : Int) : (t.jump pc).rstack = t.rstack := rfl
@[simp] theorem Thread.jump_rsdepth (t : Thread) (pc : Int) : (t.jump pc).rsdepth = t.rsdepth := rfl
@[simp] theorem Thread.jump_flags (t : Thread) (pc : Int) : (t.jump pc).flags = t.flags := rfl
@[simp] theorem Thread.jump_status (t : Thread) (pc : Int) : (t.jump pc).status = t.status := rfl
@[simp] theorem Thread.jump_splimit (t : Thread) (pc : Int) : (t.jump pc).splimit = t.splimit := rfl
@[simp] theorem Thread.jump_trapvec (t : Thread) (pc : Int) : (t.jump pc).trapvec = t.trapvec := rfl
@[simp] theorem Thread.jump_trappc (t : Thread) (pc : Int) : (t.jump pc).trappc = t.trappc := rfl
@[simp] theorem Thread.jump_trapinfo (t : Thread) (pc : Int) : (t.jump pc).trapinfo = t.trapinfo := rfl
@[simp] theorem Thread.jump_trapaddr (t : Thread) (pc : Int) : (t.jump pc).trapaddr = t.trapaddr := rfl
@[simp] theorem Thread.jump_cflags (t : Thread) (pc : Int) : (t.jump pc).cflags = t.cflags := rfl
@[simp] theorem Thread.jump_ops (t : Thread) (pc : Int) : (t.jump pc).ops = t.ops := rfl
@[simp] theorem Thread.jump_nextOp (t : Thread) (pc : Int) : (t.jump pc).nextOp = t.nextOp := rfl
@[simp] theorem Thread.jump_pend (t : Thread) (pc : Int) : (t.jump pc).pend = t.pend := rfl
@[simp] theorem Thread.jump_capture (t : Thread) (pc : Int) : (t.jump pc).capture = t.capture := rfl
@[simp] theorem Thread.jump_fenced (t : Thread) (pc : Int) : (t.jump pc).fenced = t.fenced := rfl
@[simp] theorem Thread.jump_buf (t : Thread) (pc : Int) : (t.jump pc).buf = t.buf := rfl
@[simp] theorem Thread.jump_element (t : Thread) (pc : Int) : (t.jump pc).element = t.element := rfl
@[simp] theorem Thread.jump_locks (t : Thread) (pc : Int) : (t.jump pc).locks = t.locks := rfl
@[simp] theorem Thread.jump_failed (t : Thread) (pc : Int) : (t.jump pc).failed = t.failed := rfl

/-! ### Thread.push -/

@[simp] theorem Thread.push_id (t : Thread) (ret : Int) : (t.push ret).id = t.id := rfl
@[simp] theorem Thread.push_team (t : Thread) (ret : Int) : (t.push ret).team = t.team := rfl
@[simp] theorem Thread.push_grp (t : Thread) (ret : Int) : (t.push ret).grp = t.grp := rfl
@[simp] theorem Thread.push_member (t : Thread) (ret : Int) : (t.push ret).member = t.member := rfl
@[simp] theorem Thread.push_lane (t : Thread) (ret : Int) : (t.push ret).lane = t.lane := rfl
@[simp] theorem Thread.push_core (t : Thread) (ret : Int) : (t.push ret).core = t.core := rfl
@[simp] theorem Thread.push_nregs (t : Thread) (ret : Int) : (t.push ret).nregs = t.nregs := rfl
@[simp] theorem Thread.push_g (t : Thread) (ret : Int) : (t.push ret).g = t.g := rfl
@[simp] theorem Thread.push_a (t : Thread) (ret : Int) : (t.push ret).a = t.a := rfl
@[simp] theorem Thread.push_c (t : Thread) (ret : Int) : (t.push ret).c = t.c := rfl
@[simp] theorem Thread.push_pc (t : Thread) (ret : Int) : (t.push ret).pc = t.pc := rfl
@[simp] theorem Thread.push_slot (t : Thread) (ret : Int) : (t.push ret).slot = t.slot := rfl
@[simp] theorem Thread.push_clause (t : Thread) (ret : Int) : (t.push ret).clause = t.clause := rfl
@[simp] theorem Thread.push_flags (t : Thread) (ret : Int) : (t.push ret).flags = t.flags := rfl
@[simp] theorem Thread.push_status (t : Thread) (ret : Int) : (t.push ret).status = t.status := rfl
@[simp] theorem Thread.push_splimit (t : Thread) (ret : Int) : (t.push ret).splimit = t.splimit := rfl
@[simp] theorem Thread.push_trapvec (t : Thread) (ret : Int) : (t.push ret).trapvec = t.trapvec := rfl
@[simp] theorem Thread.push_trappc (t : Thread) (ret : Int) : (t.push ret).trappc = t.trappc := rfl
@[simp] theorem Thread.push_trapinfo (t : Thread) (ret : Int) : (t.push ret).trapinfo = t.trapinfo := rfl
@[simp] theorem Thread.push_trapaddr (t : Thread) (ret : Int) : (t.push ret).trapaddr = t.trapaddr := rfl
@[simp] theorem Thread.push_cflags (t : Thread) (ret : Int) : (t.push ret).cflags = t.cflags := rfl
@[simp] theorem Thread.push_ops (t : Thread) (ret : Int) : (t.push ret).ops = t.ops := rfl
@[simp] theorem Thread.push_nextOp (t : Thread) (ret : Int) : (t.push ret).nextOp = t.nextOp := rfl
@[simp] theorem Thread.push_pend (t : Thread) (ret : Int) : (t.push ret).pend = t.pend := rfl
@[simp] theorem Thread.push_run (t : Thread) (ret : Int) : (t.push ret).run = t.run := rfl
@[simp] theorem Thread.push_nopOnce (t : Thread) (ret : Int) : (t.push ret).nopOnce = t.nopOnce := rfl
@[simp] theorem Thread.push_resumed (t : Thread) (ret : Int) : (t.push ret).resumed = t.resumed := rfl
@[simp] theorem Thread.push_readySince (t : Thread) (ret : Int) : (t.push ret).readySince = t.readySince := rfl
@[simp] theorem Thread.push_clearSince (t : Thread) (ret : Int) : (t.push ret).clearSince = t.clearSince := rfl
@[simp] theorem Thread.push_passed (t : Thread) (ret : Int) : (t.push ret).passed = t.passed := rfl
@[simp] theorem Thread.push_capture (t : Thread) (ret : Int) : (t.push ret).capture = t.capture := rfl
@[simp] theorem Thread.push_fenced (t : Thread) (ret : Int) : (t.push ret).fenced = t.fenced := rfl
@[simp] theorem Thread.push_buf (t : Thread) (ret : Int) : (t.push ret).buf = t.buf := rfl
@[simp] theorem Thread.push_quantum (t : Thread) (ret : Int) : (t.push ret).quantum = t.quantum := rfl
@[simp] theorem Thread.push_committed (t : Thread) (ret : Int) : (t.push ret).committed = t.committed := rfl
@[simp] theorem Thread.push_element (t : Thread) (ret : Int) : (t.push ret).element = t.element := rfl
@[simp] theorem Thread.push_locks (t : Thread) (ret : Int) : (t.push ret).locks = t.locks := rfl
@[simp] theorem Thread.push_failed (t : Thread) (ret : Int) : (t.push ret).failed = t.failed := rfl

/-! ### Thread.endQuantum -/

@[simp] theorem Thread.endQuantum_id (t : Thread) : (t.endQuantum).id = t.id := rfl
@[simp] theorem Thread.endQuantum_team (t : Thread) : (t.endQuantum).team = t.team := rfl
@[simp] theorem Thread.endQuantum_grp (t : Thread) : (t.endQuantum).grp = t.grp := rfl
@[simp] theorem Thread.endQuantum_member (t : Thread) : (t.endQuantum).member = t.member := rfl
@[simp] theorem Thread.endQuantum_lane (t : Thread) : (t.endQuantum).lane = t.lane := rfl
@[simp] theorem Thread.endQuantum_core (t : Thread) : (t.endQuantum).core = t.core := rfl
@[simp] theorem Thread.endQuantum_nregs (t : Thread) : (t.endQuantum).nregs = t.nregs := rfl
@[simp] theorem Thread.endQuantum_g (t : Thread) : (t.endQuantum).g = t.g := rfl
@[simp] theorem Thread.endQuantum_a (t : Thread) : (t.endQuantum).a = t.a := rfl
@[simp] theorem Thread.endQuantum_c (t : Thread) : (t.endQuantum).c = t.c := rfl
@[simp] theorem Thread.endQuantum_pc (t : Thread) : (t.endQuantum).pc = t.pc := rfl
@[simp] theorem Thread.endQuantum_slot (t : Thread) : (t.endQuantum).slot = t.slot := rfl
@[simp] theorem Thread.endQuantum_clause (t : Thread) : (t.endQuantum).clause = t.clause := rfl
@[simp] theorem Thread.endQuantum_rstack (t : Thread) : (t.endQuantum).rstack = t.rstack := rfl
@[simp] theorem Thread.endQuantum_rsdepth (t : Thread) : (t.endQuantum).rsdepth = t.rsdepth := rfl
@[simp] theorem Thread.endQuantum_flags (t : Thread) : (t.endQuantum).flags = t.flags := rfl
@[simp] theorem Thread.endQuantum_status (t : Thread) : (t.endQuantum).status = t.status := rfl
@[simp] theorem Thread.endQuantum_splimit (t : Thread) : (t.endQuantum).splimit = t.splimit := rfl
@[simp] theorem Thread.endQuantum_trapvec (t : Thread) : (t.endQuantum).trapvec = t.trapvec := rfl
@[simp] theorem Thread.endQuantum_trappc (t : Thread) : (t.endQuantum).trappc = t.trappc := rfl
@[simp] theorem Thread.endQuantum_trapinfo (t : Thread) : (t.endQuantum).trapinfo = t.trapinfo := rfl
@[simp] theorem Thread.endQuantum_trapaddr (t : Thread) : (t.endQuantum).trapaddr = t.trapaddr := rfl
@[simp] theorem Thread.endQuantum_cflags (t : Thread) : (t.endQuantum).cflags = t.cflags := rfl
@[simp] theorem Thread.endQuantum_ops (t : Thread) : (t.endQuantum).ops = t.ops := rfl
@[simp] theorem Thread.endQuantum_nextOp (t : Thread) : (t.endQuantum).nextOp = t.nextOp := rfl
@[simp] theorem Thread.endQuantum_pend (t : Thread) : (t.endQuantum).pend = t.pend := rfl
@[simp] theorem Thread.endQuantum_nopOnce (t : Thread) : (t.endQuantum).nopOnce = t.nopOnce := rfl
@[simp] theorem Thread.endQuantum_readySince (t : Thread) : (t.endQuantum).readySince = t.readySince := rfl
@[simp] theorem Thread.endQuantum_clearSince (t : Thread) : (t.endQuantum).clearSince = t.clearSince := rfl
@[simp] theorem Thread.endQuantum_passed (t : Thread) : (t.endQuantum).passed = t.passed := rfl
@[simp] theorem Thread.endQuantum_capture (t : Thread) : (t.endQuantum).capture = t.capture := rfl
@[simp] theorem Thread.endQuantum_fenced (t : Thread) : (t.endQuantum).fenced = t.fenced := rfl
@[simp] theorem Thread.endQuantum_buf (t : Thread) : (t.endQuantum).buf = t.buf := rfl
@[simp] theorem Thread.endQuantum_quantum (t : Thread) : (t.endQuantum).quantum = t.quantum := rfl
@[simp] theorem Thread.endQuantum_committed (t : Thread) : (t.endQuantum).committed = t.committed := rfl
@[simp] theorem Thread.endQuantum_element (t : Thread) : (t.endQuantum).element = t.element := rfl
@[simp] theorem Thread.endQuantum_locks (t : Thread) : (t.endQuantum).locks = t.locks := rfl
@[simp] theorem Thread.endQuantum_failed (t : Thread) : (t.endQuantum).failed = t.failed := rfl

/-! ### Thread.writeG -/

@[simp] theorem Thread.writeG_id (t : Thread) (i : Nat) (v : Int) : (t.writeG i v).id = t.id := by
  unfold Thread.writeG; split <;> rfl
@[simp] theorem Thread.writeG_team (t : Thread) (i : Nat) (v : Int) : (t.writeG i v).team = t.team := by
  unfold Thread.writeG; split <;> rfl
@[simp] theorem Thread.writeG_grp (t : Thread) (i : Nat) (v : Int) : (t.writeG i v).grp = t.grp := by
  unfold Thread.writeG; split <;> rfl
@[simp] theorem Thread.writeG_member (t : Thread) (i : Nat) (v : Int) : (t.writeG i v).member = t.member := by
  unfold Thread.writeG; split <;> rfl
@[simp] theorem Thread.writeG_lane (t : Thread) (i : Nat) (v : Int) : (t.writeG i v).lane = t.lane := by
  unfold Thread.writeG; split <;> rfl
@[simp] theorem Thread.writeG_core (t : Thread) (i : Nat) (v : Int) : (t.writeG i v).core = t.core := by
  unfold Thread.writeG; split <;> rfl
@[simp] theorem Thread.writeG_nregs (t : Thread) (i : Nat) (v : Int) : (t.writeG i v).nregs = t.nregs := by
  unfold Thread.writeG; split <;> rfl
@[simp] theorem Thread.writeG_a (t : Thread) (i : Nat) (v : Int) : (t.writeG i v).a = t.a := by
  unfold Thread.writeG; split <;> rfl
@[simp] theorem Thread.writeG_c (t : Thread) (i : Nat) (v : Int) : (t.writeG i v).c = t.c := by
  unfold Thread.writeG; split <;> rfl
@[simp] theorem Thread.writeG_pc (t : Thread) (i : Nat) (v : Int) : (t.writeG i v).pc = t.pc := by
  unfold Thread.writeG; split <;> rfl
@[simp] theorem Thread.writeG_slot (t : Thread) (i : Nat) (v : Int) : (t.writeG i v).slot = t.slot := by
  unfold Thread.writeG; split <;> rfl
@[simp] theorem Thread.writeG_clause (t : Thread) (i : Nat) (v : Int) : (t.writeG i v).clause = t.clause := by
  unfold Thread.writeG; split <;> rfl
@[simp] theorem Thread.writeG_rstack (t : Thread) (i : Nat) (v : Int) : (t.writeG i v).rstack = t.rstack := by
  unfold Thread.writeG; split <;> rfl
@[simp] theorem Thread.writeG_rsdepth (t : Thread) (i : Nat) (v : Int) : (t.writeG i v).rsdepth = t.rsdepth := by
  unfold Thread.writeG; split <;> rfl
@[simp] theorem Thread.writeG_flags (t : Thread) (i : Nat) (v : Int) : (t.writeG i v).flags = t.flags := by
  unfold Thread.writeG; split <;> rfl
@[simp] theorem Thread.writeG_status (t : Thread) (i : Nat) (v : Int) : (t.writeG i v).status = t.status := by
  unfold Thread.writeG; split <;> rfl
@[simp] theorem Thread.writeG_splimit (t : Thread) (i : Nat) (v : Int) : (t.writeG i v).splimit = t.splimit := by
  unfold Thread.writeG; split <;> rfl
@[simp] theorem Thread.writeG_trapvec (t : Thread) (i : Nat) (v : Int) : (t.writeG i v).trapvec = t.trapvec := by
  unfold Thread.writeG; split <;> rfl
@[simp] theorem Thread.writeG_trappc (t : Thread) (i : Nat) (v : Int) : (t.writeG i v).trappc = t.trappc := by
  unfold Thread.writeG; split <;> rfl
@[simp] theorem Thread.writeG_trapinfo (t : Thread) (i : Nat) (v : Int) : (t.writeG i v).trapinfo = t.trapinfo := by
  unfold Thread.writeG; split <;> rfl
@[simp] theorem Thread.writeG_trapaddr (t : Thread) (i : Nat) (v : Int) : (t.writeG i v).trapaddr = t.trapaddr := by
  unfold Thread.writeG; split <;> rfl
@[simp] theorem Thread.writeG_cflags (t : Thread) (i : Nat) (v : Int) : (t.writeG i v).cflags = t.cflags := by
  unfold Thread.writeG; split <;> rfl
@[simp] theorem Thread.writeG_ops (t : Thread) (i : Nat) (v : Int) : (t.writeG i v).ops = t.ops := by
  unfold Thread.writeG; split <;> rfl
@[simp] theorem Thread.writeG_nextOp (t : Thread) (i : Nat) (v : Int) : (t.writeG i v).nextOp = t.nextOp := by
  unfold Thread.writeG; split <;> rfl
@[simp] theorem Thread.writeG_pend (t : Thread) (i : Nat) (v : Int) : (t.writeG i v).pend = t.pend := by
  unfold Thread.writeG; split <;> rfl
@[simp] theorem Thread.writeG_run (t : Thread) (i : Nat) (v : Int) : (t.writeG i v).run = t.run := by
  unfold Thread.writeG; split <;> rfl
@[simp] theorem Thread.writeG_nopOnce (t : Thread) (i : Nat) (v : Int) : (t.writeG i v).nopOnce = t.nopOnce := by
  unfold Thread.writeG; split <;> rfl
@[simp] theorem Thread.writeG_resumed (t : Thread) (i : Nat) (v : Int) : (t.writeG i v).resumed = t.resumed := by
  unfold Thread.writeG; split <;> rfl
@[simp] theorem Thread.writeG_readySince (t : Thread) (i : Nat) (v : Int) : (t.writeG i v).readySince = t.readySince := by
  unfold Thread.writeG; split <;> rfl
@[simp] theorem Thread.writeG_clearSince (t : Thread) (i : Nat) (v : Int) : (t.writeG i v).clearSince = t.clearSince := by
  unfold Thread.writeG; split <;> rfl
@[simp] theorem Thread.writeG_passed (t : Thread) (i : Nat) (v : Int) : (t.writeG i v).passed = t.passed := by
  unfold Thread.writeG; split <;> rfl
@[simp] theorem Thread.writeG_capture (t : Thread) (i : Nat) (v : Int) : (t.writeG i v).capture = t.capture := by
  unfold Thread.writeG; split <;> rfl
@[simp] theorem Thread.writeG_fenced (t : Thread) (i : Nat) (v : Int) : (t.writeG i v).fenced = t.fenced := by
  unfold Thread.writeG; split <;> rfl
@[simp] theorem Thread.writeG_buf (t : Thread) (i : Nat) (v : Int) : (t.writeG i v).buf = t.buf := by
  unfold Thread.writeG; split <;> rfl
@[simp] theorem Thread.writeG_quantum (t : Thread) (i : Nat) (v : Int) : (t.writeG i v).quantum = t.quantum := by
  unfold Thread.writeG; split <;> rfl
@[simp] theorem Thread.writeG_committed (t : Thread) (i : Nat) (v : Int) : (t.writeG i v).committed = t.committed := by
  unfold Thread.writeG; split <;> rfl
@[simp] theorem Thread.writeG_element (t : Thread) (i : Nat) (v : Int) : (t.writeG i v).element = t.element := by
  unfold Thread.writeG; split <;> rfl
@[simp] theorem Thread.writeG_locks (t : Thread) (i : Nat) (v : Int) : (t.writeG i v).locks = t.locks := by
  unfold Thread.writeG; split <;> rfl
@[simp] theorem Thread.writeG_failed (t : Thread) (i : Nat) (v : Int) : (t.writeG i v).failed = t.failed := by
  unfold Thread.writeG; split <;> rfl

/-! ### Thread.writeC -/

@[simp] theorem Thread.writeC_id (t : Thread) (i : Nat) (v : Trit) : (t.writeC i v).id = t.id := by
  unfold Thread.writeC; split <;> rfl
@[simp] theorem Thread.writeC_team (t : Thread) (i : Nat) (v : Trit) : (t.writeC i v).team = t.team := by
  unfold Thread.writeC; split <;> rfl
@[simp] theorem Thread.writeC_grp (t : Thread) (i : Nat) (v : Trit) : (t.writeC i v).grp = t.grp := by
  unfold Thread.writeC; split <;> rfl
@[simp] theorem Thread.writeC_member (t : Thread) (i : Nat) (v : Trit) : (t.writeC i v).member = t.member := by
  unfold Thread.writeC; split <;> rfl
@[simp] theorem Thread.writeC_lane (t : Thread) (i : Nat) (v : Trit) : (t.writeC i v).lane = t.lane := by
  unfold Thread.writeC; split <;> rfl
@[simp] theorem Thread.writeC_core (t : Thread) (i : Nat) (v : Trit) : (t.writeC i v).core = t.core := by
  unfold Thread.writeC; split <;> rfl
@[simp] theorem Thread.writeC_nregs (t : Thread) (i : Nat) (v : Trit) : (t.writeC i v).nregs = t.nregs := by
  unfold Thread.writeC; split <;> rfl
@[simp] theorem Thread.writeC_g (t : Thread) (i : Nat) (v : Trit) : (t.writeC i v).g = t.g := by
  unfold Thread.writeC; split <;> rfl
@[simp] theorem Thread.writeC_a (t : Thread) (i : Nat) (v : Trit) : (t.writeC i v).a = t.a := by
  unfold Thread.writeC; split <;> rfl
@[simp] theorem Thread.writeC_pc (t : Thread) (i : Nat) (v : Trit) : (t.writeC i v).pc = t.pc := by
  unfold Thread.writeC; split <;> rfl
@[simp] theorem Thread.writeC_slot (t : Thread) (i : Nat) (v : Trit) : (t.writeC i v).slot = t.slot := by
  unfold Thread.writeC; split <;> rfl
@[simp] theorem Thread.writeC_clause (t : Thread) (i : Nat) (v : Trit) : (t.writeC i v).clause = t.clause := by
  unfold Thread.writeC; split <;> rfl
@[simp] theorem Thread.writeC_rstack (t : Thread) (i : Nat) (v : Trit) : (t.writeC i v).rstack = t.rstack := by
  unfold Thread.writeC; split <;> rfl
@[simp] theorem Thread.writeC_rsdepth (t : Thread) (i : Nat) (v : Trit) : (t.writeC i v).rsdepth = t.rsdepth := by
  unfold Thread.writeC; split <;> rfl
@[simp] theorem Thread.writeC_flags (t : Thread) (i : Nat) (v : Trit) : (t.writeC i v).flags = t.flags := by
  unfold Thread.writeC; split <;> rfl
@[simp] theorem Thread.writeC_status (t : Thread) (i : Nat) (v : Trit) : (t.writeC i v).status = t.status := by
  unfold Thread.writeC; split <;> rfl
@[simp] theorem Thread.writeC_splimit (t : Thread) (i : Nat) (v : Trit) : (t.writeC i v).splimit = t.splimit := by
  unfold Thread.writeC; split <;> rfl
@[simp] theorem Thread.writeC_trapvec (t : Thread) (i : Nat) (v : Trit) : (t.writeC i v).trapvec = t.trapvec := by
  unfold Thread.writeC; split <;> rfl
@[simp] theorem Thread.writeC_trappc (t : Thread) (i : Nat) (v : Trit) : (t.writeC i v).trappc = t.trappc := by
  unfold Thread.writeC; split <;> rfl
@[simp] theorem Thread.writeC_trapinfo (t : Thread) (i : Nat) (v : Trit) : (t.writeC i v).trapinfo = t.trapinfo := by
  unfold Thread.writeC; split <;> rfl
@[simp] theorem Thread.writeC_trapaddr (t : Thread) (i : Nat) (v : Trit) : (t.writeC i v).trapaddr = t.trapaddr := by
  unfold Thread.writeC; split <;> rfl
@[simp] theorem Thread.writeC_cflags (t : Thread) (i : Nat) (v : Trit) : (t.writeC i v).cflags = t.cflags := by
  unfold Thread.writeC; split <;> rfl
@[simp] theorem Thread.writeC_ops (t : Thread) (i : Nat) (v : Trit) : (t.writeC i v).ops = t.ops := by
  unfold Thread.writeC; split <;> rfl
@[simp] theorem Thread.writeC_nextOp (t : Thread) (i : Nat) (v : Trit) : (t.writeC i v).nextOp = t.nextOp := by
  unfold Thread.writeC; split <;> rfl
@[simp] theorem Thread.writeC_pend (t : Thread) (i : Nat) (v : Trit) : (t.writeC i v).pend = t.pend := by
  unfold Thread.writeC; split <;> rfl
@[simp] theorem Thread.writeC_run (t : Thread) (i : Nat) (v : Trit) : (t.writeC i v).run = t.run := by
  unfold Thread.writeC; split <;> rfl
@[simp] theorem Thread.writeC_nopOnce (t : Thread) (i : Nat) (v : Trit) : (t.writeC i v).nopOnce = t.nopOnce := by
  unfold Thread.writeC; split <;> rfl
@[simp] theorem Thread.writeC_resumed (t : Thread) (i : Nat) (v : Trit) : (t.writeC i v).resumed = t.resumed := by
  unfold Thread.writeC; split <;> rfl
@[simp] theorem Thread.writeC_readySince (t : Thread) (i : Nat) (v : Trit) : (t.writeC i v).readySince = t.readySince := by
  unfold Thread.writeC; split <;> rfl
@[simp] theorem Thread.writeC_clearSince (t : Thread) (i : Nat) (v : Trit) : (t.writeC i v).clearSince = t.clearSince := by
  unfold Thread.writeC; split <;> rfl
@[simp] theorem Thread.writeC_passed (t : Thread) (i : Nat) (v : Trit) : (t.writeC i v).passed = t.passed := by
  unfold Thread.writeC; split <;> rfl
@[simp] theorem Thread.writeC_capture (t : Thread) (i : Nat) (v : Trit) : (t.writeC i v).capture = t.capture := by
  unfold Thread.writeC; split <;> rfl
@[simp] theorem Thread.writeC_fenced (t : Thread) (i : Nat) (v : Trit) : (t.writeC i v).fenced = t.fenced := by
  unfold Thread.writeC; split <;> rfl
@[simp] theorem Thread.writeC_buf (t : Thread) (i : Nat) (v : Trit) : (t.writeC i v).buf = t.buf := by
  unfold Thread.writeC; split <;> rfl
@[simp] theorem Thread.writeC_quantum (t : Thread) (i : Nat) (v : Trit) : (t.writeC i v).quantum = t.quantum := by
  unfold Thread.writeC; split <;> rfl
@[simp] theorem Thread.writeC_committed (t : Thread) (i : Nat) (v : Trit) : (t.writeC i v).committed = t.committed := by
  unfold Thread.writeC; split <;> rfl
@[simp] theorem Thread.writeC_element (t : Thread) (i : Nat) (v : Trit) : (t.writeC i v).element = t.element := by
  unfold Thread.writeC; split <;> rfl
@[simp] theorem Thread.writeC_locks (t : Thread) (i : Nat) (v : Trit) : (t.writeC i v).locks = t.locks := by
  unfold Thread.writeC; split <;> rfl
@[simp] theorem Thread.writeC_failed (t : Thread) (i : Nat) (v : Trit) : (t.writeC i v).failed = t.failed := by
  unfold Thread.writeC; split <;> rfl

/-! ### Thread.addFlag -/

@[simp] theorem Thread.addFlag_id (t : Thread) (f : Option Nat) : (t.addFlag f).id = t.id := by
  unfold Thread.addFlag; split <;> rfl
@[simp] theorem Thread.addFlag_team (t : Thread) (f : Option Nat) : (t.addFlag f).team = t.team := by
  unfold Thread.addFlag; split <;> rfl
@[simp] theorem Thread.addFlag_grp (t : Thread) (f : Option Nat) : (t.addFlag f).grp = t.grp := by
  unfold Thread.addFlag; split <;> rfl
@[simp] theorem Thread.addFlag_member (t : Thread) (f : Option Nat) : (t.addFlag f).member = t.member := by
  unfold Thread.addFlag; split <;> rfl
@[simp] theorem Thread.addFlag_lane (t : Thread) (f : Option Nat) : (t.addFlag f).lane = t.lane := by
  unfold Thread.addFlag; split <;> rfl
@[simp] theorem Thread.addFlag_core (t : Thread) (f : Option Nat) : (t.addFlag f).core = t.core := by
  unfold Thread.addFlag; split <;> rfl
@[simp] theorem Thread.addFlag_nregs (t : Thread) (f : Option Nat) : (t.addFlag f).nregs = t.nregs := by
  unfold Thread.addFlag; split <;> rfl
@[simp] theorem Thread.addFlag_g (t : Thread) (f : Option Nat) : (t.addFlag f).g = t.g := by
  unfold Thread.addFlag; split <;> rfl
@[simp] theorem Thread.addFlag_a (t : Thread) (f : Option Nat) : (t.addFlag f).a = t.a := by
  unfold Thread.addFlag; split <;> rfl
@[simp] theorem Thread.addFlag_c (t : Thread) (f : Option Nat) : (t.addFlag f).c = t.c := by
  unfold Thread.addFlag; split <;> rfl
@[simp] theorem Thread.addFlag_pc (t : Thread) (f : Option Nat) : (t.addFlag f).pc = t.pc := by
  unfold Thread.addFlag; split <;> rfl
@[simp] theorem Thread.addFlag_slot (t : Thread) (f : Option Nat) : (t.addFlag f).slot = t.slot := by
  unfold Thread.addFlag; split <;> rfl
@[simp] theorem Thread.addFlag_clause (t : Thread) (f : Option Nat) : (t.addFlag f).clause = t.clause := by
  unfold Thread.addFlag; split <;> rfl
@[simp] theorem Thread.addFlag_rstack (t : Thread) (f : Option Nat) : (t.addFlag f).rstack = t.rstack := by
  unfold Thread.addFlag; split <;> rfl
@[simp] theorem Thread.addFlag_rsdepth (t : Thread) (f : Option Nat) : (t.addFlag f).rsdepth = t.rsdepth := by
  unfold Thread.addFlag; split <;> rfl
@[simp] theorem Thread.addFlag_flags (t : Thread) (f : Option Nat) : (t.addFlag f).flags = t.flags := by
  unfold Thread.addFlag; split <;> rfl
@[simp] theorem Thread.addFlag_status (t : Thread) (f : Option Nat) : (t.addFlag f).status = t.status := by
  unfold Thread.addFlag; split <;> rfl
@[simp] theorem Thread.addFlag_splimit (t : Thread) (f : Option Nat) : (t.addFlag f).splimit = t.splimit := by
  unfold Thread.addFlag; split <;> rfl
@[simp] theorem Thread.addFlag_trapvec (t : Thread) (f : Option Nat) : (t.addFlag f).trapvec = t.trapvec := by
  unfold Thread.addFlag; split <;> rfl
@[simp] theorem Thread.addFlag_trappc (t : Thread) (f : Option Nat) : (t.addFlag f).trappc = t.trappc := by
  unfold Thread.addFlag; split <;> rfl
@[simp] theorem Thread.addFlag_trapinfo (t : Thread) (f : Option Nat) : (t.addFlag f).trapinfo = t.trapinfo := by
  unfold Thread.addFlag; split <;> rfl
@[simp] theorem Thread.addFlag_trapaddr (t : Thread) (f : Option Nat) : (t.addFlag f).trapaddr = t.trapaddr := by
  unfold Thread.addFlag; split <;> rfl
@[simp] theorem Thread.addFlag_ops (t : Thread) (f : Option Nat) : (t.addFlag f).ops = t.ops := by
  unfold Thread.addFlag; split <;> rfl
@[simp] theorem Thread.addFlag_nextOp (t : Thread) (f : Option Nat) : (t.addFlag f).nextOp = t.nextOp := by
  unfold Thread.addFlag; split <;> rfl
@[simp] theorem Thread.addFlag_pend (t : Thread) (f : Option Nat) : (t.addFlag f).pend = t.pend := by
  unfold Thread.addFlag; split <;> rfl
@[simp] theorem Thread.addFlag_run (t : Thread) (f : Option Nat) : (t.addFlag f).run = t.run := by
  unfold Thread.addFlag; split <;> rfl
@[simp] theorem Thread.addFlag_nopOnce (t : Thread) (f : Option Nat) : (t.addFlag f).nopOnce = t.nopOnce := by
  unfold Thread.addFlag; split <;> rfl
@[simp] theorem Thread.addFlag_resumed (t : Thread) (f : Option Nat) : (t.addFlag f).resumed = t.resumed := by
  unfold Thread.addFlag; split <;> rfl
@[simp] theorem Thread.addFlag_readySince (t : Thread) (f : Option Nat) : (t.addFlag f).readySince = t.readySince := by
  unfold Thread.addFlag; split <;> rfl
@[simp] theorem Thread.addFlag_clearSince (t : Thread) (f : Option Nat) : (t.addFlag f).clearSince = t.clearSince := by
  unfold Thread.addFlag; split <;> rfl
@[simp] theorem Thread.addFlag_passed (t : Thread) (f : Option Nat) : (t.addFlag f).passed = t.passed := by
  unfold Thread.addFlag; split <;> rfl
@[simp] theorem Thread.addFlag_capture (t : Thread) (f : Option Nat) : (t.addFlag f).capture = t.capture := by
  unfold Thread.addFlag; split <;> rfl
@[simp] theorem Thread.addFlag_fenced (t : Thread) (f : Option Nat) : (t.addFlag f).fenced = t.fenced := by
  unfold Thread.addFlag; split <;> rfl
@[simp] theorem Thread.addFlag_buf (t : Thread) (f : Option Nat) : (t.addFlag f).buf = t.buf := by
  unfold Thread.addFlag; split <;> rfl
@[simp] theorem Thread.addFlag_quantum (t : Thread) (f : Option Nat) : (t.addFlag f).quantum = t.quantum := by
  unfold Thread.addFlag; split <;> rfl
@[simp] theorem Thread.addFlag_committed (t : Thread) (f : Option Nat) : (t.addFlag f).committed = t.committed := by
  unfold Thread.addFlag; split <;> rfl
@[simp] theorem Thread.addFlag_element (t : Thread) (f : Option Nat) : (t.addFlag f).element = t.element := by
  unfold Thread.addFlag; split <;> rfl
@[simp] theorem Thread.addFlag_locks (t : Thread) (f : Option Nat) : (t.addFlag f).locks = t.locks := by
  unfold Thread.addFlag; split <;> rfl
@[simp] theorem Thread.addFlag_failed (t : Thread) (f : Option Nat) : (t.addFlag f).failed = t.failed := by
  unfold Thread.addFlag; split <;> rfl

/-! ### Thread.subFlag -/

@[simp] theorem Thread.subFlag_id (t : Thread) (f : Option Nat) : (t.subFlag f).id = t.id := by
  unfold Thread.subFlag; split <;> rfl
@[simp] theorem Thread.subFlag_team (t : Thread) (f : Option Nat) : (t.subFlag f).team = t.team := by
  unfold Thread.subFlag; split <;> rfl
@[simp] theorem Thread.subFlag_grp (t : Thread) (f : Option Nat) : (t.subFlag f).grp = t.grp := by
  unfold Thread.subFlag; split <;> rfl
@[simp] theorem Thread.subFlag_member (t : Thread) (f : Option Nat) : (t.subFlag f).member = t.member := by
  unfold Thread.subFlag; split <;> rfl
@[simp] theorem Thread.subFlag_lane (t : Thread) (f : Option Nat) : (t.subFlag f).lane = t.lane := by
  unfold Thread.subFlag; split <;> rfl
@[simp] theorem Thread.subFlag_core (t : Thread) (f : Option Nat) : (t.subFlag f).core = t.core := by
  unfold Thread.subFlag; split <;> rfl
@[simp] theorem Thread.subFlag_nregs (t : Thread) (f : Option Nat) : (t.subFlag f).nregs = t.nregs := by
  unfold Thread.subFlag; split <;> rfl
@[simp] theorem Thread.subFlag_g (t : Thread) (f : Option Nat) : (t.subFlag f).g = t.g := by
  unfold Thread.subFlag; split <;> rfl
@[simp] theorem Thread.subFlag_a (t : Thread) (f : Option Nat) : (t.subFlag f).a = t.a := by
  unfold Thread.subFlag; split <;> rfl
@[simp] theorem Thread.subFlag_c (t : Thread) (f : Option Nat) : (t.subFlag f).c = t.c := by
  unfold Thread.subFlag; split <;> rfl
@[simp] theorem Thread.subFlag_pc (t : Thread) (f : Option Nat) : (t.subFlag f).pc = t.pc := by
  unfold Thread.subFlag; split <;> rfl
@[simp] theorem Thread.subFlag_slot (t : Thread) (f : Option Nat) : (t.subFlag f).slot = t.slot := by
  unfold Thread.subFlag; split <;> rfl
@[simp] theorem Thread.subFlag_clause (t : Thread) (f : Option Nat) : (t.subFlag f).clause = t.clause := by
  unfold Thread.subFlag; split <;> rfl
@[simp] theorem Thread.subFlag_rstack (t : Thread) (f : Option Nat) : (t.subFlag f).rstack = t.rstack := by
  unfold Thread.subFlag; split <;> rfl
@[simp] theorem Thread.subFlag_rsdepth (t : Thread) (f : Option Nat) : (t.subFlag f).rsdepth = t.rsdepth := by
  unfold Thread.subFlag; split <;> rfl
@[simp] theorem Thread.subFlag_flags (t : Thread) (f : Option Nat) : (t.subFlag f).flags = t.flags := by
  unfold Thread.subFlag; split <;> rfl
@[simp] theorem Thread.subFlag_status (t : Thread) (f : Option Nat) : (t.subFlag f).status = t.status := by
  unfold Thread.subFlag; split <;> rfl
@[simp] theorem Thread.subFlag_splimit (t : Thread) (f : Option Nat) : (t.subFlag f).splimit = t.splimit := by
  unfold Thread.subFlag; split <;> rfl
@[simp] theorem Thread.subFlag_trapvec (t : Thread) (f : Option Nat) : (t.subFlag f).trapvec = t.trapvec := by
  unfold Thread.subFlag; split <;> rfl
@[simp] theorem Thread.subFlag_trappc (t : Thread) (f : Option Nat) : (t.subFlag f).trappc = t.trappc := by
  unfold Thread.subFlag; split <;> rfl
@[simp] theorem Thread.subFlag_trapinfo (t : Thread) (f : Option Nat) : (t.subFlag f).trapinfo = t.trapinfo := by
  unfold Thread.subFlag; split <;> rfl
@[simp] theorem Thread.subFlag_trapaddr (t : Thread) (f : Option Nat) : (t.subFlag f).trapaddr = t.trapaddr := by
  unfold Thread.subFlag; split <;> rfl
@[simp] theorem Thread.subFlag_ops (t : Thread) (f : Option Nat) : (t.subFlag f).ops = t.ops := by
  unfold Thread.subFlag; split <;> rfl
@[simp] theorem Thread.subFlag_nextOp (t : Thread) (f : Option Nat) : (t.subFlag f).nextOp = t.nextOp := by
  unfold Thread.subFlag; split <;> rfl
@[simp] theorem Thread.subFlag_pend (t : Thread) (f : Option Nat) : (t.subFlag f).pend = t.pend := by
  unfold Thread.subFlag; split <;> rfl
@[simp] theorem Thread.subFlag_run (t : Thread) (f : Option Nat) : (t.subFlag f).run = t.run := by
  unfold Thread.subFlag; split <;> rfl
@[simp] theorem Thread.subFlag_nopOnce (t : Thread) (f : Option Nat) : (t.subFlag f).nopOnce = t.nopOnce := by
  unfold Thread.subFlag; split <;> rfl
@[simp] theorem Thread.subFlag_resumed (t : Thread) (f : Option Nat) : (t.subFlag f).resumed = t.resumed := by
  unfold Thread.subFlag; split <;> rfl
@[simp] theorem Thread.subFlag_readySince (t : Thread) (f : Option Nat) : (t.subFlag f).readySince = t.readySince := by
  unfold Thread.subFlag; split <;> rfl
@[simp] theorem Thread.subFlag_clearSince (t : Thread) (f : Option Nat) : (t.subFlag f).clearSince = t.clearSince := by
  unfold Thread.subFlag; split <;> rfl
@[simp] theorem Thread.subFlag_passed (t : Thread) (f : Option Nat) : (t.subFlag f).passed = t.passed := by
  unfold Thread.subFlag; split <;> rfl
@[simp] theorem Thread.subFlag_capture (t : Thread) (f : Option Nat) : (t.subFlag f).capture = t.capture := by
  unfold Thread.subFlag; split <;> rfl
@[simp] theorem Thread.subFlag_fenced (t : Thread) (f : Option Nat) : (t.subFlag f).fenced = t.fenced := by
  unfold Thread.subFlag; split <;> rfl
@[simp] theorem Thread.subFlag_buf (t : Thread) (f : Option Nat) : (t.subFlag f).buf = t.buf := by
  unfold Thread.subFlag; split <;> rfl
@[simp] theorem Thread.subFlag_quantum (t : Thread) (f : Option Nat) : (t.subFlag f).quantum = t.quantum := by
  unfold Thread.subFlag; split <;> rfl
@[simp] theorem Thread.subFlag_committed (t : Thread) (f : Option Nat) : (t.subFlag f).committed = t.committed := by
  unfold Thread.subFlag; split <;> rfl
@[simp] theorem Thread.subFlag_element (t : Thread) (f : Option Nat) : (t.subFlag f).element = t.element := by
  unfold Thread.subFlag; split <;> rfl
@[simp] theorem Thread.subFlag_locks (t : Thread) (f : Option Nat) : (t.subFlag f).locks = t.locks := by
  unfold Thread.subFlag; split <;> rfl
@[simp] theorem Thread.subFlag_failed (t : Thread) (f : Option Nat) : (t.subFlag f).failed = t.failed := by
  unfold Thread.subFlag; split <;> rfl

/-! ### Thread.advance -/

@[simp] theorem Thread.advance_id (t : Thread) : (t.advance).id = t.id := by
  exact (apply_ite Thread.id _ _ _).trans (ite_self _)
@[simp] theorem Thread.advance_team (t : Thread) : (t.advance).team = t.team := by
  exact (apply_ite Thread.team _ _ _).trans (ite_self _)
@[simp] theorem Thread.advance_grp (t : Thread) : (t.advance).grp = t.grp := by
  exact (apply_ite Thread.grp _ _ _).trans (ite_self _)
@[simp] theorem Thread.advance_member (t : Thread) : (t.advance).member = t.member := by
  exact (apply_ite Thread.member _ _ _).trans (ite_self _)
@[simp] theorem Thread.advance_lane (t : Thread) : (t.advance).lane = t.lane := by
  exact (apply_ite Thread.lane _ _ _).trans (ite_self _)
@[simp] theorem Thread.advance_core (t : Thread) : (t.advance).core = t.core := by
  exact (apply_ite Thread.core _ _ _).trans (ite_self _)
@[simp] theorem Thread.advance_nregs (t : Thread) : (t.advance).nregs = t.nregs := by
  exact (apply_ite Thread.nregs _ _ _).trans (ite_self _)
@[simp] theorem Thread.advance_g (t : Thread) : (t.advance).g = t.g := by
  exact (apply_ite Thread.g _ _ _).trans (ite_self _)
@[simp] theorem Thread.advance_a (t : Thread) : (t.advance).a = t.a := by
  exact (apply_ite Thread.a _ _ _).trans (ite_self _)
@[simp] theorem Thread.advance_c (t : Thread) : (t.advance).c = t.c := by
  exact (apply_ite Thread.c _ _ _).trans (ite_self _)
@[simp] theorem Thread.advance_rstack (t : Thread) : (t.advance).rstack = t.rstack := by
  exact (apply_ite Thread.rstack _ _ _).trans (ite_self _)
@[simp] theorem Thread.advance_rsdepth (t : Thread) : (t.advance).rsdepth = t.rsdepth := by
  exact (apply_ite Thread.rsdepth _ _ _).trans (ite_self _)
@[simp] theorem Thread.advance_flags (t : Thread) : (t.advance).flags = t.flags := by
  exact (apply_ite Thread.flags _ _ _).trans (ite_self _)
@[simp] theorem Thread.advance_status (t : Thread) : (t.advance).status = t.status := by
  exact (apply_ite Thread.status _ _ _).trans (ite_self _)
@[simp] theorem Thread.advance_splimit (t : Thread) : (t.advance).splimit = t.splimit := by
  exact (apply_ite Thread.splimit _ _ _).trans (ite_self _)
@[simp] theorem Thread.advance_trapvec (t : Thread) : (t.advance).trapvec = t.trapvec := by
  exact (apply_ite Thread.trapvec _ _ _).trans (ite_self _)
@[simp] theorem Thread.advance_trappc (t : Thread) : (t.advance).trappc = t.trappc := by
  exact (apply_ite Thread.trappc _ _ _).trans (ite_self _)
@[simp] theorem Thread.advance_trapinfo (t : Thread) : (t.advance).trapinfo = t.trapinfo := by
  exact (apply_ite Thread.trapinfo _ _ _).trans (ite_self _)
@[simp] theorem Thread.advance_trapaddr (t : Thread) : (t.advance).trapaddr = t.trapaddr := by
  exact (apply_ite Thread.trapaddr _ _ _).trans (ite_self _)
@[simp] theorem Thread.advance_cflags (t : Thread) : (t.advance).cflags = t.cflags := by
  exact (apply_ite Thread.cflags _ _ _).trans (ite_self _)
@[simp] theorem Thread.advance_ops (t : Thread) : (t.advance).ops = t.ops := by
  exact (apply_ite Thread.ops _ _ _).trans (ite_self _)
@[simp] theorem Thread.advance_nextOp (t : Thread) : (t.advance).nextOp = t.nextOp := by
  exact (apply_ite Thread.nextOp _ _ _).trans (ite_self _)
@[simp] theorem Thread.advance_pend (t : Thread) : (t.advance).pend = t.pend := by
  exact (apply_ite Thread.pend _ _ _).trans (ite_self _)
@[simp] theorem Thread.advance_capture (t : Thread) : (t.advance).capture = t.capture := by
  exact (apply_ite Thread.capture _ _ _).trans (ite_self _)
@[simp] theorem Thread.advance_fenced (t : Thread) : (t.advance).fenced = t.fenced := by
  exact (apply_ite Thread.fenced _ _ _).trans (ite_self _)
@[simp] theorem Thread.advance_buf (t : Thread) : (t.advance).buf = t.buf := by
  exact (apply_ite Thread.buf _ _ _).trans (ite_self _)
@[simp] theorem Thread.advance_element (t : Thread) : (t.advance).element = t.element := by
  exact (apply_ite Thread.element _ _ _).trans (ite_self _)
@[simp] theorem Thread.advance_locks (t : Thread) : (t.advance).locks = t.locks := by
  exact (apply_ite Thread.locks _ _ _).trans (ite_self _)
@[simp] theorem Thread.advance_failed (t : Thread) : (t.advance).failed = t.failed := by
  exact (apply_ite Thread.failed _ _ _).trans (ite_self _)

end Sys2Proof.Machine
end

