-- ==== Sys2Proof/Laws/Thread.lean ====
section
/-!
SUPPORT. Registers of a thread: reads after writes, sizes after every update, and where a thread goes on.
-/

namespace Sys2Proof.Machine

theorem gUse_inj {i j : Nat} : gUse i = gUse j ↔ i = j := by simp [gUse]
theorem aUse_inj {i j : Nat} : aUse i = aUse j ↔ i = j := by simp [aUse]
theorem cUse_inj {i j : Nat} : cUse i = cUse j ↔ i = j := by simp [cUse]

@[simp] theorem gUse_ne_aUse (i j : Nat) : gUse i ≠ aUse j := by simp [gUse, aUse]
@[simp] theorem gUse_ne_cUse (i j : Nat) : gUse i ≠ cUse j := by simp [gUse, cUse]
@[simp] theorem aUse_ne_gUse (i j : Nat) : aUse i ≠ gUse j := by simp [gUse, aUse]
@[simp] theorem aUse_ne_cUse (i j : Nat) : aUse i ≠ cUse j := by simp [aUse, cUse]
@[simp] theorem cUse_ne_gUse (i j : Nat) : cUse i ≠ gUse j := by simp [gUse, cUse]
@[simp] theorem cUse_ne_aUse (i j : Nat) : cUse i ≠ aUse j := by simp [aUse, cUse]

/-! ### Reads after writes -/

theorem Thread.readG_writeG (t : Thread) {d : Nat} (h : d < t.g.length) (v : Int) (i : Nat) :
    (t.writeG d v).readG i = if i = 0 then 0 else if i = d then v else t.readG i := by
  unfold Thread.readG Thread.writeG
  by_cases hi : i = 0
  · simp [hi]
  · by_cases hd : d = 0
    · simp [hi, hd]
    · by_cases hid : i = d
      · subst hid; simp [hi, List.getD_eq_getElem?_getD, h]
      · simp [hi, hd, hid, List.getD_eq_getElem?_getD, Ne.symm hid]

theorem Thread.readG_writeG_ne (t : Thread) {d i : Nat} (v : Int) (h : i ≠ d) :
    (t.writeG d v).readG i = t.readG i := by
  unfold Thread.readG Thread.writeG
  by_cases hd : d = 0
  · simp [hd]
  · simp [hd, List.getD_eq_getElem?_getD, Ne.symm h]

theorem Thread.readA_writeA (t : Thread) {d : Nat} (h : d < t.a.length) (v : Int) (i : Nat) :
    (t.writeA d v).readA i = if i = d then v else t.readA i := by
  unfold Thread.readA Thread.writeA
  by_cases hid : i = d
  · subst hid; simp [List.getD_eq_getElem?_getD, h]
  · simp [hid, List.getD_eq_getElem?_getD, Ne.symm hid]

theorem Thread.readA_writeA_ne (t : Thread) {d i : Nat} (v : Int) (h : i ≠ d) :
    (t.writeA d v).readA i = t.readA i := by
  simp [Thread.readA, Thread.writeA, List.getD_eq_getElem?_getD, Ne.symm h]

theorem Thread.readC_writeC (t : Thread) {d : Nat} (h : d < t.c.length) (v : Trit) (i : Nat) :
    (t.writeC d v).readC i = if i = 0 then .zero else if i = d then v else t.readC i := by
  unfold Thread.readC Thread.writeC
  by_cases hi : i = 0
  · simp [hi]
  · by_cases hd : d = 0
    · simp [hi, hd]
    · by_cases hid : i = d
      · subst hid; simp [hi, List.getD_eq_getElem?_getD, h]
      · simp [hi, hd, hid, List.getD_eq_getElem?_getD, Ne.symm hid]

theorem Thread.readC_writeC_ne (t : Thread) {d i : Nat} (v : Trit) (h : i ≠ d) :
    (t.writeC d v).readC i = t.readC i := by
  unfold Thread.readC Thread.writeC
  by_cases hd : d = 0
  · simp [hd]
  · simp [hd, List.getD_eq_getElem?_getD, Ne.symm h]

@[simp] theorem Thread.readG_zero (t : Thread) : t.readG 0 = 0 := by simp [Thread.readG]
@[simp] theorem Thread.readC_zero (t : Thread) : t.readC 0 = .zero := by simp [Thread.readC]

/-- Reads depend on the file alone. -/
theorem Thread.readG_congr {t u : Thread} (h : t.g = u.g) (i : Nat) : t.readG i = u.readG i := by
  simp [Thread.readG, h]
theorem Thread.readA_congr {t u : Thread} (h : t.a = u.a) (i : Nat) : t.readA i = u.readA i := by
  simp [Thread.readA, h]
theorem Thread.readC_congr {t u : Thread} (h : t.c = u.c) (i : Nat) : t.readC i = u.readC i := by
  simp [Thread.readC, h]

@[simp] theorem Thread.advance_readG (t : Thread) (i : Nat) : t.advance.readG i = t.readG i :=
  Thread.readG_congr (by simp) i
@[simp] theorem Thread.advance_readA (t : Thread) (i : Nat) : t.advance.readA i = t.readA i :=
  Thread.readA_congr (by simp) i
@[simp] theorem Thread.advance_readC (t : Thread) (i : Nat) : t.advance.readC i = t.readC i :=
  Thread.readC_congr (by simp) i
@[simp] theorem Thread.writeG_readA (t : Thread) (d : Nat) (v : Int) (i : Nat) : (t.writeG d v).readA i = t.readA i :=
  Thread.readA_congr (by simp) i
@[simp] theorem Thread.writeG_readC (t : Thread) (d : Nat) (v : Int) (i : Nat) : (t.writeG d v).readC i = t.readC i :=
  Thread.readC_congr (by simp) i
@[simp] theorem Thread.writeA_readG (t : Thread) (d : Nat) (v : Int) (i : Nat) : (t.writeA d v).readG i = t.readG i :=
  Thread.readG_congr (by simp) i
@[simp] theorem Thread.writeA_readC (t : Thread) (d : Nat) (v : Int) (i : Nat) : (t.writeA d v).readC i = t.readC i :=
  Thread.readC_congr (by simp) i
@[simp] theorem Thread.writeC_readG (t : Thread) (d : Nat) (v : Trit) (i : Nat) : (t.writeC d v).readG i = t.readG i :=
  Thread.readG_congr (by simp) i
@[simp] theorem Thread.writeC_readA (t : Thread) (d : Nat) (v : Trit) (i : Nat) : (t.writeC d v).readA i = t.readA i :=
  Thread.readA_congr (by simp) i
@[simp] theorem Thread.raise_readG (t : Thread) (f : RealFlags) (i : Nat) : (t.raise f).readG i = t.readG i := rfl
@[simp] theorem Thread.raise_readA (t : Thread) (f : RealFlags) (i : Nat) : (t.raise f).readA i = t.readA i := rfl
@[simp] theorem Thread.raise_readC (t : Thread) (f : RealFlags) (i : Nat) : (t.raise f).readC i = t.readC i := rfl

/-! ### Going on -/

/-- A thread that ends as `advance` of a thread at the same place goes on. -/
theorem Thread.goesOn_advance {t u : Thread} (hp : u.pc = t.pc) (hs : u.slot = t.slot) (hc : u.clause = t.clause)
    (hr : u.run = t.run) : t.GoesOn u.advance := by
  unfold Thread.GoesOn Thread.advance Thread.len Thread.fallAddr Thread.header Thread.toBoundary
  simp only [hs, hc, hp, hr]
  split <;> simp

/-- The frame from the fields. -/
theorem Thread.frame_of {d : List RegUse} {t u : Thread}
    (who : (u.id, u.team, u.grp, u.member, u.lane, u.core, u.nregs) =
      (t.id, t.team, t.grp, t.member, t.lane, t.core, t.nregs))
    (g : ∀ i, gUse i ∉ d → u.readG i = t.readG i) (a : ∀ i, aUse i ∉ d → u.readA i = t.readA i)
    (c : ∀ i, cUse i ∉ d → u.readC i = t.readC i) (calls : (u.rstack, u.rsdepth) = (t.rstack, t.rsdepth))
    (status : u.status = t.status)
    (trap : (u.splimit, u.trapvec, u.trappc, u.trapinfo, u.trapaddr) =
      (t.splimit, t.trapvec, t.trappc, t.trapinfo, t.trapaddr))
    (flight : (u.cflags, u.ops, u.pend, u.buf) = (t.cflags, t.ops, t.pend, t.buf))
    (stays : (u.element, u.failed) = (t.element, t.failed)) : t.Frame d u :=
  ⟨who, g, a, c, calls, status, trap, flight, stays⟩

/-! ### Sizes -/

theorem Thread.Sized.writeG {t : Thread} (h : t.Sized) (i : Nat) (v : Int) : (t.writeG i v).Sized := by
  refine ⟨?_, by simpa using h.a, by simpa using h.c, by simpa using h.flags⟩
  rw [Thread.writeG_nregs, ← h.g]; unfold Thread.writeG; split <;> simp

theorem Thread.Sized.writeA {t : Thread} (h : t.Sized) (i : Nat) (v : Int) : (t.writeA i v).Sized :=
  ⟨h.g, by simp [Thread.writeA, h.a], h.c, h.flags⟩

theorem Thread.Sized.writeC {t : Thread} (h : t.Sized) (i : Nat) (v : Trit) : (t.writeC i v).Sized := by
  refine ⟨by simpa using h.g, by simpa using h.a, ?_, by simpa using h.flags⟩
  rw [← h.c]; unfold Thread.writeC; split <;> simp

/-- Sizes depend on the files alone. -/
theorem Thread.Sized.congr {t u : Thread} (h : t.Sized) (hg : u.g = t.g) (hn : u.nregs = t.nregs) (ha : u.a = t.a)
    (hc : u.c = t.c) (hf : u.cflags.length = t.cflags.length) : u.Sized :=
  ⟨by rw [hg, hn, h.g], by rw [ha, h.a], by rw [hc, h.c], by rw [hf, h.flags]⟩

theorem Thread.Sized.advance {t : Thread} (h : t.Sized) : t.advance.Sized :=
  h.congr (by simp) (by simp) (by simp) (by simp) (by simp)

theorem Thread.Sized.toBoundary {t : Thread} (h : t.Sized) (pc : Int) (via : Via) : (t.toBoundary pc via).Sized :=
  h.congr rfl rfl rfl rfl rfl

theorem Thread.Sized.deliver {t : Thread} (h : t.Sized) (slot : Nat) (hdr : Int) (c : Cause) :
    (t.deliver slot hdr c).Sized := by
  unfold Thread.deliver; split <;> exact h.congr rfl rfl rfl rfl rfl

theorem Thread.Sized.addFlag {t : Thread} (h : t.Sized) (f : Option Nat) : (t.addFlag f).Sized := by
  unfold Thread.addFlag; split
  · exact h
  · exact h.congr rfl rfl rfl rfl (by simp)

theorem Thread.Sized.subFlag {t : Thread} (h : t.Sized) (f : Option Nat) : (t.subFlag f).Sized := by
  unfold Thread.subFlag; split
  · exact h
  · exact h.congr rfl rfl rfl rfl (by simp)

theorem Thread.Sized.writeGs {t : Thread} (h : t.Sized) (l : List (Nat × Int)) : (t.writeGs l).Sized := by
  induction l generalizing t with
  | nil => exact h
  | cons p l ih => exact ih (h.writeG p.1 p.2)

theorem Thread.Sized.writeAs {t : Thread} (h : t.Sized) (l : List (Nat × Int)) : (t.writeAs l).Sized := by
  induction l generalizing t with
  | nil => exact h
  | cons p l ih => exact ih (h.writeA p.1 p.2)

theorem Thread.Sized.writeCs {t : Thread} (h : t.Sized) (l : List (Nat × Trit)) : (t.writeCs l).Sized := by
  induction l generalizing t with
  | nil => exact h
  | cons p l ih => exact ih (h.writeC p.1 p.2)

end Sys2Proof.Machine
end

