-- ==== Sys2Proof/Laws/Words.lean ====
section
/-!
SUPPORT. Balanced ternary arithmetic: the range of wrap and sat, the split of a word at a trit, and the elements
of packed words.
-/

namespace Sys2Proof

theorem p3_pos (n : Nat) : 0 < p3 n := by unfold p3; positivity

theorem p3_add (m n : Nat) : p3 (m + n) = p3 m * p3 n := by unfold p3; ring

/-- 3^n is one more than twice the largest n-trit value (R11). -/
theorem two_maxTrits (n : Nat) : 2 * maxTrits n + 1 = p3 n := by
  have h : (p3 n - 1) % 2 = 0 := by
    unfold p3
    induction n with
    | zero => rfl
    | succ n ih => rw [pow_succ]; omega
  unfold maxTrits; omega

theorem maxTrits_nonneg (n : Nat) : 0 ≤ maxTrits n := by
  have := two_maxTrits n; have := p3_pos n; omega

theorem maxTrits_mono {m n : Nat} (h : m ≤ n) : maxTrits m ≤ maxTrits n := by
  have hm := two_maxTrits m; have hn := two_maxTrits n
  have : p3 m ≤ p3 n := by
    unfold p3; exact pow_le_pow_right₀ (by norm_num) h
  omega

theorem fits_iff {n : Nat} {x : Int} : fits n x = true ↔ -maxTrits n ≤ x ∧ x ≤ maxTrits n := by
  simp [fits]

/-! ### wrap, sat, trunc -/

theorem wrap_range (n : Nat) (x : Int) : -maxTrits n ≤ wrap n x ∧ wrap n x ≤ maxTrits n := by
  have h1 := Int.emod_nonneg (x + maxTrits n) (p3_pos n).ne'
  have h2 := Int.emod_lt_of_pos (x + maxTrits n) (p3_pos n)
  have := two_maxTrits n
  unfold wrap; omega

theorem fits_wrap (n : Nat) (x : Int) : fits n (wrap n x) = true := fits_iff.2 (wrap_range n x)

theorem sat_range (n : Nat) (x : Int) : -maxTrits n ≤ sat n x ∧ sat n x ≤ maxTrits n := by
  have := maxTrits_nonneg n
  unfold sat; split
  · omega
  · split <;> omega

theorem fits_sat (n : Nat) (x : Int) : fits n (sat n x) = true := fits_iff.2 (sat_range n x)

theorem wrap_of_fits {n : Nat} {x : Int} (h : fits n x = true) : wrap n x = x := by
  rw [fits_iff] at h
  have := two_maxTrits n
  unfold wrap; rw [Int.emod_eq_of_lt] <;> omega

/-- A word is its low trits and the rest (R11, R19). -/
theorem wrap_add_trunc (n : Nat) (x : Int) : wrap n x + p3 n * trunc n x = x := by
  have := Int.emod_add_mul_ediv (x + maxTrits n) (p3 n)
  unfold wrap trunc; omega

theorem trunc_add_mul {n : Nat} {a : Int} (b : Int) (h : fits n a = true) : trunc n (a + p3 n * b) = b := by
  rw [fits_iff] at h
  have h2 := two_maxTrits n
  unfold trunc
  rw [show a + p3 n * b + maxTrits n = (a + maxTrits n) + p3 n * b by ring,
    Int.add_mul_ediv_left _ _ (p3_pos n).ne', Int.ediv_eq_zero_of_lt] <;> omega

theorem wrap_add_mul {n : Nat} {a : Int} (b : Int) (h : fits n a = true) : wrap n (a + p3 n * b) = a := by
  have h1 := wrap_add_trunc n (a + p3 n * b)
  rw [trunc_add_mul b h] at h1; omega

@[simp] theorem trunc_zero (x : Int) : trunc 0 x = x := by simp [trunc, maxTrits, p3]

theorem trunc_trunc (m n : Nat) (x : Int) : trunc m (trunc n x) = trunc (n + m) x := by
  have h1 := two_maxTrits m; have h2 := two_maxTrits n; have h3 := two_maxTrits (n + m)
  rw [p3_add] at h3
  have e : maxTrits (n + m) = maxTrits n + p3 n * maxTrits m := by
    have h4 : p3 n * p3 m = 2 * (p3 n * maxTrits m) + p3 n := by rw [← h1]; ring
    linarith
  unfold trunc
  rw [e, p3_add, ← Int.ediv_ediv_of_nonneg (p3_pos n).le,
    show x + (maxTrits n + p3 n * maxTrits m) = (x + maxTrits n) + p3 n * maxTrits m by ring,
    Int.add_mul_ediv_left _ _ (p3_pos n).ne']

namespace Machine

/-! ### Elements (R91) -/

theorem fits_elem (sh : Shape) (x : Int) (k : Nat) : fits (elemWidth sh) (elem sh x k) = true := fits_wrap _ _

theorem elem_pack1 (a : Int) (h : fits 27 a = true) : elem .word (packElems .word [a]) 0 = a := by
  simp [elem, packElems, elemWidth, p3, wrap_of_fits h]

theorem packTrytes (a b c : Int) : packElems .trytes [a, b, c] = a + p3 9 * (b + p3 9 * c) := by
  simp [packElems, elemWidth, p3]; ring

theorem packHalves (a b : Int) : packElems .halves [a, b] = a + p3 13 * b := by
  simp [packElems, elemWidth, p3]; ring

theorem elem_pack3 {a b c : Int} (ha : fits 9 a = true) (hb : fits 9 b = true) (hc : fits 9 c = true) :
    elem .trytes (packElems .trytes [a, b, c]) 0 = a ∧ elem .trytes (packElems .trytes [a, b, c]) 1 = b ∧
      elem .trytes (packElems .trytes [a, b, c]) 2 = c := by
  rw [packTrytes]
  refine ⟨?_, ?_, ?_⟩ <;> simp only [elem, elemWidth]
  · simp [wrap_add_mul _ ha]
  · rw [show (9 * 1) = 9 from rfl, trunc_add_mul _ ha, wrap_add_mul _ hb]
  · rw [show (9 * 2) = 9 + 9 from rfl, ← trunc_trunc, trunc_add_mul _ ha, trunc_add_mul _ hb, wrap_of_fits hc]

theorem elem_pack2 {a b : Int} (ha : fits 13 a = true) (hb : fits 13 b = true) :
    elem .halves (packElems .halves [a, b]) 0 = a ∧ elem .halves (packElems .halves [a, b]) 1 = b := by
  rw [packHalves]
  refine ⟨?_, ?_⟩ <;> simp only [elem, elemWidth]
  · simp [wrap_add_mul _ ha]
  · rw [show (13 * 1) = 13 from rfl, trunc_add_mul _ ha, wrap_of_fits hb]

/-- Trit 26 of a word of halves is 0 (R15). -/
theorem high_pack2 {a b : Int} (ha : fits 13 a = true) (hb : fits 13 b = true) :
    trits (packElems .halves [a, b]) 26 26 = 0 := by
  rw [packHalves]
  simp only [trits]
  rw [show 26 = 13 + 13 from rfl, ← trunc_trunc, trunc_add_mul _ ha]
  have : trunc 13 b = 0 := by simpa using trunc_add_mul (n := 13) (a := b) 0 hb
  rw [this]; decide

theorem fits_pack1 {a : Int} (h : fits 27 a = true) : fits 27 (packElems .word [a]) = true := by
  simpa [packElems, elemWidth, p3] using h

theorem fits_pack2 {a b : Int} (ha : fits 13 a = true) (hb : fits 13 b = true) :
    fits 27 (packElems .halves [a, b]) = true := by
  rw [packHalves]; rw [fits_iff] at *
  norm_num [maxTrits, p3] at *; omega

theorem fits_pack3 {a b c : Int} (ha : fits 9 a = true) (hb : fits 9 b = true) (hc : fits 9 c = true) :
    fits 27 (packElems .trytes [a, b, c]) = true := by
  rw [packTrytes]; rw [fits_iff] at *
  norm_num [maxTrits, p3] at *; omega

theorem elem_mapElems {sh : Shape} {f : Int → Int} {x : Int} (h : ∀ k, fits (elemWidth sh) (f (elem sh x k)) = true)
    {k : Nat} (hk : k < elemCount sh) : elem sh (mapElems sh f x) k = f (elem sh x k) := by
  unfold mapElems elems
  cases sh <;> simp only [elemCount, elemWidth] at hk h ⊢
  · have := elem_pack3 (h 0) (h 1) (h 2)
    interval_cases k <;> simp [List.range_succ, this]
  · have := elem_pack1 _ (h 0)
    interval_cases k; simpa [List.range_succ] using this
  · have := elem_pack2 (h 0) (h 1)
    interval_cases k <;> simp [List.range_succ, this]

theorem elem_mapElems2 {sh : Shape} {f : Int → Int → Int} {x y : Int}
    (h : ∀ k, fits (elemWidth sh) (f (elem sh x k) (elem sh y k)) = true) {k : Nat} (hk : k < elemCount sh) :
    elem sh (mapElems2 sh f x y) k = f (elem sh x k) (elem sh y k) := by
  unfold mapElems2 elems
  cases sh <;> simp only [elemCount, elemWidth] at hk h ⊢
  · have := elem_pack3 (h 0) (h 1) (h 2)
    interval_cases k <;> simp [List.range_succ, this]
  · have := elem_pack1 _ (h 0)
    interval_cases k; simpa [List.range_succ] using this
  · have := elem_pack2 (h 0) (h 1)
    interval_cases k <;> simp [List.range_succ, this]

theorem fits_mapElems {sh : Shape} {f : Int → Int} {x : Int}
    (h : ∀ k, fits (elemWidth sh) (f (elem sh x k)) = true) : fits 27 (mapElems sh f x) = true := by
  unfold mapElems elems
  cases sh <;> simp only [elemCount, elemWidth] at h ⊢
  · simpa [List.range_succ] using fits_pack3 (h 0) (h 1) (h 2)
  · simpa [List.range_succ] using fits_pack1 (h 0)
  · simpa [List.range_succ] using fits_pack2 (h 0) (h 1)

theorem fits_mapElems2 {sh : Shape} {f : Int → Int → Int} {x y : Int}
    (h : ∀ k, fits (elemWidth sh) (f (elem sh x k) (elem sh y k)) = true) :
    fits 27 (mapElems2 sh f x y) = true := by
  unfold mapElems2 elems
  cases sh <;> simp only [elemCount, elemWidth] at h ⊢
  · simpa [List.range_succ] using fits_pack3 (h 0) (h 1) (h 2)
  · simpa [List.range_succ] using fits_pack1 (h 0)
  · simpa [List.range_succ] using fits_pack2 (h 0) (h 1)

theorem high_mapElems {f : Int → Int} {x : Int} (h : ∀ k, fits 13 (f (elem .halves x k)) = true) :
    trits (mapElems .halves f x) 26 26 = 0 := by
  simpa [mapElems, elems, elemCount, List.range_succ] using high_pack2 (h 0) (h 1)

theorem high_mapElems2 {f : Int → Int → Int} {x y : Int}
    (h : ∀ k, fits 13 (f (elem .halves x k) (elem .halves y k)) = true) :
    trits (mapElems2 .halves f x y) 26 26 = 0 := by
  simpa [mapElems2, elems, elemCount, List.range_succ] using high_pack2 (h 0) (h 1)

end Machine

end Sys2Proof
end

