-- ==== Sys2Proof/Laws/Run.lean ====
section
/-!
SUPPORT. What the runners of instructions do, once for every instruction: the lanes of a gang, one lane, one group.
-/

namespace Sys2Proof.Machine

/-! ### Settling -/

theorem State.settle_of_calm {s : State} (h : s.Calm) : s.settle = s := by
  have : s.threads.filter (fun t => t.failed.isSome) = [] := by
    rw [List.filter_eq_nil_iff]; intro t ht; simp [h t ht]
  simp [State.settle, this]

/-- A map of the threads that leaves no failure keeps the machine calm. -/
theorem State.calm_map {s : State} {F : Thread → Thread} (h : ∀ t ∈ s.threads, (F t).failed = none) :
    ({ s with threads := s.threads.map F } : State).Calm := by
  intro u hu
  obtain ⟨t, ht, rfl⟩ := List.mem_map.1 hu
  exact h t ht

theorem State.Calm.mapThread {s : State} (h : s.Calm) {id : ThreadId} {f : Thread → Thread}
    (hf : ∀ t ∈ s.threads, t.id = id → (f t).failed = none) : (s.mapThread id f).Calm := by
  refine State.calm_map fun t ht => ?_
  by_cases hid : t.id = id
  · simp [hid, hf t ht hid]
  · simp [hid, h t ht]

/-! ### One instruction of each thread -/

theorem Thread.execute_passes {uses : List RegUse} {gd : Guard} {f : Thread → Except Cause Thread} {t : Thread}
    (h : t.Passes gd) : t.execute uses gd f = t.advance := by
  unfold Thread.execute; exact if_pos h

theorem Thread.execute_ok {uses : List RegUse} {gd : Guard} {f : Thread → Except Cause Thread} {t t' : Thread}
    (h : ¬ t.Passes gd) (ho : uses.all t.owns = true) (hf : f t = .ok t') : t.execute uses gd f = t' := by
  unfold Thread.execute; rw [if_neg (show ¬ (_ ∨ _) from h)]; simp [ho, hf]

theorem Thread.execute_error {uses : List RegUse} {gd : Guard} {f : Thread → Except Cause Thread} {t : Thread}
    {c : Cause} (h : ¬ t.Passes gd) (ho : uses.all t.owns = true) (hf : f t = .error c) :
    t.execute uses gd f = t.fault c := by
  unfold Thread.execute; rw [if_neg (show ¬ (_ ∨ _) from h)]; simp [ho, hf]

theorem Thread.execute_unowned {uses : List RegUse} {gd : Guard} {f : Thread → Except Cause Thread} {t : Thread}
    (h : ¬ t.Passes gd) (ho : uses.all t.owns = false) : t.execute uses gd f = t.fault (t.illegal 3) := by
  unfold Thread.execute; rw [if_neg (show ¬ (_ ∨ _) from h)]; simp [ho]

/-- An instruction whose effect is confined to its thread completes on every lane that executes it, when its part is
defined there. -/
theorem State.runLocal_completes {s : State} {gd : Guard} {uses : List RegUse} {f : Thread → Except Cause Thread}
    {Post : Thread → Thread → Prop} (hr : s.Ready gd uses)
    (h : ∀ t ∈ s.threads, t.id ∈ s.members → ¬ t.Passes gd → t.Sized → uses.all t.owns = true → t.failed = none →
      ∃ t', f t = .ok t' ∧ t'.failed = none ∧ Post t t') :
    ∃ F : Thread → Thread, s.runLocal gd uses f = .next { s with threads := s.threads.map F } ∧
      ∀ t ∈ s.threads, (t.id ∉ s.members → F t = t) ∧
        (t.id ∈ s.members → t.Passes gd → F t = t.advance) ∧ (t.id ∈ s.members → ¬ t.Passes gd → Post t (F t)) := by
  have key : ∀ t ∈ s.threads, ((if s.members.contains t.id then t.execute uses gd f else t).failed = none) ∧
      (t.id ∈ s.members → ¬ t.Passes gd → Post t (t.execute uses gd f)) := by
    intro t ht
    have hc := hr.1 t ht
    by_cases hm : t.id ∈ s.members
    · by_cases hp : t.Passes gd
      · exact ⟨by simp [hm, Thread.execute_passes hp, hc], fun _ hp' => absurd hp hp'⟩
      · obtain ⟨t', e, hn, hP⟩ := h t ht hm hp (hr.2 t ht).1 ((hr.2 t ht).2 hm hp) hc
        have := Thread.execute_ok hp ((hr.2 t ht).2 hm hp) e
        exact ⟨by simp [hm, this, hn], fun _ _ => by rw [this]; exact hP⟩
    · exact ⟨by simp [hm, hc], fun h => absurd h hm⟩
  refine ⟨fun t => if s.members.contains t.id then t.execute uses gd f else t, ?_, fun t ht => ⟨?_, ?_, ?_⟩⟩
  · unfold State.runLocal State.runThreads State.mapGang
    rw [State.settle_of_calm (State.calm_map fun t ht => (key t ht).1)]
  · intro hm; simp [hm]
  · intro hm hp; simp [hm, Thread.execute_passes hp]
  · intro hm hp; simpa [hm] using (key t ht).2 hm hp

/-! ### One lane -/

theorem State.lane_ok {s s' : State} {gd : Guard} {uses : List RegUse} {f : Thread → State → Except Cause State}
    {t : Thread} (h : ¬ t.Passes gd) (ho : s.owns t uses = true) (hf : f t s = .ok s') :
    State.lane uses gd f t s = s' := by
  unfold State.lane; rw [if_neg (show ¬ (_ ∨ _) from h)]; simp [ho, hf]

theorem State.lane_error {s : State} {gd : Guard} {uses : List RegUse} {f : Thread → State → Except Cause State}
    {t : Thread} {c : Cause} (h : ¬ t.Passes gd) (ho : s.owns t uses = true) (hf : f t s = .error c) :
    State.lane uses gd f t s = s.mapThread t.id fun t => t.fault c := by
  unfold State.lane; rw [if_neg (show ¬ (_ ∨ _) from h)]; simp [ho, hf]

theorem State.lanes_alone {s s' : State} {gd : Guard} {uses : List RegUse} {t : Thread}
    {f : Thread → State → Except Cause State} (h : s.Alone gd uses t) (hf : f t s = .ok s') (hc : s'.Calm) :
    s.lanes gd uses f = .next s' := by
  unfold State.lanes State.runLanes
  simp [h.gang, h.here, State.lane_ok h.executes h.owns hf, State.settle_of_calm hc]

theorem State.lanes_error {s : State} {gd : Guard} {uses : List RegUse} {t : Thread} {c : Cause}
    {f : Thread → State → Except Cause State} (h : s.Alone gd uses t) (hf : f t s = .error c) :
    s.lanes gd uses f = .next (s.mapThread t.id fun t => t.fault c).settle := by
  unfold State.lanes State.runLanes
  simp [h.gang, h.here, State.lane_error h.executes h.owns hf]

theorem State.forGroups_alone {s s' : State} {gd : Guard} {uses : List RegUse} {t : Thread}
    {f : Thread → List Thread → State → Except Cause State} (h : s.Alone gd uses t) (hf : f t [t] s = .ok s')
    (hc : s'.Calm) : s.forGroups gd uses f = .next s' := by
  obtain ⟨hg, hn⟩ : t.guardHolds gd = true ∧ t.nopOnce = false := by
    simpa [Thread.Passes] using h.executes
  unfold State.forGroups
  simp [h.gang, h.here, hg, hn, groupsOf, List.eraseDups_cons, h.owns, hf, State.settle_of_calm hc]

theorem State.forGroups_error {s : State} {gd : Guard} {uses : List RegUse} {t : Thread} {c : Cause}
    {f : Thread → List Thread → State → Except Cause State} (h : s.Alone gd uses t) (hf : f t [t] s = .error c) :
    s.forGroups gd uses f = .next (s.mapThread t.id fun t => t.fault c).settle := by
  obtain ⟨hg, hn⟩ : t.guardHolds gd = true ∧ t.nopOnce = false := by
    simpa [Thread.Passes] using h.executes
  unfold State.forGroups
  simp [h.gang, h.here, hg, hn, groupsOf, List.eraseDups_cons, h.owns, hf]

/-! ### Taking a cause -/

/-- Outside a handler, with a handler named, a cause of the instruction at the slot enters the handler (R48). -/
theorem Thread.trapped_fault {t : Thread} {c : Cause} (hi : t.status.intrap = false) (hv : t.trapvec ≠ 0) :
    Thread.Trapped c t (t.fault c) := by
  simp [Thread.Trapped, Thread.fault, Thread.deliver, hi, hv, Thread.toBoundary]

theorem Thread.fault_failed {t : Thread} {c : Cause} (hi : t.status.intrap = false) (hv : t.trapvec ≠ 0) :
    (t.fault c).failed = t.failed := by
  simp [Thread.fault, Thread.deliver, hi, hv, Thread.toBoundary]

@[simp] theorem Thread.fault_id (t : Thread) (c : Cause) : (t.fault c).id = t.id := by
  unfold Thread.fault Thread.deliver; split <;> rfl

/-! ### Writing one register -/

theorem Thread.owns_g {t : Thread} {d : Nat} (hs : t.Sized) (h : t.owns (gUse d) = true) : d < t.g.length := by
  rw [hs.g]; exact of_decide_eq_true h
theorem Thread.owns_a {t : Thread} {d : Nat} (hs : t.Sized) (h : t.owns (aUse d) = true) : d < t.a.length := by
  rw [hs.a]; exact of_decide_eq_true h
theorem Thread.owns_c {t : Thread} {d : Nat} (hs : t.Sized) (h : t.owns (cUse d) = true) : d < t.c.length := by
  rw [hs.c]; exact of_decide_eq_true h

theorem Thread.gotG_writeG {t : Thread} {d : Nat} {v : Int} (h : d < t.g.length) :
    (t.writeG d v).advance.GotG d v := by
  simp [Thread.GotG, Thread.readG_writeG t h]

theorem Thread.gotC_writeC {t : Thread} {d : Nat} {v : Trit} (h : d < t.c.length) :
    (t.writeC d v).advance.GotC d v := by
  simp [Thread.GotC, Thread.readC_writeC t h]

theorem Thread.keeps_writeG (t : Thread) (d : Nat) (v : Int) : t.Keeps [gUse d] (t.writeG d v).advance := by
  refine ⟨⟨by simp, fun i hi => ?_, by simp, by simp, by simp, by simp, by simp, by simp, by simp⟩, by simp⟩
  rw [Thread.advance_readG]
  exact Thread.readG_writeG_ne t v (by simpa [gUse_inj] using hi)

theorem Thread.keeps_writeA (t : Thread) (d : Nat) (v : Int) : t.Keeps [aUse d] (t.writeA d v).advance := by
  refine ⟨⟨by simp, by simp, fun i hi => ?_, by simp, by simp, by simp, by simp, by simp, by simp⟩, by simp⟩
  rw [Thread.advance_readA]
  exact Thread.readA_writeA_ne t v (by simpa [aUse_inj] using hi)

theorem Thread.keeps_writeC (t : Thread) (d : Nat) (v : Trit) : t.Keeps [cUse d] (t.writeC d v).advance := by
  refine ⟨⟨by simp, by simp, by simp, fun i hi => ?_, by simp, by simp, by simp, by simp, by simp⟩, by simp⟩
  rw [Thread.advance_readC]
  exact Thread.readC_writeC_ne t v (by simpa [cUse_inj] using hi)

theorem Thread.keeps_advance (t : Thread) : t.Keeps [] t.advance :=
  ⟨⟨by simp, by simp, by simp, by simp, by simp, by simp, by simp, by simp, by simp⟩, by simp⟩

theorem putG_post {t : Thread} {d : Nat} {v : Int} {P : Thread → Int → Prop} (hs : t.Sized)
    (ho : t.owns (gUse d) = true) (hP : P t v) : PutG d P t (t.writeG d v).advance :=
  ⟨v, hP, Thread.gotG_writeG (Thread.owns_g hs ho), Thread.keeps_writeG t d v,
    Thread.goesOn_advance (by simp) (by simp) (by simp) (by simp)⟩

theorem putA_post {t : Thread} {d : Nat} {f : Thread → Int} (hs : t.Sized) (ho : t.owns (aUse d) = true) :
    PutA d f t (t.writeA d (f t)).advance :=
  ⟨by simp [Thread.readA_writeA t (Thread.owns_a hs ho)], Thread.keeps_writeA t d _,
    Thread.goesOn_advance rfl rfl rfl rfl⟩

theorem putC_post {t : Thread} {d : Nat} {f : Thread → Trit} (hs : t.Sized) (ho : t.owns (cUse d) = true) :
    PutC d f t (t.writeC d (f t)).advance :=
  ⟨Thread.gotC_writeC (Thread.owns_c hs ho), Thread.keeps_writeC t d _,
    Thread.goesOn_advance (by simp) (by simp) (by simp) (by simp)⟩

/-- An instruction that writes one general register completes on every lane. -/
theorem State.runLocal_putG {s : State} {gd : Guard} {uses : List RegUse} {d : Nat} {P : Thread → Int → Prop}
    {f : Thread → Except Cause Thread} {val : Thread → Int} (hr : s.Ready gd uses) (hd : gUse d ∈ uses)
    (hf : ∀ t ∈ s.threads, t.id ∈ s.members → ¬ t.Passes gd → f t = t.put d (val t) ∧ P t (val t)) :
    ∃ F : Thread → Thread, s.runLocal gd uses f = .next { s with threads := s.threads.map F } ∧
      ∀ t ∈ s.threads, (t.id ∉ s.members → F t = t) ∧
        (t.id ∈ s.members → t.Passes gd → F t = t.advance) ∧
          (t.id ∈ s.members → ¬ t.Passes gd → PutG d P t (F t)) :=
  State.runLocal_completes hr fun t ht hm hp hs ho hn =>
    ⟨(t.writeG d (val t)).advance, (hf t ht hm hp).1, by simp [hn],
      putG_post hs (List.all_eq_true.1 ho _ hd) (hf t ht hm hp).2⟩

/-! ### Lookups after an update -/

theorem State.thread?_mapThread_self {s : State} {id : ThreadId} {f : Thread → Thread} {t : Thread}
    (h : s.thread? id = some t) (hf : ∀ u, (f u).id = u.id) : (s.mapThread id f).thread? id = some (f t) := by
  unfold State.thread? State.mapThread at *
  rw [List.find?_map]
  have : ((fun t => t.id == id) ∘ fun t => if (t.id == id) = true then f t else t) = fun t : Thread => t.id == id := by
    funext u; by_cases hu : u.id = id <;> simp [hu, hf]
  rw [this, h]
  have := List.find?_some h
  simp_all

theorem filter_others_map (l : List Thread) (id : ThreadId) (f : Thread → Thread) (hf : ∀ u, (f u).id = u.id) :
    (l.map fun t => if t.id == id then f t else t).filter (fun u => u.id != id) = l.filter fun u => u.id != id := by
  induction l with
  | nil => rfl
  | cons t l ih => by_cases ht : t.id = id <;> simp_all

theorem State.sameOthers_mapThread (s : State) (id : ThreadId) (f : Thread → Thread) (hf : ∀ u, (f u).id = u.id) :
    SameOthers id s (s.mapThread id f) := filter_others_map s.threads id f hf

/-! ### Instructions of one shape -/

theorem State.runLocal_putC {s : State} {gd : Guard} {uses : List RegUse} {d : Nat} {g : Thread → Trit}
    {f : Thread → Except Cause Thread} (hr : s.Ready gd uses) (hd : cUse d ∈ uses)
    (hf : ∀ t ∈ s.threads, t.id ∈ s.members → ¬ t.Passes gd → f t = t.putC d (g t)) :
    ∃ F : Thread → Thread, s.runLocal gd uses f = .next { s with threads := s.threads.map F } ∧
      ∀ t ∈ s.threads, (t.id ∉ s.members → F t = t) ∧
        (t.id ∈ s.members → t.Passes gd → F t = t.advance) ∧
          (t.id ∈ s.members → ¬ t.Passes gd → PutC d g t (F t)) :=
  State.runLocal_completes hr fun t ht hm hp hs ho hn =>
    ⟨(t.writeC d (g t)).advance, hf t ht hm hp, by simp [hn], putC_post hs (List.all_eq_true.1 ho _ hd)⟩

theorem State.runLocal_putA {s : State} {gd : Guard} {uses : List RegUse} {d : Nat} {g : Thread → Int}
    {f : Thread → Except Cause Thread} (hr : s.Ready gd uses) (hd : aUse d ∈ uses)
    (hf : ∀ t ∈ s.threads, t.id ∈ s.members → ¬ t.Passes gd → f t = .ok (t.writeA d (g t)).advance) :
    ∃ F : Thread → Thread, s.runLocal gd uses f = .next { s with threads := s.threads.map F } ∧
      ∀ t ∈ s.threads, (t.id ∉ s.members → F t = t) ∧
        (t.id ∈ s.members → t.Passes gd → F t = t.advance) ∧
          (t.id ∈ s.members → ¬ t.Passes gd → PutA d g t (F t)) :=
  State.runLocal_completes hr fun t ht hm hp hs ho hn =>
    ⟨(t.writeA d (g t)).advance, hf t ht hm hp, by simp [hn], putA_post hs (List.all_eq_true.1 ho _ hd)⟩

/-- The two names of an element's width. -/
theorem width_eq (sh : Shape) : elemWidth sh = sh.width := by cases sh <;> rfl

theorem hasElems2 {sh : Shape} {f g : Int → Int → Int} {x y : Int}
    (h : ∀ k, fits (elemWidth sh) (f (elem sh x k) (elem sh y k)) = true)
    (hg : ∀ k, f (elem sh x k) (elem sh y k) = g (elem sh x k) (elem sh y k)) :
    HasElems sh (mapElems2 sh f x y) fun k => g (elem sh x k) (elem sh y k) := by
  refine ⟨fun k hk => (elem_mapElems2 h hk).trans (hg k), fits_mapElems2 h, fun e => ?_⟩
  subst e; exact high_mapElems2 h

theorem hasElems1 {sh : Shape} {f g : Int → Int} {x : Int}
    (h : ∀ k, fits (elemWidth sh) (f (elem sh x k)) = true)
    (hg : ∀ k, f (elem sh x k) = g (elem sh x k)) :
    HasElems sh (mapElems sh f x) fun k => g (elem sh x k) := by
  refine ⟨fun k hk => (elem_mapElems h hk).trans (hg k), fits_mapElems h, fun e => ?_⟩
  subst e; exact high_mapElems h

theorem binary_completes {i : Instr} {gd : Guard} {sh : Shape} {d b c : Nat} {f g : Int → Int → Int} {s : State}
    (hr : s.Ready gd [gUse d, gUse b, gUse c]) (he : exec i s = binaryElems gd sh d b c f s)
    (h : ∀ x y, fits (elemWidth sh) x = true → fits (elemWidth sh) y = true →
      fits (elemWidth sh) (f x y) = true ∧ f x y = g x y) : Completes i gd (Binary sh d b c g) s := by
  unfold Completes; rw [he]
  exact State.runLocal_putG hr (by simp) fun t _ _ _ =>
    ⟨rfl, hasElems2 (fun k => (h _ _ (fits_elem ..) (fits_elem ..)).1) fun k => (h _ _ (fits_elem ..) (fits_elem ..)).2⟩

theorem unary_completes {i : Instr} {gd : Guard} {sh : Shape} {d b : Nat} {f g : Int → Int} {s : State}
    (hr : s.Ready gd [gUse d, gUse b]) (he : exec i s = unaryElems gd sh d b f s)
    (h : ∀ x, fits (elemWidth sh) x = true → fits (elemWidth sh) (f x) = true ∧ f x = g x) :
    Completes i gd (Unary sh d b g) s := by
  unfold Completes; rw [he]
  exact State.runLocal_putG hr (by simp) fun t _ _ _ =>
    ⟨rfl, hasElems1 (fun k => (h _ (fits_elem ..)).1) fun k => (h _ (fits_elem ..)).2⟩

/-! ### One thread of its own -/

/-- Where no other thread has the identity of t, a change of the thread is a change of t. -/
theorem State.Alone.mapThread_eq {s : State} {gd : Guard} {uses : List RegUse} {t : Thread} (h : s.Alone gd uses t)
    (f : Thread → Thread) : s.mapThread t.id f = s.becomes t (f t) := by
  unfold State.becomes State.mapThread
  have : s.threads.map (fun u => if u.id == t.id then f u else u) =
      s.threads.map fun u => if u.id == t.id then f t else u := by
    refine List.map_congr_left fun u hu => ?_
    by_cases e : u.id = t.id
    · rw [h.only u hu e]
    · simp [e]
  rw [this]

theorem State.Alone.mem {s : State} {gd : Guard} {uses : List RegUse} {t : Thread} (h : s.Alone gd uses t) :
    t ∈ s.threads := List.mem_of_find?_eq_some h.here

/-- A changed thread without a failure leaves the machine calm. -/
theorem State.Calm.becomes {s : State} (h : s.Calm) (t : Thread) {t' : Thread} (hf : t'.failed = none) :
    (s.becomes t t').Calm := h.mapThread fun _ _ _ => hf

/-- An instruction of one lane that changes its thread alone. -/
theorem State.lanes_becomes {s : State} {gd : Guard} {uses : List RegUse} {t t' : Thread}
    {f : Thread → State → Except Cause State} (h : s.Alone gd uses t) (hf : f t s = .ok (s.mapThread t.id fun _ => t'))
    (hn : t'.failed = none) : s.lanes gd uses f = .next (s.becomes t t') :=
  State.lanes_alone h hf (h.calm.becomes t hn)

/-- An instruction of one lane that takes a cause outside a handler. -/
theorem State.lanes_trapped {s : State} {gd : Guard} {uses : List RegUse} {t : Thread} {c : Cause}
    {f : Thread → State → Except Cause State} (h : s.Alone gd uses t) (hf : f t s = .error c)
    (hi : t.status.intrap = false) (hv : t.trapvec ≠ 0) :
    ∃ t', s.lanes gd uses f = .next (s.becomes t t') ∧ Thread.Trapped c t t' := by
  refine ⟨t.fault c, ?_, Thread.trapped_fault hi hv⟩
  rw [State.lanes_error h hf, h.mapThread_eq fun t => t.fault c,
    State.settle_of_calm (h.calm.becomes t (by rw [Thread.fault_failed hi hv, h.calm t h.mem]))]

end Sys2Proof.Machine
end

