-- ==== Sys2Proof/Tests/Slice0.lean ====
section
/-!
SUPPORT. Tests. Words written from the encodings of the manual and what they decode to; terms that are not well
formed; single instructions on values that the manual works out; and, for every statement with hypotheses, concrete
states and operands that meet them.
-/

namespace Sys2Proof.Tests

set_option Elab.async false

open Sys2Proof.Machine

/-- The trits of a word written as decimal digits, n of them, 9 for − (R3, R52). -/
def tritsOf : Nat → Nat → List Int
  | 0, _ => []
  | n + 1, x => tritsOf n (x / 10) ++ [if x % 10 = 9 then -1 else ((x % 10 : Nat) : Int)]

/-- A word written trit by trit from trit 26 down, with `_` between its fields. -/
def word (x : Nat) : Word := (tritsOf 27 x).foldl (fun a t => 3 * a + t) 0

/-- Words, and the instruction they stand for. -/
structure Reading where
  ws : List Nat
  i : Instr

/-- The words decode to the instruction, which is well formed, and the encoder gives the words back (R86). -/
def Reading.ok (r : Reading) : Bool :=
  decode (r.ws.map word) == .ok r.i && r.i.wf && encode r.i == some (r.ws.map word)

/-- R58, R74, R93 to R100: the words of the integer instructions. -/
theorem test_words_arithmetic : ([ -- words, instruction
  ⟨[00_000000_00_0_00000_00000_00000_0], .nop ⟨0, .zero⟩⟩,
  ⟨[00_000001_00_0_00001_00019_00010_9], .add ⟨0, .zero⟩ .trytes 1 2 3⟩,
  ⟨[00_000019_00_0_00009_11111_99999_0], .adds ⟨0, .zero⟩ .word 242 121 122⟩,
  ⟨[00_000011_11_9_00199_00199_91119_1], .sub ⟨4, .neg⟩ .halves 5 5 200⟩,
  ⟨[00_000199_11_9_00000_00090_00100_9], .subs ⟨4, .neg⟩ .trytes 0 240 9⟩,
  ⟨[00_000109_99_1_00001_00019_00010_0], .mul ⟨5, .pos⟩ .word 1 2 3⟩,
  ⟨[00_000100_99_1_00009_11111_99999_1], .mulh ⟨5, .pos⟩ .halves 242 121 122⟩,
  ⟨[00_000101_09_0_00199_00199_91119_9], .div ⟨8, .zero⟩ .trytes 5 5 200⟩,
  ⟨[00_000119_09_0_00000_00090_00100_0], .mod ⟨8, .zero⟩ .word 0 240 9⟩,
  ⟨[00_000110_00_0_00001_00019_00010_1], .min ⟨0, .zero⟩ .halves 1 2 3⟩,
  ⟨[00_000111_00_0_00009_11111_99999_9], .max ⟨0, .zero⟩ .trytes 242 121 122⟩,
  ⟨[00_001999_11_9_00199_00199_91119_0], .clamp ⟨4, .neg⟩ .word 5 5 200⟩,
  ⟨[11_000010_00_0_00191_00191_00000_0, 9_00000_00_0_109099099909019999, 9_00000_00_0_000000000000000001],
    .addi ⟨0, .zero⟩ .word 7 7 500000000⟩,
  ⟨[00_000010_00_0_00001_00019_99999_9], .addi ⟨0, .zero⟩ .trytes 1 2 (-121)⟩,
  ⟨[00_000190_00_0_00001_00019_00000_9], .neg ⟨0, .zero⟩ .trytes 1 2⟩,
  ⟨[00_000191_90_1_00009_99999_00000_0], .abs ⟨6, .pos⟩ .word 242 122⟩,
  ⟨[00_001919_10_9_00191_11111_00000_1], .sgn ⟨3, .neg⟩ .halves 7 121⟩,
  ⟨[00_001910_00_0_00001_00019_00000_9], .lead ⟨0, .zero⟩ .trytes 1 2⟩,
  ⟨[00_001911_90_1_00009_99999_00000_0], .cnt ⟨6, .pos⟩ .word 242 122⟩,
  ⟨[10_001990_00_0_00010_00011_00000_9, 9_00000_00_0_000000000000199999],
    .sht ⟨0, .zero⟩ .trytes 3 4 (122)⟩,
  ⟨[10_001990_00_0_00010_00011_00000_9, 9_00001_01_0_000000000000000000],
    .shtReg ⟨0, .zero⟩ .trytes 3 4 1⟩,
  ⟨[00_001991_00_0_00010_00011_99999_0], .rot ⟨0, .zero⟩ .word 3 4 (-121)⟩,
  ⟨[10_001991_00_0_00010_00011_00000_0, 9_00009_01_0_000000000000000000],
    .rotReg ⟨0, .zero⟩ .word 3 4 242⟩,
  ⟨[11_001909_00_0_00010_00011_00000_1, 9_00000_00_0_111111111111111111, 9_00000_00_0_000000000000000009],
    .trn ⟨0, .zero⟩ .halves 3 4 (-193710245)⟩,
  ⟨[10_001909_00_0_00010_00011_00000_1, 9_11111_01_0_000000000000000000],
    .trnReg ⟨0, .zero⟩ .halves 3 4 121⟩,
  ⟨[00_001900_00_0_00001_00019_00000_0], .nrw9 ⟨0, .zero⟩ 1 2⟩,
  ⟨[00_001901_90_1_00009_99999_00000_0], .sat9 ⟨6, .pos⟩ 242 122⟩] : List Reading).all Reading.ok = true := by
  decide +kernel

/-- R75, R101 to R109: the words of tritwise, field, condition and move instructions. -/
theorem test_words_logic : ([ -- words, instruction
  ⟨[00_010001_00_0_00001_00019_00010_0], .tmin ⟨0, .zero⟩ 1 2 3⟩,
  ⟨[00_010019_00_0_00009_11111_99999_0], .tmax ⟨0, .zero⟩ 242 121 122⟩,
  ⟨[00_010010_11_9_00199_00199_91119_0], .tsum ⟨4, .neg⟩ 5 5 200⟩,
  ⟨[00_010011_11_9_00000_00090_00100_0], .tmul ⟨4, .neg⟩ 0 240 9⟩,
  ⟨[00_010199_99_1_00001_00019_00010_0], .cons ⟨5, .pos⟩ 1 2 3⟩,
  ⟨[00_010190_00_0_00001_00019_11010_0], .field ⟨0, .zero⟩ 1 2 4 3⟩,
  ⟨[10_010191_00_0_00001_00019_00000_0, 9_00000_00_0_000000000001009000],
    .deposit ⟨0, .zero⟩ 1 2 26 0⟩,
  ⟨[00_010109_00_0_00109_00019_00010_0], .cmp ⟨0, .zero⟩ 8 2 3⟩,
  ⟨[10_010100_00_0_00011_00100_00000_0, 9_00000_00_0_999999999999999999],
    .cmpi ⟨0, .zero⟩ 4 9 (-193710244)⟩,
  ⟨[00_010101_00_0_00001_00019_00000_0], .cset ⟨0, .zero⟩ 1 2⟩,
  ⟨[00_010119_00_0_00001_00019_00010_0], .cand ⟨0, .zero⟩ 1 2 3⟩,
  ⟨[00_010110_19_1_00109_00191_00190_0], .cor ⟨2, .pos⟩ 8 7 6⟩,
  ⟨[10_010111_00_0_00100_00001_00019_0, 9_00010_99_0_000000000000000000],
    .sel3 ⟨0, .zero⟩ 9 5 1 2 3⟩,
  ⟨[10_010111_00_0_00100_00001_00019_0, 9_00000_00_0_000000000000000000],
    .sel3 ⟨0, .zero⟩ 9 0 1 2 0⟩,
  ⟨[00_011999_00_0_00001_00019_00000_0], .mov ⟨0, .zero⟩ 1 2⟩,
  ⟨[11_011990_00_0_00199_00000_00000_0, 9_00000_00_0_999999999999999999, 9_00000_00_0_000000000999999999],
    .movi ⟨0, .zero⟩ 5 (-3812798742493)⟩,
  ⟨[00_011991_00_0_00001_00019_00000_0], .movcG ⟨0, .zero⟩ 1 2⟩,
  ⟨[10_011991_00_0_00001_00019_00000_0, 9_00000_01_0_000000000000000000],
    .movcC ⟨0, .zero⟩ 1 2⟩,
  ⟨[00_011909_00_0_00010_00000_01990_0], .movs ⟨0, .zero⟩ 3 .reftime⟩,
  ⟨[10_011909_00_0_00010_00000_00000_0, 9_00000_01_0_000000000000001999],
    .movsA ⟨0, .zero⟩ 3 .cycles⟩,
  ⟨[00_011900_00_0_00000_00011_01991_0], .sets ⟨0, .zero⟩ .probeflag 4⟩,
  ⟨[10_011900_00_0_00000_00011_00000_0, 9_00000_01_0_000000000000000109],
    .setsA ⟨0, .zero⟩ .splimit 4⟩] : List Reading).all Reading.ok = true := by
  decide +kernel

/-- R75, R110 to R112: the words of register-indexed moves and of the address-pair instructions. -/
theorem test_words_addresses : ([ -- words, instruction
  ⟨[00_011901_00_0_00001_00019_00000_0], .movx ⟨0, .zero⟩ 1 2⟩,
  ⟨[00_011919_90_1_00009_99999_00000_0], .movy ⟨6, .pos⟩ 242 122⟩,
  ⟨[00_011910_00_0_00001_01009_00010_0], .aadd ⟨0, .zero⟩ 1 26 3⟩,
  ⟨[00_011911_00_0_00001_01009_00010_0], .asub ⟨0, .zero⟩ 1 26 3⟩,
  ⟨[00_011099_00_0_00001_00019_00000_0], .amov ⟨0, .zero⟩ 1 2⟩,
  ⟨[10_011099_00_0_00001_00019_00010_0, 9_00000_01_0_000000000000000000],
    .amovPair ⟨0, .zero⟩ 1 2 3⟩,
  ⟨[10_011099_00_0_00001_00019_00000_0, 9_00000_19_0_000000000000000000],
    .amovLo ⟨0, .zero⟩ 1 2⟩,
  ⟨[10_011099_00_0_00001_00019_00000_0, 9_00000_10_0_000000000000000000],
    .amovHi ⟨0, .zero⟩ 1 2⟩,
  ⟨[00_011090_00_0_00001_00019_01009_0], .alea ⟨0, .zero⟩ 1 2 0 26⟩,
  ⟨[10_011090_00_0_00001_00019_00000_0, 9_00010_00_0_000000000000000011],
    .alea ⟨0, .zero⟩ 1 2 3 4⟩] : List Reading).all Reading.ok = true := by
  decide +kernel

/-- R76, R113 to R118: the words of the packed-half instructions (word 1 to word 6 of the manual's example among them). -/
theorem test_words_halves : ([ -- words, instruction
  ⟨[00_090001_00_0_00101_00199_00190_0], .hadd ⟨0, .zero⟩ .straight 10 5 6⟩,
  ⟨[10_090019_00_0_00101_00199_00190_0, 9_00000_01_0_000000000000000000],
    .hsub ⟨0, .zero⟩ .sw 10 5 6⟩,
  ⟨[10_090010_00_0_00101_00199_00190_0, 9_00000_19_0_000000000000000000],
    .hmin ⟨0, .zero⟩ .bl 10 5 6⟩,
  ⟨[10_090011_00_0_00101_00199_00190_0, 9_00000_10_0_000000000000000000],
    .hmax ⟨0, .zero⟩ .bh 10 5 6⟩,
  ⟨[10_090199_00_0_00101_00199_00190_0, 9_00000_01_0_000000000000000000],
    .hcmp ⟨0, .zero⟩ .sw 10 5 6⟩,
  ⟨[10_090100_00_0_00199_00199_00000_0, 9_00000_01_0_000000000000000000],
    .pxinS ⟨0, .zero⟩ 5 5⟩,
  ⟨[10_090019_00_0_00101_00199_00190_0, 9_00000_01_0_000000000000000000],
    .hsub ⟨0, .zero⟩ .sw 10 5 6⟩,
  ⟨[10_090190_00_0_00100_00191_00109_0, 9_00001_00_0_000000000000000000],
    .hacs ⟨0, .zero⟩ 9 7 8 1⟩,
  ⟨[00_090191_00_0_00001_00019_00010_0], .hpack ⟨0, .zero⟩ 1 2 3⟩,
  ⟨[00_090109_00_0_00001_00010_00019_0], .hunpk ⟨0, .zero⟩ 1 2 3⟩,
  ⟨[00_090100_00_0_00001_00019_00000_0], .pxin ⟨0, .zero⟩ 1 2⟩] : List Reading).all Reading.ok = true := by
  decide +kernel

/-- R64, R76, R119 to R126: the words of the control instructions. -/
theorem test_words_control : ([ -- words, instruction
  ⟨[00_090009_10_1_00000_00000_00099_0], .j ⟨3, .pos⟩ (-4)⟩,
  ⟨[00_090091_00_0_00000_01009_00000_0], .jx ⟨0, .zero⟩ 26⟩,
  ⟨[10_090090_00_0_00000_00011_00000_0, 9_00000_00_0_000000000000199999],
    .bc ⟨0, .zero⟩ 4 122⟩,
  ⟨[00_090099_00_0_00000_00011_00199_0], .bcase ⟨0, .zero⟩ 4 5 0⟩,
  ⟨[10_090099_00_0_00000_00011_00000_0, 9_00000_00_0_111119999999999999],
    .bcase ⟨0, .zero⟩ 4 (-797161) 121⟩,
  ⟨[11_090099_00_0_00000_00011_00000_0, 9_00000_00_0_999990000000000001, 9_00000_00_0_000000000099999999],
    .bcase ⟨0, .zero⟩ 4 1 (-797161)⟩,
  ⟨[00_090911_00_0_00000_00000_00100_0], .call ⟨0, .zero⟩ 9⟩,
  ⟨[00_090910_00_0_00000_00010_00000_0], .callx ⟨0, .zero⟩ 3⟩,
  ⟨[00_090919_00_0_00000_00000_00000_0], .ret ⟨0, .zero⟩⟩,
  ⟨[00_090901_00_0_00100_00000_00900_0], .loop ⟨0, .zero⟩ 9 (-9)⟩,
  ⟨[00_090900_01_0_00000_00000_00000_0], .yield ⟨1, .zero⟩⟩,
  ⟨[00_090909_01_0_00000_00000_00000_0], .exit ⟨1, .zero⟩⟩,
  ⟨[00_090991_01_0_00000_00000_00000_0], .brk ⟨1, .zero⟩⟩] : List Reading).all Reading.ok = true := by
  decide +kernel

/-- R77, R148 to R163: the words of the real instructions. -/
theorem test_words_real : ([ -- words, instruction
  ⟨[00_190001_00_0_00001_00019_00010_9], .fadd ⟨0, .zero⟩ .trytes 1 2 3⟩,
  ⟨[00_190019_00_0_00009_11111_99999_0], .fsub ⟨0, .zero⟩ .word 242 121 122⟩,
  ⟨[00_190010_11_9_00199_00199_91119_9], .fmul ⟨4, .neg⟩ .trytes 5 5 200⟩,
  ⟨[00_190011_11_9_00000_00090_00100_0], .ffma ⟨4, .neg⟩ .word 0 240 9⟩,
  ⟨[00_190199_99_1_00001_00019_00010_9], .fmin ⟨5, .pos⟩ .trytes 1 2 3⟩,
  ⟨[00_190190_99_1_00009_11111_99999_0], .fmax ⟨5, .pos⟩ .word 242 121 122⟩,
  ⟨[10_190011_00_0_00001_00019_00010_9, 9_00011_01_0_000000000000000000],
    .ffmaE ⟨0, .zero⟩ .trytes 1 2 3 4⟩,
  ⟨[00_190191_00_0_00001_00019_00010_0], .fcmp ⟨0, .zero⟩ 1 2 3⟩,
  ⟨[10_190191_00_0_00001_00019_00010_0, 9_00109_01_0_000000000000000000],
    .fcmpQ ⟨0, .zero⟩ 1 2 3 8⟩,
  ⟨[00_190109_00_0_00001_00019_00000_9], .fabs ⟨0, .zero⟩ .trytes 1 2⟩,
  ⟨[00_190100_90_1_00009_99999_00000_0], .frcp ⟨6, .pos⟩ .word 242 122⟩,
  ⟨[00_190101_10_9_00191_11111_00000_9], .frsq ⟨3, .neg⟩ .trytes 7 121⟩,
  ⟨[00_190119_00_0_00001_00019_00000_0], .fexp3 ⟨0, .zero⟩ .word 1 2⟩,
  ⟨[00_190110_90_1_00009_99999_00000_9], .flog3 ⟨6, .pos⟩ .trytes 242 122⟩,
  ⟨[00_191999_10_9_00191_11111_00000_0], .fclass ⟨3, .neg⟩ .word 7 121⟩,
  ⟨[10_190109_00_0_00001_00019_00000_0, 9_00000_01_0_000000000000000000],
    .fabsNeg ⟨0, .zero⟩ .word 1 2⟩,
  ⟨[10_190109_00_0_00001_00019_00000_9, 9_00000_19_0_000000000000000000],
    .fabsNabs ⟨0, .zero⟩ .trytes 1 2⟩,
  ⟨[00_190111_00_0_00001_00019_00900_0], .fscl ⟨0, .zero⟩ .word 1 2 (-9)⟩,
  ⟨[10_190111_00_0_00001_00019_00000_9, 9_00011_01_0_000000000000000000],
    .fsclReg ⟨0, .zero⟩ .trytes 1 2 4⟩,
  ⟨[00_191990_00_0_00001_00019_00119_0], .fcvt ⟨0, .zero⟩ .word 0 1 2 .tf27 .t27 0⟩,
  ⟨[10_191990_00_0_00001_00019_00000_0, 9_00000_01_0_000000000000901909],
    .fcvt ⟨0, .zero⟩ .word 1 1 2 .t9 .tf27 (-3)⟩,
  ⟨[10_191990_00_0_00001_00019_00000_9, 9_00000_00_0_000001111111110991],
    .fcvt ⟨0, .zero⟩ .trytes 0 1 2 .tf9 .t9 9841⟩] : List Reading).all Reading.ok = true := by
  decide +kernel

/-- R78, R234: the words of the tile and matrix instructions. -/
theorem test_words_tiles : ([ -- words, instruction
  ⟨[10_910990_00_0_00001_00019_00010_0, 9_00011_00_0_000000000000000000],
    .arow ⟨0, .zero⟩ .zero 1 2 3 4⟩,
  ⟨[10_910990_00_0_00001_00019_00010_0, 9_00000_01_1_000000000000000000],
    .arowClr ⟨0, .zero⟩ .pos 1 2 3 0⟩,
  ⟨[10_910991_00_0_00190_00000_00109_0, 9_00191_00_0_000000000000000000],
    .drain ⟨0, .zero⟩ .zero 6 0 8 7⟩,
  ⟨[10_910991_00_0_00190_00001_00109_0, 9_00191_01_9_000000000000000000],
    .drainF ⟨0, .zero⟩ .neg 6 1 8 7⟩,
  ⟨[10_910909_00_0_00001_00019_00010_0, 9_00011_00_0_000000000000000000],
    .mbs ⟨0, .zero⟩ .zero 1 2 3 4⟩,
  ⟨[10_910900_00_0_00001_00019_00010_0, 9_00011_00_1_000000000000000000],
    .mspa ⟨0, .zero⟩ .pos 1 2 3 4⟩,
  ⟨[00_910901_00_0_00001_00019_00010_0], .mshaW3 ⟨0, .zero⟩ .zero 1 2 3⟩,
  ⟨[10_910901_01_9_00000_00000_00001_0, 9_00019_01_0_000000000000000000],
    .mshaW6 ⟨1, .neg⟩ .zero 0 0 1 2⟩,
  ⟨[00_910919_00_0_00019_00109_00191_0], .mmaf ⟨0, .zero⟩ .zero 2 8 7⟩,
  ⟨[10_910910_00_0_00000_00001_00019_0, 9_00000_00_9_000000000000000000],
    .mma9 ⟨0, .zero⟩ .neg 0 1 2⟩,
  ⟨[00_910911_00_0_00109_00000_00010_0], .tzero ⟨0, .zero⟩ .zero 8 3⟩,
  ⟨[10_910911_00_0_00019_00000_00010_0, 9_00000_01_0_000000000000000000],
    .tzeroQ ⟨0, .zero⟩ .zero 2 3⟩,
  ⟨[00_910099_00_0_00001_00019_00010_0], .tst ⟨0, .zero⟩ .zero 1 2 3⟩,
  ⟨[10_910090_00_0_00001_00019_00010_0, 9_00000_00_1_000000000000000000],
    .tld ⟨0, .zero⟩ .pos 1 2 3⟩,
  ⟨[10_910090_00_0_00001_00019_00010_0, 9_00000_01_0_000000000000000000],
    .tldX ⟨0, .zero⟩ .zero 1 2 3⟩,
  ⟨[00_910091_00_0_00001_00019_00000_0], .tget ⟨0, .zero⟩ 1 2⟩,
  ⟨[00_910009_00_0_00001_00019_00000_0], .tset ⟨0, .zero⟩ 1 2⟩] : List Reading).all Reading.ok = true := by
  decide +kernel

/-- R78, R210 to R222: the words of the cross-lane instructions. -/
theorem test_words_lanes : ([ -- words, instruction
  ⟨[10_910001_00_0_00001_00019_00010_0, 9_00011_99_0_000000000000000000],
    .perm ⟨0, .zero⟩ 1 2 3 4 5⟩,
  ⟨[10_910019_00_0_00001_00019_00010_0, 9_00000_09_0_000000000000000000],
    .shuf ⟨0, .zero⟩ 1 2 3 0 8⟩,
  ⟨[10_910010_00_0_00001_00019_00000_0, 9_00011_11_0_000000000000000000],
    .bcast ⟨0, .zero⟩ 1 2 4 4⟩,
  ⟨[00_910011_00_0_00001_00109_00000_0], .vote ⟨0, .zero⟩ 1 8 0 0⟩,
  ⟨[10_910199_00_0_00001_00109_00000_0, 9_00090_01_0_000000000000000000],
    .ballot ⟨0, .zero⟩ 1 8 240 1⟩,
  ⟨[00_910190_00_0_00019_00001_00001_0], .red ⟨0, .zero⟩ .word .add 2 1 0 1⟩,
  ⟨[10_910190_00_0_00019_00001_00019_9, 9_00010_01_0_000000000000000000],
    .red ⟨0, .zero⟩ .trytes .adds 2 1 3 2⟩,
  ⟨[10_910190_00_0_00019_00001_00010_1, 9_00190_19_0_000000000000000000],
    .red ⟨0, .zero⟩ .halves .min 2 1 6 3⟩,
  ⟨[10_910190_00_0_00019_00001_00011_0, 9_00100_10_0_000000000000000000],
    .red ⟨0, .zero⟩ .word .max 2 1 9 4⟩,
  ⟨[10_910190_00_0_00019_00001_00199_9, 9_00110_11_0_000000000000000000],
    .red ⟨0, .zero⟩ .trytes .tsum 2 1 12 5⟩,
  ⟨[10_910191_00_0_00191_00001_00010_1, 9_00011_01_0_000000000000000000],
    .scan ⟨0, .zero⟩ .halves .adds 7 1 4 3⟩,
  ⟨[00_910109_00_0_00001_00199_00019_0], .zip ⟨0, .zero⟩ .word 1 5 0 0 2⟩,
  ⟨[10_910109_00_0_00001_00199_00000_9, 9_00100_10_0_000000000000000011],
    .zip ⟨0, .zero⟩ .trytes 1 5 9 3 4⟩,
  ⟨[10_910100_00_0_00001_00199_00000_1, 9_00100_90_0_000000000000000010],
    .unzip ⟨0, .zero⟩ .halves 1 5 9 6 3⟩,
  ⟨[10_910101_00_0_00000_00000_00000_0, 9_00011_19_0_000000000000000000],
    .gbar ⟨0, .zero⟩ 4 2⟩,
  ⟨[00_910119_00_0_00000_00191_00000_0], .tbar ⟨0, .zero⟩ 7⟩] : List Reading).all Reading.ok = true := by
  decide +kernel

/-- R79, R297: the words of the memory instructions. -/
theorem test_words_memory : ([ -- words, instruction
  ⟨[00_100001_00_0_00199_00011_00100_0], .ld9 ⟨0, .zero⟩ .default .zero 5 4 (9)⟩,
  ⟨[10_100019_00_0_00199_00011_00000_0, 9_00000_01_0_000000000000099999],
    .ld27 ⟨0, .zero⟩ .na .zero 5 4 (-121)⟩,
  ⟨[11_100010_00_0_00199_00011_00000_0, 9_00000_19_1_111111111111111111, 9_00000_00_0_000000000111111111],
    .ldh ⟨0, .zero⟩ .by .pos 5 4 (3812798742493)⟩,
  ⟨[10_100011_00_0_00199_00011_00000_0, 9_00000_00_1_000000000000199999],
    .lda ⟨0, .zero⟩ .default .pos 5 4 (122)⟩,
  ⟨[10_100199_00_0_00199_00011_00000_0, 9_00000_01_9_000000000000000100],
    .st9 ⟨0, .zero⟩ .na .neg 5 4 (9)⟩,
  ⟨[10_100190_00_0_00199_00011_00000_0, 9_00000_19_9_000000000000099999],
    .st27 ⟨0, .zero⟩ .by .neg 5 4 (-121)⟩,
  ⟨[11_100191_00_0_00199_00011_00000_0, 9_00000_00_0_111111111111111111, 9_00000_00_0_000000000111111111],
    .sth ⟨0, .zero⟩ .default .zero 5 4 (3812798742493)⟩,
  ⟨[10_100109_00_0_00199_00011_00000_0, 9_00000_01_0_000000000000199999],
    .sta ⟨0, .zero⟩ .na .zero 5 4 (122)⟩,
  ⟨[00_100100_00_0_91119_00011_00010_0], .lds9 ⟨0, .zero⟩ .zero 200 4 (3)⟩,
  ⟨[10_100101_00_0_91119_00011_00000_0, 9_00000_00_1_000000000000000900],
    .lds27 ⟨0, .zero⟩ .pos 200 4 (-9)⟩,
  ⟨[10_100119_00_0_91119_00011_00000_0, 9_00000_00_9_000000000000011111],
    .sts9 ⟨0, .zero⟩ .neg 200 4 (121)⟩,
  ⟨[10_100110_00_0_91119_00011_00000_0, 9_00000_00_0_000001000000000000],
    .sts27 ⟨0, .zero⟩ .zero 200 4 (531441)⟩,
  ⟨[10_100111_00_0_00000_00011_00000_0, 9_00000_01_0_000000000000010000],
    .pf ⟨0, .zero⟩ .na 4 81⟩] : List Reading).all Reading.ok = true := by
  decide +kernel

/-- R79, R307: the words of the atomics and of cache control. -/
theorem test_words_atomics : ([ -- words, instruction
  ⟨[10_101999_00_0_00190_00011_00011_0, 9_00000_01_0_000000000000000000],
    .xadd ⟨0, .zero⟩ .acq .zero 6 4 4⟩,
  ⟨[00_101990_00_0_00190_00011_00011_0], .xmin ⟨0, .zero⟩ .rlx .zero 6 4 4⟩,
  ⟨[10_101991_00_0_00190_00011_00011_0, 9_00000_10_1_000000000000000000],
    .xmax ⟨0, .zero⟩ .sc .pos 6 4 4⟩,
  ⟨[10_101909_00_0_00190_00011_00011_0, 9_00000_19_0_000000000000000000],
    .xswp ⟨0, .zero⟩ .rel .zero 6 4 4⟩,
  ⟨[10_101901_00_0_00190_00011_00011_0, 9_00000_10_9_000000000000000000],
    .xsum ⟨0, .zero⟩ .sc .neg 6 4 4⟩,
  ⟨[10_101900_00_0_00001_00019_00010_0, 9_00000_00_0_000000000000000000],
    .xcas ⟨0, .zero⟩ .rlx .zero 1 2 3 0⟩,
  ⟨[10_101900_00_0_00001_00019_00010_0, 9_00011_19_1_000000000000000000],
    .xcas ⟨0, .zero⟩ .rel .pos 1 2 3 4⟩,
  ⟨[00_100901_00_0_00001_00019_00000_0], .probe ⟨0, .zero⟩ .zero 1 2⟩,
  ⟨[00_100919_00_0_00000_00019_00009_0], .cpri ⟨0, .zero⟩ 2 .neg⟩,
  ⟨[00_100910_00_0_00000_00001_00019_0], .cdrop ⟨0, .zero⟩ .zero 1 2⟩,
  ⟨[10_100910_00_0_00000_00001_00019_0, 9_00000_01_1_000000000000000000],
    .cdropCode ⟨0, .zero⟩ .pos 1 2⟩,
  ⟨[10_100911_00_0_00000_00001_00019_0, 9_00000_00_9_000000000000000000],
    .cflush ⟨0, .zero⟩ .neg 1 2⟩,
  ⟨[10_100911_00_0_00000_00001_00019_0, 9_00000_01_0_000000000000000000],
    .cflushMem ⟨0, .zero⟩ .zero 1 2⟩,
  ⟨[00_100099_00_0_00000_00000_00000_0], .cfence ⟨0, .zero⟩⟩,
  ⟨[00_100090_00_0_00000_00000_00000_0], .rel ⟨0, .zero⟩⟩,
  ⟨[00_100091_00_0_00000_00000_00000_0], .acq ⟨0, .zero⟩⟩,
  ⟨[00_100009_00_0_00000_00000_00000_0], .fence ⟨0, .zero⟩⟩] : List Reading).all Reading.ok = true := by
  decide +kernel

/-- R80, R376: the words of the engine, knot, beam and launch instructions. -/
theorem test_words_engines : ([ -- words, instruction
  ⟨[00_900991_00_0_00000_00001_00000_0], .reduce ⟨0, .zero⟩ 1⟩,
  ⟨[00_900909_00_0_00000_00009_00000_0], .mcast ⟨0, .zero⟩ 242⟩,
  ⟨[00_900900_00_0_00001_00019_00000_0], .launch ⟨0, .zero⟩ 1 2⟩,
  ⟨[00_900901_00_0_00000_00011_00000_0], .qdone ⟨0, .zero⟩ 4⟩,
  ⟨[00_900919_00_0_00001_00019_00010_0], .take ⟨0, .zero⟩ 1 2 3⟩,
  ⟨[00_900910_19_1_00010_00010_00199_0], .append ⟨2, .pos⟩ 3 3 5⟩,
  ⟨[00_900911_00_0_00000_00000_00000_0], .kyld ⟨0, .zero⟩⟩,
  ⟨[00_900099_00_0_00000_00000_00000_0], .kret ⟨0, .zero⟩⟩,
  ⟨[00_900090_00_0_00001_00019_00010_0], .kwake ⟨0, .zero⟩ 1 2 3⟩,
  ⟨[00_900091_00_0_00000_00000_00001_0], .kwait ⟨0, .zero⟩ 1 0⟩,
  ⟨[10_900091_00_0_00000_00000_00000_0, 9_00000_00_0_000000099999999910],
    .kwait ⟨0, .zero⟩ 3 (-9841)⟩,
  ⟨[10_900091_00_0_00000_00191_00000_0, 9_00000_01_0_000000000000000019],
    .kwaitR ⟨0, .zero⟩ 2 7⟩,
  ⟨[00_900009_00_0_00001_00019_00000_0], .sweep ⟨0, .zero⟩ 1 2⟩,
  ⟨[00_900001_00_0_00001_00019_00009_0], .engage ⟨0, .zero⟩ 1 2 (-1)⟩,
  ⟨[00_900019_00_0_00001_00019_00000_0], .epoll ⟨0, .zero⟩ 1 2⟩,
  ⟨[00_900119_00_0_00001_00019_00000_0], .beamst ⟨0, .zero⟩ 1 2⟩,
  ⟨[10_900119_00_0_00001_00000_00000_0, 9_00000_01_0_000000000000000000],
    .beamstLap ⟨0, .zero⟩ 1⟩] : List Reading).all Reading.ok = true := by
  decide +kernel

/-- R80, R376: the words of the sync-word, lock and boarding instructions. -/
theorem test_words_sync : ([ -- words, instruction
  ⟨[00_900010_00_0_00000_00001_00019_0], .sarm ⟨0, .zero⟩ (.g 1) 2⟩,
  ⟨[10_900010_00_0_00000_00001_00019_0, 9_00000_01_0_000000000000000000],
    .sarm ⟨0, .zero⟩ (.a 1) 2⟩,
  ⟨[00_900011_00_0_00000_00001_11111_0], .sadd ⟨0, .zero⟩ (.g 1) 121⟩,
  ⟨[10_900011_00_0_00000_00001_00000_0, 9_00000_01_0_000000000000199999],
    .sadd ⟨0, .zero⟩ (.a 1) 122⟩,
  ⟨[10_900011_00_0_00000_00001_00000_0, 9_00010_19_0_000000000000000000],
    .saddReg ⟨0, .zero⟩ (.g 1) 3⟩,
  ⟨[10_900011_00_0_00000_00001_00000_0, 9_00010_10_0_000000000000000000],
    .saddReg ⟨0, .zero⟩ (.a 1) 3⟩,
  ⟨[00_900199_00_0_00199_00001_00000_0], .sget ⟨0, .zero⟩ 5 (.g 1)⟩,
  ⟨[10_900199_00_0_00199_00001_00000_0, 9_00000_01_0_000000000000000000],
    .sget ⟨0, .zero⟩ 5 (.a 1)⟩,
  ⟨[00_900190_00_0_00010_00001_00019_0], .swait ⟨0, .zero⟩ 3 (.g 1) 2⟩,
  ⟨[10_900190_00_0_00010_00001_00019_0, 9_00000_01_0_000000000000000000],
    .swait ⟨0, .zero⟩ 3 (.a 1) 2⟩,
  ⟨[00_900191_00_0_00010_00001_00019_0], .rlock ⟨0, .zero⟩ 3 (.a 1) 2⟩,
  ⟨[10_900191_00_0_00010_00001_00019_0, 9_00000_01_0_000000000000000000],
    .rlock ⟨0, .zero⟩ 3 (.g 1) 2⟩,
  ⟨[10_900191_00_0_00010_00001_00019_0, 9_00000_19_0_000000000000000000],
    .rlockRd ⟨0, .zero⟩ 3 (.a 1) 2⟩,
  ⟨[10_900191_00_0_00010_00001_00019_0, 9_00000_10_0_000000000000000000],
    .rlockRd ⟨0, .zero⟩ 3 (.g 1) 2⟩,
  ⟨[00_900109_00_0_00010_00001_00000_0], .runlock ⟨0, .zero⟩ 3 1⟩,
  ⟨[10_900109_00_0_00010_00001_00000_0, 9_00000_01_0_000000000000000000],
    .runlockTorn ⟨0, .zero⟩ 3 (.a 1)⟩,
  ⟨[10_900109_00_0_00010_00001_00000_0, 9_00000_19_0_000000000000000000],
    .runlockTorn ⟨0, .zero⟩ 3 (.g 1)⟩,
  ⟨[00_900100_00_0_00010_00001_00019_0], .board ⟨0, .zero⟩ 3 1 (.g 2)⟩,
  ⟨[10_900100_00_0_00010_00001_00019_0, 9_00000_01_0_000000000000000000],
    .boardTile ⟨0, .zero⟩ 3 1 (.g 2)⟩,
  ⟨[10_900100_00_0_00010_00001_00019_0, 9_00000_19_0_000000000000000000],
    .board ⟨0, .zero⟩ 3 1 (.a 2)⟩,
  ⟨[10_900100_00_0_00010_00001_00019_0, 9_00000_10_0_000000000000000000],
    .boardTile ⟨0, .zero⟩ 3 1 (.a 2)⟩,
  ⟨[00_900101_00_0_00010_00001_00000_0], .unboard ⟨0, .zero⟩ 3 1⟩] : List Reading).all Reading.ok = true := by
  decide +kernel

/-- R81, R411, R73: the words of the system instructions, and of an opcode that no table lists. -/
theorem test_words_system : ([ -- words, instruction
  ⟨[00_110001_00_0_00000_00000_00199_0], .trap ⟨0, .zero⟩ 5⟩,
  ⟨[10_110001_00_0_00000_00000_00000_0, 9_00000_00_0_000000000999999999],
    .trap ⟨0, .zero⟩ (-9841)⟩,
  ⟨[00_110019_00_0_00000_00000_00000_0], .rett ⟨0, .zero⟩⟩,
  ⟨[00_110010_00_0_00000_00001_00000_0], .halt ⟨0, .zero⟩ 1⟩,
  ⟨[00_110011_00_0_00000_00000_00001_0], .pmode ⟨0, .zero⟩ 1⟩,
  ⟨[00_110199_00_0_00001_00019_00010_0], .spool ⟨0, .zero⟩ 1 (.g 2) 3⟩,
  ⟨[10_110199_00_0_00001_00019_00010_0, 9_00000_01_0_000000000000000000],
    .spool ⟨0, .zero⟩ 1 (.a 2) 3⟩] : List Reading).all Reading.ok = true := by
  decide +kernel

/-! ### What the decoder and the well-formedness refuse -/

/-- The words, from their fields written out, stand for no instruction and are refused by name. -/
def refused (ws : List Nat) : Option DecodeFault :=
  match decode (ws.map word) with
  | .ok _ => none
  | .error e => some e

/-- R50, R51, R55, R57 to R60, R70, R86: opcode -364 is undefined; ADD decodes; NOP with a register field that it does
not use, ADD with a MODIF that it has not, FIELD in a shape other than 0 and ADD with a RAISE trit are illegal with
subcode 5; words of a role that starts no instruction, a start word without its continuation, and no words at all are no
instruction. -/
theorem test_words_refused :
    [refused [00_999999_00_0_00000_00000_00000_0], refused [00_000001_00_0_00001_00010_00011_0],
      refused [00_000000_00_0_00001_00000_00000_0], refused [10_000001_00_0_00001_00010_00011_0, 9_00000_19_0_000000000000000000],
      refused [00_010190_00_0_00001_00019_00001_9], refused [10_000001_00_0_00001_00010_00011_0, 9_00000_00_1_000000000000000000],
      refused [01_000001_00_0_00001_00010_00011_0], refused [90_000001_00_0_00001_00010_00011_0],
      refused [09_000001_00_0_00001_00010_00011_0], refused [19_000001_00_0_00001_00010_00011_0],
      refused [10_000001_00_0_00001_00010_00011_0], refused []].map
      (fun x => match x with
        | none => 0
        | some (.undefinedOpcode _) => 1
        | some (.illegal _ _ k) => 10 + k
        | some .notAnInstruction => 2) = [1, 0, 15, 15, 15, 15, 2, 2, 2, 2, 2, 2] := by
  decide +kernel

/-- R103: FIELD with L = 3, which has hi < lo, and with L = 729, are illegal with subcode 5. -/
theorem test_literals_refused :
    [refused [00_010190_00_0_00001_00019_00010_0], refused [10_010190_00_0_00001_00019_00000_0, 9_00000_00_0_000000000001000000]].map
      (fun x => match x with
        | some (.illegal _ _ k) => k
        | _ => 0) = [5, 5] := by
  decide +kernel

/-- R51, R53: a register of 243 or more is in no field. -/
theorem test_illformed_register : (Instr.add ⟨0, .zero⟩ .word 243 0 0).wf = false ∧
    (Instr.ld27 ⟨0, .zero⟩ .default .zero 1 243 0).wf = false ∧ (Instr.sget ⟨0, .zero⟩ 1 (.g 243)).wf = false := by decide

/-- R33, R51, R54: a guard or a condition destination of 9 or more. -/
theorem test_illformed_condition : (Instr.nop ⟨9, .zero⟩).wf = false ∧ (Instr.gbar ⟨0, .zero⟩ 1 9).wf = false ∧
    (Instr.sel3 ⟨0, .zero⟩ 1 9 2 3 4).wf = false := by decide

/-- R57, R94: a literal beyond 27 trits, or beyond the width of the shape. -/
theorem test_illformed_literal : (Instr.movi ⟨0, .zero⟩ 1 ((3 ^ 27 + 1) / 2)).wf = false ∧
    (Instr.addi ⟨0, .zero⟩ .trytes 1 2 9842).wf = false ∧ (Instr.addi ⟨0, .zero⟩ .halves 1 2 797162).wf = false := by
  decide +kernel

/-- R103: trits hi..lo with hi < lo, or hi above 26. -/
theorem test_illformed_field : (Instr.field ⟨0, .zero⟩ 1 2 3 4).wf = false ∧
    (Instr.deposit ⟨0, .zero⟩ 1 2 27 0).wf = false := by decide

/-- R122: a target of BCASE beyond 13 trits, and one beyond 14. -/
theorem test_illformed_bcase : (Instr.bcase ⟨0, .zero⟩ 1 797162 0).wf = false ∧
    (Instr.bcase ⟨0, .zero⟩ 1 0 2391485).wf = false := by decide

/-- R55, R146: halves in a real instruction. -/
theorem test_illformed_real : (Instr.fadd ⟨0, .zero⟩ .halves 1 2 3).wf = false ∧
    (Instr.fabs ⟨0, .zero⟩ .halves 1 2).wf = false := by decide

/-- R161: a tryte 3, and a tryte chosen in shape -. -/
theorem test_illformed_fcvt : (Instr.fcvt ⟨0, .zero⟩ .word 3 1 2 .t9 .tf27 0).wf = false ∧
    (Instr.fcvt ⟨0, .zero⟩ .trytes 1 1 2 .t9 .tf9 0).wf = false := by decide

/-- R222: structures of 1 or of 5 fields. -/
theorem test_illformed_zip : (Instr.zip ⟨0, .zero⟩ .word 1 2 0 0 1).wf = false ∧
    (Instr.unzip ⟨0, .zero⟩ .word 1 2 0 0 5).wf = false := by decide

/-- R395: wait kinds 0 and 4, and an argument beyond nine trits. -/
theorem test_illformed_kwait : (Instr.kwait ⟨0, .zero⟩ 0 0).wf = false ∧ (Instr.kwaitR ⟨0, .zero⟩ 4 1).wf = false ∧
    (Instr.kwait ⟨0, .zero⟩ 1 9842).wf = false := by decide

/-- R382, R386, R411, R414, R112: an engine 2, a raise by 0, a trap number beyond nine trits, a mode 2, and a trit 27. -/
theorem test_illformed_system : (Instr.engage ⟨0, .zero⟩ 1 2 2).wf = false ∧ (Instr.sadd ⟨0, .zero⟩ (.g 1) 0).wf = false ∧
    (Instr.trap ⟨0, .zero⟩ 9842).wf = false ∧ (Instr.pmode ⟨0, .zero⟩ 2).wf = false ∧
    (Instr.alea ⟨0, .zero⟩ 1 2 3 27).wf = false := by decide
/-! ### A small machine -/

/-- A leaf that maps a page to physical page 1, readable, writable and not cached (R251, R252). -/
def labLeaf : Word := p3 26 + p3 8 - p3 7 + p3 3

/-- A thread at a NOP in a gang of its own, with a handler named. -/
def labThread : Thread := { bootThread [0] with trapvec := 270, pc := 27 }

/-- The team of the lab. -/
def labStart : Team := startTeam bootBolt 0 0 [0] [0, 0, 0]

/-- A machine of one thread, whose page 0 is mapped. -/
def lab (t : Thread) : State :=
  { State.reset.place [0] with threads := [t], tcache := [⟨0, 0, 0, labLeaf, 4⟩], teams := [labStart] }

/-- labThread with general and address registers. -/
def labRegs (g a : List Int) : Thread :=
  { labThread with
    g := g ++ List.replicate (243 - g.length) 0
    a := a ++ List.replicate (27 - a.length) 0 }

def Thread.sizedB (t : Thread) : Bool :=
  t.g.length == t.nregs && t.a.length == 27 && t.c.length == 9 && t.cflags.length == 12

theorem sized_of {t : Thread} (h : Thread.sizedB t = true) : t.Sized := by
  simp only [Thread.sizedB, Bool.and_eq_true, beq_iff_eq] at h
  exact ⟨h.1.1.1, h.1.1.2, h.1.2, h.2⟩

def executesB (t : Thread) (gd : Guard) : Bool := t.guardHolds gd && !t.nopOnce

theorem executes_iff {t : Thread} {gd : Guard} : executesB t gd = true ↔ ¬ t.Passes gd := by
  simp [executesB, Thread.Passes]

def readyB (s : State) (gd : Guard) (uses : List RegUse) : Bool :=
  s.threads.all fun t => t.failed.isNone && Thread.sizedB t &&
    (!(s.members.contains t.id) || !(executesB t gd) || uses.all t.owns)

theorem ready_of {s : State} {gd : Guard} {uses : List RegUse} (h : readyB s gd uses = true) : s.Ready gd uses := by
  simp only [readyB, List.all_eq_true (p := fun t : Thread => _), Bool.and_eq_true, Bool.or_eq_true, Bool.not_eq_true',
    Option.isNone_iff_eq_none] at h
  refine ⟨fun t ht => (h t ht).1.1, fun t ht => ⟨sized_of (h t ht).1.2, fun hm he => ?_⟩⟩
  rcases (h t ht).2 with (h1 | h1) | h1
  · rw [List.contains_eq_mem, decide_eq_false_iff_not] at h1
    exact absurd hm h1
  · rw [executes_iff.2 he] at h1
    cases h1
  · exact h1

def executingB (s : State) (gd : Guard) (P : Thread → Bool) : Bool :=
  s.threads.all fun t => !(s.members.contains t.id) || !(executesB t gd) || P t

theorem executing_of {s : State} {gd : Guard} {P : Thread → Prop} [DecidablePred P]
    (h : executingB s gd (fun t => decide (P t)) = true) : s.Executing gd P := by
  intro t ht hm he
  have h1 := List.all_eq_true.1 h t ht
  simp only [Bool.or_eq_true, Bool.not_eq_true', decide_eq_true_eq] at h1
  rcases h1 with (h1 | h1) | h1
  · rw [List.contains_eq_mem, decide_eq_false_iff_not] at h1
    exact absurd hm h1
  · rw [executes_iff.2 he] at h1
    cases h1
  · exact h1

def aloneB (s : State) (gd : Guard) (uses : List RegUse) (t : Thread) : Bool :=
  s.threads.all (fun u => u.failed.isNone) && s.members == [t.id] && s.thread? t.id == some t &&
    s.threads.all (fun u => u.id != t.id || u == t) && Thread.sizedB t && executesB t gd && s.owns t uses

theorem alone_of {s : State} {gd : Guard} {uses : List RegUse} {t : Thread} (h : aloneB s gd uses t = true) :
    s.Alone gd uses t := by
  simp only [aloneB, Bool.and_eq_true, List.all_eq_true, beq_iff_eq, Bool.or_eq_true, bne_iff_ne,
    Option.isNone_iff_eq_none] at h
  obtain ⟨⟨⟨⟨⟨⟨h1, h2⟩, h3⟩, h4⟩, h5⟩, h6⟩, h7⟩ := h
  exact ⟨h1, h2, h3, fun u hu hid => ((h4 u hu).resolve_left fun h => h hid), sized_of h5, executes_iff.1 h6, h7⟩

/-- Every thread of the machine, and each thread alone, under several lists of registers. -/
theorem readies_of {s : State} {gd : Guard} {l : List (List RegUse)} (h : l.all (readyB s gd) = true) :
    ∀ u ∈ l, s.Ready gd u := fun u hu => ready_of (List.all_eq_true.1 h u hu)

theorem alones_of {s : State} {gd : Guard} {t : Thread} {l : List (List RegUse)}
    (h : (l.all fun u => aloneB s gd u t) = true) : ∀ u ∈ l, s.Alone gd u t :=
  fun u hu => alone_of (List.all_eq_true.1 h u hu)

theorem alone_each {l : List State} {gd : Guard} {uses : List RegUse} {t : Thread}
    (h : (l.all fun s => aloneB s gd uses t) = true) : ∀ s ∈ l, s.Alone gd uses t :=
  fun s hs => alone_of (List.all_eq_true.1 h s hs)

def calmB (s : State) : Bool := s.threads.all fun t => t.failed.isNone

theorem calm_of {s : State} (h : calmB s = true) : s.Calm := by
  intro t ht
  exact Option.isNone_iff_eq_none.1 (List.all_eq_true.1 h t ht)

/-- A read of memory succeeds without meeting poison. -/
theorem reads_of {α β ε : Type} {x : Except ε ((α × Nat) × β)}
    (h : (match x with | .ok ((_, m), _) => m == 0 | .error _ => false) = true) : ∃ v s, x = .ok ((v, 0), s) := by
  match x, h with
  | .ok ((v, m), s), h => exact ⟨v, s, by simpa using h⟩


/-- Words from an offset of a memory. -/
def memWords (m : Mem) (at_ : Nat) (ws : List Int) : Mem :=
  ws.zipIdx.foldl (fun m p => memSetWord m (at_ + 3 * p.2) p.1) m

theorem ok_of {α β : Type} {x : Except α β} {P : β → Bool}
    (h : (match x with | .ok b => P b | .error _ => false) = true) : ∃ b, x = .ok b ∧ P b = true := by
  match x, h with
  | .ok b, h => exact ⟨b, rfl, h⟩

theorem error_of {α β : Type} {x : Except α β} (h : (match x with | .ok _ => false | .error _ => true) = true) :
    ∃ e, x = .error e := by
  match x, h with
  | .error e, _ => exact ⟨e, rfl⟩

/-! ### Single instructions on values that the manual works out -/

/-- The first thread after a step. -/
def threadAfter (i : Instr) (s : State) : Option Thread :=
  match exec i s with
  | .next s' => s'.thread? ⟨0, 0⟩
  | _ => none

/-- A register of labThread after an instruction on the lab, its general and address registers given. -/
def gAfter (i : Instr) (g a : List Int) (d : Nat) : Option Int :=
  (threadAfter i (lab (labRegs g a))).map fun t => t.readG d

/-- The worked example "A T9 sum that overflows": 4,000 + 6,000 in tryte 0. -/
theorem test_add_wraps : gAfter (.add ⟨0, .zero⟩ .trytes 3 1 2) [0, 4000, 6000] [] 3 = some (-9683) := by decide +kernel
theorem test_adds_saturates : gAfter (.adds ⟨0, .zero⟩ .trytes 3 1 2) [0, 4000, 6000] [] 3 = some 9841 := by decide +kernel

/-- R24, R26: the quotient is the nearest integer: 8 = 3·3 - 1. -/
theorem test_div_nearest : gAfter (.div ⟨0, .zero⟩ .word 3 1 2) [0, 8, 3] [] 3 = some 3 := by decide +kernel
theorem test_mod_of_nearest : gAfter (.mod ⟨0, .zero⟩ .word 3 1 2) [0, 8, 3] [] 3 = some (-1) := by decide +kernel

/-- R96: MOD by zero raises divide by zero and writes no register. -/
theorem test_mod_by_zero : (threadAfter (.mod ⟨0, .zero⟩ .word 3 1 2) (lab (labRegs [0, 8, 0, 5] []))).map
    (fun t => (t.readG 3, t.trapaddr, t.status.intrap, t.pc)) = some (5, 0, true, 270) := by decide +kernel

/-- The worked example "ingest and one butterfly": samples to halves, their difference, and the survivors. -/
theorem test_pxin_signed : gAfter (.pxinS ⟨0, .zero⟩ 6 5) [0, 0, 0, 0, 0, 196672336] [] 6 = some 4782967800 := by
  decide +kernel
theorem test_hsub_swapped : gAfter (.hsub ⟨0, .zero⟩ .sw 10 6 6) [0, 0, 0, 0, 0, 0, 4782967800] [] 10 = some 6696152400 := by
  decide +kernel
theorem test_hacs : (threadAfter (.hacs ⟨0, .zero⟩ 9 7 8 1)
    (lab (labRegs [0, 0, 0, 0, 0, 0, 0, 55801345, -9565932] []))).map (fun t => (t.readG 9, t.readC 1, t.readC 2)) =
    some (54207011, .pos, .neg) := by decide +kernel

/-- The worked example "a reciprocal at an exponent boundary": 1/2 in TF27 sets INX; nine times it is 4 in tryte 1. -/
theorem test_frcp_half : (threadAfter (.frcp ⟨0, .zero⟩ .word 11 10)
    (lab (labRegs (List.replicate 10 0 ++ [word 000019_190000000000000000000]) []))).map
    (fun t => (t.readG 11, t.flags)) = some (word 000000_111111111111111111111, ⟨false, false, false, true⟩) := by decide +kernel
theorem test_fcvt_mid : (threadAfter (.fcvt ⟨0, .zero⟩ .word 1 12 11 .t9 .tf27 2)
    (lab (labRegs (List.replicate 11 0 ++ [word 000000_111111111111111111111]) []))).map
    (fun t => (t.readG 12, t.flags.inx)) = some (78732, true) := by decide +kernel

/-- The worked example "one rounding per block": 1,000 + 2·3^-15 rounds to 1,000 + 3^-14. -/
theorem test_round27 : tf27.rounded (TFrac.add ⟨1000, 0⟩ ⟨2, -15⟩) =
    (word 000191_110100100000000000001, ⟨false, false, false, true⟩) := by decide +kernel

/-- The worked example "the tenth and eleventh call": call 10 is spilled, and call 11 takes stack limit. -/
def deepThread (a1 : Int) (depth : Nat) : Thread :=
  { labRegs [] [0, a1] with rstack := List.replicate 9 27, rsdepth := depth, splimit := 999999990 }

theorem test_call_stack_limit : (threadAfter (.call ⟨0, .zero⟩ 27)
    { lab (deepThread 999999993 10) with hbm := memSetWord [] (531441 + 108) bootHeader }).map
    (fun t => (t.readA 1, t.rsdepth, t.trapaddr, t.trappc, t.status.intrap)) =
    some (999999993, 10, 999999987, 27, true) := by decide +kernel

/-- The worked example "a twin-power layer": the shape word of three rows and three columns of T9 is valid. -/
theorem test_tset : (threadAfter (.tset ⟨0, .zero⟩ 0 6) (lab (labRegs [0, 0, 0, 0, 0, 0, -529251] []))).map
    (fun t => t.status.intrap) = some false := by decide +kernel

/-- The worked example "absent members in a reduction": -8 to -2 with an absent member's 0. -/
theorem test_red_max : reduceOp .max 27 [-8, -7, -6, -5, -4, -3, -2, 0, 0] = 0 ∧
    reduceOp .max 27 [-8, -7, -6, -5, -4, -3, -2] = -2 := by decide +kernel

/-- The worked example "from a virtual tryte to HBM bits": the home of the line, and its die under the other domain. -/
theorem test_home_of_line : State.reset.homeOf .zero 1062883000 = 27 * 5 + 3 ∧
    State.reset.homeOf .neg 1062883000 = 27 * 15 + 3 := by decide +kernel

/-- The worked example "carry-over and an unordered raise": 162 + 81 against 200 carries 43, and SIGNAL and SADD give the
two orders of step 5. -/
theorem test_raise_carries : (SyncWord.raise ⟨162, 200, 0⟩ 81).1 = ⟨43, 200, 3 ^ 9⟩ ∧
    ((SyncWord.raise ⟨43, 200, 3 ^ 9⟩ 57).1.raise 100).1 = ⟨0, 200, 2 * 3 ^ 9⟩ ∧
    (SyncWord.raise ⟨43, 200, 3 ^ 9⟩ 100).1 = ⟨143, 200, 3 ^ 9⟩ := by decide +kernel

/-- R341: element 40 of a knotted tensor is in block 1, sector 1, slot 4. -/
theorem test_knot_address : knotAddr 810 40 = 810 + 243 + 81 + 12 := by decide

/-- R302: a word of memory is loaded, low tryte first; a store writes its three trytes. -/
theorem test_ld27 : ((threadAfter (.ld27 ⟨0, .zero⟩ .default .zero 7 5 0)
    { lab (labRegs [] [0, 0, 0, 0, 0, 84]) with hbm := [(531441 + 84, -1), (531441 + 85, 1)] }).map
    fun t => t.ops.map LongOp.gs) = some [[(7, 19682)]] := by decide +kernel
theorem test_st27 : (match exec (.st27 ⟨0, .zero⟩ .na .zero 3 5 0) (lab (labRegs [0, 0, 0, 19682] [0, 0, 0, 0, 0, 84])) with
    | .next s => [s.readPhys (531441 + 84), s.readPhys (531441 + 85), s.readPhys (531441 + 86)]
    | _ => []) = [-1, 1, 0] := by decide +kernel

/-- R412: TRAP saves its clause's header, with TRAPADDR 0, and enters the handler. -/
theorem test_trap : (threadAfter (.trap ⟨0, .zero⟩ (-9841)) (lab labThread)).map
    (fun t => (t.trappc, t.trapaddr, t.pc, t.status.intrap)) = some (27, 0, 270, true) := by decide +kernel

/-- R33, R65: a guarded-off instruction writes nothing; the last of its clause falls through to the next one. -/
theorem test_guarded_off : (threadAfter (.movi ⟨3, .pos⟩ 1 7) (lab labThread)).map (fun t => (t.readG 1, t.pc)) =
    some (0, 33) := by decide +kernel

/-- R267: CHECK rests on SHAKE256 of FIPS 202, whose output of no bytes begins 46b9dd2b0ba8. -/
theorem test_shake_of_nothing : shake256 [] 6 = [0x46, 0xb9, 0xdd, 0x2b, 0x0b, 0xa8] := by decide +kernel

/-- R265, R266: the codes of a sector of zeros are 13, and the first tryte's lowest code stands in bits 4..0. -/
theorem test_sector_bits : sectorBody (List.replicate 81 0) false % 32 ^ 3 = 13 + 32 * 13 + 1024 * 13 ∧
    tryteCodes 9841 = [26, 26, 26] ∧ tryteCodes (-9840) = [1, 0, 0] ∧ codeTrytes [1, 0, 0] = [-9840] := by decide +kernel

/-- R333: 1,300 blocks of 4 bytes within a transfer limit of 1,001 bytes go as 1,000 bytes at a time. -/
theorem test_read_commands : (readCommands 4 1001 2 7 5200).map (fun r => (r.block, r.blocks, r.first, r.bytes)) =
    [(7, 250, 0, 1000), (257, 250, 1000, 1000), (507, 250, 2000, 1000), (757, 250, 3000, 1000), (1007, 250, 4000, 1000),
      (1257, 50, 5000, 200)] := by decide +kernel

/-- R331: a stream that a deflate encoder wrote for five times abc, in a fixed block with a copy. -/
theorem test_inflate : inflate [75, 76, 74, 78, 68, 66, 0] = ((List.replicate 5 [97, 98, 99]).flatten, true) := by decide +kernel

/-- R178, R479: the first step of a machine in which a thread stands at ADDI g1, g0, 2 executes it. -/
theorem test_step_issues : (match step (State.reset.place [word 00_000010_00_0_00001_00000_00019_0 ]) with
    | .next s => s.threads.map fun t => t.readG 1
    | _ => []) = [2] := by decide +kernel

/-- R458: the decoder on bits: a positive word of ADD, and a long instruction whose continuation is negative. -/
theorem test_table_bits : decodeTableWord 64 (word 00_000001_00_0_00001_00010_00011_0).toNat =
      some (.add ⟨0, .zero⟩ .word 1 3 4) ∧
    decodeTableWord 128 ((word 10_001990_00_0_00010_00011_00000_0).toNat +
      2 ^ 64 * (2 ^ 64 + word 9_00001_01_0_000000000000000000).toNat) = some (.shtReg ⟨0, .zero⟩ .word 3 4 1) := by
  decide +kernel

/-- R50, R178: the same words laid where the next step issues them are executed: g1 := g3 + g4 is 0, and the thread
passes. -/
theorem test_fetch_word : (match step (State.reset.withFetchWord 64 (word 00_000001_00_0_00001_00010_00011_0).toNat) with
    | .next s => s.threads.map fun t => (t.readG 1, t.pc)
    | _ => []) = [(0, 6)] := by decide +kernel
/-! ### Hypotheses that are met -/

abbrev always : Guard := ⟨0, .zero⟩

def isNext (o : Host.Outcome State Fault Refusal) : Bool :=
  match o with
  | .next _ => true
  | _ => false

/-- An outcome that takes effect at once. -/
def goes (o : Host.Outcome State Fault Refusal) : Bool :=
  match o with
  | .next s => !s.stalled
  | _ => false

theorem next_of {o : Host.Outcome State Fault Refusal} (h : isNext o = true) : ∃ s : State, o = .next s := by
  match o, h with
  | .next s, _ => exact ⟨s, rfl⟩

theorem labLeaf_permits : permits labLeaf .load = true ∧ permits labLeaf .store = true := by decide +kernel

theorem witness_StepRunsDecoded :
    (let s := lab labThread;
     let s2 := s.pickGang
     s.fwReady ≠ .neg ∧ s.dueStep = none ∧ s.started = [] ∧ s.agenda = [] ∧ s.turn = false ∧ s2.gangThreads = [labThread] ∧
      s2.standsStill labThread.core = false ∧ labThread.takesAtSlot = false ∧ labThread.blocker = none ∧
      labThread.quantumEnds = false ∧ decode labThread.words = .ok (.nop always) ∧ goes (exec (.nop always) s2) = true) ∧
    (let s : State := { lab labThread with started := [.beamEnableStop, .lapMark] };
     s.dueStep = none ∧ isProgram .beamEnableStop = false ∧ goes (exec .beamEnableStop { s with started := [.lapMark] }) = true) ∧
    (let s : State := { lab labThread with dies := List.replicate 27 { Die.reset with relock := true } };
     s.fwReady ≠ .neg ∧ s.dueStep = some .relockEnd ∧ goes (exec .relockEnd s) = true) ∧
    (let s : State := { lab labThread with ready := List.replicate 72 0 ++ [-1] };
     s.fwReady = .neg ∧ s.agenda = []) := by
  decide +kernel

theorem witness_DecodeOfEncode :
    (let i : Instr := .movi ⟨8, .pos⟩ 242 (-3812798742493); i.inProgram = true ∧ i.wf = true) ∧
    (let i : Instr := .unzip ⟨0, .zero⟩ .halves 0 121 122 8 4; i.inProgram = true ∧ i.wf = true) := by
  decide +kernel

theorem lab_inv : (lab labThread).Inv where
  memory := ⟨by decide, by decide, by decide, nofun, nofun, nofun, nofun⟩
  staging := by decide
  scratch := by decide +kernel
  tiles := by decide +kernel
  threads := fun t ht => by rw [List.mem_singleton.1 ht]; exact sized_of (by decide +kernel)
  dies := by decide +kernel
  package := by decide +kernel

theorem witness_StepKeepsInvariant : (lab labThread).Inv ∧ ∃ s' : State, step (lab labThread) = .next s' :=
  ⟨lab_inv, next_of (by decide +kernel)⟩

theorem witness_GuardedOffChangesNothing :
    (∃ r, (Instr.add ⟨3, .pos⟩ .word 1 2 3).toRaw = some r ∧ ∀ t ∈ (lab labThread).threads, t.id ∈ (lab labThread).members →
      t.Passes r.guard) ∧
    (Instr.add ⟨3, .pos⟩ .word 1 2 3).wf = true ∧ (lab labThread).Calm ∧ (lab labThread).members.Nodup := by
  refine ⟨⟨_, rfl, fun t ht _ => ?_⟩, by decide, calm_of (by decide +kernel), by decide +kernel⟩
  rw [List.mem_singleton.1 ht]
  exact .inl (by decide +kernel)

theorem witness_BinaryIntegerResults : (lab labThread).Ready always [gUse 242, gUse 0, gUse 242] :=
  ready_of (by decide +kernel)

theorem witness_DivisionResults :
    (let s := lab (labRegs [0, 7, 3 ^ 9 + 3 ^ 18 - 1] []);
      s.Ready always [gUse 242, gUse 1, gUse 2] ∧
        s.Executing always fun t => ∀ k < elemCount .trytes, elem .trytes (t.readG 2) k ≠ 0) ∧
    (let s := lab (labRegs [0, 7, 3 ^ 18 - 1] []);
      s.Ready always [gUse 242, gUse 1, gUse 2] ∧
        s.Executing always fun t => t.status.intrap = false ∧ t.trapvec ≠ 0 ∧
          ∃ k < elemCount .trytes, elem .trytes (t.readG 2) k = 0) :=
  ⟨⟨ready_of (by decide +kernel), executing_of (by decide +kernel)⟩, ready_of (by decide +kernel),
    executing_of (by decide +kernel)⟩

theorem witness_UnaryIntegerResults :
    (lab labThread).Ready always [gUse 242, gUse 242] ∧ fits (Shape.width .trytes) (-9841) = true :=
  ⟨ready_of (by decide +kernel), by decide⟩

theorem witness_ShiftResults : ∀ u ∈ [[gUse 242, gUse 1], [gUse 0, gUse 242, gUse 242]], (lab labThread).Ready always u :=
  readies_of (by decide +kernel)

theorem witness_TritwiseAndFieldResults :
    (∀ u ∈ [[gUse 242, gUse 0, gUse 1], [gUse 242, gUse 1]], (lab labThread).Ready always u) ∧ (0 : Nat) ≤ 26 ∧ (26 : Nat) ≤ 26 :=
  ⟨readies_of (by decide +kernel), by decide⟩

theorem witness_CompareAndMoveResults :
    ∀ u ∈ [[cUse 8, gUse 242, gUse 0], [cUse 0, gUse 242], [cUse 8, cUse 0, cUse 8], [gUse 242, cUse 8, gUse 0, gUse 1, gUse 242],
      [gUse 0, gUse 242], [gUse 242], [gUse 242, cUse 8], [cUse 8, cUse 8]], (lab labThread).Ready always u :=
  readies_of (by decide +kernel)

theorem witness_AddressResults :
    (let s := lab (labRegs [0, 242, 0] []);
      s.Ready always [gUse 1, gUse 2] ∧ (s.Executing always fun t => 0 ≤ t.readG 2 ∧ t.readG 2 < t.nregs) ∧
        s.Executing always fun t => 0 ≤ t.readG 1 ∧ t.readG 1 < t.nregs) ∧
    (∀ u ∈ [[aUse 26, aUse 0, gUse 242], [aUse 26, aUse 0], [aUse 26, gUse 0, gUse 242], [gUse 242, aUse 26]],
      (lab labThread).Ready always u) ∧ (26 : Nat) ≤ 26 :=
  ⟨⟨ready_of (by decide +kernel), executing_of (by decide +kernel), executing_of (by decide +kernel)⟩,
    readies_of (by decide +kernel), by decide⟩

/-- An index that names no register of the thread, in the source and in the destination. -/
theorem witness_AddressResults_outside :
    let s := lab (labRegs [0, 243, -1] [])
    s.Ready always [gUse 1, gUse 2] ∧
      (s.Executing always fun t => (t.readG 1 < 0 ∨ t.nregs ≤ t.readG 1) ∧ t.status.intrap = false ∧ t.trapvec ≠ 0) ∧
      s.Executing always fun t => (t.readG 2 < 0 ∨ t.nregs ≤ t.readG 2) ∧ t.status.intrap = false ∧ t.trapvec ≠ 0 :=
  ⟨ready_of (by decide +kernel), executing_of (by decide +kernel), executing_of (by decide +kernel)⟩

/-- labThread in system privilege. -/
def labSystem : Thread := { labThread with status := { labThread.status with system := true } }

theorem witness_SpecialRegisterResults :
    (∀ u ∈ [[gUse 242], [aUse 26]], (lab labThread).Ready always u) ∧
    (∀ u ∈ [[gUse 242], [aUse 26]], (lab labSystem).Alone always u labSystem) ∧
    (∀ u ∈ [[gUse 0], [aUse 0]], (lab labThread).Alone always u labThread) ∧
    (∃ c : Cause, (9 : Nat) ≤ 9 ∧ fits 9 c.sub = true ∧ fits 9 c.code = true) ∧
    fits 1 labThread.status.width = true ∧ labSystem.status.system = true ∧
    labThread.status.intrap = false ∧ labThread.trapvec ≠ 0 ∧ labThread.status.system = false ∧
    Special.reftime ∈ [Special.threadid, .laneid, .groupid, .teamid, .boltid, .rsdepth, .cycles, .reftime] ∧
    Special.trapaddr ∈ [Special.status, .trappc, .trapinfo, .trapaddr] :=
  ⟨readies_of (by decide +kernel), alones_of (by decide +kernel), alones_of (by decide +kernel), ⟨⟨9841, -9841, 0⟩, by decide⟩,
    by decide⟩

/-- MOVS of the special register 17, which there is not. -/
def labUndefined : Thread := { labThread with clause := [bootHeader, word 00_011909_00_0_00010_00000_01909_0] }

theorem witness_SpecialRegisterResults_undefined :
    let t := labUndefined
    let s := (lab t).pickGang
    (∃ r, Raw.ofWords t.words = some r ∧ (Op.ofCode r.opc == some .movs && decide (16 < r.literal) &&
      aloneB s r.guard (usesOf t.words) t) = true) ∧ t.status.intrap = false ∧ t.trapvec ≠ 0 ∧
      s.gangThreads = [t] ∧ s.standsStill t.core = false ∧ t.takesAtSlot = false ∧ s.heldByCommit t = false ∧
      t.blocker = none ∧ t.quantumEnds = false := by
  have h : ((Raw.ofWords labUndefined.words).any fun r => Op.ofCode r.opc == some .movs && decide (16 < r.literal) &&
    aloneB (lab labUndefined).pickGang r.guard (usesOf labUndefined.words) labUndefined) = true := by decide +kernel
  exact ⟨(Option.any_eq_true _ _).1 h, by decide +kernel⟩

theorem witness_HalfResults :
    ∀ u ∈ [[gUse 242, gUse 0, gUse 242], [gUse 242, gUse 0, gUse 242, cUse 7, cUse 8], [gUse 242, gUse 242, gUse 0],
      [gUse 242, gUse 0]], (lab labThread).Ready always u := readies_of (by decide +kernel)

/-- The header of a clause of one instruction stands at 27, and a NOP word (not a header) at 30, and a continuation
word at 33: the machine with memory at page 0 holding them. -/
def labCode (t : Thread) : State :=
  { lab t with
    tcache := [⟨0, 0, 0, labLeaf, 4⟩]
    hbm := memSetWord (memSetWord [] (531441 + 27) bootHeader) (531441 + 33) (-(p3 26)) }

/-- labThread with a1 and a3 naming the header at 27. -/
def labJump : Thread := { labRegs [0, 2] [0, 27, 0, 27] with c := [.zero, .neg, .pos, .zero, .zero, .zero, .zero, .zero, .zero] }

theorem witness_BranchResults :
    (let s := labCode labJump
     (∀ u ∈ [[], [aUse 3], [cUse 8], [gUse 242]], s.Alone always u labJump) ∧
      s.targetFault labJump (wrap 54 (labJump.pc + 3 * 0)) = none ∧ labJump.readA 3 = wrap 54 (labJump.pc + 3 * 0)) ∧
    (let s := labCode labThread;
     s.Alone always [] labThread ∧ (labThread.capture.any fun c => c.1 == 27) = false ∧ labThread.status.intrap = false ∧
      labThread.trapvec ≠ 0 ∧ s.targetFault labThread (wrap 54 (27 + 3 * (-10))) = some ⟨4, 3, -3⟩ ∧
      s.targetFault labThread (wrap 54 (27 + 3 * 1)) = some ⟨3, 2, 30⟩ ∧
      s.targetFault labThread (wrap 54 (27 + 3 * 2)) = some ⟨3, 1, 33⟩) :=
  ⟨⟨alones_of (by decide +kernel), by decide +kernel⟩, alone_of (by decide +kernel), by decide +kernel⟩

/-- Every branch to the word after the clause, which is no header. -/
theorem witness_BranchResults_refused :
    let t : Thread := { labRegs [0, 2] [0, 30] with c := labJump.c, rstack := [30], rsdepth := 1 }
    let s := labCode t
    (∀ u ∈ [[], [aUse 1], [cUse 1], [cUse 2], [gUse 1]], s.Alone always u t) ∧ t.status.intrap = false ∧ t.trapvec ≠ 0 ∧
      s.targetFault t 30 = some ⟨3, 2, 30⟩ ∧ 30 = wrap 54 (t.pc + 3 * 1) ∧ t.readC 1 = .neg ∧ t.readC 2 = .pos ∧
      0 < wrap 27 (t.readG 1 - 1) ∧ t.readA 1 = 30 ∧ t.rstack.headD 0 = 30 ∧ 1 ≤ t.rsdepth ∧ t.rsdepth ≤ 9 :=
  ⟨alones_of (by decide +kernel), by decide +kernel⟩

/-- The sign of the value of a word of a real format. -/
theorem value_sign (f : RFmt) (w : Int) :
    (0 < f.fracOf w → (0 : ℝ) < (f.value w : ℚ)) ∧ (f.fracOf w < 0 → ((f.value w : ℚ) : ℝ) < 0) := by
  have h3 : (0 : ℚ) < 3 ^ (f.expOf w - f.frac) := zpow_pos (by norm_num) _
  constructor <;> intro h <;> unfold RFmt.value
  · exact_mod_cast mul_pos (Int.cast_pos.2 h) h3
  · exact_mod_cast mul_neg_of_neg_of_pos (Int.cast_lt_zero.2 h) h3

theorem witness_SpecialFunctionResults :
    ∀ f ∈ [tf27, tf9], (f.Finite (p3 (f.frac - 1)) ∧ (0 : ℝ) < (f.value (p3 (f.frac - 1)) : ℚ)) ∧
      f.Finite (-(p3 (f.frac - 1))) ∧ ((f.value (-(p3 (f.frac - 1))) : ℚ) : ℝ) < 0 := by
  intro f hf
  rcases List.mem_pair.1 hf with rfl | rfl
  · exact ⟨⟨by unfold RFmt.Finite; decide, (value_sign _ _).1 (by decide)⟩, by unfold RFmt.Finite; decide,
      (value_sign _ _).2 (by decide)⟩
  · exact ⟨⟨by unfold RFmt.Finite; decide, (value_sign _ _).1 (by decide)⟩, by unfold RFmt.Finite; decide,
      (value_sign _ _).2 (by decide)⟩

/-- A thread whose return stack holds n addresses, all 27. -/
def labCalls (n : Nat) (a1 splimit : Int) : Thread :=
  { labRegs [] [0, a1, 0, 27] with rstack := List.replicate (min n 9) 27, rsdepth := n, splimit := splimit }

/-- A machine whose pair at address 0 is the return address 27, its first sector poisoned or not. -/
def labSpilled (t : Thread) (bad : Bool) : State :=
  { labCode t with
    hbm := memWords (labCode t).hbm 531441 [27, 0]
    hbmPoison := if bad then [6561] else [] }

theorem witness_CallAndReturnResults :
    (let t := labCalls 8 0 0;
      (∀ u ∈ [[], [aUse 3]], (labCode t).Alone always u t) ∧ t.rsdepth < 9 ∧
      (labCode t).targetFault t (wrap 54 (t.pc + 3 * 0)) = none ∧ (labCode t).targetFault t (t.readA 3) = none) ∧
    (let t := labCalls 9 0 0;
      (labCode t).Alone always [] t ∧ t.rstack = 27 :: List.replicate 8 27 ∧ 1 ≤ t.rsdepth ∧ t.rsdepth ≤ 9 ∧
      (labCode t).targetFault t 27 = none) ∧
    (let t := labCalls 0 0 0;
      (labCode t).Alone always [] t ∧ t.rsdepth = 0 ∧ t.status.intrap = false ∧ t.trapvec ≠ 0) ∧
    (let t := labCalls 9 6 1;
      (∀ u ∈ [[], [aUse 3]], (labCode t).Alone always u t) ∧ 9 ≤ t.rsdepth ∧ t.readA 3 = wrap 54 (t.pc + 3 * 0) ∧
      (labCode t).targetFault t (t.readA 3) = none ∧
      t.status.det = false ∧ wrap 54 (t.readA 1 - 6) < t.splimit ∧ t.status.intrap = false ∧ t.trapvec ≠ 0) ∧
    (let t := labCalls 9 6 0;
      (∀ u ∈ [[], [aUse 3]], (labCode t).Alone always u t) ∧ 9 ≤ t.rsdepth ∧ t.readA 3 = wrap 54 (t.pc + 3 * 0) ∧
      (labCode t).targetFault t (t.readA 3) = none ∧
      t.status.det = false ∧ t.splimit ≤ wrap 54 (t.readA 1 - 6) ∧
      (labCode t).check ((labCode t).agentOf t) .store 0 6 (some ⟨3, 2⟩) false true = .ok [⟨0, 6, 531441, labLeaf⟩]) ∧
    (let t := labCalls 10 0 0;
     (∀ bad ∈ [false, true], (labSpilled t bad).Alone always [] t) ∧ 9 < t.rsdepth ∧ t.status.intrap = false ∧ t.trapvec ≠ 0 ∧
      (∃ r, (labSpilled t false).loadMem t .default (t.readA 1) 6 (some ⟨3, 2⟩) false true = .ok r ∧
        (r.1.2 == 0 && wordOfTrytes r.1.1 + 3 ^ 27 * wordOfTrytes (r.1.1.drop 3) == 27 &&
          r.2.targetFault t 27 == none && calmB r.2) = true) ∧
      ∃ r, (labSpilled t true).loadMem t .default (t.readA 1) 6 (some ⟨3, 2⟩) false true = .ok r ∧ (r.1.2 != 0) = true) :=
  ⟨⟨alones_of (by decide +kernel), by decide +kernel⟩, ⟨alone_of (by decide +kernel), by decide +kernel⟩,
    ⟨alone_of (by decide +kernel), by decide +kernel⟩, ⟨alones_of (by decide +kernel), by decide +kernel⟩,
    ⟨alones_of (by decide +kernel), by decide +kernel⟩, fun b hb => by
      rcases List.mem_pair.1 hb with rfl | rfl <;> exact alone_of (by decide +kernel), by decide +kernel, by decide +kernel,
    by decide +kernel, ok_of (by decide +kernel), ok_of (by decide +kernel)⟩

theorem witness_SystemResults :
    (lab labThread).Ready always [] ∧ ((lab labThread).Executing always fun t => t.element = none) ∧
    ((lab labThread).Executing always fun t => t.status.intrap = false ∧ t.trapvec ≠ 0) ∧
    (lab labSystem).Ready always [gUse 242] ∧ ((lab labSystem).Executing always fun t => t.status.system = true) ∧
    (let t : Thread := { labThread with status := { labThread.status with pm := true } };
      (lab t).Alone always [] t ∧ t.status.pm = true) ∧
    (let t : Thread := { labThread with element := some 0 };
      (lab t).Alone always [] t ∧ t.status.intrap = false ∧ t.trapvec ≠ 0 ∧ t.element ≠ none ∧ t.status.pm = false) ∧
    (lab labThread).Alone always [gUse 242] labThread ∧ (2 : Int) ≠ 0 ∧ (2 : Int) ≠ 1 ∧ labThread.status.system = false :=
  ⟨ready_of (by decide +kernel), executing_of (by decide +kernel), executing_of (by decide +kernel),
    ready_of (by decide +kernel), executing_of (by decide +kernel), ⟨alone_of (by decide +kernel), by decide⟩,
    ⟨alone_of (by decide +kernel), by decide⟩, alone_of (by decide +kernel), by decide⟩

/-- labThread in its handler, to return to the clause at 27. -/
def labHandler : Thread :=
  { labThread with status := { labThread.status with intrap := true }, trappc := 27, trapinfo := trapInfo 9 ⟨13, 0, 0⟩ }

theorem witness_HandlerResults :
    (labCode labHandler).Ready always [] ∧
    ((labCode labHandler).Executing always fun t =>
      t.status.intrap = true ∧ (labCode labHandler).targetFault { t with capture := [] } t.trappc = none) ∧
    (∃ b, (lab labHandler).Alone always [] labHandler ∧ labHandler.status.intrap = true ∧
      (lab labHandler).bolt? labHandler.id.bolt = some b ∧ b.outcome = 0 ∧ labHandler.team.bolt = labHandler.id.bolt ∧
      (lab labHandler).team? labHandler.team = some labStart) ∧
    (∃ b, let t : Thread := { labThread with trapvec := 0 };
      (lab t).Alone always [] t ∧ t.trapvec = 0 ∧ (lab t).bolt? t.id.bolt = some b ∧ b.outcome = 0) :=
  ⟨ready_of (by decide +kernel), executing_of (by decide +kernel), ⟨bootBolt, alone_of (by decide +kernel), by decide +kernel⟩,
    bootBolt, alone_of (by decide +kernel), by decide +kernel⟩

theorem witness_RealArithmeticResults :
    ∀ u ∈ [[gUse 242, gUse 0, gUse 242], [gUse 242, gUse 0, gUse 1, gUse 242], [gUse 242, gUse 0]],
      (lab labThread).Ready always u := readies_of (by decide +kernel)

/-- The value of a word of a real format with a fraction that is not 0 is not 0. -/
theorem value_ne_zero {f : RFmt} {w : Int} (h : f.fracOf w ≠ 0) : ((f.value w : ℚ) : ℝ) ≠ 0 := by
  rcases lt_or_gt_of_ne h with h | h
  · exact ((value_sign f w).2 h).ne
  · exact ((value_sign f w).1 h).ne'

theorem witness_RealCompareAndConvertResults :
    (tf27.Finite 0 ∧ tf9.Finite 0 ∧ (tf27.read tf27.nan).isNan = true ∧ (tf9.read tf9.nan).isNan = true ∧
      (tf27.read (364 * 3 ^ 21 + 243 * 3 ^ 15 + 1)).isNan = true ∧ |trits (364 * 3 ^ 21 + 243 * 3 ^ 15 + 1) 20 15| = 243 ∧
      |trits tf27.nan 20 15| ≠ 243 ∧ Fmt.t9 ≠ .tf9 ∧ Fmt.t9 ≠ .tf27) ∧
    (∀ u ∈ [[cUse 8, gUse 242, gUse 0], [cUse 8, gUse 242, gUse 0, cUse 8], [gUse 242, gUse 0]],
      (lab labThread).Ready always u) ∧ (2 : Nat) < 3 :=
  ⟨by unfold RFmt.Finite; decide +kernel, readies_of (by decide +kernel), by decide⟩

theorem witness_RealRoundingIsNearest :
    (∃ f ∈ [tf27, tf9], (f.round ⟨2, -5⟩).ovf = false ∧ f.expOf 0 ≠ f.lim) ∧ tf9 ∈ [tf27, tf9] ∧
    (tf9.round ⟨1, 0⟩).ovf = false := by decide +kernel

theorem witness_RealOperandLaws :
    (∀ f ∈ [tf27, tf9], f.Finite 0 ∧ f.Finite (-1) ∧ ((f.value (-1) : ℚ) : ℝ) ≠ 0) ∧ (tf27.read tf27.nan).isNan = true ∧
      (tf9.read tf9.nan).isNan = true := by
  refine ⟨fun f hf => ?_, by decide +kernel⟩
  rcases List.mem_pair.1 hf with rfl | rfl <;>
    exact ⟨by unfold RFmt.Finite; decide, by unfold RFmt.Finite; decide, value_ne_zero (by decide)⟩

/-- A shape word (R229). -/
def shapeWord (fmt rows cols : Int) : Int := fmt * 3 ^ 12 + rows * 3 ^ 6 + cols

/-- The lab with the first tiles of the team as given. -/
def labTiles (t : Thread) (tiles : List Tile) : State :=
  { lab t with
    teams := [{ labStart with
      tiles := [⟨tiles ++ List.replicate (9 - tiles.length) ⟨0, []⟩, List.replicate 3 ⟨[(27 * 80 + 26, 5)], [80]⟩⟩] }] }

theorem hasTile_of {s : State} {t : Thread} {k : Nat}
    (h : (((s.team? t.team).bind fun m => m.core? t.core).any fun c => decide (k < c.tiles.length)) = true) :
    s.HasTile t k := by
  cases h1 : s.team? t.team with
  | none => simp [h1] at h
  | some m =>
    cases h2 : m.core? t.core with
    | none => simp [h1, h2] at h
    | some c => exact ⟨m, c, h1, h2, by simpa [h1, h2] using h⟩

theorem hasAcc_of {s : State} {t : Thread} {k : Nat}
    (h : (((s.team? t.team).bind fun m => m.core? t.core).any fun c => decide (k < c.accs.length)) = true) :
    s.HasAcc t k := by
  cases h1 : s.team? t.team with
  | none => simp [h1] at h
  | some m =>
    cases h2 : m.core? t.core with
    | none => simp [h1, h2] at h
    | some c => exact ⟨m, c, h1, h2, by simpa [h1, h2] using h⟩

/-- labThread with x in g1, on lane 0. -/
def labRow (x : Int) : Thread := labRegs [0, x, shapeWord 1 81 27] []

theorem witness_TileRowResults :
    (let t := labRow 80
     let s := labTiles t [⟨0, []⟩, ⟨shapeWord (-1) 81 81, [(81 * 80 + 80, 1)]⟩]
     s.HasTile t 1 ∧ (∀ u ∈ [[gUse 242, mUse 1], [mUse 1, gUse 2], [mUse 1, gUse 1], [mUse 1, aUse 0, gUse 1]], s.Alone always u t) ∧
      (∃ vals s1, s.loadMem t .default (t.readA 0) (s.tileAt t 1).sh.rowLen (rowAlign (s.tileAt t 1).sh.fmt) false false =
        .ok ((vals, 0), s1)) ∧
      (∃ vals s1, s.loadMem t .default (t.readA 0) (((s.tileAt t 1).sh.cols + 2) / 3).toNat none false false =
        .ok ((vals, 0), s1)) ∧
      s.boarded t 1 = false ∧ Memory.wf (s.tileAt t 1).data = true ∧ validShape (t.readG 2) = true ∧
      (∀ u ∈ s.threads, u.team = t.team → u.grp = t.grp → u.ops = []) ∧ 0 ≤ t.lane + t.readG 1 ∧
      t.lane + t.readG 1 ≤ 80 ∧ (s.tileAt t 1).shape ≠ 0 ∧ validShape (s.tileAt t 1).shape = true ∧
      t.lane + t.readG 1 < (s.tileAt t 1).sh.rows ∧ (s.tileAt t 1).sh.fmt = -1 ∧ t.status.det = false ∧
      s.check (s.agentOf t) .store (t.readA 0) (s.tileAt t 1).sh.rowLen (rowAlign (s.tileAt t 1).sh.fmt) false false =
        .ok [⟨0, 81, 531441, labLeaf⟩]) ∧
    (let t := labRow 1
     let s := labTiles t [⟨shapeWord 1 1 27, []⟩]
     s.HasTile t 0 ∧ s.Alone always [mUse 0, aUse 26, gUse 1] t ∧ validShape (s.tileAt t 0).shape = true ∧
      (s.tileAt t 0).sh.rows ≤ t.lane + t.readG 1) ∧
    (let t := labRow 81
     let s := labTiles t [⟨0, []⟩, ⟨shapeWord 1 1 27, []⟩]
     (∀ u ∈ [[mUse 0, aUse 0, gUse 1], [mUse 1, aUse 0, gUse 1]], s.Alone always u t) ∧ t.status.intrap = false ∧
      t.trapvec ≠ 0 ∧ (s.tileAt t 0).shape = 0 ∧ (s.tileAt t 1).shape ≠ 0 ∧ 80 < t.lane + t.readG 1) ∧
    (let t := labRow 0
     let s : State := { labTiles t [⟨shapeWord 1 1 27, []⟩] with
      teams := [{ labStart with
        tiles := [⟨List.replicate 9 ⟨shapeWord 1 1 27, []⟩, []⟩]
        boardings := [⟨0, 0, ⟨0, 0⟩, 0, .tile 7, .scratch ⟨0, 0⟩ 0, .armed, 0, 0, none, (0, none)⟩] }] }
     s.Alone always [mUse 8, aUse 0, gUse 1] t ∧ (s.tileAt t 8).shape ≠ 0 ∧ 0 ≤ t.lane + t.readG 1 ∧
      t.lane + t.readG 1 ≤ 80 ∧ s.boarded t 8 = true) :=
  ⟨⟨hasTile_of (by decide +kernel), alones_of (by decide +kernel), reads_of (by decide +kernel), reads_of (by decide +kernel),
      by decide +kernel⟩,
    ⟨hasTile_of (by decide +kernel), alone_of (by decide +kernel), by decide +kernel⟩,
    ⟨alones_of (by decide +kernel), by decide +kernel⟩, alone_of (by decide +kernel), by decide +kernel⟩

/-- A row that there is not, tiles of other formats and no shape at all, and tiles that a boarding holds. -/
theorem witness_TileRowResults_faults :
    (let t := labRow 81
     let s := labTiles t [⟨shapeWord 1 1 27, []⟩, ⟨shapeWord (-1) 1 27, []⟩]
     (∀ u ∈ [[mUse 0, aUse 0, gUse 1], [mUse 1, aUse 0, gUse 1], [mUse 1, gUse 1]], s.Alone always u t) ∧
      t.status.intrap = false ∧ t.trapvec ≠ 0 ∧ (s.tileAt t 0).sh.fmt ≠ -1 ∧ (s.tileAt t 1).shape ≠ 0 ∧ (s.tileAt t 1).sh.fmt = -1 ∧
      80 < t.lane + t.readG 1 ∧ validShape (t.readG 1) = false) ∧
    (let t := labRow 0
     let s : State := { labTiles t [] with
      teams := [{ labStart with
        tiles := [⟨List.replicate 9 ⟨shapeWord (-1) 1 27, []⟩, []⟩]
        boardings := [⟨0, 0, ⟨0, 0⟩, 0, .tile 7, .scratch ⟨0, 0⟩ 0, .armed, 0, 0, none, (0, none)⟩] }] }
     (∀ u ∈ [[mUse 8, aUse 0, gUse 1], [mUse 8, gUse 1], [mUse 8, gUse 2]], s.Alone always u t) ∧ (s.tileAt t 8).shape ≠ 0 ∧
      (s.tileAt t 8).sh.fmt = -1 ∧ 0 ≤ t.lane + t.readG 1 ∧ t.lane + t.readG 1 ≤ 80 ∧ s.boarded t 8 = true ∧
      validShape (t.readG 2) = true) :=
  ⟨⟨alones_of (by decide +kernel), by decide +kernel⟩, alones_of (by decide +kernel), by decide +kernel⟩

/-- A sparse pair of matrices and the metadata of the first. -/
def labMatrix (fmtA fmtB fmtE : Int) (rowsB rowsE colsA colsB colsE : Int) : State :=
  labTiles labThread [⟨shapeWord fmtA 81 colsA, [(0, 4)]⟩, ⟨shapeWord fmtB rowsB colsB, [(0, 2)]⟩,
    ⟨shapeWord fmtE rowsE colsE, [(0, -1)]⟩]

theorem witness_IntegerMatrixResults :
    (let t := labThread
     let s := labMatrix (-1) (-1) (-3) 81 81 27 27 27
     s.HasAcc t 2 ∧ s.Alone always [qUse 2, mUse 0, mUse 1, mUse 2] t ∧
      t.lane < 81 ∧ Memory.wf (s.accAt t 2).data = true ∧ s.boarded t 0 = false ∧ s.boarded t 1 = false ∧
      (s.tileAt t 0).sh.fmt = -1 ∧ (s.tileAt t 1).sh.fmt = -1 ∧ (s.tileAt t 1).sh.cols ≤ 27 ∧
      t.lane < (s.tileAt t 0).sh.rows ∧ 1 ≤ (s.tileAt t 0).sh.cols ∧
      s.boarded t 2 = false ∧ (s.tileAt t 2).sh.fmt = -3 ∧ (s.tileAt t 1).sh.rows = 3 * (s.tileAt t 0).sh.cols ∧
      3 * (s.tileAt t 0).sh.cols ≤ 81 ∧ (s.tileAt t 0).sh.rows ≤ (s.tileAt t 2).sh.rows ∧
      (s.tileAt t 2).sh.cols = (s.tileAt t 0).sh.cols) ∧
    (let t := labThread
     let s := labMatrix (-1) (-1) (-3) 81 81 81 27 27
     s.HasAcc t 2 ∧ s.Alone always [qUse 2, mUse 0, mUse 1] t ∧
      Memory.wf (s.accAt t 2).data = true ∧ s.boarded t 0 = false ∧ s.boarded t 1 = false ∧
      (s.tileAt t 0).sh.fmt = -1 ∧ (s.tileAt t 1).sh.fmt = -1 ∧ (s.tileAt t 1).sh.cols ≤ 27 ∧
      t.lane < (s.tileAt t 0).sh.rows ∧ (s.tileAt t 1).sh.rows = (s.tileAt t 0).sh.cols) :=
  ⟨⟨hasAcc_of (by decide +kernel), alone_of (by decide +kernel), by decide +kernel⟩, hasAcc_of (by decide +kernel),
    alone_of (by decide +kernel), by decide +kernel⟩

/-- What every block product asks of its tiles and accumulator. -/
def blockReady (s : State) : Bool :=
  let t := labThread
  Memory.wf (s.accAt t 0).data && !(s.boarded t 0) && !(s.boarded t 1) && !(s.boarded t 2) &&
    decide ((s.tileAt t 1).sh.cols ≤ 27) && decide ((t.lane : Int) < (s.tileAt t 0).sh.rows) &&
    (s.tileAt t 1).sh.rows == (s.tileAt t 0).sh.cols

theorem witness_BlockMatrixResults :
    (tf27.Finite 0 ∧ ∀ p ∈ [((1 : Int), (-1 : Int))], tf9.Finite p.1 ∧ tf9.Finite p.2) ∧
    (let s := labMatrix (-1) 3 3 81 81 81 27 27
     s.HasAcc labThread 0 ∧ s.Alone always [qUse 0, mUse 0, mUse 1, mUse 2] labThread ∧ blockReady s = true ∧
      (s.tileAt labThread 0).sh.fmt = -1 ∧ (s.tileAt labThread 1).sh.fmt = 3 ∧ (s.tileAt labThread 2).sh.fmt = 3 ∧
      (s.tileAt labThread 2).sh.rows = (s.tileAt labThread 0).sh.cols ∧
      (s.tileAt labThread 2).sh.cols = (s.tileAt labThread 1).sh.cols) ∧
    (let s := labMatrix (-2) (-2) 3 81 81 81 27 27
     s.HasAcc labThread 0 ∧ s.Alone always [qUse 0, mUse 0, mUse 1] labThread ∧ blockReady s = true ∧
      (s.tileAt labThread 0).sh.fmt = -2 ∧ (s.tileAt labThread 1).sh.fmt = -2) ∧
    (let s := labMatrix (-1) (-1) 4 81 81 81 27 30
     s.HasAcc labThread 0 ∧ s.Alone always [qUse 0, mUse 0, mUse 1, mUse 2] labThread ∧ blockReady s = true ∧
      (s.tileAt labThread 0).sh.fmt = -1 ∧ (s.tileAt labThread 1).sh.fmt = -1 ∧ (s.tileAt labThread 2).sh.fmt = 4 ∧
      (s.tileAt labThread 0).sh.rows ≤ (s.tileAt labThread 2).sh.rows ∧
      ((s.tileAt labThread 0).sh.cols + 26) / 27 ≤ (s.tileAt labThread 2).sh.rows ∧
      3 + (s.tileAt labThread 1).sh.cols ≤ (s.tileAt labThread 2).sh.cols) :=
  ⟨by unfold RFmt.Finite; decide +kernel, ⟨hasAcc_of (by decide +kernel), alone_of (by decide +kernel), by decide +kernel⟩,
    ⟨hasAcc_of (by decide +kernel), alone_of (by decide +kernel), by decide +kernel⟩,
    hasAcc_of (by decide +kernel), alone_of (by decide +kernel), by decide +kernel⟩

/-- The control word of DRAIN for 27 columns with formats (R243). -/
def drainWord (qfmt rfmt : Int) : Int := 27 * 3 ^ 17 + qfmt * 3 ^ 15 + rfmt * 3 ^ 13

theorem witness_AccumulatorRowResults :
    ((drainCtl (drainWord 1 1)).qfmt = 1 ∧ tf27.Finite 0 ∧ (∀ v ∈ [(13 : Int), -13, 1, 0], |v| ≤ 13)) ∧
    (let t := labRow 80
     let s := labTiles t []
     s.HasAcc t 0 ∧ s.Alone always [qUse 0, gUse 1] t ∧ t.lane < 81 ∧ Memory.wf (s.accAt t 0).data = true ∧
      0 ≤ t.lane + t.readG 1 ∧ t.lane + t.readG 1 ≤ 80) ∧
    (let t := labRow (27 * 3 ^ 9)
     let s := labTiles t []
     s.Alone always [gUse 216, qUse 0, gUse 1, cUse 8] t ∧ trits (t.readG 1) 26 18 = 0 ∧ 1 ≤ trits (t.readG 1) 17 9 ∧
      0 ≤ trits (t.readG 1) 8 0 ∧ trits (t.readG 1) 8 0 + trits (t.readG 1) 17 9 ≤ 27 ∧
      216 + trits (t.readG 1) 17 9 ≤ t.nregs) ∧
    (let t := labRow (drainWord (-1) 0)
     let s := labTiles t []
     s.Alone always [aUse 0, qUse 0, gUse 1, aUse 26] t ∧ trits (t.readG 1) 26 21 = 0 ∧ trits (t.readG 1) 2 0 = 0 ∧
      trits (t.readG 1) 20 17 = 27 ∧ trits (t.readG 1) 16 15 = -1 ∧ trits (t.readG 1) 14 13 = 0 ∧ t.status.det = false ∧
      s.check (s.agentOf t) .store (t.readA 0) 27 none false false = .ok [⟨0, 27, 531441, labLeaf⟩]) ∧
    (let t := labRow (drainWord 0 1)
     let s := labTiles t []
     s.Alone always [aUse 0, qUse 0, gUse 1, aUse 26] t ∧ trits (t.readG 1) 26 21 = 0 ∧ trits (t.readG 1) 2 0 = 0 ∧
      trits (t.readG 1) 20 17 = 27 ∧ trits (t.readG 1) 16 15 = 0 ∧ trits (t.readG 1) 14 13 = 1 ∧
      s.check (s.agentOf t) .store (t.readA 0) (packT3 (List.replicate 27 0)).length none false false =
        .ok [⟨0, 9, 531441, labLeaf⟩] ∧
      s.check (s.agentOf t) .store (t.readA 26) 27 none false false = .ok [⟨0, 27, 531441, labLeaf⟩]) :=
  ⟨by unfold RFmt.Finite; decide +kernel, ⟨hasAcc_of (by decide +kernel), alone_of (by decide +kernel), by decide +kernel⟩,
    ⟨alone_of (by decide +kernel), by decide +kernel⟩, ⟨alone_of (by decide +kernel), by decide +kernel⟩,
    alone_of (by decide +kernel), by decide +kernel⟩

theorem witness_CrossLaneArrivals :
    (let t := labRegs [0, 0, 0, 0, 3 ^ 26] []
     let s := lab t
     (∀ u ∈ [[gUse 242, gUse 0, gUse 242] ++ maskUses 2, [gUse 240, gUse 241, gUse 242, cUse 8] ++ maskUses 0,
        runUses 239 0 4 ++ maskUses 240], s.Alone always u t) ∧
      t.element = none ∧ t.ops = [] ∧ t.maskOf 2 = some [80] ∧
      ∀ u ∈ s.waitingAt t.team t.grp t.instrAddr, u.arrival?.map Arrival.mask = some [0, 80]) ∧
    (let t := labRegs [0, 8] []
     let s := lab t
     s.Alone always [gUse 1] t ∧ 0 ≤ t.readG 1 ∧ t.readG 1 < s.barCount t.id.bolt ∧
      ∀ u ∈ s.threads, u.team = t.team → u.id ≠ t.id → u.barrier? = none ∨ u.barrier? = some (t.readG 1)) ∧
    (labRegs [0, 0, 0, 0, 3 ^ 26] []).maskOf 2 = some [80] ∧ (labRegs [0, 0, 0, 0, -(3 ^ 26)] []).maskOf 2 = none :=
  ⟨⟨alones_of (by decide +kernel), by decide +kernel⟩, ⟨alone_of (by decide +kernel), by decide +kernel⟩, by decide +kernel⟩

/-- A group of one member that has arrived at an instruction with a mask that names it and an absent member 8. -/
def labArrived (i : Instr) : Thread := { labThread with run := .arrived ⟨i, 30, [0, 8], [5, 6, 7, 8], 8, .pos⟩ }

/-- What the completion of a cross-lane instruction asks. -/
def crossReady (i : Instr) : Bool :=
  let u := labArrived i
  let s := lab u
  s.crossLaneReady ⟨0, 0⟩ 0 30 && decide ((s.threads.map Thread.id).Nodup) &&
    (s.waitingAt ⟨0, 0⟩ 0 30).contains u && (u.arrival?.map fun a => a.instr == i && a.mask.contains (u.member : Int)) == some true &&
    Thread.sizedB u && u.nregs == 243

theorem witness_CrossLaneResults :
    ([.perm always 242 0 0 0 8, .shuf always 242 0 0 0 8, .bcast always 242 0 0 8, .vote always 242 0 0 8,
      .ballot always 240 0 0 8, .red always .halves .add 242 0 0 8, .scan always .trytes .tsum 242 0 0 8,
      .zip always .halves 239 0 0 8 4, .unzip always .word 241 0 0 8 2, .gbar always 0 8] : List Instr).all crossReady = true ∧
    (∀ n : Nat, n < 3 → trits ([-(3 ^ 9), 3 ^ 9, 0].getD n 0) 9 9 = [-1, 1, 0].getD n 0) := by decide +kernel

/-- A second thread of the lab's team. -/
def labOther (r : Run) : Thread := { labThread with id := ⟨0, 1⟩, member := 1, lane := 1, run := r }

/-- The lab with two threads. -/
def labTwo (t u : Thread) : State := { lab t with threads := [t, u] }

/-- A member that waits at the instruction with another mask. -/
theorem witness_CrossLaneArrivals_clash :
    let t := labRegs [0, 0, 0, 0, 3 ^ 26] []
    let u := labOther (.arrived ⟨.gbar always 0 8, t.instrAddr, [0, 1], [], 0, .zero⟩)
    let s := labTwo t u
    (∀ x ∈ [[gUse 242, gUse 0, gUse 242] ++ maskUses 2, [gUse 242, gUse 0, cUse 8] ++ maskUses 2, maskUses 2], s.Alone always x t) ∧
      t.element = none ∧ t.ops = [] ∧ t.maskOf 2 = some [80] ∧ u ∈ s.waitingAt t.team t.grp t.instrAddr ∧
      t ∉ s.waitingAt t.team t.grp t.instrAddr ∧ u.arrival?.map Arrival.mask ≠ some [0, 80] ∧
      (∀ x ∈ t :: s.waitingAt t.team t.grp t.instrAddr, x.status.intrap = false ∧ x.trapvec ≠ 0) ∧ (s.threads.map Thread.id).Nodup :=
  ⟨alones_of (by decide +kernel), by decide +kernel⟩

theorem witness_TeamBarrierResults :
    (let u : Thread := { labThread with run := .barrier 8 }
     let s := labTwo u (labOther .exited)
     (s.threads.map Thread.id).Nodup ∧ s.teamLive ⟨0, 0⟩ = true ∧ u ∈ s.threads ∧ u.team = ⟨0, 0⟩ ∧ u.run = .barrier 8 ∧
      ∀ w ∈ s.threads, w.team = ⟨0, 0⟩ → w.run = .barrier 8 ∨ w.run = .exited) ∧
    (let u : Thread := { labThread with run := .barrier 8 }
     let s := labTwo u (labOther .ganged)
     (s.threads.map Thread.id).Nodup ∧ s.teamLive ⟨0, 0⟩ = true ∧ u ∈ s.threads ∧ u.run = .barrier 8 ∧
      ∃ w ∈ s.threads, w.team = ⟨0, 0⟩ ∧ w.run ≠ .exited ∧ w.run ≠ .barrier 8) ∧
    (let t := labRegs [0, 8] []
     let u := labOther (.barrier 0)
     let s := labTwo t u
     s.Alone always [gUse 1] t ∧ t.element = none ∧ t.ops = [] ∧ 0 ≤ t.readG 1 ∧ t.readG 1 < s.barCount t.id.bolt ∧
      u ∈ s.threads ∧ u.id ≠ t.id ∧ u.team = t.team ∧
      (∀ w ∈ s.threads, w.team = t.team → w.status.intrap = false ∧ w.trapvec ≠ 0 ∧
        (w.id = t.id ∨ w.run = .exited ∨ w.run = .barrier 0)) ∧ (0 : Int) ≠ t.readG 1 ∧ (s.threads.map Thread.id).Nodup) :=
  ⟨by decide +kernel, by decide +kernel, alone_of (by decide +kernel), by decide +kernel⟩

theorem lab_sound {t : Thread} : (lab t).MemorySound := ⟨rfl, List.nodup_nil, List.nodup_nil, nofun, nofun, nofun, nofun⟩

/-- A machine without cached sectors whose HBM is in its canonical form. -/
theorem bare_sound {s : State} (h : (Memory.wf s.hbm && s.l1.isEmpty && s.slices.isEmpty) = true) : s.MemorySound := by
  simp only [Bool.and_eq_true, List.isEmpty_iff] at h
  obtain ⟨⟨h1, h2⟩, h3⟩ := h
  constructor <;> simp [h1, h2, h3]

/-- The agent of labThread in the lab. -/
def labAgent : Agent := (lab labThread).agentOf labThread

/-- The lab with a lock. -/
def labLocked (k : LockKind) : State :=
  { lab labThread with locks := [⟨0, 26, ⟨0, 0⟩, .rlock 0, false, 0, 2, k⟩] }

/-- The agent of labThread with a private window of two words at 90, whose array stands at 900, on lane 1. -/
def labWindowed (splimit : Int) : Agent := { labAgent with win := some ⟨90, 2, splimit, 900, 1⟩ }

theorem witness_AccessChecks :
    (let a := labAgent
     let s := lab labThread
     a.win = none ∧ Perm.load ≠ .fetch ∧ Perm.load ≠ .none ∧
      (a.system = false ∧ (-1 : Int) < 0) ∧
      (fits 48 ((3 ^ 48 - 1) / 2) = true ∧ fits 48 ((3 ^ 48 - 1) / 2 + (2 : Nat) - 1) = false) ∧
      (2 : Int) % 3 ≠ 0 ∧ (80 : Int) / 81 ≠ (80 + (2 : Nat) - 1) / 81 ∧
      s.leafFor a.queue a.qroot 265721 = none ∧
      s.check a .load 265720 1 none false false = .ok [⟨265720, 1, 531441 + 265720, labLeaf⟩]) ∧
    (let a := labWindowed 93
     let s := lab labThread
     let r (ea : Int) (n : Nat) (whole : Bool) := s.check a .store ea n none false whole
     a.win = some ⟨90, 2, 93, 900, 1⟩ ∧ a.system = false ∧ fits 48 (90 + 6 - 1) = true ∧
      r 95 1 false = .ok [⟨900 + 3 * 82 + 2, 1, 531441 + 1148, labLeaf⟩] ∧ r 92 1 false = .error ⟨8, 1, 92⟩ ∧
      s.check (labWindowed 0) .store 90 6 (some ⟨3, 2⟩) false true =
        .ok [⟨903, 3, 531441 + 903, labLeaf⟩, ⟨1146, 3, 531441 + 1146, labLeaf⟩] ∧
      r 92 2 false = .error ⟨7, 1, 92⟩ ∧ r 88 2 false = .ok [⟨88, 2, 531441 + 88, labLeaf⟩] ∧
      r 89 2 false = .error ⟨7, 1, 89⟩ ∧ r 96 1 false = .ok [⟨96, 1, 531441 + 96, labLeaf⟩] ∧
      s.leafFor a.queue a.qroot (265720 + 3 * 82) = none) ∧
    (let s := labLocked .dest
     labAgent.win = none ∧ (∀ l ∈ s.locks, l.core ≠ 1) ∧
      s.check { labAgent with core := 1 } .load 0 1 none false false = .ok [⟨0, 1, 531441, labLeaf⟩] ∧
      ∃ l ∈ s.locks, l.core = labAgent.core ∧ l.scratch = false ∧ l.kind = .dest ∧ ∃ x : Int, l.lo ≤ x ∧ x ≤ l.hi ∧ 0 ≤ x ∧
        x < 0 + (1 : Nat)) :=
  ⟨by decide +kernel, by decide +kernel, by decide +kernel, by decide +kernel, by decide +kernel, _, .head _, by decide +kernel,
    by decide +kernel, by decide +kernel, 0, by decide +kernel⟩

/-- A deterministic thread with n sectors buffered. -/
def labDet (n : Nat) : Thread :=
  { labThread with
    status := { labThread.status with det := true }
    buf := (List.range n).map fun k => .memory 0 (81 * k) 0 labLeaf .default 0 1 }

theorem witness_LoadAndStoreResults :
    (let t := labThread
     let s := lab t
     (∀ u ∈ [[gUse 242, aUse 26], [aUse 26, aUse 26]], s.Alone always u t) ∧
      (∃ v s1, s.loadMem t .default (wrap 54 (t.readA 26 + 265720)) 1 none false false = .ok ((v, 0), s1)) ∧
      (∃ v s1, s.loadMem t .na (wrap 54 (t.readA 26 + 0)) 3 (some ⟨3, 1⟩) false true = .ok ((v, 0), s1)) ∧
      (∃ v s1, s.loadMem t .by (wrap 54 (t.readA 26 + 79)) 2 none true false = .ok ((v, 0), s1)) ∧
      (∃ v s1, s.loadMem t .by (wrap 54 (t.readA 26 + 78)) 6 (some ⟨3, 2⟩) false true = .ok ((v, 0), s1)) ∧
      t.status.det = false ∧ s.check (s.agentOf t) .store (wrap 54 (t.readA 26 + 265720)) 1 none false false =
        .ok [⟨265720, 1, 531441 + 265720, labLeaf⟩] ∧
      s.check (s.agentOf t) .store (wrap 54 (t.readA 26 + 0)) 3 (some ⟨3, 1⟩) false true = .ok [⟨0, 3, 531441, labLeaf⟩] ∧
      s.check (s.agentOf t) .store (wrap 54 (t.readA 26 + 79)) 2 none true false = .ok [⟨79, 2, 531441 + 79, labLeaf⟩] ∧
      s.check (s.agentOf t) .store (wrap 54 (t.readA 26 + 78)) 6 (some ⟨3, 2⟩) false true =
        .ok [⟨78, 6, 531441 + 78, labLeaf⟩]) ∧
    (let t := labDet 26
     let s := lab t
     s.Alone always [gUse 242, aUse 26] t ∧ t.status.det = true ∧
      s.check (s.agentOf t) .store 0 1 none false false = .ok [⟨0, 1, 531441, labLeaf⟩] ∧
      bufSectors (t.buf ++ s.bufferOf .default t.quantum [⟨0, 1, 531441, labLeaf⟩] [0]) ≤ 27) ∧
    (let t := labDet 27
     let s := lab t
     s.Alone always [gUse 242, aUse 26] t ∧ t.status.det = true ∧
      27 < bufSectors (t.buf ++ s.bufferOf .default t.quantum [⟨0, 1, 531441, labLeaf⟩] [0])) :=
  ⟨⟨alones_of (by decide +kernel), reads_of (by decide +kernel), reads_of (by decide +kernel), reads_of (by decide +kernel),
      reads_of (by decide +kernel), by decide +kernel⟩, ⟨alone_of (by decide +kernel), by decide +kernel⟩,
    alone_of (by decide +kernel), by decide +kernel⟩

/-- Control words that are not valid, a row that there is not, and DRAIN in deterministic mode. -/
theorem witness_AccumulatorRowResults_more :
    (let t := labRow 81
     let s := labTiles t []
     s.HasAcc t 0 ∧ t.lane < 81 ∧ Memory.wf (s.accAt t 0).data = true ∧ t.status.intrap = false ∧ t.trapvec ≠ 0 ∧
      (∀ u ∈ [[qUse 0, gUse 1], [gUse 242, qUse 0, gUse 1, cUse 8], [aUse 0, qUse 0, gUse 1, aUse 26]], s.Alone always u t) ∧
      80 < t.lane + t.readG 1 ∧ trits (t.readG 1) 17 9 < 1 ∧ trits (t.readG 1) 20 17 < 1) ∧
    (∀ n ∈ [26, 27],
     let t := { labRow (drainWord 0 1) with status := { labThread.status with det := true }, buf := (labDet n).buf }
     let s := labTiles t []
     s.Alone always [aUse 0, qUse 0, gUse 1, aUse 26] t ∧ trits (t.readG 1) 26 21 = 0 ∧ trits (t.readG 1) 2 0 = 0 ∧
      trits (t.readG 1) 20 17 = 27 ∧ trits (t.readG 1) 16 15 = 0 ∧ trits (t.readG 1) 14 13 = 1 ∧ t.status.det = true ∧
      s.check (s.agentOf t) .store (t.readA 0) (packT3 (List.replicate 27 0)).length none false false = .ok [⟨0, 9, 531441, labLeaf⟩] ∧
      s.check (s.agentOf t) .store (t.readA 26) 27 none false false = .ok [⟨0, 27, 531441, labLeaf⟩] ∧
      (bufSectors (t.buf ++ (s.bufferOf .default t.quantum [⟨0, 9, 531441, labLeaf⟩] (List.replicate 9 0) ++
        s.bufferOf .default t.quantum [⟨0, 27, 531441, labLeaf⟩] (List.replicate 27 0))) ≤ 27 ↔ n = 26)) := by
  refine ⟨⟨hasAcc_of (by decide +kernel), by decide +kernel, by decide +kernel, by decide +kernel, by decide +kernel,
    alones_of (by decide +kernel), by decide +kernel⟩, fun n hn => ⟨alone_of ?_, ?_⟩⟩ <;> revert n <;> decide +kernel

theorem witness_MemoryReadAndWritten :
    (∀ t ∈ [labThread, { labThread with status := { labThread.status with det := true } }],
     let s := lab t
     let g : Seg := ⟨80, 1, 531441 + 80, labLeaf⟩
     s.check (s.agentOf t) .load 80 1 none false false = .ok [g] ∧ 0 ≤ g.pa ∧ g.pa.toNat % 81 + g.n ≤ 81 ∧ 1 ≤ g.n ∧
      t.buf = [] ∧ s.poisonAt (s.homeOf (leafDom g.leaf) g.pa.toNat) (g.pa.toNat / 81) = 0 ∧ (∀ e ∈ s.l1, e.poison = 0) ∧
      (s.l1.map fun e => (e.core, e.home, e.sector)).Nodup ∧
      Memory.wf s.hbm = true ∧ s.l1 = [] ∧ s.slices = [] ∧ [(-1 : Int)].length = g.n ∧ leafCache g.leaf = .neg) ∧
    (lab labThread).MemorySound ∧ (lab { labThread with status := { labThread.status with det := true } }).MemorySound :=
  ⟨by decide +kernel, lab_sound, lab_sound⟩

theorem witness_ScratchpadResults :
    (let t := labRegs [0, 177146, 177144] []
     let s := lab t
     (∀ u ∈ [[gUse 242, gUse 1], [gUse 242, gUse 2]], s.Alone always u t) ∧ s.team? t.team = some labStart ∧ t.buf = [] ∧
      labStart.scratchBad = [] ∧ Memory.wf labStart.scratch = true ∧ 0 ≤ t.readG 1 + 0 ∧
      t.readG 1 + 0 + (1 : Nat) ≤ s.scratchSize t.id.bolt ∧
      lockFault (s.scratchLocks t.core t.team) .load [(177146, 1)] = none ∧
      t.readG 2 + 0 + (3 : Nat) ≤ s.scratchSize t.id.bolt ∧ (t.readG 2 + 0) % 3 = 0 ∧
      lockFault (s.scratchLocks t.core t.team) .store [(177144, 3)] = none ∧ t.status.det = false ∧
      t.status.intrap = false ∧ t.trapvec ≠ 0 ∧ s.scratchSize t.id.bolt < t.readG 2 + 1 + 3 ∧ t.readG 2 - 177145 < 0) :=
  ⟨alones_of (by decide +kernel), by decide +kernel⟩

/-- A word at an offset that is no multiple of 3, and stores in deterministic mode. -/
theorem witness_ScratchpadResults_more :
    (let t := labRegs [0, 1] []
     let s := lab t
     s.Alone always [gUse 242, gUse 1] t ∧ s.team? t.team = some labStart ∧ t.buf = [] ∧ 0 ≤ t.readG 1 + 0 ∧
      t.readG 1 + 0 + 3 ≤ s.scratchSize t.id.bolt ∧ (t.readG 1 + 0) % 3 ≠ 0 ∧ t.readG 1 - 2 < 0 ∧
      s.scratchSize t.id.bolt < t.readG 1 + 177146 + 1 ∧ t.status.intrap = false ∧ t.trapvec ≠ 0) ∧
    (∀ n ∈ [26, 27],
     let t := labDet n
     let s := lab t
     s.Alone always [gUse 242, gUse 1] t ∧ t.status.det = true ∧ 0 ≤ t.readG 1 + 0 ∧ t.readG 1 + 0 + 3 ≤ s.scratchSize t.id.bolt ∧
      (t.readG 1 + 0) % 3 = 0 ∧ (∀ k ∈ [(1 : Nat), 3], lockFault (s.scratchLocks t.core t.team) .store [(t.readG 1 + 0, k)] = none) ∧
      ∀ k ∈ [1, 3], (bufSectors (t.buf ++ (List.range k).map fun k => BufTryte.scratch k 0) ≤ 27 ↔ n = 26)) := by
  refine ⟨⟨alone_of (by decide +kernel), by decide +kernel⟩, fun n hn => ⟨alone_of ?_, ?_⟩⟩ <;> revert n <;> decide +kernel

theorem witness_AtomicResults :
    (let s := lab labThread
     let g : Seg := ⟨78, 3, 531441 + 78, labLeaf⟩
     let u := labRegs [] [0, 78]
     (∀ l ∈ [[gUse 242, aUse 1, gUse 0], [gUse 242, aUse 1, gUse 0, gUse 242]], (lab u).Alone always l u) ∧ (lab u).MemorySound ∧
      u.ops = [] ∧ (lab u).check ((lab u).agentOf u) .atomic (u.readA 1) 3 (some ⟨3, 1⟩) false true = .ok [g] ∧ 0 ≤ g.pa ∧
      g.pa.toNat % 81 + 3 ≤ 81 ∧ g.n = 3 ∧ s.poisonAt (s.homeOf (leafDom g.leaf) g.pa.toNat) (g.pa.toNat / 81) = 0 ∧
      fits 27 ((lab u).memWordAt (s.homeOf (leafDom g.leaf) g.pa.toNat) g.pa.toNat) = true ∧ u.status.det = false) ∧
    (let g : Seg := ⟨78, 3, 531441 + 78, labLeaf⟩
     let u := { labRegs [] [0, 78] with status := { labThread.status with det := true } }
     let s : State := { lab u with heldTrytes := [((lab u).homeOf (leafDom labLeaf) (531441 + 79), 531441 + 79, ⟨0, 1⟩)] }
     (∀ l ∈ [[gUse 242, aUse 1, gUse 0], [gUse 242, aUse 1, gUse 0, gUse 242]], s.Alone always l u) ∧ u.ops = [] ∧
      s.check (s.agentOf u) .atomic (u.readA 1) 3 (some ⟨3, 1⟩) false true = .ok [g] ∧ u.status.det = true ∧
      s.raceOf u.team (s.cellsAt [g]) = some 79 ∧ u.status.intrap = false ∧ u.trapvec ≠ 0 ∧
      s.memWordAt (s.homeOf (leafDom g.leaf) g.pa.toNat) g.pa.toNat = u.readG 0 ∧
      ∀ x ∈ (lab u).cellsAt [g], (lab u).heldElsewhere u.team x.1 x.2.1 = false) :=
  ⟨⟨alones_of (by decide +kernel), lab_sound, by decide +kernel⟩, alones_of (by decide +kernel), by decide +kernel⟩

/-- A thread with an operation in flight on flag f11. -/
def labFlight (o : LongOp) : Thread :=
  { labThread with ops := [o], nextOp := 1, cflags := List.replicate 11 0 ++ [1] }

theorem witness_CompletionResults :
    (let o : LongOp := { LongOp.plain (some 11) with gs := [(242, 5)], dests := [gUse 242], load := true }
     let t := labFlight o
     let s := lab t
     s.Calm ∧ t.Sized ∧ s.thread? t.id = some t ∧ (∀ u ∈ s.threads, u.id = t.id → u = t) ∧ o ∈ t.ops ∧
      (t.ops.map LongOp.num).Nodup ∧ o.tileOp = none ∧ o.flag = some 11 ∧ t.pend = [] ∧ t.run = .ganged ∧
      o.gs = [(242, 5)] ∧ o.prs = [] ∧ o.cs = [] ∧ o.cause = none ∧ o.sets = RealFlags.clear ∧ 242 < t.nregs) ∧
    (let o : LongOp := { LongOp.plain (some 11) with dests := [gUse 5], cause := some ⟨11, 2, 0⟩ }
     let t := labFlight o
     o ∈ t.ops ∧ o.gs = [] ∧ o.cause = some ⟨11, 2, 0⟩ ∧ ∀ u ∈ o.dests, u ∉ t.slotUses) :=
  ⟨⟨calm_of (by decide +kernel), sized_of (by decide +kernel), by decide +kernel⟩, by decide +kernel⟩

/-- The lab with page 0 cached by L1 and slices (CACHE +). -/
def labCached (t : Thread) : State := { lab t with tcache := [⟨0, 0, 0, p3 26 + p3 8 + p3 7 + p3 3, 4⟩] }

/-- The copies of a tryte agree in a machine whose caches hold nothing. -/
theorem lab_agrees (t : Thread) (home pa : Nat) : (lab t).Agrees home pa := ⟨⟨nofun, nofun⟩, nofun, nofun⟩

/-- The completion of a pair by LDA, and of AROW for the group that it was issued for. -/
theorem witness_CompletionResults_more :
    (let o : LongOp := { LongOp.plain (some 11) with prs := [(26, 5)], dests := [aUse 26], load := true }
     let t := labFlight o
     (lab t).Calm ∧ t.Sized ∧ o ∈ t.ops ∧ o.tileOp = none ∧ o.flag = some 11 ∧ o.gs = [] ∧ o.prs = [(26, 5)] ∧ o.cs = [] ∧
      o.cause = none ∧ t.pend = [] ∧ t.run = .ganged) ∧
    (let o : LongOp := { LongOp.plain (some 11) with
       gs := [(242, 5)], cs := [(8, .pos)], dests := [cUse 8, qUse 0, gUse 242], tileOp := some 7 }
     let t := labFlight o
     let u : Thread := { labOther .ganged with ops := [{ o with num := 3 }], nextOp := 4 }
     let s := labTwo t u
     s.Calm ∧ s.thread? t.id = some t ∧ (s.threads.map Thread.id).Nodup ∧ o ∈ t.ops ∧ (t.ops.map LongOp.num).Nodup ∧
      o.tileOp = some 7 ∧ t.pend = [] ∧ (∀ x ∈ s.threads, ∀ y ∈ x.ops, y.cause = none ∧ x.run = .ganged) ∧
      (∀ x ∈ s.threads, ∃ y, (x.ops.find? fun y => y.tileOp == some 7) = some y ∧ (y.gs.map Prod.fst).Nodup ∧
        (∀ p ∈ y.gs, p.1 < x.nregs ∧ gUse p.1 ∈ y.dests) ∧ y.prs = [] ∧ (∀ p ∈ y.cs, p.1 < 9 ∧ cUse p.1 ∈ y.dests) ∧
        y.cs.length ≤ 1) ∧ u.Sized) := by
  refine ⟨⟨calm_of (by decide +kernel), sized_of (by decide +kernel), by decide +kernel⟩, calm_of (by decide +kernel),
    by decide +kernel, by decide +kernel, by decide +kernel, by decide +kernel, rfl, rfl, by decide +kernel, fun x hx => ?_,
    sized_of (by decide +kernel)⟩
  rcases List.mem_pair.1 hx with rfl | rfl <;> exact ⟨_, rfl, by decide +kernel⟩

theorem witness_FenceAndCacheResults :
    (∀ t ∈ [labThread, labFlight { LongOp.plain (some 11) with gs := [(242, 5)], dests := [gUse 242], load := true }],
      (lab t).Alone always [] t ∧ t.run = .ganged ∧ (t.ops.map LongOp.num).Nodup ∧
        ∀ o ∈ t.ops, o.cause = none ∧ o.tileOp = none) ∧
    (let t := labRegs [0, 1, 531441, 0, 531442] [0, 0, 265721]
     let s := lab t
     let c := labCached t
     let g : Seg := ⟨0, 1, 531441, p3 26 + p3 8 + p3 7 + p3 3⟩
     let page := t.readA 1
     (∀ l ∈ [[aUse 26], [gUse 242, aUse 26], [aUse 26, gUse 1]], s.Alone always l t) ∧
      (∀ l ∈ [[aUse 26], [aUse 26, gUse 2]], c.Alone always l t) ∧ s.quietPiece t 265721 = none ∧
      c.quietPiece t (wrap 54 (t.readA 26 + 0)) = some g ∧ c.quietPiece t (t.readA 26) = some g ∧ leafCache g.leaf ≠ .neg ∧
      c.sliceAt (c.homeOf (leafDom g.leaf) g.pa.toNat) (g.pa.toNat / 81) = none ∧
      0 ≤ t.readA 26 ∧ fits 48 (t.readA 26) = true ∧
      s.leafFor (s.agentOf t).queue (s.agentOf t).qroot (t.readA 2) = none ∧
      ({ s with tcache := [⟨0, 0, 0, p3 26 + p3 8 - p3 7, 3⟩] } : State).leafFor (s.agentOf t).queue (s.agentOf t).qroot page =
        some (p3 26 + p3 8 - p3 7, 3) ∧
      s.leafFor (s.agentOf t).queue (s.agentOf t).qroot (t.readA 26) = some (labLeaf, 4) ∧
      s.rangePieces t .load (t.readA 26) (t.readG 1) = .ok [⟨0, 1, 531441, labLeaf⟩] ∧
      s.rangePieces t .fetch (t.readA 26) (t.readG 1) = .ok [⟨0, 1, 531441, labLeaf⟩] ∧
      t.readG 3 < 1 ∧ 3 ^ 12 < t.readG 4 ∧ t.status.intrap = false ∧ t.trapvec ≠ 0) := by
  refine ⟨fun t ht => ?_, alones_of (by decide +kernel), alones_of (by decide +kernel), by decide +kernel⟩
  rcases List.mem_pair.1 ht with rfl | rfl <;> exact ⟨alone_of (by decide +kernel), by decide +kernel⟩

/-- The lab whose team's scratchpad holds an armed sync word at 0: COUNT 1, TARGET 3, GEN 7. -/
def labSync (t : Thread) : State :=
  { lab t with
    teams := [{ labStart with scratch := memSetWord (memSetWord (memSetWord [] 0 1) 3 3) 6 (7 * 3 ^ 9) }] }

theorem witness_SyncWordRaise :
    (let w : SyncWord := ⟨1, 3, 7 * 3 ^ 9⟩
     (1 : Int) ≤ 2 ∧ 0 ≤ w.count ∧ 1 ≤ w.target ∧ w.target ≤ min (w.count + 2) ((3 ^ 27 - 1) / 2) ∧
      min (w.count + 1) ((3 ^ 27 - 1) / 2) < w.target ∧ (⟨0, 0, 0⟩ : SyncWord).target < 1) ∧
    (let t : Thread := { labThread with run := .waiting 8 (.scratch ⟨0, 0⟩ 0) 8 false }
     let s := labSync t
     let w : SyncWord := ⟨1, 3, 7 * 3 ^ 9⟩
     s.MemorySound ∧ t.Sized ∧ (∃ m, s.team? ⟨0, 0⟩ = some m ∧ m.state = .resident ∧ Memory.wf m.scratch = true) ∧
      s.syncAt (.scratch ⟨0, 0⟩ 0) = some w ∧ fits 27 w.count = true ∧ fits 27 w.target = true ∧
      fits 27 w.word2 = true ∧
      t ∈ s.threads ∧ t.run = .waiting 8 (.scratch ⟨0, 0⟩ 0) 8 false ∧ s.teamLive t.team = true ∧
      (s.threads.map Thread.id).Nodup ∧ 1 ≤ (w.raise 2).2 ∧ 0 ≤ wrap 18 ((w.raise 2).1.gen - 8) ∧ (w.raise 1).2 = 0) ∧
    (let s := lab labThread
     s.MemorySound ∧ s.syncAt (.memory 0 72 labLeaf) = some ⟨0, 0, 0⟩ ∧ (0 : Int) ≤ 72 ∧ (72 : Int) % 81 + 9 ≤ 81 ∧
      78 % 81 + 3 * [(5 : Int)].length ≤ 81) :=
  ⟨by decide +kernel, ⟨⟨by decide, by decide, by decide, nofun, nofun, nofun, nofun⟩, sized_of (by decide +kernel),
    ⟨(labSync labThread).teams.headD labStart, by decide +kernel⟩, by decide +kernel⟩, lab_sound, by decide +kernel⟩

theorem witness_SyncInstructionResults :
    (let t := labRegs [0, 0, 8, 7] []
     let s := labSync t
     let loc := SyncLoc.scratch ⟨0, 0⟩ 0
     (∀ u ∈ [[placeUse (.g 1), gUse 2], [placeUse (.g 1)], [gUse 240, gUse 241, gUse 242, placeUse (.g 1)],
        [cUse 8, placeUse (.g 1), gUse 2]], s.Alone always u t) ∧
      s.syncAt loc = some ⟨1, 3, 7 * 3 ^ 9⟩ ∧ t.ops = [] ∧ t.run = .ganged ∧ s.syncPlace t (.g 1) .store = .ok (loc, 0) ∧
      s.syncPlace t (.g 1) .load = .ok (loc, 0) ∧ 1 ≤ t.readG 2 ∧
      t.readG 1 < 1 ∧ t.status.intrap = false ∧ t.trapvec ≠ 0 ∧
      t.pend = [] ∧ t.status.det = false ∧ 0 ≤ wrap 18 (7 - wrap 18 (t.readG 3)) ∧ wrap 18 (7 - wrap 18 (t.readG 2)) < 0) ∧
    (let t := { labRegs [] [0, 72] with status := { labThread.status with det := true } }
     let home := (lab t).homeOf (leafDom labLeaf) (531441 + 72)
     let loc := SyncLoc.memory home (531441 + 72) labLeaf
     let s : State := { lab t with heldTrytes := [(home, 531441 + 78, ⟨0, 1⟩)] }
     s.Alone always [placeUse (.a 1), gUse 2] t ∧ s.syncPlace t (.a 1) .store = .ok (loc, 0) ∧
      s.syncAt loc = some ⟨0, 0, 0⟩ ∧ s.raceOf t.team (syncCells t (.a 1) loc) = some 78 ∧
      s.MemorySound ∧ ((syncCells t (.a 1) loc).map fun x => x.2.1).Nodup ∧
      ∀ x ∈ syncCells t (.a 1) loc, (lab t).heldElsewhere t.team x.1 x.2.1 = false) ∧
    (let t := labRegs [] [0, 72, 265716]
     let s : State := { lab t with hbmPoison := [6561], tcache := [⟨0, 0, 0, labLeaf, 4⟩, ⟨0, 0, 1, labLeaf + p3 9, 4⟩] }
     let loc (va : Nat) := SyncLoc.memory (s.homeOf (leafDom labLeaf) (531441 + va)) (531441 + va : Nat) labLeaf
     (∀ u ∈ [[gUse 240, gUse 241, gUse 242, placeUse (.a 1)], [cUse 8, placeUse (.a 1), gUse 2]], s.Alone always u t) ∧
      s.syncPlace t (.a 1) .load = .ok (loc 72, 1) ∧
      (match s.syncPlace t (.a 2) .store with | .ok (.cut _ _ _ 5 _ _ _, 0) => true | _ => false) = true) :=
  ⟨⟨alones_of (by decide +kernel), by decide +kernel⟩, ⟨alone_of (by decide +kernel), by decide +kernel, by decide +kernel,
    by decide +kernel, bare_sound (by decide +kernel), by decide +kernel⟩, alones_of (by decide +kernel), by decide +kernel⟩

theorem witness_RangeLockResults :
    (let t := labRegs [0, 1, 531441] []
     let s := lab t
     let r : LockRange := ⟨false, 0, 0, true⟩
     s.Alone always [gUse 242, placeUse (.a 26), gUse 1] t ∧ 1 ≤ t.readG 1 ∧ t.readG 2 ≤ 3 ^ 12 ∧
      s.lockRange t (.a 26) (t.readG 1) true = .ok r ∧ s.team? t.team = some labStart ∧ labStart.pair = false ∧
      labStart.core = t.core ∧ s.freeEntry t.core = some 0 ∧ s.canLock t.core t.team [r] false = true ∧ t.pend = []) ∧
    (∀ pend ∈ [[], [(⟨⟨20, 3, 5⟩, []⟩ : Pending)]],
     let t := { labRegs [0, 1] [0, 2] with pend := pend }
     let s : State := { labLocked .dest with threads := [t], tokens := [(lockToken, t.id)] }
     let r : LockRange := ⟨false, 2, 2, true⟩
     s.Alone always [gUse 242, placeUse (.a 1), gUse 1] t ∧ s.lockRange t (.a 1) (t.readG 1) true = .ok r ∧
      s.team? t.team = some labStart ∧ s.canLock t.core t.team [r] false = false ∧ t.status.intrap = false ∧ t.trapvec ≠ 0 ∧
      (lockToken, t.id) ∈ s.tokens) ∧
    (let t := labRegs [0, 26 * 3 ^ 4] []
     let s : State := { lab t with locks := [⟨0, 26, ⟨0, 0⟩, .rlock 0, false, 0, 2, .dest⟩] }
     s.Alone always [cUse 8, gUse 1] t ∧ trits (t.readG 1) 8 8 = 0 ∧ trits (t.readG 1) 3 0 = 0 ∧
      ∃ l ∈ s.locks, l.team = t.team ∧ l.owner = .rlock (trits (t.readG 1) 26 9)) ∧
    ((labLocked .torn).Alone always [cUse 8, aUse 26] labThread ∧
      ∃ l ∈ (labLocked .torn).locks, l.core = labThread.core ∧ l.kind = .torn ∧ l.scratch = false ∧
        l.lo ≤ labThread.readA 26 ∧ labThread.readA 26 ≤ l.hi) :=
  ⟨⟨alone_of (by decide +kernel), by decide +kernel⟩, fun pend h => by
      rcases List.mem_pair.1 h with rfl | rfl <;> exact ⟨alone_of (by decide +kernel), by decide +kernel⟩,
    ⟨alone_of (by decide +kernel), by decide +kernel⟩, alone_of (by decide +kernel), by decide +kernel⟩


/-- The lab with a work list at address 81: its ring at 243, its pool word at 330. -/
def labList (t : Thread) (head tail cap pend : Int) : State :=
  { lab t with
    hbm := memWords (memWords [] (531441 + 81) [head, tail, cap, 243, 0, 330, 0]) (531441 + 330) [pend] }

/-- The place at which the lab's memory holds an address. -/
def labPlace (va : Nat) : HomePlace :=
  ⟨.memory ((lab labThread).homeOf (leafDom labLeaf) (531441 + va)) (531441 + va : Nat) labLeaf, 0⟩

theorem witness_WorkListResults :
    (let t := labRegs [0, 5] [0, 81, 330]
     let s := labList t 0 1 2 1
     (∀ u ∈ [[cUse 8, aUse 1, gUse 1], [gUse 242, aUse 1, cUse 8], [aUse 2]], s.Alone always u t) ∧
      t.ops = [] ∧ t.run = .ganged ∧ s.listPlace (s.agentOf t) (t.readA 1) 27 (some ⟨81, 3⟩) = .ok (labPlace 81) ∧
      (s.header (labPlace 81)).ok = true ∧
      (s.header (labPlace 81)).head ≠ (s.header (labPlace 81)).tail ∧ (labPlace 243).poison = 0 ∧
      s.listPlace (s.listAgent t) (wrap 54 ((s.header (labPlace 81)).ring + 3 * (0 % 2))) 3 (some ⟨3, 1⟩) = .ok (labPlace 243) ∧
      s.poolPlace t (t.readA 2) = .ok (labPlace 330) ∧
      s.MayClaim t ((labPlace 81).loc.cells 81 3) ∧ s.MayClaim t ((labPlace 330).loc.cells 330 3) ∧
      wrap 27 (s.wordAt (labPlace 330).loc - 1) = 0 ∧
      let s1 := (s.holdFree t ((labPlace 330).loc.cells 330 3)).putWordAt t.core (labPlace 330).loc 0
      let g : Seg := ⟨333, 9, 531441 + 333, labLeaf⟩
      s1.check (s1.freeAgent t) .none (t.readA 2 + 3) 9 none false true = .ok [g] ∧
      s1.placeOfSegs [g] = some (labPlace 333).loc ∧ (labPlace 333).loc.below = false ∧
      let p : State := { s with hbmPoison := [6564] }
      p.listPlace (p.listAgent t) (wrap 54 ((s.header (labPlace 81)).ring + 3 * (0 % 2))) 3 (some ⟨3, 1⟩) =
        .ok { labPlace 243 with poison := 1 }) ∧
    (let t := labRegs [0, 5] [0, 81]
     ((labList t 1 0 2 0).header (labPlace 81)).ok = false ∧ ((labList t 2 2 2 0).header (labPlace 81)).ok = true ∧
      ((labList t 2 2 2 0).header (labPlace 81)).head = ((labList t 2 2 2 0).header (labPlace 81)).tail) ∧
    (let t : Thread := { labRegs [0, 5] [0, 81] with run := .answer }
     let r : AppendReq := ⟨⟨0, 0⟩, 8, 81, 5⟩
     let s (tail : Int) : State := { labList t 0 tail 2 1 with appends := [r] }
     r.id = t.id ∧ (s 1).thread? t.id = some t ∧ (∀ u ∈ (s 1).threads, u.id = t.id → u = t) ∧
      (s 1).listPlace ((s 1).listAgent t) r.list 27 none = .ok (labPlace 81) ∧ (labPlace 81).poison = 0 ∧
      ((s 1).header (labPlace 81)).ok = true ∧
      (s 1).listPlace ((s 1).listAgent t) ((s 1).header (labPlace 81)).pool 3 (some ⟨3, 1⟩) = .ok (labPlace 330) ∧
      (s 1).listPlace ((s 1).listAgent t) (wrap 54 (((s 1).header (labPlace 81)).ring + 3 * (1 % 2))) 3 (some ⟨3, 1⟩) =
        .ok (labPlace 246) ∧
      ((s 1).header (labPlace 81)).tail - ((s 1).header (labPlace 81)).head < ((s 1).header (labPlace 81)).cap ∧
      ((s 2).header (labPlace 81)).ok = true ∧
      (s 2).listPlace ((s 2).listAgent t) (wrap 54 (((s 2).header (labPlace 81)).ring + 3 * (2 % 2))) 3 (some ⟨3, 1⟩) =
        .ok (labPlace 243) ∧
      ((s 2).header (labPlace 81)).cap ≤ ((s 2).header (labPlace 81)).tail - ((s 2).header (labPlace 81)).head ∧
      ({ labList t 1 0 2 0 with appends := [r] }.header (labPlace 81)).ok = false) ∧
    (let t := { labRegs [0, 5] [0, 81] with status := { labThread.status with det := true } }
     let s : State := { labList t 0 1 2 1 with
       hbmPoison := [6562], heldTrytes := [((lab t).homeOf (leafDom labLeaf) (531441 + 83), 531441 + 83, ⟨0, 1⟩)] }
     s.Alone always [gUse 242, aUse 1, cUse 8] t ∧
      s.listPlace (s.agentOf t) (t.readA 1) 27 (some ⟨81, 3⟩) = .ok { labPlace 81 with poison := 1 } ∧
      (labList t 0 1 2 1).listPlace (s.agentOf t) (t.readA 1) 27 (some ⟨81, 3⟩) = .ok (labPlace 81) ∧
      s.MemorySound ∧ (((labPlace 81).loc.cells 81 3).map fun x => x.2.1).Nodup ∧
      s.raceOf t.team ((labPlace 81).loc.cells 81 3) = some 83 ∧ t.status.intrap = false ∧ t.trapvec ≠ 0) :=
  ⟨⟨alones_of (by decide +kernel), by unfold State.MayClaim; decide +kernel⟩, by decide +kernel, by decide +kernel,
    alone_of (by decide +kernel), by decide +kernel, by decide +kernel, bare_sound (by decide +kernel), by decide +kernel⟩

/-- A chain of labThread on engine 0. -/
def labChain (seq pos : Int) : Chain :=
  { seq := seq, engine := 0, core := 0, issuer := ⟨0, 0⟩, system := false, pos := pos, lp := none, flight := [],
    state := 0, stat := 0, endPos := 0, endIter := 0, since := 0, asOf := ⟨[], [], [], []⟩ }

/-- The lab's team with chains and scratchpad contents. -/
def labTeam (cs : List Chain) (m : Mem) : Team :=
  { labStart with chains := cs, nextSeq := cs.length, scratch := m }

def labWith (t : Thread) (m : Team) : State := { lab t with teams := [m] }

theorem witness_EngageResults :
    (let t := labRegs [0, 0, 177066] []
     let s := lab t
     (∀ u ∈ [[gUse 242, gUse 1], [gUse 242, gUse 2]], s.Alone always u t) ∧ t.ops = [] ∧ s.team? t.team = some labStart ∧
      t.readG 1 + 81 ≤ s.scratchSize t.id.bolt ∧ t.readG 1 % 81 = 0 ∧ t.readG 2 + 81 ≤ s.scratchSize t.id.bolt ∧
      t.readG 2 % 81 = 0 ∧ (s.placed t.core 0).length < 9 ∧ s.firstFor (placeToken t.core 0) t.id = true) ∧
    (let t := labRegs [] []
     let m := labTeam ((List.range 9).map fun k : Nat => labChain k 0) []
     let s := labWith t m
     s.Alone always [gUse 242, gUse 1] t ∧ s.team? t.team = some m ∧ 9 ≤ (s.placed t.core 0).length) :=
  ⟨⟨alones_of (by decide +kernel), by decide +kernel⟩, alone_of (by decide +kernel), by decide +kernel⟩

/-- Word 0 of an entry of a kind that names no sync word. -/
def quiet (kind : Int) : Int := kind * p3 24 - p3 23

/-- A record of four T9 elements in the scratchpad. -/
def labRecord (base space : Int) : List Int :=
  [base, 0, space * p3 25 - p3 22 + p3 19, 4, 1, 1, 1, 1, 1, 1, 1, 1, 1]

/-- The scratchpad of a chain whose first entry is given, with its records. -/
def labRecords (ws : List Int) : Mem :=
  memWords (memWords (memWords [] 0 ws) 243 (labRecord 810 (-1))) 324 (labRecord 1620 (-1))

/-- A chain that reads its entries there. -/
def labReads (ws : List Int) : Chain := { labChain 0 0 with asOf := ⟨[], [], [], labRecords ws⟩ }

/-- A chain whose first entry is given, with a record at offset 243 and one at 324. -/
def labEntry (ws : List Int) : State :=
  labWith labThread (labTeam [labReads ws] (labRecords ws))

/-- A COPY entry from the record at 243 to the one at 324. -/
def copyWords : List Int := [quiet 1, 0, 0, 243, 324]

theorem both_of {α β γ ε : Type} {x : Except ε α} {f : α → Except β γ} {P : α → γ → Bool}
    (h : (match x with | .ok w => (match f w with | .ok r => P w r | .error _ => false) | .error _ => false) = true) :
    ∃ w r, x = .ok w ∧ f w = .ok r ∧ P w r = true := by
  match x, h with
  | .ok w, h =>
    match hf : f w with
    | .ok r => exact ⟨w, r, rfl, hf, by simpa [hf] using h⟩
    | .error _ => simp [hf] at h

theorem some_of {α : Type} {x : Option α} (h : x.isSome = true) : ∃ y, x = some y := Option.isSome_iff_exists.1 h

theorem witness_ChainEntryIssues :
    (let s := labEntry copyWords
     let c := labReads copyWords
     let ws := copyWords ++ [0, 0, 0, 0]
     (s.team? ⟨0, 0⟩).isSome = true ∧ s.liveChain ⟨0, 0⟩ 0 = some c ∧ s.current ⟨0, 0⟩ c = .ok ws ∧
      entryKind (ws.getD 0 0) = some 1 ∧ s.entryRef (s.unitCtx ⟨0, 0⟩ c.system) ws = .ok none) ∧
    (let s := labEntry copyWords
     let c := labReads copyWords
     ∃ w r, (s.viewOf ⟨0, 0⟩ c).workOf ⟨0, 0⟩ c.engine c.sshift copyWords = .ok w ∧
        s.reach (s.unitCtx ⟨0, 0⟩ c.system) w c.sshift c.dshift = .ok r ∧
        (!(entryOverlaps w r) &&
          (s.lockAll [0] ⟨0, 0⟩ (.entry 0 c.pos c.iter) (entryRanges w r) (w.kind != .decomp)).isSome) = true) ∧
    (let l : Lock := ⟨0, 26, ⟨0, 0⟩, .rlock 0, true, 1620, 1620, .dest⟩
     let s : State := { labEntry copyWords with locks := [l] }
     let c := labReads copyWords
     ∃ w r, (s.viewOf ⟨0, 0⟩ c).workOf ⟨0, 0⟩ 0 c.sshift copyWords = .ok w ∧ s.reach (s.unitCtx ⟨0, 0⟩ false) w 0 0 = .ok r ∧
        (!(entryOverlaps w r) &&
          (s.lockAll [0] ⟨0, 0⟩ (.entry 0 c.pos c.iter) (entryRanges w r) (w.kind != .decomp)).isNone) = true) ∧
    (let s := labEntry [quiet 4, 0, 0, 405]
     let c := labReads [quiet 4, 0, 0, 405]
     let ws := [quiet 4, 0, 0, 405, 0] ++ List.replicate 4 0
     s.liveChain ⟨0, 0⟩ 0 = some c ∧ s.current ⟨0, 0⟩ c = .ok ws ∧
      entryKind (ws.getD 0 0) = some 4 ∧ s.entryRef (s.unitCtx ⟨0, 0⟩ c.system) ws = .ok none ∧
      (match (s.viewOf ⟨0, 0⟩ c).workOf ⟨0, 0⟩ c.engine c.sshift ws with | .ok _ => false | .error e => decide (e = badEntry)) = true ∧
      c.stat = 0 ∧ c.flight = [] ∧ c.state = 0 ∧ ∀ m ∈ s.teams, ∀ x ∈ m.chains, x.seq = 0 → x = c) :=
  ⟨by decide +kernel, both_of (by decide +kernel), both_of (by decide +kernel), by decide +kernel⟩

/-- A tensor of four T9 elements in the scratchpad. -/
def labTensor : Tensor := ⟨1620, -1, -1, 1, false, [4, 1, 1, 1, 1, 1, 1, 1, 1], [1, 0, 0, 0, 0, 0, 0, 0, 0], 0⟩

theorem witness_ChainControlResults :
    (let reads (ws : List Int) : Chain := { labChain 0 0 with asOf := ⟨[], [], [], memWords [] 0 ws⟩ }
     let busy (ws : List Int) : Chain := { reads ws with flight := [newFlight (labChain 0 0) (emptyWork .fill labTensor) none (-1)] }
     let at_ (c : Chain) (ws : List Int) := labWith labThread (labTeam [c] (memWords [] 0 ws))
     let ctx (ws : List Int) := (at_ (reads ws) ws).unitCtx ⟨0, 0⟩ false
     let loop := [quiet 5, 0, 0, 8 * p3 24 + p3 15, 3, -3, 0, 0, 0]
     let tests := [quiet 6, 0, 0, p3 24 + p3 23 - p3 22, 0, 810, 0, 0, 0]
     let sig := [7 * p3 24 - p3 22, 9, 0, 1, 0, 0, 0, 0, 0]
     let stop : List Int := [0, 0, 0, 0, 0, 0, 0, 0, 0]
     (∀ ws ∈ [loop, tests, sig, stop], (at_ (reads ws) ws).liveChain ⟨0, 0⟩ 0 = some (reads ws) ∧
        (at_ (reads ws) ws).current ⟨0, 0⟩ (reads ws) = .ok ws ∧
        (at_ (busy ws) ws).liveChain ⟨0, 0⟩ 0 = some (busy ws) ∧ (at_ (busy ws) ws).current ⟨0, 0⟩ (busy ws) = .ok ws ∧
        (busy ws).flight ≠ []) ∧
      entryKind (loop.getD 0 0) = some 5 ∧ namesNone loop = true ∧ trits (loop.getD 0 0) 22 22 ≠ 1 ∧
      trits (loop.getD 3 0) 26 24 = 8 ∧ trits (loop.getD 3 0) 23 15 = 1 ∧ trits (loop.getD 3 0) 14 0 = 0 ∧
      allZero (loop.drop 6) = true ∧ entryKind (tests.getD 0 0) = some 6 ∧ Machine.condOk tests = true ∧
      (at_ (reads tests) tests).condHolds ((at_ (reads tests) tests).viewOf ⟨0, 0⟩ (reads tests)) (ctx tests) tests = .ok true ∧
      entryKind (sig.getD 0 0) = some 7 ∧
      (at_ (reads sig) sig).entryRef (ctx sig) sig = .ok (some (.scratch ⟨0, 0⟩ 9)) ∧ 1 ≤ sig.getD 3 0 ∧
      allZero (sig.drop 4) = true ∧ entryKind (stop.getD 0 0) = some 0) ∧
    (let l : LoopRun := ⟨81, 2, 2, 0, 0, 0⟩
     let c (pos iter : Int) : Chain := { labChain 0 pos with lp := some { l with iter := iter } }
     (c 81 0).pos + 81 * (1 + 0) < l.first + 81 * l.n ∧ l.first + 81 * l.n ≤ (c 162 0).pos + 81 * (1 + 0) ∧
      l.iter + 1 < l.k ∧ l.k ≤ ({ l with iter := 1 } : LoopRun).iter + 1 ∧ (labChain 0 0).lp = none) := by
  decide +kernel

/-- An entry of a kind that copies four elements from offset 810 to offset 1,620. -/
def labWork (k : EntryKind) : Work := { emptyWork k labTensor with src := some { labTensor with base := 810 } }

def labEntryFlight (k : EntryKind) : Flight := newFlight (labChain 0 0) (labWork k) (some (.scratch ⟨0, 0⟩ 9)) 0

/-- A chain with one entry in flight. -/
def labFlying (f : Flight) : Chain := { labChain 0 81 with flight := [f] }

def labInFlight (f : Flight) : State := labWith labThread (labTeam [labFlying f] [])

theorem witness_EntryComputation :
    (∀ k ∈ [EntryKind.copy, .conv, .decomp, .fill],
      let f := labEntryFlight k
      let s := labInFlight f
      s.flight? ⟨0, 0⟩ 0 (fun f => f.off == 0 && f.work.kind == k && !f.computed) = some (labFlying f, f) ∧
        (∀ m ∈ s.teams, m.id = ⟨0, 0⟩ → ∀ x ∈ m.chains, x.seq = 0 → x = labFlying f) ∧
        (f.work.src.map Tensor.space).getD 0 ≠ 1) ∧
    (let f := labEntryFlight .copy;
     let s := labInFlight f
     (∃ r, s.reach (s.unitCtx ⟨0, 0⟩ false) f.work f.sshift f.dshift = .ok r ∧ (s.workOut (s.viewOf ⟨0, 0⟩ (labFlying f)) f.work r).2.isNone = true) ∧
      let s : State := { s with teams := [{ labTeam [labFlying f] [] with scratchBad := [813] }] }
      ∃ r, s.reach (s.unitCtx ⟨0, 0⟩ false) f.work f.sshift f.dshift = .ok r ∧ (s.workOut (s.viewOf ⟨0, 0⟩ (labFlying f)) f.work r).2.isSome = true) ∧
    (let s := labInFlight (labEntryFlight .decomp);
     ∃ r, s.reach (s.unitCtx ⟨0, 0⟩ false) (labWork .decomp) 0 0 = .ok r ∧ (!r.jobs.isEmpty) = true) ∧
    labTensor.fmt = -1 ∧ fits 9 (-9841) = true :=
  ⟨by decide +kernel, ⟨ok_of (by decide +kernel), ok_of (by decide +kernel)⟩, ok_of (by decide +kernel), rfl, rfl⟩

theorem witness_EntryProgress :
    (let part : List PartCell := [⟨.scratch ⟨0, 0⟩ 1620, -5, true⟩]
     let f : Flight := { labEntryFlight .copy with computed := true, todo := [part] };
     (labInFlight f).ripeFlight ⟨0, 0⟩ 0 0 = some (labFlying f, f, part)) ∧
    (let w : Work := { labWork .copy with dst := { labTensor with fmt := -6 } };
     let r : ReadCommand := ⟨some 0, 0, 7, 1, 0, 2, false⟩
     let f (stat : Nat) : Flight :=
       { newFlight (labChain 0 0) w none (-1) with computed := true, cmds := [r], stat := stat }
     let s (stat : Nat) : State := labInFlight (f stat)
     let s1 := (s 0).stageRead 0 0 0 [255, 0]
     let lost : Tensor := { labTensor with fmt := -6, space := 0, base := 265721 }
     let far : Flight := { f 0 with work := { w with dst := lost } }
     (∀ stat ∈ [0, 4], (s stat).flight? ⟨0, 0⟩ 0 (fun f => f.off == 0 && f.cmds.any fun r => r.cid == some 0 && !r.done) =
        some (labFlying (f stat), f stat) ∧ (s stat).driveReady r.drive = true) ∧
      ((f 0).cmds.find? fun r => r.cid == some 0 && !r.done) = some r ∧ [255, 0].length = r.bytes ∧
      (∃ o, s1.storeBytes (s1.unitCtx ⟨0, 0⟩ false) (f 0) r [255, 0] = .ok o ∧ (!o.isEmpty) = true) ∧
      ∃ x, s1.storeBytes (s1.unitCtx ⟨0, 0⟩ false) far r [255, 0] = .error x) ∧
    (let f : Flight := { labEntryFlight .copy with computed := true, raise := 1, total := 1 };
     (labInFlight f).flight? ⟨0, 0⟩ 0 (fun f => f.off == 0 && f.done) = some (labFlying f, f) ∧ f.stat = 0) ∧
    (let f : Flight := { labEntryFlight .conv with computed := true, started := true, paired := true };
     let s : State := { labInFlight f with locks := [⟨0, 0, ⟨0, 0⟩, .entry 0 0 0, true, 1620, 1623, .dest⟩] }
     s.flight? ⟨0, 0⟩ 0 (fun f => f.off == 0) = some (labFlying f, f) ∧ f.paired = true ∧ f.started = true ∧
      ∃ l ∈ s.locks, l.team = ⟨0, 0⟩ ∧ l.owner = .entry 0 f.off f.iter ∧ l.kind = .dest) ∧
    (512 : Int) ≤ 512 ∧ (512 : Int) ∣ (1024 : Nat) ∧ (readCommands 512 512 3 5 1024)[1]? = some ⟨none, 3, 6, 1, 512, 512, false⟩ :=
  ⟨by decide +kernel, ⟨by decide +kernel, by decide +kernel, by decide +kernel, ok_of (by decide +kernel),
    error_of (by decide +kernel)⟩, by decide +kernel⟩

/-- A thread of the lab whose team's scratchpad holds a collective record for one participant at offset 27: a
REDUCE of one word at address 81 to address 84. -/
def labColl (t : Thread) : State :=
  labWith t (labTeam [] (memWords [] 27 [7 * p3 18, p3 13, -(p3 18), 81, 0, 84, 0, 1, 9]))

def labCollMember : Member :=
  ⟨none, ⟨0, 0⟩, ⟨0, 0⟩, 0, 0, -1, 0, 0, 1, 1, 81, 84, 9, false, some [0, 0, 0]⟩

/-- The collective record of that participant. -/
def labCollRecord : CollRecord := ⟨7, 0, { labCollMember with source := none }⟩

/-- A machine in which the device of the collective unit that word 979 of CTAB names is given. -/
def labAtDevice (dev : Int) (s : State) : State := { s with window := { Window.reset with words := [(979, dev)] } }

/-- The lab with one collective operation, which joins on such a device. -/
def labJoined (dev : Int) (c : Collective) : State := labAtDevice dev { labColl labThread with collectives := [c] }

/-- Every trit of the readiness of the UALink ports is the one given. -/
def portTrits (s : State) (v : Trit) : Bool :=
  (List.range 9).all fun k => (if k < 5 then s.readyTrit 2253 (5 + k) else s.readyTrit 2256 k) == v

/-- Whichever port leads to a device, the readiness that all of them share decides. -/
theorem peer_of {s : State} {v : Trit} (h : portTrits s v = true) (dev : Int) : s.peerReady dev = (v == .pos) := by
  have h1 := List.all_eq_true.1 h (Config.portOf dev % 9) (List.mem_range.2 (Nat.mod_lt _ (by decide)))
  simp only [beq_iff_eq] at h1
  simp only [State.peerReady, h1]

theorem memGet_fits {m : Mem} (h : (m.all fun p => fits 9 p.2) = true) (k : Nat) : fits 9 (memGet m k) = true := by
  induction m with
  | nil => rfl
  | cons p m ih =>
    simp only [List.all_cons, Bool.and_eq_true] at h
    simp only [memGet]
    split
    · exact h.1
    · exact ih h.2

theorem witness_CollectiveResults :
    (let t := labRegs [0, 27] [];
     let s := labColl t
     let s' : State := { s with collectives := [⟨7, 1, [{ labCollMember with parts := 2 }]⟩] }
     let bad : State := { s with teams := s.teams.map fun m : Team => { m with scratchBad := [53] } }
     let far := labAtDevice 5 s
     (∀ x ∈ [s, s', bad, far], x.Alone always [gUse 1] t) ∧
      (∀ x ∈ [s, s', bad, far], x.offsetFault t (t.readG 1) 27 27 = none ∧
        x.collRecord t false (t.readG 1) = labCollRecord ∧ x.collValid t (t.readG 1) labCollRecord = true ∧
        x.collFault t labCollRecord.m = none) ∧
      t.ops = [] ∧ (∀ x ∈ [s, s', bad], x.collReaches 7 = true ∧ x.collHere 7 = true) ∧ far.collHere 7 = false ∧
      far.collReaches 7 = true ∧ far.peerReady (far.collHome 7) = true ∧
      (∀ x ∈ [s, s', far], x.recordBad t.team (t.readG 1) 27 = false) ∧ bad.recordBad t.team (t.readG 1) 27 = true ∧
      (∀ x ∈ [s, far], x.collOpen 7 = none ∧ ∃ s1, x.lockAll [t.core] t.team (.collective 7 0) labCollMember.ranges false = some s1) ∧
      s'.collOpen 7 = some ⟨7, 1, [{ labCollMember with parts := 2 }]⟩ ∧
        (1 : Int) ≠ 0 ∧ (collToken 7, t.id) ∉ s'.tokens ∧ t.core / 18 < s'.dies.length) ∧
    (let s := labColl labThread
     let g : Seg := ⟨81, 3, 531441 + 81, labLeaf⟩
     (∀ e ∈ s.l1, e.core < 486) ∧ s.check (s.collAgent labThread) .load labCollMember.src labCollMember.size none false false = .ok [g] ∧
      0 ≤ g.pa ∧ g.pa.toNat % 81 + g.n ≤ 81 ∧ 1 ≤ g.n) ∧
    (let c : Collective := ⟨7, 0, [labCollMember]⟩
     let m : Member := { labCollMember with parts := 2 }
     let differ : Collective := ⟨7, 0, [m, { m with rank := 1, op := 1 }]⟩
     let unread : Collective := ⟨7, 0, [{ labCollMember with source := none }]⟩
     let cut : State := { labJoined 5 c with ready := List.replicate 73 0 }
     (labJoined (-1) c).collNext = some c ∧ (labJoined 5 c).collNext = some c ∧ cut.collNext = some c ∧
      collAgree ((labJoined (-1) c).joined c) = true ∧ (labJoined (-1) c).collLost c = false ∧
      collResult ((labJoined (-1) c).joined c) = some [0, 0, 0] ∧ (labJoined 5 c).joined c = [labCollMember] ∧
      (labJoined (-1) differ).collNext = some differ ∧ collAgree ((labJoined (-1) differ).joined differ) = false ∧
      (labJoined (-1) unread).collNext = some unread ∧ collResult ((labJoined (-1) unread).joined unread) = none ∧
      (labJoined (-1) c).window.word (972 + 7) = -1) ∧
    (let c : Collective := ⟨7, 0, [labCollMember]⟩
     (labJoined 5 c).collLost c = false ∧ ({ labJoined 5 c with ready := List.replicate 73 0 } : State).collLost c = true) ∧
    (let x : Member := { labCollMember with mcast := true, root := 1, parts := 2, fmt := 1 }
     let y : Member := { x with rank := 1, source := some [9841, -9841, 9841] }
     let z : Member := { labCollMember with parts := 2, fmt := -1, count := 3, rank := 1 }
     let w : Member := { z with rank := 0, source := some [9841, 1, -9841] }
     collAgree [x, y] = true ∧ -1 ≤ x.fmt ∧ x.fmt ≤ 1 ∧ 1 ≤ x.count ∧ y.rank = x.root ∧
      (∀ z ∈ [x, y], z.rank = x.root → z = y) ∧ [(9841 : Int), -9841, 9841].length = y.size ∧
      (∀ y ∈ [x], y.rank ≠ x.root) ∧ collAgree [w, z] = true ∧ ([9841, 1, -9841] : List Int).length = w.size ∧
      (∀ p ∈ [w, z].zip [[9841, 1, -9841], [0, 0, 0]], p.1.source = some p.2 ∧ p.2.length = p.1.size ∧ ∀ z ∈ p.2, fits 9 z = true)) ∧
    (let s := labColl labThread
     let m := labCollMember
     let g : Seg := ⟨84, 3, 531441 + 84, labLeaf⟩
     m.dst ≠ 0 ∧ s.collHere 7 = true ∧ s.MemorySound ∧
      s.check { s.unitAgent m.id.bolt m.team with system := true } .store m.dst [(1 : Int), 2, 3].length none false false = .ok [g] ∧
      0 ≤ g.pa ∧ g.pa.toNat % 81 + g.n ≤ 81 ∧ g.n = [(1 : Int), 2, 3].length) ∧
    (let c : Collective := ⟨7, 0, [labCollMember]⟩
     let s := labJoined (-1) c
     let far := labJoined 5 c
     (∀ m ∈ c.members, 0 ≤ m.sync ∧ ∃ u, s.team? m.team = some u ∧ u.state = .resident ∧ Memory.wf u.scratch = true ∧
        ∀ k, fits 9 (memGet u.scratch k) = true) ∧
      c.members.Pairwise (fun x y => x.team ≠ y.team ∨ x.sync + 9 ≤ y.sync ∨ y.sync + 9 ≤ x.sync) ∧
      s.syncAt (.scratch labCollMember.team labCollMember.sync) = some ⟨0, 0, 0⟩ ∧ s.operations = [c] ∧ far.operations = [c] ∧
      far.collHome c.cid ≠ -1 ∧ far.collHome c.cid = ((5 : Nat) : Int)) := by
  refine ⟨⟨alone_each (by decide +kernel), by decide +kernel, rfl, by decide +kernel, by decide +kernel, ?_,
      peer_of (v := .pos) (by decide +kernel) _, by decide +kernel, by decide +kernel, ?_, by decide +kernel⟩, by decide +kernel,
    by decide +kernel, ⟨?_, ?_⟩, by decide +kernel, ⟨by decide +kernel, by decide +kernel, bare_sound (by decide +kernel), by decide +kernel⟩,
    ?_, by decide +kernel⟩
  · rw [State.collReaches, if_neg (by decide +kernel), peer_of (v := .pos) (by decide +kernel)]; rfl
  · intro x hx
    rcases List.mem_pair.1 hx with rfl | rfl <;> exact ⟨by decide +kernel, some_of (by decide +kernel)⟩
  · rw [State.collLost, if_neg (by decide +kernel), if_neg (by decide +kernel), peer_of (v := .pos) (by decide +kernel)]; rfl
  · rw [State.collLost, if_neg (by decide +kernel), if_neg (by decide +kernel), peer_of (v := .zero) (by decide +kernel)]; rfl
  · intro m hm
    rw [List.mem_singleton.1 hm]
    exact ⟨by decide, _, rfl, rfl, by decide +kernel, memGet_fits (by decide +kernel)⟩

/-- A sweep of a knotted tensor of 28 elements at offset 810 of the scratchpad, its handlers at address 270. -/
def labSweep : Sweep :=
  { core := 0, issuer := ⟨0, 0⟩, system := false, since := 0, begun := false, recAt := 27, scratch := true, base := 810, fmt := -1,
    exts := [28, 1, 1, 1, 1, 1, 1, 1, 1], htab := 270, first := 0, last := 27, elems := 28, stab := 0, nslot := 0,
    full := false, crew := [⟨⟨0, 0⟩, 27, 0, [0], 242⟩], next := 0, queue := [], running := [], open_ := [], written := [], runs := 0,
    blocks := 0, result := 0, firstBad := -1, stopped := false }

/-- The lab with a sweep, a scratchpad, and the entry of handler 0 in memory. -/
def labShuttle (t : Thread) (w : Sweep) (m : Mem) : State :=
  { labWith t { labTeam [] m with sweeps := [w] } with hbm := memWords [] (531441 + 270) [540] }

/-- A machine whose team's scratchpad holds a sweep record at 27 that names the tensor record at 243. -/
def labSwept (t : Thread) (last : Int) : State :=
  labWith t (labTeam [] (memWords (memWords [] 27 [243, 0, last, 0, 0]) 243
    ([810, 0, -(p3 25) - p3 22 + p3 19 + p3 18, 28, 1, 1, 1, 1, 1, 1, 1, 1] ++ List.replicate 9 0 ++ [270])))

def knotTensor : Tensor :=
  ⟨810, -1, -1, 1, true, [28, 1, 1, 1, 1, 1, 1, 1, 1], [0, 0, 0, 0, 0, 0, 0, 0, 0], 270⟩

def togetherB (s : State) (gd : Guard) (uses : List RegUse) (ts : List Thread) : Bool :=
  calmB s && s.members == ts.map Thread.id && decide (s.threads.map Thread.id).Nodup && decide ts.Nodup &&
    ts.all (fun t => s.threads.contains t && Thread.sizedB t && executesB t gd && s.owns t uses) &&
    ts.all fun t => ts.all fun u => (t.team, t.grp) == (u.team, u.grp)

theorem together_of {s : State} {gd : Guard} {uses : List RegUse} {ts : List Thread} (h : togetherB s gd uses ts = true) :
    s.Together gd uses ts := by
  simp only [togetherB, Bool.and_eq_true, List.all_eq_true, beq_iff_eq, decide_eq_true_eq, List.contains_iff_mem] at h
  obtain ⟨⟨⟨⟨⟨h1, h2⟩, h3⟩, h4⟩, h5⟩, h6⟩ := h
  exact ⟨calm_of h1, h2, h3, h4, fun t ht => ⟨(h5 t ht).1.1.1, sized_of (h5 t ht).1.1.2, executes_iff.1 (h5 t ht).1.2, (h5 t ht).2⟩, h6⟩

/-- A machine whose gang is labThread, with registers, and labOther. -/
def labGang (s : State) : State := { s with threads := s.threads ++ [labOther .ganged], gangs := [[⟨0, 0⟩, ⟨0, 1⟩]] }

/-- A machine with trytes of the team's scratchpad that show an uncorrectable error. -/
def labBad (s : State) (l : List Nat) : State := { s with teams := s.teams.map fun m : Team => { m with scratchBad := l } }

theorem witness_SweepResults :
    (let t := labRegs [0, 27] [];
     let ok := labGang (labSwept t 27)
     let long := labGang (labSwept t 28)
     let none_ := labGang (labWith t (labTeam [] (memWords [] 27 [27, 0, 27, 0, 0])))
     let ts := [t, labOther .ganged]
     (∀ x ∈ [ok, long, labBad ok [41], labBad ok [243], none_], x.Together always [gUse 242, gUse 1] ts) ∧
      (∀ x ∈ [ok, long, labBad ok [41], labBad ok [243], none_],
        x.offsetFault t (t.readG 1) 27 27 = none ∧ ((x.team? t.team).any fun m => Memory.wf m.scratch) = true) ∧
      (∀ u ∈ ts, u.ops = [] ∧ u.element = none ∧ 13 ≤ u.nregs) ∧
      (∀ x ∈ [ok, long, labBad ok [243], none_], x.recordBad t.team 27 15 = false) ∧
      (labBad ok [41]).recordBad t.team 27 15 = true ∧ (labBad ok [243]).tensorRecord t.team 243 = .error (4, 243) ∧
      none_.scratchWord t.team 27 0 = 27 ∧ none_.tensorRecord t.team 27 = .error badEntry ∧
      (∀ x ∈ [ok, long], x.tensorRecord t.team 243 = .ok knotTensor ∧ x.scratchWord t.team 27 0 = 243 ∧ x.scratchWord t.team 27 1 = 0 ∧
        x.scratchWord t.team 27 3 = 0 ∧ x.scratchWord t.team 27 4 = 0) ∧
      ok.scratchWord t.team 27 2 = 27 ∧ long.scratchWord t.team 27 2 = 28 ∧ knotTensor.knot = true ∧
      knotTensor.size = 28 ∧ ¬ (28 : Int) < knotTensor.size ∧ 0 ≤ ok.scratchSize t.id.bolt) ∧
    (let t := { labRegs [0, 27] [] with element := some 27 }
     let s := labSwept t 27
     s.Alone always [gUse 242, gUse 1] t ∧ t.element ≠ none ∧ s.offsetFault t (t.readG 1) 27 27 = none ∧ t.status.intrap = false ∧
      t.trapvec ≠ 0) ∧
    (let w := labSweep;
     let s := labShuttle labThread w []
     let lost : Sweep := { w with scratch := false, base := 265721 }
     let tableless : Sweep := { w with htab := 265721 }
     let count := labShuttle labThread w (memWords [] 837 [2 * 3 ^ 5 + 3])
     let entryless : State := { s with hbm := [] }
     (∀ x ∈ [s, labBad s [1296], labShuttle labThread w [(1296, -1)], count, entryless, labBad s [840]],
        x.activeSweep 0 = some (⟨0, 0⟩, w) ∧ ((x.team? ⟨0, 0⟩).any fun m => m.sweeps == [w]) = true ∧
        (∀ y ∈ x.teams, y.id = ⟨0, 0⟩ → ∀ v ∈ y.sweeps, v.issuer = w.issuer → v = w) ∧
        x.cells (x.unitCtx ⟨0, 0⟩ false) w.space (w.heddleAddr 0) 1 .load = .ok [.scratch ⟨0, 0⟩ 1296]) ∧
      w.mayRead = true ∧ lost.mayRead = true ∧ tableless.mayRead = true ∧ w.result < 2 ∧
      (∀ x ∈ [s, count, entryless, labBad s [840]], x.badAt (.scratch ⟨0, 0⟩ 1296) = false) ∧
      (labBad s [1296]).badAt (.scratch ⟨0, 0⟩ 1296) = true ∧
      (∀ v ∈ [lost, tableless], (labShuttle labThread v []).activeSweep 0 = some (⟨0, 0⟩, v)) ∧
      (∃ a, s.cells (s.unitCtx ⟨0, 0⟩ false) lost.space (lost.heddleAddr 0) 1 .load = .error a) ∧
      (∃ a, s.seeKnot (s.unitCtx ⟨0, 0⟩ false) tableless 0 = .error a) ∧
      (∀ l ∈ w.blockElems 0, w.inRange l = true →
        s.seeKnot (s.unitCtx ⟨0, 0⟩ false) w l = .ok (.knot 0 540 (.scratch ⟨0, 0⟩ (knotAddr 810 l + 27))) ∧
        count.seeKnot (s.unitCtx ⟨0, 0⟩ false) w l =
          .ok (.knot (if l = 0 then 2 * 3 ^ 5 + 3 else 0) 540 (.scratch ⟨0, 0⟩ (knotAddr 810 l + 27))) ∧
        entryless.seeKnot (s.unitCtx ⟨0, 0⟩ false) w l = .ok (.knot 0 0 (.scratch ⟨0, 0⟩ (knotAddr 810 l + 27))) ∧
        (labBad s [840]).seeKnot (s.unitCtx ⟨0, 0⟩ false) w l =
          .ok (if l = 1 then .poison else .knot 0 540 (.scratch ⟨0, 0⟩ (knotAddr 810 l + 27)))) ∧
      w.badKnot 0 540 = false ∧ w.badKnot 0 0 = true ∧ knotWait 0 = 0 ∧
      trits ((labShuttle labThread w [(1296, -1)]).tryteAt (.scratch ⟨0, 0⟩ 1296)) 0 0 = -1 ∧ w.full = false ∧
      w.badKnot (2 * 3 ^ 5 + 3) 540 = false ∧ knotWait (2 * 3 ^ 5 + 3) = 3 ∧ knotArg (2 * 3 ^ 5 + 3) ≠ 1) ∧
    (let t : Thread := { labThread with run := .crew }
     let u := labOther .crew
     let w : Sweep := { labSweep with
       queue := [5, 27], next := 2, begun := true, crew := [⟨⟨0, 0⟩, 27, 0, [0], 242⟩, ⟨⟨0, 1⟩, 27, 0, [0], 242⟩] }
     let s : State := { labShuttle t w [] with threads := [t, u] }
     s.someSweep Sweep.mayStart = some (⟨0, 0⟩, w) ∧ (w.crew.map Crew.id).Nodup ∧
      (∀ y ∈ s.teams, y.id = ⟨0, 0⟩ → ∀ x ∈ y.sweeps, x.issuer = w.issuer → x = w) ∧
      (∀ x ∈ [t, u], s.thread? x.id = some x ∧ x.core = w.core ∧ x.Sized ∧ 13 ≤ x.nregs) ∧
      ∀ r ∈ [s, s.acquire w.core], ∀ l ∈ w.queue,
        r.runKnot (s.unitCtx ⟨0, 0⟩ false) w l = .ok (.knot 0 540 (.scratch ⟨0, 0⟩ (knotAddr 810 l + 27))) ∧
        r.seeElem (s.unitCtx ⟨0, 0⟩ false) w l = .ok (some 0)) ∧
    (let w : Sweep := { labSweep with queue := [27], next := 2 };
     let t : Thread := { labThread with run := .crew }
     let s := labShuttle t w []
     let tableless : Sweep := { w with htab := 265721 }
     (∀ x ∈ [s, labBad s [1080], labBad s [1053]], x.someSweep Sweep.mayStart = some (⟨0, 0⟩, w)) ∧
      (labShuttle t tableless []).someSweep Sweep.mayStart = some (⟨0, 0⟩, tableless) ∧
      w.crew = [⟨⟨0, 0⟩, 27, 0, [0], 242⟩] ∧ w.queue = [27] ∧ s.wakesFor ⟨0, 0⟩ w.issuer 27 = [] ∧ w.result < 3 ∧
      (∃ a, s.runKnot (s.unitCtx ⟨0, 0⟩ false) tableless 27 = .error a) ∧
      (labBad s [1080]).runKnot (s.unitCtx ⟨0, 0⟩ false) w 27 = .ok .poison ∧
      (labBad s [1080]).seeElem (s.unitCtx ⟨0, 0⟩ false) w 27 = .ok (some 0) ∧
      (labBad s [1053]).seeElem (s.unitCtx ⟨0, 0⟩ false) w 27 = .ok none) := by
  refine ⟨⟨fun x hx => together_of ((List.all_eq_true (p := fun x => togetherB x always [gUse 242, gUse 1]
      [labRegs [0, 27] [], labOther .ganged])).1 (by decide +kernel) x hx), by decide +kernel⟩,
    ⟨alone_of (by decide +kernel), by decide +kernel⟩,
    ⟨by decide +kernel, by decide +kernel, by decide +kernel, by decide +kernel, by decide +kernel, by decide +kernel,
      by decide +kernel, by decide +kernel, error_of (by decide +kernel), error_of (by decide +kernel), by decide +kernel⟩,
    ⟨by decide +kernel, by decide +kernel, by decide +kernel, fun x hx => ?_, by decide +kernel⟩,
    by decide +kernel, by decide +kernel, by decide +kernel, by decide +kernel, by decide +kernel, by decide +kernel,
    error_of (by decide +kernel), by decide +kernel⟩
  rcases List.mem_pair.1 hx with rfl | rfl <;>
    exact ⟨by decide +kernel, by decide +kernel, sized_of (by decide +kernel), by decide +kernel⟩

theorem witness_HandlerRunResults :
    (let t : Thread := { labRegs [0, 1, 0, 27, 9841, 3 ^ 6 - 1] [] with element := some 27 };
     let w : Sweep := { labSweep with running := [(⟨0, 0⟩, 27)] }
     let s : State := labShuttle t w []
     (∀ u ∈ [[], [gUse 4]], s.Alone always u t) ∧
      t.ops = [] ∧ s.wakes = [] ∧ t.status.det = false ∧ t.element = some 27 ∧ s.sweepOf t = some w ∧ t.id ∉ w.written ∧
      s.endCheck t w (w.elemAddr 27) = .ok [] ∧ s.endCheck t w (w.elemAddr 27 + 27) = .ok [] ∧
      fits 9 9841 = true ∧ (1 : Int) ≤ 9841 ∧ trits (t.readG 4) 8 0 = 9841 ∧ argSlot 0 = 0 ∧ ¬ argSlot 0 < w.nslot ∧
      t.status.intrap = false ∧ t.trapvec ≠ 0) ∧
    (∀ n ∈ [26, 27], ∀ done ∈ [true, false],
     let t : Thread := { labDet n with element := some 27, committed := done }
     let w : Sweep := { labSweep with running := [(⟨0, 0⟩, 27)], written := if done then [⟨0, 0⟩] else [] }
     let s : State := labShuttle t w []
     let new := s.bufferEnd t w (w.elemAddr 27) [] 0 ++ s.bufferEnd t w (w.elemAddr 27 + 27) [] 4
     s.Alone always [] t ∧ t.ops = [] ∧ s.wakes = [] ∧ t.status.det = true ∧ t.element = some 27 ∧ s.sweepOf t = some w ∧
      s.endCheck t w (w.elemAddr 27) = .ok [] ∧ s.endCheck t w (w.elemAddr 27 + 27) = .ok [] ∧
      (t.committed = done) ∧ (t.id ∈ w.written ↔ done = true) ∧ (bufSectors (t.buf ++ new) ≤ 27 ↔ n = 26)) ∧
    ((∀ u ∈ [[], [gUse 4]], (lab labThread).Alone always u labThread) ∧ labThread.element = none ∧
      labThread.status.intrap = false ∧ labThread.trapvec ≠ 0) ∧
    (let w : Sweep := { labSweep with next := 2, open_ := [1] };
     let s := labShuttle labThread w (memWords [] 1080 [3])
     s.activeSweep 0 = some (⟨0, 0⟩, w) ∧ w.blockDone 1 = true ∧
      let s1 := s.mapSweep ⟨0, 0⟩ w.issuer fun w => { w with open_ := w.open_.filter fun x => x != 1 }
      s1.blockKnots (s.unitCtx ⟨0, 0⟩ w.system) w 1 = .ok [(27, .knot 3 540 (.scratch ⟨0, 0⟩ 1080))] ∧ s.badAt (.scratch ⟨0, 0⟩ 1296) = false ∧
        s1.cells (s.unitCtx ⟨0, 0⟩ w.system) w.space (w.heddleAddr 1) 1 .store = .ok [.scratch ⟨0, 0⟩ 1296]) ∧
    (let w : Sweep := { labSweep with next := 2, runs := 28, blocks := 2 };
     let t : Thread := { labThread with run := .crew }
     let s := labShuttle t w []
     t.Sized ∧ s.someSweep Sweep.complete = some (⟨0, 0⟩, w) ∧ w.crew = [⟨⟨0, 0⟩, 27, 0, [0], 242⟩] ∧ s.thread? ⟨0, 0⟩ = some t ∧
      242 < t.nregs ∧ ((s.team? ⟨0, 0⟩).any fun m => Memory.wf m.scratch) = true ∧ 0 ≤ w.recAt) ∧
    (let t := labRegs [0, 243, 27, 28, 27] [];
     let s := labSwept t 27
     let b : State := { s with teams := s.teams.map fun m : Team => { m with sweeps := [{ labSweep with queue := [27] }] } }
     let waits : State := { s with teams := s.teams.map fun m : Team => { m with scratch := memWords m.scratch 1080 [3] } }
     let bad : State := { s with teams := s.teams.map fun m : Team => { m with scratchBad := [1080] } }
     let wk : Wake := ⟨t.id, 8, .scratch ⟨0, 0⟩ 1080, .scratch ⟨0, 0⟩ 1296, 1, (1080, 1296), t.team, t.id, 27⟩
     (∀ u ∈ [[cUse 8, gUse 1, gUse 2], [cUse 8, gUse 1, gUse 3], [cUse 8, gUse 4, gUse 2]], s.Alone always u t) ∧
      (∀ x ∈ [b, waits, bad], x.Alone always [cUse 8, gUse 1, gUse 2] t) ∧
      t.ops = [] ∧ s.offsetFault t 243 81 3 = none ∧ s.offsetFault t 27 81 3 = none ∧
      (∀ x ∈ [s, b, waits, bad], ∀ o ∈ [(27 : Int), 243], x.recordBad t.team o 81 = false) ∧ (labBad s [323]).recordBad t.team 243 81 = true ∧
      (labBad s [323]).Alone always [cUse 8, gUse 1, gUse 2] t ∧ s.MemorySound ∧
      s.tensor? t.team 27 = none ∧ s.tensor? t.team 243 = some knotTensor ∧ knotTensor.size ≤ t.readG 3 ∧
      t.readG 2 < knotTensor.size ∧
      (∀ x ∈ [s, b, waits, bad], x.wakePlace t (-1) (knotAddr 810 27 + 27) 3 = .ok (.scratch ⟨0, 0⟩ 1080) ∧
        x.wakePlace t (-1) (810 + 243 * ((28 + 26) / 27) + 27 / 243) 1 = .ok (.scratch ⟨0, 0⟩ 1296)) ∧
      b.sweeping (.scratch ⟨0, 0⟩ 1080) = some (⟨0, 0⟩, ⟨0, 0⟩, 27) ∧
      (∀ x ∈ [s, waits, bad], x.sweeping (.scratch ⟨0, 0⟩ 1080) = none) ∧ s.wakeCause wk = none ∧ waits.wakeCause wk = none ∧
      bad.wakeCause wk = some ⟨11, 2, 1080⟩ ∧ t.pend = [] ∧ t.status.det = false ∧ trits (waits.wordAt (.scratch ⟨0, 0⟩ 1080)) 1 0 = 3 ∧
      ((waits.team? t.team).any fun m => Memory.wf m.scratch) = true) ∧
    (let t := { labRegs [0, 243, 27] [] with status := { labThread.status with det := true } }
     let place (va : Nat) := SyncLoc.memory ((lab t).homeOf (leafDom labLeaf) (531441 + va)) (531441 + va : Nat) labLeaf
     let tensor := [810, 0, p3 19 + p3 18 - p3 22, 28, 1, 1, 1, 1, 1, 1, 1, 1] ++ List.replicate 9 0 ++ [270]
     let s : State := { labWith t (labTeam [] (memWords [] 243 tensor)) with
       hbm := memWords [] (531441 + 1080) [3]
       heldTrytes := [((lab t).homeOf (leafDom labLeaf) (531441 + 1081), 531441 + 1081, ⟨0, 1⟩)] }
     s.Alone always [cUse 8, gUse 1, gUse 2] t ∧ t.ops = [] ∧ s.offsetFault t 243 81 3 = none ∧
      s.tensor? t.team 243 = some { knotTensor with space := 0 } ∧
      s.wakePlace t 0 (knotAddr 810 27 + 27) 3 = .ok (place 1080) ∧
      s.wakePlace t 0 (810 + 243 * ((28 + 26) / 27) + 27 / 243) 1 = .ok (place 1296) ∧ s.sweeping (place 1080) = none ∧
      trits (s.wordAt (place 1080)) 1 0 = 3 ∧ t.status.det = true ∧ t.status.intrap = false ∧ t.trapvec ≠ 0 ∧
      s.MemorySound ∧ (((place 1080).cells 1080 3 ++ (place 1296).cells 1296 1).map fun x => x.2.1).Nodup ∧
      s.raceOf t.team ((place 1080).cells 1080 3 ++ (place 1296).cells 1296 1) = some 1081) :=
  by
    refine ⟨⟨alones_of (by decide +kernel), by decide +kernel⟩, fun n hn done ho => ?_, ⟨alones_of (by decide +kernel), by decide +kernel⟩,
      by decide +kernel, ⟨sized_of (by decide +kernel), by decide +kernel⟩,
      ⟨alones_of (by decide +kernel), alone_each (by decide +kernel), rfl, by decide +kernel, by decide +kernel, by decide +kernel,
        by decide +kernel, alone_of (by decide +kernel), bare_sound (by decide +kernel), by decide +kernel⟩,
      alone_of (by decide +kernel), rfl, by decide +kernel, by decide +kernel, by decide +kernel, by decide +kernel, by decide +kernel,
      by decide +kernel, rfl, rfl, by decide +kernel, bare_sound (by decide +kernel), by decide +kernel⟩
    refine ⟨alone_of ?_, ?_⟩ <;> revert n done <;> decide +kernel

/-- Every function in service. -/
def labReady : List Int := List.replicate 73 ((3 ^ 27 - 1) / 2)

/-- A boarding of layer 5 by labThread. -/
def labBoarding (dest : BoardDest) (st : BoardState) : Boarding :=
  { num := 0, core := 0, issuer := ⟨0, 0⟩, layer := 5, dest := dest, sync := .scratch ⟨0, 0⟩ 9, state := st, stat := 0,
    strike := 0, struck := none, before := (0, none) }

/-- The lab's team with a boarding and tiles. -/
def labBoards (bs : List Boarding) : Team :=
  { labStart with boardings := bs, nextBoard := bs.length }

def labBeam (t : Thread) (bs : List Boarding) : State := { labWith t (labBoards bs) with ready := labReady }

/-- A beat of layer 5. -/
def labBeat (tile : Int) (kind : Int) (last : Bool) : Beat := ⟨5, 1, tile, tile == 0, 0, kind, [-1, 0, 1], 0, last⟩

/-- A lap of layer 5 with n tiles of which the first beat is on the ring. -/
def labLap (n : Int) (x : Beat) : Lap := ⟨[⟨5, 1, n, 729, 0⟩], [x]⟩

def labRiding (b : Boarding) (n : Int) (x : Beat) : State :=
  { labBeam labThread [b] with beam := { Beam.reset with enable := 1, laps := 1, lap := some (labLap n x) } }

theorem witness_BoardingResults :
    (let t := labRegs [0, 0, 0, 243, 728, 176418, 1, 729, 728, 8] [];
     let s := labBeam t []
     let m := labBoards []
     let full := labBeam t ((List.range 27).map fun k : Nat => { labBoarding (.tile 0) .armed with num := k })
     let out (s : State) : State := { s with ready := List.replicate 72 0 ++ [-9] }
     (∀ u ∈ [1, 4, 7, 8].map fun b => boardUses 242 b (.g 9), s.Alone always u t) ∧
      (∀ u ∈ [1, 4].map fun b => boardUses 242 b (.g 0), s.Alone always u t) ∧
      full.Alone always (boardUses 242 1 (.g 0)) t ∧
      (∃ s1, s.lockAll m.cores t.team (.board m.nextBoard) [⟨true, 176418, 177146, true⟩] false = some s1) ∧
      t.ops = [] ∧ s.team? t.team = some m ∧ s.syncPlace t (.g 0) .store = .ok (.scratch ⟨0, 0⟩ 0, 0) ∧
      t.readG 1 = 0 ∧ t.readG 2 = 0 ∧ t.readG 3 = 243 ∧ t.readG 2 + 729 * t.readG 3 ≤ s.scratchSize t.id.bolt ∧
      t.readG 4 = 728 ∧ t.readG 5 % 81 = 0 ∧ t.readG 6 = 1 ∧ t.readG 5 + 729 * t.readG 6 ≤ s.scratchSize t.id.bolt ∧
      728 < t.readG 7 ∧ (s.tapBoardings (t.core / 2)).length < 27 ∧ s.beamReady ≠ .neg ∧ (out s).beamReady = .neg ∧
      ((∀ u ∈ [1, 4].map fun b => boardUses 242 b (.g 0), (out s).Alone always u t)) ∧
      (∀ y ∈ m.boardings, y.num ≠ m.nextBoard) ∧ s.syncAt (.scratch ⟨0, 0⟩ 0) = some ⟨0, 0, 0⟩ ∧ m.state = .resident ∧
      Memory.wf m.scratch = true ∧ (∀ k, fits 9 (memGet m.scratch k) = true) ∧
      (labRegs [0, 0, 8] []).readG 2 < s.tileCount t.id.bolt ∧ (∀ u ∈ s.threads, u.team = t.team → u.grp = t.grp → u.ops = []) ∧
      t.status.intrap = false ∧ t.trapvec ≠ 0 ∧ ¬ (full.tapBoardings (t.core / 2)).length < 27) ∧
    (let t := labRegs [0, 0, 1] [];
     let s := labBeam t [labBoarding (.tile 8) .armed]
     (∀ u ∈ [[cUse 8, gUse 1], [gUse 242, gUse 1], [gUse 242]], s.Alone always u t) ∧
      s.handled t.team (t.readG 1) = some (labBoarding (.tile 8) .armed) ∧ s.handled t.team (t.readG 2) = none ∧
      (labBoarding (.tile 8) .armed).atTap = true ∧ (labBoarding (.tile 8) .done).atTap = false) ∧
    (let s (b : Boarding) (n : Int) (x : Beat) := labRiding b n x;
     let b (st : BoardState) := labBoarding (.scratch 1620 2) st
     let bad : Boarding := { b .riding with strike := 2, struck := some (3 ^ 15, 0) }
     let held (s : State) (x : Beat) (n : Int) : State := { s with beam := { s.beam with buffered := [⟨0, ⟨5, 1, n, 729, 0⟩, x, true, 1⟩] } }
     (∀ x ∈ [(b .armed, 2, labBeat 0 0 false), (b .riding, 1, labBeat 0 0 true), (b .riding, 2, labBeat 0 1 false),
        (bad, 2, labBeat 0 1 false), (b .armed, 3, labBeat 0 0 false), ({ b .armed with layer := 6 }, 2, labBeat 0 0 false),
        (labBoarding (.tile 8) .riding, 1, labBeat 0 0 true)],
        (s x.1 x.2.1 x.2.2).heldBeat 0 = none ∧ ((s x.1 x.2.1 x.2.2).dieAt 0).relock = false ∧
        (s x.1 x.2.1 x.2.2).beam.lap = some (labLap x.2.1 x.2.2) ∧
        (held (s x.1 x.2.1 x.2.2) x.2.2 x.2.1).heldBeat 0 = some ⟨0, ⟨5, 1, x.2.1, 729, 0⟩, x.2.2, true, 1⟩ ∧
        (held (s x.1 x.2.1 x.2.2) x.2.2 x.2.1).tapReady 0 0 = true ∧
        ({ held (s x.1 x.2.1 x.2.2) x.2.2 x.2.1 with ready := labReady.set 0 0 } : State).tapReady 0 0 = false ∧
        (let c : State := { s x.1 x.2.1 x.2.2 with dies := List.replicate 27 { Die.reset with relock := true } }
         c.heldBeat 0 = none ∧ c.beatMayReach 0 = true ∧ c.beamServes = true ∧ (c.dieAt 0).relock = true) ∧
        (s x.1 x.2.1 x.2.2).beamServes = true ∧ (s x.1 x.2.1 x.2.2).beatMayReach 0 = true ∧
        beatOf (labLap x.2.1 x.2.2).layers 0 = some (⟨5, 1, x.2.1, 729, 0⟩, 1, 0, decide (x.2.1 = 1)) ∧
        (if (s x.1 x.2.1 x.2.2).beam.passedBy 0 < 1 then [x.2.2][0]? else
          (s x.1 x.2.1 x.2.2).placeBeat (labLap x.2.1 x.2.2) ((s x.1 x.2.1 x.2.2).beam.passedBy 0) true) = some x.2.2 ∧
        (s x.1 x.2.1 x.2.2).tapBoardings 0 = [(⟨0, 0⟩, 0)] ∧ (s x.1 x.2.1 x.2.2).tapWatch 0 = [(⟨0, 0⟩, 0)] ∧
        (s x.1 x.2.1 x.2.2).returns = [] ∧ (s x.1 x.2.1 x.2.2).board? ⟨0, 0⟩ 0 = some x.1) ∧
      (b .armed).holds 9 ⟨5, 1, 2, 729, 0⟩ = true ∧ (b .armed).holds 9 ⟨5, 1, 3, 729, 0⟩ = false ∧
      bad.struck = some (3 ^ 15 * 1 + 0, (s bad 2 (labBeat 0 1 false)).beam.laps - 1) ∧
      ∀ fed ∈ [true, false], ((labBeam labThread [b .riding]).placeBeat ⟨[⟨5, 1, 2, 729, 0⟩], []⟩ 0 fed).isSome = true) :=
  ⟨⟨alones_of (by decide +kernel), alones_of (by decide +kernel), alone_of (by decide +kernel), some_of (by decide +kernel),
      by decide +kernel, by decide +kernel, by decide +kernel, by decide +kernel, by decide +kernel, by decide +kernel, by decide +kernel,
      by decide +kernel, by decide +kernel, by decide +kernel, by decide +kernel, by decide +kernel, by decide +kernel, by decide +kernel,
      by decide +kernel, alones_of (by decide +kernel), by decide +kernel, by decide +kernel, rfl, by decide +kernel, memGet_fits rfl,
      by decide +kernel⟩, ⟨alones_of (by decide +kernel), by decide +kernel⟩, by decide +kernel⟩

/-- HBM with a beam program of one layer of one tile at physical address 27. -/
def labProgram : State :=
  { labBeam labThread [] with hbm := memWords (memWords [] 27 [1]) 54 [5, -1, 1, 729] }

def labLayer : Layer := ⟨5, 1, 1, 729, 0⟩

theorem witness_BeamControlResults :
    labReady.length = 73 ∧
    (let s : State := { labProgram with beam := { Beam.reset with next := 27 } };
     s.beam.next ≠ 0 ∧ s.beam.nxst = 0 ∧ s.program s.beam.next = some [labLayer] ∧ s.program 28 = none ∧ s.beamReady ≠ .neg ∧
      s.beamServes = true ∧ s.lapOver = true ∧ s.beam.enable ≠ 1) ∧
    (let s : State := { labProgram with beam := { Beam.reset with enable := 1, prog := 27 } };
     s.lapOver = true ∧ s.beamServes = true ∧ s.beam.enable = 1 ∧ s.beam.prog ≠ 0 ∧ s.program s.beam.prog = some [labLayer] ∧
      s.beam.seg = 0) ∧
    (let s : State := { labProgram with beam := { Beam.reset with enable := 1, next := 27, nxst := 1, seg := 29 } };
     s.lapOver = true ∧ s.beam.nxst = 1 ∧ s.program s.beam.next = some [labLayer] ∧ s.beam.seg ≠ 0 ∧ s.beam.seg ≠ 1 ∧
      s.linksOut.contains 1 = false ∧ ({ s with linksOut := [29] } : State).linksOut.contains 29 = true) ∧
    (labRiding (labBoarding (.tile 0) .armed) 1 (labBeat 0 0 true)).lapOver = false ∧
    (let s : State := { State.reset with ready := List.replicate 72 0 ++ [-9] }; s.beamReady = .neg ∧ s.beamServes = false) ∧
    (let s := labBeam labThread [labBoarding (.tile 0) .armed];
     let m := labBoards [labBoarding (.tile 0) .armed]
     let b := labBoarding (.tile 0) .armed
     s.team? m.id = some m ∧ m.state = .resident ∧ b ∈ m.boardings ∧ b.atTap = true ∧
      (∀ x ∈ m.boardings, x.num = b.num → x = b) ∧ (∀ x ∈ s.teams, x.id = m.id → x = m) ∧ s.ready.length = 73 ∧ s.beamReady ≠ .neg ∧
      b.sync = .scratch m.id 9 ∧ Memory.wf m.scratch = true ∧ m.scratch = [] ∧ (9 : Int) % 9 = 0 ∧ s.beam.seg = 0 ∧
      ∀ y ∈ s.teams, ∀ x ∈ y.boardings, x.sync = .scratch ⟨0, 0⟩ 9) := by
  decide +kernel

/-- The words of a record of teams of one thread with 27 registers, for a queue. -/
def labWords (teams queue : Int) : List Int :=
  [270, 0, 0, 0, 0, 0, teams * p3 13 + 1, 27 * p3 21 + p3 15, queue * p3 14, 0, 0, 0, 0, 0, 0, 0, 0, 0]

/-- The readiness of a device of which one core is in service. -/
def labOneReady : List Int := labReady.zipIdx.map fun p => if p.2 = 0 then 1 else if p.2 < 54 ∧ p.2 % 2 = 0 then 0 else p.1

/-- A device of which one core is in service. -/
def labOneCore (t : Thread) : State :=
  { lab t with
    ready := labOneReady
    bolts := [bootBolt]
    nextBolt := 1
    hbm := memWords [] (531441 + 81) (labWords 1 0) }

/-- A queued bolt. -/
def labBolt (k teams : Nat) : Bolt :=
  { bootBolt with
    id := k
    record := { recordOf (labWords teams 0) with scratch := 1 }
    nextTeam := 0
    queued := true }

theorem admission_of {x : Option (Cand × Nat)} {k : CandKind} {n : Nat}
    (h : (match x with | some (c, _) => c.kind == k && c.team.bolt == n | none => false) = true) :
    ∃ c core, x = some (c, core) ∧ c.kind = k ∧ c.team.bolt = n := by
  match x, h with
  | some (c, core), h => exact ⟨c, core, rfl, by simpa using h⟩

theorem witness_LaunchResults :
    ((labOneCore labThread).recordStatus (labWords 1 0) = 0 ∧ (labOneCore labThread).recordStatus (labWords 2391484 0) = 0 ∧
      (labOneCore labThread).recordStatus (labWords 0 0) = 1 ∧ ({ lab labThread with ready := List.replicate 73 0 } : State).recordStatus (labWords 1 0) = 2 ∧
      { labOneCore labThread with bolts := List.replicate 243 (labBolt 1 1) }.recordStatus (labWords 1 0) = 3) ∧
    (let t := labRegs [] [0, 81, 82, 265680];
     let s := labOneCore t
     let bad : State := { s with hbmPoison := [6562] }
     let home := s.homeOf (leafDom labLeaf) (531441 + 81)
     let words (s : State) := (List.range 18).map fun i => s.memWordAt home (531441 + 81 + 3 * i)
     t.ops = [] ∧ (∀ u ∈ [[gUse 242, aUse 1], [gUse 242, aUse 2], [gUse 242, aUse 3]], s.Alone always u t) ∧ bad.Alone always [gUse 242, aUse 1] t ∧
      s.recordWhole (s.listAgent t) 81 = true ∧ s.recordWhole (s.listAgent t) 265680 = false ∧ t.readA 3 % 81 = 0 ∧
      s.check (s.listAgent t) .load (t.readA 3) 1 none false false = .ok [⟨265680, 1, 531441 + 265680, labLeaf⟩] ∧
      s.launchReady = true ∧ s.check (s.listAgent t) .load (t.readA 1) 1 none false false = .ok [⟨81, 1, 531441 + 81, labLeaf⟩] ∧
      s.check (s.listAgent t) .load (t.readA 2) 1 none false false = .ok [⟨82, 1, 531441 + 82, labLeaf⟩] ∧ t.readA 2 % 81 ≠ 0 ∧
      t.readA 1 % 81 = 0 ∧ s.poisonAt home 6562 = 0 ∧ bad.poisonAt home 6562 ≠ 0 ∧ words s = labWords 1 0 ∧
      words (lab t) = List.replicate 18 0 ∧ (s.visit home).recordStatus (labWords 1 0) = 0 ∧
      (lab t).recordStatus (List.replicate 18 0) = 1 ∧ ((s.visit home).accept (labWords 1 0)).threads = s.threads) ∧
    ((labOneCore labThread).launchReady = true ∧ (labOneCore labThread).recordAt (531441 + 81) = some (labWords 1 0) ∧
      (labOneCore labThread).recordAt 82 = none ∧ State.reset.launchReady = false) ∧
    (let s : State := { labOneCore labThread with bolts := [bootBolt, labBolt 1 1] };
     (s.bolts.map Bolt.id).Nodup ∧ (∀ b ∈ s.bolts, b.queued = true → b.outcome = 0) ∧
      ∃ b ∈ s.bolts, b.queued = true ∧ b.record.queue = 0) ∧
    (let s : State := { labOneCore labThread with threads := [], teams := [], bolts := [labBolt 1 1] };
     (∃ c core, s.nextAdmission = some (c, core) ∧ c.kind = .fresh ∧ c.team.bolt = 1) ∧ s.bolt? 1 = some (labBolt 1 1) ∧
      s.placement (labBolt 1 1).record = some 0 ∧ 0 < (labBolt 1 1).record.groups ∧
      0 < (labBolt 1 1).record.members 0) ∧
    (let b : Bolt := { labBolt 1 1 with nextTeam := 1, queued := false, again := [0] }
     let s : State := { labOneCore labThread with threads := [], teams := [], bolts := [b] };
     (∃ c core, s.nextAdmission = some (c, core) ∧ c.kind = .again ∧ c.team.bolt = 1) ∧ s.bolt? 1 = some b) :=
  ⟨by decide +kernel, ⟨by decide +kernel, alones_of (by decide +kernel), alone_of (by decide +kernel), by decide +kernel⟩,
    by decide +kernel, by decide +kernel, ⟨admission_of (by decide +kernel), by decide +kernel⟩, admission_of (by decide +kernel), by decide +kernel⟩

/-- The lab with its team's only thread gone. -/
def labDone (teams : Nat) : State :=
  { lab labThread with
    bolts := [{ bootBolt with record := { bootRecord with teams := teams } }]
    teams := [{ labStart with counter := 1 }] }

theorem witness_EndResults :
    (let t : Thread := { labThread with run := .exiting none };
     let s := lab t
     s.Calm ∧ s.thread? t.id = some t ∧ (∀ u ∈ s.threads, u.id = t.id → u = t) ∧ t.clause ≠ [] ∧ t.ops = [] ∧
      s.teamLive t.team = true ∧ t.pend = [] ∧ ∀ u ∈ s.threads, u.team = t.team → u.barrier? = none) ∧
    (let t : Thread := { labThread with run := .exiting (some (-7)), pend := [⟨⟨20, 3, 5⟩, []⟩] };
     let s := lab t
     s.Calm ∧ s.thread? t.id = some t ∧ t.clause ≠ [] ∧ t.ops = [] ∧ t.status.intrap = false ∧
      t.trapvec ≠ 0 ∧ s.teamLive t.team = true) ∧
    (∀ teams ∈ [1, 2],
      let s := labDone teams
      let m : Team := { labStart with counter := 1 }
      s.team? m.id = some m ∧ s.teamDone m = true ∧
        let s1 := (s.freeTeam m.id).mapBolt m.id.bolt fun b => { b with ended := b.ended + 1 }
        s1.bolt? m.id.bolt = some { bootBolt with record := { bootRecord with teams := teams }, ended := 1 } ∧
          (s1.writeHeader { bootBolt with record := { bootRecord with teams := teams } } [(0, 1)]).isSome = true) ∧
    ((({ labDone 1 with tcache := [] } : State).freeTeam ⟨0, 0⟩).writeHeader bootBolt [(0, 1)] = none) ∧
    (lab labThread).bolt? bootBolt.id = some bootBolt ∧ bootBolt.outcome = 0 :=
  ⟨⟨calm_of (by decide +kernel), by decide +kernel⟩, ⟨calm_of (by decide +kernel), by decide +kernel⟩, by decide +kernel,
    by decide +kernel, by decide +kernel, by decide +kernel⟩

/-- A team of a small bolt that stands in the state given, on core 0. -/
def labSpoolTeam (st : TeamState) (ready : Option Nat) : Team :=
  { startTeam (labBolt 0 1) 0 0 [0] [0, 0, 0] with state := st, readyAt := ready }

def labSpool (t : Thread) (st : TeamState) (ready : Option Nat) : State :=
  { labOneCore t with bolts := [{ labBolt 0 1 with nextTeam := 1, queued := false }], teams := [labSpoolTeam st ready] }

theorem resume_of {x : Option (Cand × Nat)} (h : (match x with | some (c, _) => c.kind == .spooled && c.team == ⟨0, 0⟩ | none => false) = true) :
    ∃ c core, x = some (c, core) ∧ c.kind = .spooled ∧ c.team = ⟨0, 0⟩ := by
  match x, h with
  | some (c, core), h => exact ⟨c, core, rfl, by simpa using h⟩

theorem witness_PreemptionResults :
    (let s := lab labThread;
     s.dies.length = 27 ∧ (s.dieAt 0).pstat.length = 18 ∧ (s.dieAt 26).pstat.getD (485 % 18) 1 ≠ 0 ∧
      (s.dieAt 0).pstat.getD 0 1 ≠ 0 ∧ ∃ m ∈ s.teams, m.occupies 0 = true) ∧
    (let t : Thread := { labThread with run := .waiting 8 (.scratch ⟨0, 0⟩ 0) 8 true };
     let s : State := { lab t with
       ready := labOneReady
       bolts := [bootBolt, labBolt 1 1] }
     ∃ m, s.toSpool = some m) ∧
    (let s := labSpool labThread (.stopping true) none;
     let m := labSpoolTeam (.stopping true) none
     let b := { labBolt 0 1 with nextTeam := 1, queued := false }
     (∃ l, s.slotSegs b m.id.team .store = some l) ∧ s.contextReady = some m ∧ s.team? m.id = some m ∧ m.state = .stopping true ∧
      s.bolt? m.id.bolt = some b ∧ m.scratchBad = [] ∧ (s.threads.map Thread.id).Nodup ∧
      ∀ t ∈ s.threads, t.team = m.id → t.ops = [] ∧ t.status.det = false) ∧
    (let s := labSpool labThread (.spooled false) (some 0);
     let m := labSpoolTeam (.spooled false) (some 0)
     let b := { labBolt 0 1 with nextTeam := 1, queued := false }
     (∃ c core, s.nextAdmission = some (c, core) ∧ c.kind = .spooled ∧ c.team = ⟨0, 0⟩) ∧ s.Calm ∧ s.team? ⟨0, 0⟩ = some m ∧
      s.bolt? 0 = some b ∧ s.slotReads b m.id.team = true ∧ s.heldCauses m.id = [] ∧
      (∀ x ∈ m.boardings, x.state ≠ .held) ∧ (∀ t ∈ s.threads, t.team = m.id → t.pend = []) ∧ (∀ x ∈ s.teams, x.rejoin = false) ∧
      s.canRelock ⟨0, 0⟩ 0 = true ∧
      let l : Lock := ⟨487, 26, ⟨0, 0⟩, .rlock 0, false, 0, 2, .dest⟩
      let r : State := { s with locks := [l, { l with core := 0, team := ⟨7, 0⟩ }] }
      (∃ c core, r.nextAdmission = some (c, core) ∧ c.kind = .spooled ∧ c.team = ⟨0, 0⟩) ∧ r.canRelock ⟨0, 0⟩ 0 = false) ∧
    (let f : Forward := ⟨0, ⟨0, 0⟩, [], []⟩
     let s : State := { labSpool labThread (.spooled true) none with
       forwards := [f, f]
       engineCauses := [(⟨0, 0⟩, ⟨0, 0⟩, ⟨20, 3, 5⟩)]
       transit := [(⟨0, 0⟩, 9, 1)] }
     s.Calm ∧ s.team? ⟨0, 0⟩ = some (labSpoolTeam (.spooled true) none) ∧ s.forwards = [f] ++ f :: []) ∧
    (let s : State := { lab labThread with engineCauses := [(⟨0, 0⟩, ⟨0, 0⟩, ⟨20, 3, 5⟩)] };
     s.Calm ∧ s.team? ⟨0, 0⟩ = some labStart ∧ labStart.state = .resident ∧ labThread ∈ s.threads ∧ labThread.id = ⟨0, 0⟩ ∧
      labThread.team = ⟨0, 0⟩ ∧ labThread.run = .ganged ∧ labThread.pend.length < 9 ∧
      ∀ u ∈ s.threads, u.id = labThread.id → u = labThread) :=
  ⟨by decide +kernel, some_of (by decide +kernel), ⟨some_of (by decide +kernel), by decide +kernel⟩,
    ⟨resume_of (by decide +kernel), calm_of (by decide +kernel), by decide +kernel, by decide +kernel, by decide +kernel, by decide +kernel,
      by decide +kernel, by decide +kernel, by decide +kernel, by decide +kernel, resume_of (by decide +kernel), by decide +kernel⟩,
    ⟨calm_of (by decide +kernel), by decide +kernel⟩, calm_of (by decide +kernel), by decide +kernel⟩

/-- A slice sector whose fill is pending, with its first tryte written. -/
def labPending : SliceSector :=
  { home := 0, sector := 6561, comp := .zero, data := 5 :: List.replicate 80 0, valid := true :: List.replicate 80 false, dirty := true,
    pending := true, prio := 0, poison := 0 }

theorem flipBits_head (b : BitVec 8) (l : List (BitVec 8)) : flipBits (b :: l) [1] = (b ^^^ 1) :: l := by
  simp only [flipBits, List.zipIdx_cons, List.map_cons, List.getD_cons_zero]
  congr 1
  refine List.ext_getElem (by simp) fun i h1 h2 => ?_
  simp [List.getD]

/-- One wrong bit of CHECK fails every sector. -/
theorem wrong_bit_fails (ts : List Int) (p : Bool) :
    checkHolds (flipBits (packSector ts p) (List.replicate 154 0 ++ [1])) = false := by
  have hb : (bytesOf 154 (sectorBody ts p)).length = 154 := length_bytesOf _ _
  rw [packSector, withCheck, List.take_of_length_le (by omega)]
  generalize bytesOf 154 (sectorBody ts p) = body at hb
  rw [← hb, flipBits_append, checkHolds_append _ _ hb, beq_eq_false_iff_ne]
  intro h
  have hc : numOfBytes (bytesOf 6 (checkCode body)) = checkCode body := by
    rw [numOfBytes_bytesOf, Nat.mod_eq_of_lt (checkCode_lt body)]
  replace h := h.trans hc.symm
  rw [bytesOf, flipBits_head] at h
  simp only [numOfBytes] at h
  generalize BitVec.ofNat 8 (checkCode body) = b at h
  generalize numOfBytes (bytesOf 5 (checkCode body / 256)) = x at h
  have e : b ^^^ 1 = b := BitVec.eq_of_toNat_eq (by omega)
  exact absurd e (by clear h e; revert b; decide)

theorem witness_MemoryErrorResults :
    (let s : State := { lab labThread with slices := [labPending] };
     s.sliceAt 0 (6561 : Int).toNat = some labPending ∧ labPending.pending = true ∧ s.prefetches = [] ∧
      labPending.poison = 0 ∧ labPending.valid.length = 81 ∧ labPending.comp = .zero ∧
      s.channelsOut = [] ∧
      ∀ b ∈ ([[1], [0]] : List (List (BitVec 8))).getD 1 [], b = 0) ∧
    (∀ ts p, checkHolds (flipBits (packSector ts p) (List.replicate 154 0 ++ [1])) = false) ∧
    ({ lab labThread with ready := List.replicate 73 0 }.channelsOut = List.range 192) ∧
    (∃ m, (lab labThread).team? ⟨0, 0⟩ = some m) ∧
    ((lab labThread).teams.find? fun m => !m.scratchBad.isEmpty) = none ∧
    (∃ m, (({ lab labThread with teams := [{ labTeam [] [] with scratchBad := [0] }] } : State).teams.find?
      fun m => !m.scratchBad.isEmpty) = some m) ∧
    (∀ idem ∈ [true, false], ∀ times ∈ [2, 3],
      let b : Bolt := { bootBolt with record := { bootRecord with idem := idem }, relaunched := [(0, times)] }
      let s : State := { lab labThread with bolts := [b] }
      s.team? ⟨0, 0⟩ = some labStart ∧ s.bolt? 0 = some b ∧ b.outcome = 0 ∧
        ((b.relaunched.find? fun p => p.1 == 0).map Prod.snd).getD 0 = times) ∧
    (∀ mapped ∈ [true, false],
      let b : Bolt := { bootBolt with record := { bootRecord with idem := true } }
      let s : State := { lab labThread with bolts := [b], tcache := if mapped then (lab labThread).tcache else [] }
      let s1 := (s.killTeam ⟨0, 0⟩).mapBolt 0 fun b => { b with again := b.again ++ [0], relaunched := [(0, 1)] }
      s.bolt? 0 = some b ∧ b.record.idem = true ∧ (s1.writeHeader b [(9, 1)]).isSome = mapped) :=
  ⟨by decide +kernel, wrong_bit_fails, by decide +kernel, some_of (by decide +kernel), by decide +kernel, some_of (by decide +kernel), by decide +kernel,
    by decide +kernel⟩

/-- A machine whose first die is given. -/
def labDie (d : Die) : State := { State.reset with dies := d :: List.replicate 26 Die.reset }

theorem witness_PowerResults :
    (State.reset.evalDue = false ∧ ({ State.reset with reftime := 100 } : State).evalDue = true ∧
      State.reset.fine < Config.tickUnits ∧ (labDie { Die.reset with relock := true }).dueStep ≠ none ∧
      (1 : Int) ≤ Die.reset.step ∧ Die.reset.step ≤ 9 ∧ Die.reset.relock = false) ∧
    (State.reset.dies[26]? = some Die.reset ∧ State.reset.beam.fixstep = 0 ∧ Die.reset.ebudget - (66000 : Nat) < 74074 ∧
      { Beam.reset with fixstep := 9 }.fixstep ≠ 0) ∧
    (let v : Int := 9 * p3 5 + 9 * p3 1;
     0 < State.reset.dies.length ∧ trits v 4 1 = 9 ∧ trits v 8 5 = 9 ∧ trits v 12 9 = 0 ∧
      (let r := v + p3 26 - 1; trits r 26 26 = 1 ∧ trits r 0 0 = -1 ∧ trits r 4 1 = 9 ∧ trits r 8 5 = 9 ∧ trits r 12 9 = 0) ∧
      ¬ trits (10 * p3 5 + 9 * p3 1) 8 5 ≤ 9) ∧
    (let s := labDie { Die.reset with evalSign := -1, evalCount := 9 };
     s.dies.findIdx? (fun d : Die => d.governs.isSome) = some 0) ∧
    (let s := labDie { Die.reset with request := some 4, cycles := 1000 };
     s.dies.findIdx? (fun d : Die => d.request.isSome && !d.relock) = some 0 ∧ (4 : Int) ≠ (s.dieAt 0).step ∧
      0 < (s.dieAt 0).step + 3) ∧
    (let s (r : Option Int) (left : Nat) : State := labDie { Die.reset with relock := true, left := left, request := r };
     (∀ d ∈ (s none 1).dies, d.relock = true → 0 < d.left) ∧
      ∀ r ∈ [none, some (4 : Int)], (s r 0).dies.findIdx? Die.relocked = some 0 ∧
        ((s r 0).dieAt 0).request = r ∧ (4 : Int) ≠ ((s r 0).dieAt 0).step ∧ 0 < ((s r 0).dieAt 0).step + 3) := by
  decide +kernel

theorem finds_packed (ts : List Int) (h : (ts = List.replicate 81 (-9841))) :
    ([List.replicate 160 255, packSector ts false].take 2).find? peerAccepts = some (packSector ts false) := by
  subst h
  have h1 : peerAccepts (packSector (List.replicate 81 (-9841)) false) = true := by
    rw [peerAccepts, checkHolds_packSector, Bool.and_true]
    decide +kernel
  exact (List.find?_cons_of_neg (by decide +kernel)).trans (List.find?_cons_of_pos h1)

theorem witness_HostAndLinkResults :
    (({ State.reset with tinvPending := [-1] } : State).tinvPending = [-1] ∧
    (let s : State := { State.reset with window := { Window.reset with hrsync := 9 } };
     0 ≤ s.window.hrsync ∧ s.window.hrsync % 9 = 0 ∧ s.window.hrsync < s.window.hbmtop ∧ (0 : Int) < State.reset.window.hbmtop) ∧
    (pairLow 54 = true ∧ pairLow 55 = false ∧ pairLow 8388607 = false ∧ (8388607 : Int) ≠ 56 ∧ 1 < State.reset.ports.length ∧
      fits 27 (maxTrits 27) = true ∧ fits 27 (maxTrits 27 + 1) = false ∧
      fits 27 (intOfBytes ((List.replicate 8 (127#8)).take 8)) = false) ∧
    (let s : State := { State.reset with ports := [⟨0, [(52, 7)], [(53, 3)]⟩, ⟨0, [], []⟩] };
     pairLow (53 - 1) = true ∧ (53 : Int) ≠ 55 ∧ portWord (s.port? 0).held (53 - 1) = some 7) ∧
    (((0 : Nat) : Int) < State.reset.window.hbmtop ∧ fits 9 ((0#8 ++ 5#8 : BitVec 16).toInt) = true ∧
      fits 9 ((128#8 ++ 0#8 : BitVec 16).toInt) = false) ∧
    (State.reset.portServes 1 = true ∧ State.reset.hostServes = true ∧ State.reset.portServes 2 = false ∧
      ({ State.reset with ready := List.replicate 73 (-(maxTrits 27)) } : State).hostServes = false) ∧
    (16777215 + [5#8].length ≤ 16777216 ∧ byteWfFrom 0 State.reset.staging = true ∧ 0 ∉ State.reset.linksOut) ∧
    (let ts : List Int := List.replicate 81 (-9841)
     ts.length = 81 ∧ (∀ x ∈ ts, fits 9 x = true) ∧ 81 * ((0 : Nat) : Int) + 81 ≤ State.reset.window.hbmtop ∧
      ([80] : List Nat).Nodup ∧ (∀ k ∈ ([80] : List Nat), k < 81) ∧ ([80] : List Nat) ≠ [] ∧
      ∀ b ∈ ([List.replicate 160 255, List.replicate 160 255] : List (List (BitVec 8))).take 2, peerAccepts b = false)) ∧
    (∀ dev, (lab labThread).peerReady dev = true ∧ ({ lab labThread with ready := List.replicate 73 0 } : State).peerReady dev = false) ∧
    ((lab labThread).peerTarget (-(3 ^ 25)) = (0, 0) ∧ (81 * (0 : Int) + ((0 : Nat) : Int) = 0)) ∧
    (let ts : List Int := List.replicate 81 (-9841)
     ([List.replicate 160 255, packSector ts false].take 2).find? peerAccepts = some (packSector ts false)) :=
  ⟨by decide +kernel, fun dev => ⟨peer_of (v := .pos) (by decide +kernel) dev, peer_of (v := .zero) (by decide +kernel) dev⟩, by decide +kernel, finds_packed _ rfl⟩

/-- The device after its firmware has been verified, every other unit pending. -/
def labVerified : State := State.reset.setReady 2259 0 .pos

/-- A device whose die 13 has one slice left; the other dies have all of theirs, or none. -/
def labLone (lone : Bool) : State :=
  { labBeam labThread [] with
    ready := labReady.zipIdx.map fun p =>
      if p.2 = 27 then 2 * p3 13 - maxTrits 27 else if (lone && decide (p.2 < 54) && p.2 % 2 == 1) = true then -maxTrits 27 else p.1 }

theorem witness_BringUpResults :
    (∀ w ∈ [2187, 2188], isFunction w 0 = true ∧ labVerified.readyTrit 2259 0 = .pos ∧ labVerified.readyTrit w 0 = .zero) ∧
    (let s := labBeam labThread [];
     s.readyTrit 2259 0 = .pos ∧ s.readyTrit 2187 17 = .pos ∧ s.ready.length = 73 ∧ s.readyTrit (2187 + 2 * 26) 17 ≠ .neg ∧
      (∀ m ∈ s.teams, ((s.bolt? m.id.bolt).map Bolt.outcome).getD 0 = 0) ∧ s.readyTrit (2241 + 17) 15 ≠ .neg ∧ 17 % 3 ≠ 0 ∧
      0 ∉ s.linksOut ∧ 30 ∉ s.linksOut ∧ s.readyTrit (2187 + 2 * 26) (18 + 8) ≠ .neg ∧
      (∀ x ∈ [2 * 8, 2 * 8 + 1], s.readyTrit (2187 + 2 * 26) x ≠ .neg) ∧
      s.readyTrit (2188 + 2 * 13) 13 = .pos ∧ s.readyTrit (2188 + 2 * 13) 14 = .pos ∧
      homeSlice (729 * (0 / 729 : Nat) : Nat) = 13 ∧ homeDie .zero (729 * (0 / 729 : Nat) : Nat) = 13 ∧
      isFunction (2241 + 3) 1 = true ∧ s.readyTrit (2241 + 3) 1 ≠ .neg ∧ isFunction 2253 9 = true ∧ s.readyTrit 2253 9 ≠ .neg) ∧
    (∀ lone ∈ [true, false], (labLone lone).ready.length = 73 ∧ (labLone lone).readyTrit 2259 0 = .pos ∧
        (labLone lone).readyTrit (2188 + 2 * 13) 13 ≠ .neg ∧
        (∀ k < 27, k ≠ 13 → (labLone lone).readyTrit (2188 + 2 * 13) k = .neg) ∧
        ((labLone lone).readyTrit 2188 0 = .pos ↔ lone = false)) ∧
    (∀ d < 27, ∀ k < 27, d ≠ 13 ∨ k ≠ 13 → (labLone true).readyTrit (2188 + 2 * d) k ≠ .pos) ∧
    (labVerified.fence 2187 0).readyTrit 2187 0 = .neg ∧
    (State.reset.readyTrit 2259 0 = .zero ∧ State.reset.fwPending = false ∧ State.reset.window.attst ≠ 0) ∧
    (({ State.reset with fwPending := true } : State).readyTrit 2259 0 = .zero ∧
      ({ State.reset with fwPending := true } : State).ready.length = 73 ∧ byteWfFrom 0 State.reset.staging = true) ∧
    (let s : State := { State.reset with window := { Window.reset with attst := 0 } };
     s.window.attst = 0 ∧ byteWfFrom 0 s.staging = true) :=
  ⟨by decide +kernel, by decide +kernel, by decide +kernel, by decide +kernel, by decide +kernel⟩

/-- A clause of one NOP at address 270, and a thread that stands before it. -/
def labClause (t : Thread) : State :=
  { lab t with hbm := memWords [] (531441 + 270) [bootHeader, 0], gangs := [] }

def labFetch (pc : Int) (pend : List Pending) : Thread :=
  { labThread with pc := pc, slot := 1, run := .boundary .fall, pend := pend }

theorem witness_FetchAndCommitResults :
    (let t := labFetch 270 [];
     let s := labClause t
     s.Calm ∧ s.thread? t.id = some t ∧ (∀ u ∈ s.threads, u.id = t.id → u = t) ∧ t.pend = [] ∧ t.capture = [] ∧
      s.fetchWord t t.pc = .ok bootHeader ∧ role bootHeader = .header ∧
      s.readClause t t.pc bootHeader = .clause [bootHeader, 0] ∧
      t.slot ≤ ({ t with clause := [bootHeader, 0] } : Thread).len ∧ t.status.intrap = false ∧ t.trapvec ≠ 0) ∧
    (let t := labFetch 271 [];
     (labClause t).Calm ∧ t.pend = [] ∧ t.capture = [] ∧ (labClause t).fetchWord t t.pc = .error ⟨3, 2, 271⟩) ∧
    (let t := labFetch 270 [⟨⟨20, 3, 5⟩, []⟩];
     (labClause t).Calm ∧ t.status.intrap = false ∧ t.trapvec ≠ 0) ∧
    (let t : Thread := { labThread with run := .ready true };
     let s := labClause t
     s.Calm ∧ s.gangOk 0 [t.id] = true ∧ (s.threads.map Thread.id).Nodup ∧ ∀ t ∈ s.threads, t.pend = []) ∧
    (let t : Thread := { labThread with run := .ready true, passed := 243 };
     let s := labClause t
     s.Calm ∧ s.gangOk 0 [t.id] = true ∧ ∃ u ∈ s.candidates 0, 243 ≤ u.passed) ∧
    (let u : Thread := { labThread with clause := [bootHeader, word 00_101990_00_0_00190_00011_00011_0], run := .ready false }
     let t := labOther (.ready false)
     let s : State := { labTwo u t with forced := [[u.id], [t.id]], gangs := [] }
     [u.id] ∈ s.forced ∧ s.thread? u.id = some u ∧ u.team = t.team ∧ u.commitKind = some 0 ∧ t.id ∉ [u.id] ∧
      ([u.id] : List ThreadId).head? = some u.id ∧ s.thread? t.id = some t) ∧
    (let home := (lab labThread).homeOf (leafDom labLeaf) (531441 + 81)
     let t : Thread := { labDet 0 with run := .quantum, buf := [.memory home (531441 + 81) 81 labLeaf .default 0 5, .scratch 9 3] }
     let u : Thread := { labOther .quantum with
       status := { labThread.status with det := true }
       buf := [.memory home (531441 + 81) 81 labLeaf .default 0 6, .memory home (531441 + 82) 82 labLeaf .default 0 7] }
     let s := labTwo t u
     let r : State := { s with heldTrytes := [(home, 531441 + 82, ⟨0, 1⟩), (home, 531441 + 90, ⟨0, 0⟩)] }
     (∀ x ∈ [s, r], x.Calm ∧ x.MemorySound) ∧ (∀ x ∈ [s, r], x.commitReady ⟨0, 0⟩ = true ∧ x.liveThreads ⟨0, 0⟩ = [t, u] ∧
        (x.threads.map Thread.id).Nodup) ∧ ([t, u].map fun t => t.id.tid).Pairwise (· < ·) ∧
      (∀ x ∈ [t, u], x.status.intrap = false ∧ x.trapvec ≠ 0 ∧ x.pend.length < 9) ∧
      (∀ x ∈ [t, u], ∀ b ∈ x.buf, (∃ home pa va leaf h issue v, b = .memory home pa va leaf h issue v) ∨ ∃ off v, b = .scratch off v) ∧
      r.heldElsewhere ⟨0, 0⟩ home (531441 + 82) = true ∧ s.heldElsewhere ⟨0, 0⟩ home (531441 + 82) = false) ∧
    (let home := (lab labThread).homeOf (leafDom labLeaf) (531441 + 81)
     let t : Thread := { labDet 0 with run := .quantum, buf := [.memory home (531441 + 81) 81 labLeaf .default 0 5] }
     let s := lab t
     s.Calm ∧ s.MemorySound ∧ s.thread? t.id = some t ∧ (∀ u ∈ s.threads, u.id = t.id → u = t) ∧ s.commitReady t.team = true ∧
      s.liveThreads t.team = [t] ∧ s.heldElsewhere t.team home (531441 + 81) = false ∧
      ({ s with heldTrytes := [(home, 531441 + 81, ⟨0, 1⟩)] } : State).heldElsewhere t.team home (531441 + 81) = true ∧
      t.status.intrap = false ∧ t.trapvec ≠ 0) := by
  refine ⟨⟨calm_of (by decide +kernel), by decide +kernel⟩, ⟨calm_of (by decide +kernel), by decide +kernel⟩,
    ⟨calm_of (by decide +kernel), by decide +kernel⟩, ⟨calm_of (by decide +kernel), by decide +kernel⟩,
    ⟨calm_of (by decide +kernel), by decide +kernel⟩, by decide +kernel,
    ⟨fun x hx => ?_, by decide +kernel, by decide +kernel, by decide +kernel, ?_, by decide +kernel⟩,
    calm_of (by decide +kernel), lab_sound, by decide +kernel⟩
  · rcases List.mem_pair.1 hx with rfl | rfl <;> exact ⟨calm_of (by decide +kernel), bare_sound (by decide +kernel)⟩
  · simp

end Sys2Proof.Tests
end

/-!
SUPPORT. The trits of a word one by one, and the leading trit and the count of LEAD and CNT (R11, R97).
-/

namespace Sys2Proof

/-- Dropping the trits below i leaves trit i and what is above it. -/
theorem trits_self_add_trunc (x : Int) (i : Nat) : trits x i i + 3 * trunc (i + 1) x = trunc i x := by
  have h := wrap_add_trunc 1 (trunc i x)
  rw [trunc_trunc] at h
  simpa [trits, p3] using h

theorem trunc_of_fits {n : Nat} {x : Int} (h : fits n x = true) : trunc n x = 0 := by
  simpa using trunc_add_mul 0 h

/-- A value whose trits are all 0 is 0 (R11). -/
theorem eq_zero_of_trits {n : Nat} {x : Int} (h : fits n x = true) (h0 : ∀ i < n, trits x i i = 0) : x = 0 := by
  have shifted : ∀ i ≤ n, x = 3 ^ i * trunc i x := by
    intro i
    induction i with
    | zero => intro _; simp
    | succ i ih =>
      intro hi
      have hx := ih (by omega)
      rw [← trits_self_add_trunc x i, h0 i (by omega)] at hx
      rw [pow_succ]; linarith
  rw [shifted n le_rfl, trunc_of_fits h, mul_zero]

theorem fits_zero (n : Nat) : fits n 0 = true := by
  have := maxTrits_nonneg n
  rw [fits_iff]; omega

@[simp] theorem trits_zero (hi lo : Nat) : trits 0 hi lo = 0 := by
  rw [trits, trunc_of_fits (fits_zero lo), wrap_of_fits (fits_zero _)]

theorem fits_neg {n : Nat} {x : Int} (h : fits n x = true) : fits n (-x) = true := by
  rw [fits_iff] at *; omega

theorem fits_abs {n : Nat} {x : Int} (h : fits n x = true) : fits n |x| = true := by
  rw [fits_iff] at *; rw [abs_le.symm] at *; simpa using h

/-- A count of n trits fits in n trits. -/
theorem le_maxTrits (n : Nat) : (n : Int) ≤ maxTrits n := by
  have h : 2 * n + 1 ≤ 3 ^ n := by
    induction n with
    | zero => simp
    | succ n ih => rw [pow_succ]; omega
  have := two_maxTrits n
  unfold p3 at this; zify at h; omega

theorem fits_of_le {n : Nat} {x : Int} (h1 : -1 ≤ x) (hn : 1 ≤ n) (h2 : x ≤ n) : fits n x = true := by
  have := le_maxTrits n
  rw [fits_iff]; omega

theorem sgn_eq_sign (x : Int) : sgn x = x.sign := by
  unfold sgn
  rcases lt_trichotomy x 0 with h | rfl | h
  · simp [h, Int.sign_eq_neg_one_of_neg h]
  · rfl
  · simp [h.not_gt, h.ne', Int.sign_eq_one_of_pos h]

namespace Machine

/-- LEAD finds no trit that is not 0, or the highest one (R97). -/
theorem leadTrit_spec (n : Nat) (x : Int) :
    (leadTrit n x = -1 ∧ ∀ j < n, trits x j j = 0) ∨
      ∃ i < n, leadTrit n x = i ∧ trits x i i ≠ 0 ∧ ∀ j < n, i < j → trits x j j = 0 := by
  induction n with
  | zero => exact .inl ⟨rfl, by simp⟩
  | succ n ih =>
    by_cases hn : trits x n n = 0
    · have below : ∀ j < n + 1, j = n ∨ j < n := fun j hj => by omega
      have step : leadTrit (n + 1) x = leadTrit n x := by simp [leadTrit, hn]
      rw [step]
      obtain ⟨h, h0⟩ | ⟨i, hi, h, hne, h0⟩ := ih
      · exact .inl ⟨h, fun j hj => (below j hj).elim (fun e => e ▸ hn) (h0 j)⟩
      · exact .inr ⟨i, by omega, h, hne, fun j hj hij => (below j hj).elim (fun e => e ▸ hn) fun hj => h0 j hj hij⟩
    · exact .inr ⟨n, by omega, by simp [leadTrit, hn], hn, fun j hj hij => by omega⟩

theorem leadTrit_range (n : Nat) (x : Int) : -1 ≤ leadTrit n x ∧ leadTrit n x ≤ n := by
  obtain ⟨h, -⟩ | ⟨i, hi, h, -⟩ := leadTrit_spec n x <;> omega

/-- LEAD of a value that is not 0 is its highest trit that is not 0; LEAD of 0 is -1 (R97). -/
theorem leadTrit_of_fits {n : Nat} {x : Int} (h : fits n x = true) :
    if x = 0 then leadTrit n x = -1
    else ∃ i : Nat, leadTrit n x = i ∧ i < n ∧ trits x i i ≠ 0 ∧ ∀ j < n, i < j → trits x j j = 0 := by
  obtain ⟨hl, h0⟩ | ⟨i, hi, hl, hne, h0⟩ := leadTrit_spec n x
  · rw [if_pos (eq_zero_of_trits h h0)]; exact hl
  · have : x ≠ 0 := by
      rintro rfl
      exact hne (trits_zero i i)
    rw [if_neg this]; exact ⟨i, hl, hi, hne, h0⟩

theorem countTrits_eq (n : Nat) (x : Int) :
    countTrits n x = (((List.range n).filter fun i => trits x i i ≠ 0).length : Int) := by
  rw [countTrits, tritList, List.countP_map, List.countP_eq_length_filter]
  simp only [Function.comp_def, bne, beq_eq_decide, decide_not, ne_eq]

theorem countTrits_range (n : Nat) (x : Int) : 0 ≤ countTrits n x ∧ countTrits n x ≤ n := by
  rw [countTrits_eq]
  have := List.length_filter_le (fun i => decide (trits x i i ≠ 0)) (List.range n)
  rw [List.length_range] at this
  omega

theorem one_le_elemWidth (sh : Shape) : 1 ≤ elemWidth sh := by cases sh <;> decide

/-- LEAD on every lane: the elements as R97 says, and trit 26 of a word of halves 0. -/
theorem lead_completes {gd : Guard} {sh : Shape} {d b : Nat} {s : State} (hr : s.Ready gd [gUse d, gUse b]) :
    Completes (.lead gd sh d b) gd (PutG d fun t v => (∀ k < elemCount sh,
      let x := elem sh (t.readG b) k
      if x = 0 then elem sh v k = -1
      else ∃ i : Nat, elem sh v k = i ∧ i < sh.width ∧ trits x i i ≠ 0 ∧ ∀ j < sh.width, i < j → trits x j j = 0) ∧
        IsWord sh v) s := by
  refine State.runLocal_putG hr (by simp) fun t _ _ _ => ⟨rfl, ?_⟩
  have fit (k : Nat) : fits (elemWidth sh) (leadTrit (elemWidth sh) (elem sh (t.readG b) k)) = true :=
    fits_of_le (leadTrit_range _ _).1 (one_le_elemWidth sh) (leadTrit_range _ _).2
  obtain ⟨helem, hword⟩ := hasElems1 (x := t.readG b) fit fun _ => rfl
  refine ⟨fun k hk => ?_, hword⟩
  rw [helem k hk, ← width_eq]
  exact leadTrit_of_fits (fits_elem sh (t.readG b) k)

/-- ADDI with a literal that the shape admits (R95). -/
theorem addi_completes {gd : Guard} {sh : Shape} {d b : Nat} {lit : Int} {s : State}
    (hr : s.Ready gd [gUse d, gUse b]) (hl : fits sh.width lit = true) :
    Completes (.addi gd sh d b lit) gd (Unary sh d b fun x => wrap sh.width (x + lit)) s := by
  have he : exec (.addi gd sh d b lit) s = unaryElems gd sh d b (fun x => wrap (elemWidth sh) (x + lit)) s := by
    rw [← width_eq] at hl
    change execAddi gd sh d b lit s = _
    simp only [execAddi, hl, if_true]; rfl
  exact unary_completes hr he fun x _ => ⟨fits_wrap _ _, by rw [width_eq]⟩

/-- An instruction that writes one word computed of its thread (R100, R103). -/
theorem word1_completes {i : Instr} {gd : Guard} {uses : List RegUse} {d : Nat} {f : Thread → Int} {s : State}
    (hr : s.Ready gd uses) (hd : gUse d ∈ uses) (he : exec i s = s.runLocal gd uses fun t => t.put d (f t)) :
    Completes i gd (Word1 d f) s := by
  unfold Completes; rw [he]
  exact State.runLocal_putG hr hd fun t _ _ _ => ⟨rfl, rfl⟩

theorem sat_eq_max_min (n : Nat) (x : Int) : sat n x = max (-maxTrits n) (min (maxTrits n) x) := by
  have := maxTrits_nonneg n
  unfold sat; split
  · omega
  · split <;> omega

/-- Settles O9: every instruction by what its function of an element gives within the element's width. -/
theorem unaryIntegerResults : Obligations.UnaryIntegerResults := by
  unfold Obligations.UnaryIntegerResults
  intro gd sh d b lit s hr
  refine ⟨?neg, ?abs, ?sgn, lead_completes hr, ?cnt, addi_completes hr, ?nrw9, ?sat9⟩
  case neg => exact unary_completes hr rfl fun x hx => ⟨fits_neg hx, rfl⟩
  case abs =>
    exact unary_completes hr rfl fun x hx => by
      rw [Int.natCast_natAbs]; exact ⟨fits_abs hx, rfl⟩
  case sgn =>
    refine unary_completes hr rfl fun x hx => ⟨fits_of_le ?_ (one_le_elemWidth sh) ?_, sgn_eq_sign x⟩
    · unfold sgn; split_ifs <;> omega
    · have := one_le_elemWidth sh
      unfold sgn; split_ifs <;> omega
  case cnt =>
    refine unary_completes hr rfl fun x _ => ⟨?_, by rw [countTrits_eq, width_eq]⟩
    have := countTrits_range (elemWidth sh) x
    exact fits_of_le (by omega) (one_le_elemWidth sh) this.2
  case nrw9 =>
    have he (t : Thread) : trits (t.readG b) 8 0 = wrap 9 (t.readG b) := by simp [trits]
    simp only [he]; exact word1_completes hr (by simp) rfl
  case sat9 =>
    have he (t : Thread) : max (-9841) (min 9841 (t.readG b)) = sat 9 (t.readG b) := (sat_eq_max_min 9 _).symm
    simp only [he]; exact word1_completes hr (by simp) rfl

end Machine
end Sys2Proof

/-!
SUPPORT. Exact ternary fractions: the length of a number in trits, and the integer nearest to a fraction (R19, R26).
-/

namespace Sys2Proof

theorem maxTrits_succ (n : Nat) : maxTrits (n + 1) = 3 * maxTrits n + 1 := by
  have h1 := two_maxTrits n; have h2 := two_maxTrits (n + 1)
  rw [p3_add, show p3 1 = 3 from rfl] at h2; omega

/-- A number has an n-trit string just when it is below half of 3^n (R11). -/
theorem fits_iff_two_abs_lt {n : Nat} {x : Int} : fits n x = true ↔ 2 * |x| < p3 n := by
  have := two_maxTrits n
  rw [fits_iff]
  obtain ⟨h, hx⟩ | ⟨h, hx⟩ := abs_cases x <;> omega

theorem fits_succ_iff {n : Nat} {x : Int} : fits (n + 1) x = true ↔ fits n (trunc 1 x) = true := by
  have : trunc 1 x = (x + 1) / 3 := rfl
  rw [fits_iff, fits_iff, maxTrits_succ, this]; omega

namespace Machine

/-- The length that the search finds is the least, where it has room for it. -/
theorem tritLenFrom_le_iff {fuel : Nat} {n : Int} (h : fits fuel n = true) (l : Nat) :
    tritLenFrom fuel n ≤ l ↔ fits l n = true := by
  induction fuel generalizing n l with
  | zero =>
    have : n = 0 := by rw [fits_iff] at h; simp [maxTrits, p3] at h; omega
    simp [tritLenFrom, this, fits_iff, maxTrits_nonneg]
  | succ fuel ih =>
    by_cases hn : n = 0
    · simp [tritLenFrom, hn, fits_iff, maxTrits_nonneg]
    · rw [tritLenFrom, if_neg hn]
      cases l with
      | zero => rw [fits_iff]; simp [maxTrits, p3]; omega
      | succ l => rw [fits_succ_iff, ← ih (fits_succ_iff.1 h) l]; omega

/-- tritLen n is the least L with an L-trit string for n. -/
theorem tritLen_le_iff (n : Int) (l : Nat) : tritLen n ≤ l ↔ fits l n = true := by
  refine tritLenFrom_le_iff ?_ l
  have h2 : n.natAbs < 2 ^ (Nat.log2 n.natAbs + 1) := Nat.lt_log2_self
  have h3 : 2 ^ (Nat.log2 n.natAbs + 2) < 3 ^ (Nat.log2 n.natAbs + 2) := Nat.pow_lt_pow_left (by norm_num) (by omega)
  have h4 : 2 * n.natAbs < 3 ^ (Nat.log2 n.natAbs + 2) := by rw [pow_succ 2] at h3; omega
  rw [fits_iff_two_abs_lt, Int.abs_eq_natAbs, p3]
  exact_mod_cast h4

theorem two_abs_lt_tritLen (n : Int) : 2 * |n| < 3 ^ tritLen n :=
  fits_iff_two_abs_lt.1 ((tritLen_le_iff n _).1 le_rfl)

/-- A number other than 0 is above half of the power of three below it. -/
theorem tritLen_lt_two_abs {n : Int} (h : n ≠ 0) : ∃ l, tritLen n = l + 1 ∧ 3 ^ l < 2 * |n| := by
  have hpos : ¬ tritLen n ≤ 0 := by
    rw [tritLen_le_iff, fits_iff]; simp [maxTrits, p3]; omega
  obtain ⟨l, hl⟩ : ∃ l, tritLen n = l + 1 := ⟨tritLen n - 1, by omega⟩
  have hfit : ¬ 2 * |n| < p3 l := by rw [← fits_iff_two_abs_lt, ← tritLen_le_iff]; omega
  have hodd := two_maxTrits l
  exact ⟨l, hl, by unfold p3 at hfit hodd; omega⟩

/-- What trunc drops is less than half of its unit (R19). -/
theorem two_abs_trunc_mul_sub_lt (j : Nat) (n : Int) : 2 * |trunc j n * 3 ^ j - n| < 3 ^ j := by
  have h : trunc j n * 3 ^ j - n = -wrap j n := by
    have := wrap_add_trunc j n
    unfold p3 at this; linarith
  rw [h, abs_neg]
  exact fits_iff_two_abs_lt.1 (fits_wrap j n)

/-- The value of an exact fraction. -/
def TFrac.val (a : TFrac) : ℚ := a.n * 3 ^ a.k

theorem cast_p3z {j : Int} (h : 0 ≤ j) : ((p3z j : Int) : ℚ) = 3 ^ j := by
  obtain ⟨m, rfl⟩ := Int.eq_ofNat_of_zero_le h
  simp [p3z, p3]

/-- The nearest integer is less than half a unit from a fraction: a fraction in threes never lies half way. -/
theorem TFrac.two_abs_nearest_sub_lt (a : TFrac) : 2 * |(a.nearest : ℚ) - a.val| < 1 := by
  unfold TFrac.nearest TFrac.val
  split_ifs with hk hl
  · rw [Int.cast_mul, cast_p3z hk]; simp
  · have hlen : 2 * |(a.n : ℚ)| < 3 ^ tritLen a.n := by exact_mod_cast two_abs_lt_tritLen a.n
    have hpos : (0 : ℚ) < 3 ^ a.k := by positivity
    calc 2 * |((0 : Int) : ℚ) - a.n * 3 ^ a.k| = 2 * |(a.n : ℚ)| * 3 ^ a.k := by
          rw [Int.cast_zero, zero_sub, abs_neg, abs_mul, abs_of_pos hpos, mul_assoc]
      _ < 3 ^ tritLen a.n * 3 ^ a.k := by gcongr
      _ = 3 ^ ((tritLen a.n : Int) + a.k) := by rw [zpow_add₀ (by norm_num), zpow_natCast]
      _ ≤ 1 := zpow_le_one_of_nonpos₀ (by norm_num) (by omega)
  · obtain ⟨j, hj⟩ : ∃ j : Nat, a.k = -j := ⟨(-a.k).toNat, by omega⟩
    have hcut : 2 * |(trunc j a.n : ℚ) * 3 ^ j - a.n| < 3 ^ j := by exact_mod_cast two_abs_trunc_mul_sub_lt j a.n
    have hpos : (0 : ℚ) < 3 ^ j := by positivity
    have e : (trunc j a.n : ℚ) - a.n * 3 ^ (-(j : Int)) = (trunc j a.n * 3 ^ j - a.n) / 3 ^ j := by
      rw [zpow_neg, zpow_natCast]; field_simp
    rw [hj, show (- -(j : Int)).toNat = j by omega, e, abs_div, abs_of_pos hpos, ← mul_div_assoc, div_lt_one hpos]
    exact hcut

theorem TFrac.val_of_zero {a : TFrac} (h : a.n = 0) : a.val = 0 := by simp [TFrac.val, h]

theorem TFrac.val_eq_zero {a : TFrac} : a.val = 0 ↔ a.n = 0 := by
  simp [TFrac.val, zpow_ne_zero]

theorem TFrac.val_add (a b : TFrac) : (a.add b).val = a.val + b.val := by
  unfold TFrac.add
  split_ifs with ha hb
  · rw [TFrac.val_of_zero ha, zero_add]
  · rw [TFrac.val_of_zero hb, add_zero]
  · have shift (n k : Int) (hk : min a.k b.k ≤ k) :
        (n : ℚ) * (p3z (k - min a.k b.k) : Int) * 3 ^ min a.k b.k = n * 3 ^ k := by
      rw [cast_p3z (by omega), mul_assoc, ← zpow_add₀ (by norm_num), sub_add_cancel]
    simp only [TFrac.val, Int.cast_add, Int.cast_mul, add_mul]
    rw [shift _ _ (min_le_left _ _), shift _ _ (min_le_right _ _)]

theorem TFrac.val_neg (a : TFrac) : a.neg.val = -a.val := by simp [TFrac.val, TFrac.neg]

theorem TFrac.val_scale (a : TFrac) (j : Int) : (a.scale j).val = a.val * 3 ^ j := by
  simp [TFrac.val, TFrac.scale, zpow_add₀, mul_assoc]

theorem sgn_eq_zero {n : Int} : sgn n = 0 ↔ n = 0 := by rw [sgn_eq_sign]; exact Int.sign_eq_zero_iff_zero

theorem TFrac.isInt_iff (a : TFrac) (y : Int) : a.isInt y = true ↔ (y : ℚ) = a.val := by
  have hy : (TFrac.mk y 0).val = y := by simp [TFrac.val]
  rw [TFrac.isInt, TFrac.cmp, beq_iff_eq, sgn_eq_zero, ← TFrac.val_eq_zero, TFrac.val_add,
    TFrac.val_neg, hy, ← sub_eq_add_neg, sub_eq_zero, eq_comm]

end Machine
end Sys2Proof

/-!
SUPPORT. Words of a real format, and rounding: the word and the flags that rounding gives are those of the grid value
nearest to an exact fraction (R130 to R137).
-/

namespace Sys2Proof.Machine

/-! ### Words of a format (R130, R131) -/

/-- A format has a trit of fraction and of exponent, and its largest exponent fills its field (R130). -/
structure RFmt.Sane (f : RFmt) : Prop where
  frac : 1 ≤ f.frac
  exp : 1 ≤ f.exp
  lim : f.lim = maxTrits f.exp

theorem sane_tf27 : tf27.Sane := ⟨by decide, by decide, by decide⟩
theorem sane_tf9 : tf9.Sane := ⟨by decide, by decide, by decide⟩

variable {f : RFmt}

theorem RFmt.Sane.lim_pos (hf : f.Sane) : 1 ≤ f.lim := by
  have h1 := le_maxTrits f.exp; have h2 := hf.exp
  rw [hf.lim]; omega

theorem RFmt.word_eq (f : RFmt) (e F : Int) : f.word e F = F + p3 f.frac * e := by unfold RFmt.word; ring

section Word
variable {e F : Int}

theorem RFmt.expOf_word (hf : f.Sane) (he : |e| ≤ f.lim) (hF : |F| ≤ f.maxF) : f.expOf (f.word e F) = e := by
  have hexp := hf.exp
  rw [hf.lim, abs_le, ← fits_iff] at he
  rw [RFmt.maxF, abs_le, ← fits_iff] at hF
  rw [RFmt.expOf, trits, show f.frac + f.exp - 1 + 1 - f.frac = f.exp by omega, RFmt.word_eq, trunc_add_mul _ hF,
    wrap_of_fits he]

theorem RFmt.fracOf_word (hf : f.Sane) (hF : |F| ≤ f.maxF) : f.fracOf (f.word e F) = F := by
  have hfrac := hf.frac
  rw [RFmt.maxF, abs_le, ← fits_iff] at hF
  rw [RFmt.fracOf, trits, show f.frac - 1 + 1 - 0 = f.frac by omega, trunc_zero, RFmt.word_eq, wrap_add_mul _ hF]

theorem RFmt.fits_word (hf : f.Sane) (he : |e| ≤ f.lim) (hF : |F| ≤ f.maxF) :
    fits (f.frac + f.exp) (f.word e F) = true := by
  have h1 := two_maxTrits f.frac; have h2 := two_maxTrits f.exp; have h3 := two_maxTrits (f.frac + f.exp)
  have hp := p3_pos f.frac
  rw [hf.lim, abs_le] at he
  rw [RFmt.maxF, abs_le] at hF
  rw [p3_add] at h3
  have hw : 2 * |f.word e F| < p3 (f.frac + f.exp) := by
    rw [RFmt.word_eq, p3_add, ← abs_two, ← abs_mul, abs_lt]
    constructor <;> nlinarith
  exact fits_iff_two_abs_lt.2 hw

theorem RFmt.value_word (hf : f.Sane) (he : |e| ≤ f.lim) (hF : |F| ≤ f.maxF) :
    f.value (f.word e F) = F * 3 ^ (e - f.frac) := by
  rw [RFmt.value, RFmt.expOf_word hf he hF, RFmt.fracOf_word hf hF]

/-- A fraction with a leading trit makes no unnormal word, and neither does the lowest exponent (R131). -/
theorem RFmt.unnormal_word (hf : f.Sane) (he : |e| ≤ f.lim) (hF : |F| ≤ f.maxF) (hn : e = -f.lim ∨ f.minF ≤ |F|) :
    f.unnormal (f.word e F) = false := by
  rw [RFmt.unnormal, RFmt.expOf_word hf he hF]
  obtain rfl | hn := hn
  · simp
  · have hfrac := hf.frac
    obtain ⟨m, hm⟩ : ∃ m, f.frac = m + 1 := ⟨f.frac - 1, by omega⟩
    have hlead : trits (f.word e F) m m ≠ 0 := by
      intro h0
      have hF' : fits (m + 1) F = true := by rwa [fits_iff, ← abs_le, ← hm]
      have hw : f.word e F = F + p3 (m + 1) * e := by rw [RFmt.word_eq, hm]
      have h1 := trits_self_add_trunc (f.word e F) m
      have h2 := wrap_add_trunc m (f.word e F)
      rw [← h1, h0, hw, trunc_add_mul _ hF', p3_add, show p3 1 = 3 from rfl] at h2
      have h3 : F = wrap m (f.word e F) := by rw [hw, p3_add, show p3 1 = 3 from rfl]; linarith
      have h4 : 2 * |F| < p3 m := fits_iff_two_abs_lt.1 (by rw [h3]; exact fits_wrap m _)
      have h5 := two_maxTrits m
      rw [RFmt.minF, hm, Nat.add_sub_cancel] at hn
      omega
    rw [hm, Nat.add_sub_cancel]
    simp [hlead]

end Word

/-! ### The value that rounding gives (R136) -/

/-- The exponent of the normal form of a fraction, not below the lowest. -/
def RFmt.place (f : RFmt) (x : TFrac) : Int := max (x.k + tritLen x.n) (-f.lim)

/-- The trits of a fraction that do not fit at that exponent. -/
def RFmt.drops (f : RFmt) (x : TFrac) : Int := f.place x - f.frac - x.k

/-- The fraction nearest at that exponent. -/
def RFmt.fracNear (f : RFmt) (x : TFrac) : Int := (TFrac.mk x.n (-f.drops x)).nearest

/-- Whether the largest fraction of the exponent below is nearer still. -/
def RFmt.below (f : RFmt) (x : TFrac) : Bool :=
  decide (0 < f.drops x) && decide (-f.lim < f.place x) && ((f.fracNear x).natAbs : Int) == f.minF &&
    decide (6 * (x.n.natAbs : Int) < p3z (f.frac + f.drops x) + p3z (f.drops x))

/-- The exponent that rounding gives. -/
def RFmt.outExp (f : RFmt) (x : TFrac) : Int := if f.below x then f.place x - 1 else f.place x

/-- The fraction that rounding gives. -/
def RFmt.outFrac (f : RFmt) (x : TFrac) : Int := if f.below x then sgn x.n * f.maxF else f.fracNear x

/-- The grid value that rounding gives, its exponent having no upper limit. -/
def RFmt.outVal (f : RFmt) (x : TFrac) : ℚ := f.outFrac x * 3 ^ (f.outExp x - f.frac)

/-- The unit of the fraction at the exponent of the normal form. -/
def RFmt.ulp (f : RFmt) (x : TFrac) : ℚ := 3 ^ (f.place x - f.frac)

theorem RFmt.ulp_pos (f : RFmt) (x : TFrac) : 0 < f.ulp x := by unfold RFmt.ulp; positivity

theorem RFmt.fracNear_eq (f : RFmt) (x : TFrac) : f.fracNear x =
    if f.drops x ≤ 0 then x.n * p3z (-f.drops x)
    else if (tritLen x.n : Int) < f.drops x then 0 else trunc (f.drops x).toNat x.n := by
  simp only [RFmt.fracNear, TFrac.nearest, neg_nonneg, neg_neg]

/-- Whether the fraction at the exponent of the normal form is not exact. -/
def RFmt.cuts (f : RFmt) (x : TFrac) : Bool :=
  decide (0 < f.drops x) && (decide ((tritLen x.n : Int) < f.drops x) || f.fracNear x * p3z (f.drops x) != x.n)

/-- Rounding, by the exponent and the fraction it gives. -/
theorem RFmt.round_eq {x : TFrac} (hx : x.n ≠ 0) :
    f.round x = if f.outFrac x = 0 then ⟨f.zero, false, f.tiny x.n x.k (x.k + tritLen x.n), f.cuts x⟩
      else if f.lim - 1 < f.outExp x then ⟨f.inf (decide (x.n < 0)), true, f.tiny x.n x.k (x.k + tritLen x.n), true⟩
      else ⟨f.word (f.outExp x) (f.outFrac x), false, f.tiny x.n x.k (x.k + tritLen x.n), f.cuts x⟩ := by
  rw [RFmt.round, if_neg hx]
  simp only [RFmt.outFrac, RFmt.outExp, RFmt.below, RFmt.cuts, RFmt.fracNear_eq, RFmt.drops, RFmt.place]
  rfl

/-- A count of units, by the trits that the fraction drops. -/
theorem RFmt.mul_ulp (f : RFmt) (x : TFrac) (q : ℚ) : q * f.ulp x = q * 3 ^ f.drops x * 3 ^ x.k := by
  rw [RFmt.ulp, RFmt.drops, mul_assoc, ← zpow_add₀ (by norm_num), sub_add_cancel]

theorem RFmt.cuts_iff {x : TFrac} (hx : x.n ≠ 0) : f.cuts x = true ↔ (f.fracNear x : ℚ) * f.ulp x ≠ x.val := by
  have hk : (3 : ℚ) ^ x.k ≠ 0 := by positivity
  rw [RFmt.mul_ulp, TFrac.val, Ne, mul_left_inj' hk, RFmt.cuts]
  by_cases hs : f.drops x ≤ 0
  · have hexact : (f.fracNear x : ℚ) * 3 ^ f.drops x = x.n := by
      rw [RFmt.fracNear_eq, if_pos hs, Int.cast_mul, cast_p3z (by omega), mul_assoc, ← zpow_add₀ (by norm_num)]
      simp
    simp [hexact, hs.not_gt]
  · have hs' : 0 < f.drops x := by omega
    by_cases hl : (tritLen x.n : Int) < f.drops x
    · have zero : f.fracNear x = 0 := by rw [RFmt.fracNear_eq, if_neg hs, if_pos hl]
      have hn : (0 : ℚ) ≠ x.n := by exact_mod_cast hx.symm
      simp [hs', hl, zero, hn]
    · rw [← cast_p3z hs'.le]
      simp only [hs', hl, decide_true, decide_false, Bool.true_and, Bool.false_or, bne_iff_ne, ne_eq, not_iff_not]
      exact_mod_cast Iff.rfl

/-- The fraction at the exponent of the normal form is less than half a unit away. -/
theorem RFmt.two_abs_fracNear_sub_lt (f : RFmt) (x : TFrac) :
    2 * |(f.fracNear x : ℚ) * f.ulp x - x.val| < f.ulp x := by
  have h := TFrac.two_abs_nearest_sub_lt ⟨x.n, -f.drops x⟩
  have hv : x.val = (TFrac.mk x.n (-f.drops x)).val * f.ulp x := by
    rw [RFmt.mul_ulp, TFrac.val, TFrac.val, mul_assoc (x.n : ℚ), ← zpow_add₀ (by norm_num)]
    simp
  rw [hv, ← sub_mul, abs_mul, abs_of_pos (f.ulp_pos x), ← mul_assoc]
  exact mul_lt_of_lt_one_left (f.ulp_pos x) h

/-- A fraction is below half of the power of three at the exponent of its normal form. -/
theorem TFrac.two_abs_val_lt (x : TFrac) : 2 * |x.val| < 3 ^ (x.k + tritLen x.n) := by
  have h : 2 * |(x.n : ℚ)| < 3 ^ tritLen x.n := by exact_mod_cast two_abs_lt_tritLen x.n
  have hpos : (0 : ℚ) < 3 ^ x.k := by positivity
  rw [TFrac.val, abs_mul, abs_of_pos hpos, ← mul_assoc, add_comm, zpow_add₀ (by norm_num), zpow_natCast]
  gcongr

/-- A fraction other than 0 is above half of the power of three one below. -/
theorem TFrac.lt_two_abs_val {x : TFrac} (hx : x.n ≠ 0) : 3 ^ (x.k + tritLen x.n - 1) < 2 * |x.val| := by
  obtain ⟨l, hl, h⟩ := tritLen_lt_two_abs hx
  have h : (3 : ℚ) ^ l < 2 * |(x.n : ℚ)| := by exact_mod_cast h
  have hpos : (0 : ℚ) < 3 ^ x.k := by positivity
  have hexp : x.k + ((l + 1 : Nat) : Int) - 1 = l + x.k := by push_cast; ring
  rw [TFrac.val, abs_mul, abs_of_pos hpos, ← mul_assoc, hl, hexp, zpow_add₀ (by norm_num), zpow_natCast]
  gcongr

variable {x : TFrac}

/-! ### The grid (R136) -/

/-- y is nearer to x than z, or as near and no smaller in magnitude. -/
def Nearer (x y z : ℚ) : Prop := |y - x| < |z - x| ∨ |y - x| = |z - x| ∧ |z| ≤ |y|

theorem nearer_of_le {x y z : ℚ} (h : |y - x| ≤ |z - x|) (hz : |z| ≤ |y|) : Nearer x y z :=
  h.lt_or_eq.imp_right fun h => ⟨h, hz⟩

/-- The multiple of u that is less than half of u away is nearer than every other. -/
theorem nearer_multiple {u x : ℚ} (hu : 0 < u) {F : Int} (h : 2 * |F * u - x| < u) (m : Int) :
    Nearer x (F * u) (m * u) := by
  by_cases hm : m = F
  · rw [hm]; exact nearer_of_le le_rfl le_rfl
  · have hone : (1 : ℚ) ≤ |(m : ℚ) - F| := by exact_mod_cast Int.one_le_abs (sub_ne_zero.2 hm)
    have hgap : u ≤ |m * u - F * u| := by
      rw [← sub_mul, abs_mul, abs_of_pos hu]; exact le_mul_of_one_le_left hu.le hone
    have htri := abs_sub_le ((m : ℚ) * u) x (F * u)
    rw [abs_sub_comm x] at htri
    exact .inl (by linarith)

/-- Values of one sign differ by what their magnitudes differ by. -/
theorem abs_sub_of_mul_nonneg {x y : ℚ} (h : 0 ≤ y * x) : |y - x| = |(|y| - |x|)| := by
  obtain ⟨hy, hx⟩ | ⟨hy, hx⟩ := mul_nonneg_iff.1 h
  · rw [abs_of_nonneg hx, abs_of_nonneg hy]
  · rw [abs_of_nonpos hx, abs_of_nonpos hy, ← abs_neg]; congr 1; ring

/-- The power of three below the leading trit of a fraction. -/
def RFmt.half (f : RFmt) : Int := p3 (f.frac - 1)

theorem RFmt.two_minF (f : RFmt) : 2 * f.minF = f.half + 1 := by
  have := two_maxTrits (f.frac - 1)
  unfold RFmt.minF RFmt.half; omega

theorem RFmt.two_maxF (hf : f.Sane) : 2 * f.maxF = 3 * f.half - 1 := by
  have h1 := two_maxTrits f.frac; have h2 := hf.frac
  have h3 : p3 f.frac = p3 (f.frac - 1) * 3 := by
    rw [show (3 : Int) = p3 1 from rfl, ← p3_add]; congr 1; omega
  unfold RFmt.maxF RFmt.half; omega

theorem RFmt.half_pos (f : RFmt) : 0 < f.half := p3_pos _

theorem RFmt.minF_pos (f : RFmt) : 0 < f.minF := by
  have := f.half_pos; have := f.two_minF; omega

/-- The leading trit of a fraction at an exponent. -/
theorem RFmt.three_mul_half_mul (hf : f.Sane) (e : Int) : 3 * (f.half : ℚ) * 3 ^ (e - f.frac) = 3 ^ e := by
  have h : 3 * (f.half : ℚ) = 3 ^ (f.frac : Int) := by
    obtain ⟨m, hm⟩ : ∃ m, f.frac = m + 1 := ⟨f.frac - 1, by have := hf.frac; omega⟩
    rw [RFmt.half, hm, zpow_natCast, pow_succ, Nat.add_sub_cancel, p3]; push_cast; ring
  rw [h, ← zpow_add₀ (by norm_num)]; congr 1; ring

theorem RFmt.two_abs_val_lt_ulp (hf : f.Sane) (x : TFrac) : 2 * |x.val| < 3 * (f.half : ℚ) * f.ulp x := by
  rw [RFmt.ulp, RFmt.three_mul_half_mul hf]
  exact x.two_abs_val_lt.trans_le (zpow_le_zpow_right₀ (by norm_num) (le_max_left _ _))

theorem RFmt.ulp_lt_two_abs_val (hf : f.Sane) (hx : x.n ≠ 0) (h : -f.lim < f.place x) :
    (f.half : ℚ) * f.ulp x < 2 * |x.val| := by
  have he : f.place x = x.k + tritLen x.n := by unfold RFmt.place at h ⊢; omega
  have h1 := TFrac.lt_two_abs_val hx
  rw [← he, zpow_sub₀ (by norm_num), zpow_one, ← RFmt.three_mul_half_mul hf] at h1
  rw [RFmt.ulp]; linarith

/-! ### The fraction at the exponent of the normal form -/

theorem RFmt.fracNear_sign (f : RFmt) (x : TFrac) : 0 ≤ (f.fracNear x : ℚ) * f.ulp x * x.val := by
  have hu := f.ulp_pos x
  have hnear := abs_lt.1 (lt_of_mul_lt_mul_left (a := (2 : ℚ)) (by linarith [f.two_abs_fracNear_sub_lt x]) zero_le_two :
    |(f.fracNear x : ℚ) * f.ulp x - x.val| < f.ulp x / 2)
  obtain hF | hF | hF := lt_trichotomy (f.fracNear x) 0
  · have hF : (f.fracNear x : ℚ) ≤ -1 := by exact_mod_cast Int.le_sub_one_of_lt hF
    have hFu := mul_le_mul_of_nonneg_right hF hu.le
    exact mul_nonneg_of_nonpos_of_nonpos (by linarith) (by linarith)
  · simp [hF]
  · have hF : (1 : ℚ) ≤ f.fracNear x := by exact_mod_cast hF
    have hFu := mul_le_mul_of_nonneg_right hF hu.le
    exact mul_nonneg (by linarith) (by linarith)

theorem RFmt.abs_fracNear_mul_ulp (f : RFmt) (x : TFrac) :
    |(f.fracNear x : ℚ) * f.ulp x| = (|f.fracNear x| : Int) * f.ulp x := by
  rw [abs_mul, abs_of_pos (f.ulp_pos x), Int.cast_abs]

/-- The magnitude of the fraction is within half a unit of the magnitude rounded. -/
theorem RFmt.two_abs_abs_fracNear_sub_lt (f : RFmt) (x : TFrac) :
    2 * |(|f.fracNear x| : Int) * f.ulp x - (|x.val|)| < f.ulp x := by
  have h := f.two_abs_fracNear_sub_lt x
  rwa [abs_sub_of_mul_nonneg (f.fracNear_sign x), RFmt.abs_fracNear_mul_ulp] at h

theorem RFmt.abs_fracNear_le (hf : f.Sane) (x : TFrac) : |f.fracNear x| ≤ f.maxF := by
  have hu := f.ulp_pos x
  have h1 := f.two_abs_val_lt_ulp hf x
  have h2 := le_abs_self ((|f.fracNear x| : Int) * f.ulp x - |x.val|)
  have h3 := f.two_abs_abs_fracNear_sub_lt x
  have h4 : (2 * (|f.fracNear x| : Int) : ℚ) * f.ulp x < (3 * f.half + 1) * f.ulp x := by linarith
  have h5 : 2 * |f.fracNear x| < 3 * f.half + 1 := by exact_mod_cast lt_of_mul_lt_mul_right h4 hu.le
  have := f.two_maxF hf
  omega

theorem RFmt.minF_le_abs_fracNear (hf : f.Sane) (hx : x.n ≠ 0) (h : -f.lim < f.place x) : f.minF ≤ |f.fracNear x| := by
  have hu := f.ulp_pos x
  have h1 := f.ulp_lt_two_abs_val hf hx h
  have h2 := neg_abs_le ((|f.fracNear x| : Int) * f.ulp x - |x.val|)
  have h3 := f.two_abs_abs_fracNear_sub_lt x
  have h4 : (f.half - 1 : ℚ) * f.ulp x < (2 * (|f.fracNear x| : Int) : ℚ) * f.ulp x := by linarith
  have h5 : f.half - 1 < 2 * |f.fracNear x| := by exact_mod_cast lt_of_mul_lt_mul_right h4 hu.le
  have := f.two_minF
  omega

/-- Where the largest fraction of the exponent below is nearer. -/
theorem RFmt.below_iff (hf : f.Sane) (x : TFrac) : f.below x = true ↔
    0 < f.drops x ∧ -f.lim < f.place x ∧ |f.fracNear x| = f.minF ∧
      6 * |x.val| < 3 * f.half * f.ulp x + f.ulp x := by
  simp only [RFmt.below, Bool.and_eq_true, decide_eq_true_eq, beq_iff_eq, and_assoc, Int.natCast_natAbs]
  refine and_congr_right fun hs => and_congr_right fun _ => and_congr_right fun _ => ?_
  have hk : (0 : ℚ) < 3 ^ x.k := by positivity
  have hu : f.ulp x = 3 ^ f.drops x * 3 ^ x.k := by simpa using f.mul_ulp x 1
  have hp : ((p3z (f.frac + f.drops x) : Int) : ℚ) = 3 * f.half * 3 ^ f.drops x := by
    rw [cast_p3z (by omega), ← f.three_mul_half_mul hf]; congr 2; ring
  have hv : |x.val| = |(x.n : ℚ)| * 3 ^ x.k := by rw [TFrac.val, abs_mul, abs_of_pos hk]
  rw [hv, hu, ← mul_assoc, ← mul_assoc, ← add_mul, mul_lt_mul_iff_left₀ hk, ← hp, ← cast_p3z hs.le]
  exact_mod_cast Iff.rfl

/-- Where it is not, a smallest fraction is exact or nearer than what lies below it. -/
theorem RFmt.eq_or_le_of_not_below (hf : f.Sane) (hx : x.n ≠ 0) (hb : f.below x = false) (hp : -f.lim < f.place x)
    (hm : |f.fracNear x| = f.minF) :
    (f.fracNear x : ℚ) * f.ulp x = x.val ∨ 3 * f.half * f.ulp x + f.ulp x ≤ 6 * |x.val| := by
  by_cases hs : 0 < f.drops x
  · have : ¬ f.below x = true := by simp [hb]
    rw [f.below_iff hf] at this
    exact .inr (not_lt.1 fun hlt => this ⟨hs, hp, hm, hlt⟩)
  · have : ¬ f.cuts x = true := by simp [RFmt.cuts, hs]
    rw [RFmt.cuts_iff hx] at this
    exact .inl (not_not.1 this)

/-! ### The nearest grid value (R136) -/

/-- A grid value of an exponent not below is a multiple of the unit. -/
theorem RFmt.grid_multiple {F e : Int} (he : f.place x ≤ e) :
    ∃ m : Int, (F : ℚ) * 3 ^ (e - f.frac) = m * f.ulp x := by
  refine ⟨F * p3z (e - f.place x), ?_⟩
  rw [Int.cast_mul, cast_p3z (by omega), RFmt.ulp, mul_assoc, ← zpow_add₀ (by norm_num)]
  congr 2; ring

/-- A grid value of a lower exponent is at most the largest fraction of the exponent below. -/
theorem RFmt.six_abs_grid_le (hf : f.Sane) {F e : Int} (hF : |F| ≤ f.maxF) (he : e < f.place x) :
    6 * |(F : ℚ) * 3 ^ (e - f.frac)| ≤ 3 * f.half * f.ulp x - f.ulp x := by
  have hu := f.ulp_pos x
  have h2 : 2 * |(F : ℚ)| ≤ 3 * f.half - 1 := by
    have : 2 * |F| ≤ 3 * f.half - 1 := by have := f.two_maxF hf; omega
    exact_mod_cast this
  have h3 : 3 * (3 : ℚ) ^ (e - f.frac) ≤ f.ulp x := by
    have : (3 : ℚ) * 3 ^ (e - f.frac) = 3 ^ (e - f.frac + 1) := by rw [zpow_add_one₀ (by norm_num)]; ring
    rw [this]
    exact zpow_le_zpow_right₀ (by norm_num) (by omega)
  have hpos : (0 : ℚ) < 3 ^ (e - f.frac) := by positivity
  calc 6 * |(F : ℚ) * 3 ^ (e - f.frac)| = 2 * |(F : ℚ)| * (3 * 3 ^ (e - f.frac)) := by
        rw [abs_mul, abs_of_pos hpos]; ring
    _ ≤ (3 * f.half - 1) * f.ulp x := by gcongr; exact (by positivity : (0 : ℚ) ≤ 2 * |(F : ℚ)|).trans h2
    _ = 3 * f.half * f.ulp x - f.ulp x := by ring

theorem RFmt.outVal_of_not_below (h : f.below x = false) : f.outVal x = f.fracNear x * f.ulp x := by
  simp [RFmt.outVal, RFmt.outFrac, RFmt.outExp, RFmt.ulp, h]

theorem sgn_val (x : TFrac) : (sgn x.n : ℚ) * |x.val| = x.val := by
  have hk : (0 : ℚ) < 3 ^ x.k := by positivity
  have h : sgn x.n * |x.n| = x.n := by rw [sgn_eq_sign, Int.sign_mul_abs]
  rw [TFrac.val, abs_mul, abs_of_pos hk, ← mul_assoc]
  exact_mod_cast congrArg (fun n : Int => (n : ℚ) * 3 ^ x.k) h

/-- The largest fraction of the exponent below, with the sign of what is rounded. -/
theorem RFmt.outVal_of_below (hf : f.Sane) (h : f.below x = true) :
    6 * f.outVal x = sgn x.n * (3 * f.half * f.ulp x - f.ulp x) := by
  have h2 : 2 * (f.maxF : ℚ) = 3 * f.half - 1 := by exact_mod_cast f.two_maxF hf
  have hu : (3 : ℚ) ^ (f.place x - 1 - f.frac) = f.ulp x / 3 := by
    rw [RFmt.ulp, show f.place x - 1 - f.frac = f.place x - f.frac - 1 by ring, zpow_sub₀ (by norm_num), zpow_one]
  simp only [RFmt.outVal, RFmt.outFrac, RFmt.outExp, h, if_true, hu, Int.cast_mul]
  linear_combination (sgn x.n : ℚ) * f.ulp x * h2

theorem abs_sgn_of_ne_zero {n : Int} (h : n ≠ 0) : |sgn n| = 1 := by
  rw [sgn_eq_sign, Int.abs_sign_of_ne_zero h]

theorem RFmt.half_mul_ulp_ge (f : RFmt) (x : TFrac) : f.ulp x ≤ f.half * f.ulp x :=
  le_mul_of_one_le_left (f.ulp_pos x).le (by exact_mod_cast f.half_pos)

theorem RFmt.six_abs_outVal_of_below (hf : f.Sane) (hx : x.n ≠ 0) (h : f.below x = true) :
    6 * |f.outVal x| = 3 * f.half * f.ulp x - f.ulp x := by
  have hu := f.ulp_pos x
  have hh := f.half_mul_ulp_ge x
  have hs : |(sgn x.n : ℚ)| = 1 := by exact_mod_cast abs_sgn_of_ne_zero hx
  have hpos : (0 : ℚ) ≤ 3 * f.half * f.ulp x - f.ulp x := by linarith
  have h6 : |(6 : ℚ)| = 6 := by norm_num
  rw [← h6, ← abs_mul, RFmt.outVal_of_below hf h, abs_mul, hs, one_mul, abs_of_nonneg hpos]

/-- Rounding keeps the sign. -/
theorem RFmt.outVal_sign (hf : f.Sane) (x : TFrac) : 0 ≤ f.outVal x * x.val := by
  cases hb : f.below x
  · rw [RFmt.outVal_of_not_below hb]; exact f.fracNear_sign x
  · have hu := f.ulp_pos x
    have hh := f.half_mul_ulp_ge x
    have h : 6 * (f.outVal x * x.val) =
        (sgn x.n) ^ 2 * |x.val| * (3 * f.half * f.ulp x - f.ulp x) := by
      rw [← mul_assoc, RFmt.outVal_of_below hf hb]
      nth_rewrite 1 [← sgn_val x]
      ring
    have hpos : (0 : ℚ) ≤ (sgn x.n) ^ 2 * |x.val| * (3 * f.half * f.ulp x - f.ulp x) :=
      mul_nonneg (by positivity) (by linarith)
    linarith

theorem RFmt.abs_outVal_sub (hf : f.Sane) (x : TFrac) : |f.outVal x - x.val| = |(|f.outVal x| - |x.val|)| :=
  abs_sub_of_mul_nonneg (f.outVal_sign hf x)

/-- The distance of magnitudes bounds the distance. -/
theorem sub_abs_le_abs_sub (x z : ℚ) : |x| - |z| ≤ |z - x| ∧ |z| - |x| ≤ |z - x| :=
  ⟨by rw [abs_sub_comm]; exact abs_sub_abs_le_abs_sub x z, abs_sub_abs_le_abs_sub z x⟩

/-- Where the largest fraction of the exponent below is nearer, it is nearest. -/
theorem RFmt.nearest_of_below (hf : f.Sane) (hx : x.n ≠ 0) (hb : f.below x = true) {F e : Int} (hF : |F| ≤ f.maxF) :
    Nearer x.val (f.outVal x) (F * 3 ^ (e - f.frac)) := by
  obtain ⟨-, hp, -, hlt⟩ := (f.below_iff hf x).1 hb
  have hu := f.ulp_pos x
  have hlow := f.ulp_lt_two_abs_val hf hx hp
  have hy := f.six_abs_outVal_of_below hf hx hb
  have hd : |f.outVal x - x.val| = |x.val| - |f.outVal x| := by
    rw [f.abs_outVal_sub hf, abs_sub_comm, abs_of_nonneg (by linarith)]
  by_cases he : e < f.place x
  · have hz := f.six_abs_grid_le hf hF he
    have hzx := (sub_abs_le_abs_sub x.val (F * 3 ^ (e - f.frac))).1
    exact nearer_of_le (by linarith) (by linarith)
  · obtain ⟨m, hm⟩ := f.grid_multiple (x := x) (F := F) (not_lt.1 he)
    rw [hm]
    obtain ⟨hxz, hzx⟩ := sub_abs_le_abs_sub x.val (m * f.ulp x)
    have habs : |(m : ℚ) * f.ulp x| = |(m : ℚ)| * f.ulp x := by rw [abs_mul, abs_of_pos hu]
    have hmin := f.two_minF
    refine .inl ?_
    obtain hle | hge : 2 * |m| ≤ f.half - 1 ∨ f.half + 1 ≤ 2 * |m| := by omega
    · have hle : 2 * |(m : ℚ)| ≤ f.half - 1 := by exact_mod_cast hle
      have := mul_le_mul_of_nonneg_right hle hu.le
      linarith
    · have hge : (f.half : ℚ) + 1 ≤ 2 * |(m : ℚ)| := by exact_mod_cast hge
      have := mul_le_mul_of_nonneg_right hge hu.le
      linarith

/-- Where it is not, the nearest fraction at the exponent of the normal form is. -/
theorem RFmt.nearest_of_not_below (hf : f.Sane) (hx : x.n ≠ 0) (hb : f.below x = false) {F e : Int} (hF : |F| ≤ f.maxF)
    (hmin : -f.lim ≤ e) : Nearer x.val (f.outVal x) (F * 3 ^ (e - f.frac)) := by
  have hu := f.ulp_pos x
  rw [RFmt.outVal_of_not_below hb]
  by_cases he : e < f.place x
  · have hlow := f.ulp_lt_two_abs_val hf hx (by omega)
    have hz := f.six_abs_grid_le hf hF he
    have hzx := (sub_abs_le_abs_sub x.val (F * 3 ^ (e - f.frac))).1
    have hnear := abs_lt.1 (lt_of_mul_lt_mul_left (a := (2 : ℚ)) (b := |(|f.fracNear x| : Int) * f.ulp x - (|x.val|)|)
      (c := f.ulp x / 2) (by linarith [f.two_abs_abs_fracNear_sub_lt x]) zero_le_two)
    have hy : |(f.fracNear x : ℚ) * f.ulp x| = (|f.fracNear x| : Int) * f.ulp x := f.abs_fracNear_mul_ulp x
    have htwo := f.two_minF
    have hge := RFmt.minF_le_abs_fracNear hf hx (by omega)
    have hg : (f.half + 1 : ℚ) * f.ulp x ≤ 2 * (|f.fracNear x| : Int) * f.ulp x := by
      have : f.half + 1 ≤ 2 * |f.fracNear x| := by omega
      exact mul_le_mul_of_nonneg_right (by exact_mod_cast this) hu.le
    refine nearer_of_le (le_trans ?_ hzx) (by linarith)
    rw [abs_sub_of_mul_nonneg (f.fracNear_sign x), hy, abs_le]
    refine ⟨by linarith, ?_⟩
    obtain hm | hm : |f.fracNear x| = f.minF ∨ f.minF + 1 ≤ |f.fracNear x| := by omega
    · have h2 : (2 * (|f.fracNear x| : Int) : ℚ) = f.half + 1 := by rw [hm]; exact_mod_cast htwo
      have h2u : 2 * (|f.fracNear x| : Int) * f.ulp x = (f.half + 1) * f.ulp x := by rw [h2]
      obtain hq | hq := RFmt.eq_or_le_of_not_below hf hx hb (by omega) hm
      · rw [hq] at hy
        linarith
      · linarith
    · have : f.half + 3 ≤ 2 * |f.fracNear x| := by omega
      have h3 : (f.half + 3 : ℚ) * f.ulp x ≤ 2 * (|f.fracNear x| : Int) * f.ulp x :=
        mul_le_mul_of_nonneg_right (by exact_mod_cast this) hu.le
      linarith
  · obtain ⟨m, hm⟩ := f.grid_multiple (x := x) (F := F) (not_lt.1 he)
    rw [hm]
    exact nearer_multiple hu (f.two_abs_fracNear_sub_lt x) m

/-- Rounding gives the grid value nearest to a fraction, of two that are equally near the greater in magnitude. -/
theorem RFmt.outVal_nearest (hf : f.Sane) (hx : x.n ≠ 0) {F e : Int} (hF : |F| ≤ f.maxF) (he : -f.lim ≤ e) :
    Nearer x.val (f.outVal x) (F * 3 ^ (e - f.frac)) := by
  cases hb : f.below x
  · exact f.nearest_of_not_below hf hx hb hF he
  · exact f.nearest_of_below hf hx hb hF

/-- What rounding gives is a grid value, with a leading trit above the lowest exponent. -/
theorem RFmt.out_onGrid (hf : f.Sane) (hx : x.n ≠ 0) :
    -f.lim ≤ f.outExp x ∧ |f.outFrac x| ≤ f.maxF ∧ (f.outExp x = -f.lim ∨ f.minF ≤ |f.outFrac x|) := by
  have hp : -f.lim ≤ f.place x := le_max_right _ _
  cases hb : f.below x
  · simp only [RFmt.outExp, RFmt.outFrac, hb]
    exact ⟨hp, f.abs_fracNear_le hf x, (eq_or_lt_of_le hp).imp Eq.symm (f.minF_le_abs_fracNear hf hx)⟩
  · have hlt := ((f.below_iff hf x).1 hb).2.1
    have h1 := f.two_minF; have h2 := f.two_maxF hf; have h3 := f.half_pos
    have habs : |sgn x.n * f.maxF| = f.maxF := by
      rw [abs_mul, abs_sgn_of_ne_zero hx, one_mul, abs_of_nonneg (by omega)]
    simp only [RFmt.outExp, RFmt.outFrac, hb, if_true, habs]
    exact ⟨by omega, le_rfl, .inr (by omega)⟩

/-- Rounding is inexact just when it changes the value (R135). -/
theorem RFmt.cuts_iff_outVal_ne (hf : f.Sane) (hx : x.n ≠ 0) : f.cuts x = true ↔ f.outVal x ≠ x.val := by
  cases hb : f.below x
  · rw [f.cuts_iff hx, f.outVal_of_not_below hb]
  · obtain ⟨-, hp, hm, hlt⟩ := (f.below_iff hf x).1 hb
    have hu := f.ulp_pos x
    have hlow := f.ulp_lt_two_abs_val hf hx hp
    have hy := f.six_abs_outVal_of_below hf hx hb
    have hF := f.abs_fracNear_mul_ulp x
    have h2 : (2 * (|f.fracNear x| : Int) : ℚ) = f.half + 1 := by rw [hm]; exact_mod_cast f.two_minF
    have h2u : 2 * (|f.fracNear x| : Int) * f.ulp x = (f.half + 1) * f.ulp x := by rw [h2]
    rw [f.cuts_iff hx]
    refine iff_of_true (fun h => ?_) (fun h => ?_)
    · rw [h] at hF; linarith
    · rw [h] at hy; linarith

/-- A fraction is tiny just when it is below the smallest normal (R135). -/
theorem RFmt.tiny_iff (hf : f.Sane) (hx : x.n ≠ 0) :
    f.tiny x.n x.k (x.k + tritLen x.n) = true ↔ |x.val| < f.minF * 3 ^ (-f.lim - f.frac) := by
  have hhalf := f.three_mul_half_mul hf (-f.lim)
  have hmin : 2 * (f.minF : ℚ) = f.half + 1 := by exact_mod_cast f.two_minF
  have hone : (1 : ℚ) ≤ f.half := by exact_mod_cast f.half_pos
  have hpos : (0 : ℚ) < 3 ^ (-f.lim - f.frac : Int) := by positivity
  have hsmall := le_mul_of_one_le_left hpos.le hone
  have h6 : 6 * (f.minF * (3 : ℚ) ^ (-f.lim - f.frac : Int)) = 3 ^ (-f.lim) + 3 * 3 ^ (-f.lim - f.frac : Int) := by
    rw [← hhalf]; linear_combination 3 * (3 : ℚ) ^ (-f.lim - f.frac : Int) * hmin
  unfold RFmt.tiny
  split_ifs with hlow hhigh
  · have h1 := x.two_abs_val_lt
    have h2 : (3 : ℚ) ^ (x.k + tritLen x.n + 1) ≤ 3 ^ (-f.lim) := zpow_le_zpow_right₀ (by norm_num) (by omega)
    rw [zpow_add_one₀ (by norm_num)] at h2
    exact iff_of_true rfl (by linarith)
  · have h1 := x.lt_two_abs_val hx
    have h2 : (3 : ℚ) ^ (-f.lim) ≤ 3 ^ (x.k + tritLen x.n - 1) := zpow_le_zpow_right₀ (by norm_num) (by omega)
    exact iff_of_false (by simp) (by linarith)
  · have hk : (0 : ℚ) < 3 ^ x.k := by positivity
    have hv : |x.val| = (x.n.natAbs : Int) * 3 ^ x.k := by
      rw [TFrac.val, abs_mul, abs_of_pos hk, Int.natCast_natAbs, Int.cast_abs]
    rw [hv]
    dsimp only
    split_ifs with hs
    · have hq : (3 : ℚ) ^ (-f.lim - f.frac : Int) = p3z (-f.lim - f.frac - x.k) * 3 ^ x.k := by
        rw [cast_p3z hs, ← zpow_add₀ (by norm_num), sub_add_cancel]
      rw [decide_eq_true_eq, hq, ← mul_assoc, mul_lt_mul_iff_left₀ hk]
      exact_mod_cast Iff.rfl
    · have hq : (3 : ℚ) ^ x.k = p3z (-(-f.lim - f.frac - x.k)) * 3 ^ (-f.lim - f.frac : Int) := by
        rw [cast_p3z (by omega), ← zpow_add₀ (by norm_num)]; congr 1; ring
      rw [decide_eq_true_eq, hq, ← mul_assoc, mul_lt_mul_iff_left₀ hpos]
      exact_mod_cast Iff.rfl

/-- What rounding gives is beyond the largest finite value just when its exponent is beyond the largest finite one. -/
theorem RFmt.outExp_big_iff (hf : f.Sane) (hx : x.n ≠ 0) :
    f.lim - 1 < f.outExp x ↔ (f.maxF : ℚ) * 3 ^ (f.lim - 1 - f.frac) < |f.outVal x| := by
  obtain ⟨-, hle, hge⟩ := f.out_onGrid hf hx
  have hlim := hf.lim_pos
  have hv : |f.outVal x| = (|f.outFrac x| : Int) * 3 ^ (f.outExp x - f.frac) := by
    have hpos : (0 : ℚ) < 3 ^ (f.outExp x - f.frac : Int) := by positivity
    rw [RFmt.outVal, abs_mul, abs_of_pos hpos, Int.cast_abs]
  have hmax : 2 * (f.maxF : ℚ) = 3 * f.half - 1 := by exact_mod_cast f.two_maxF hf
  have hpos : (0 : ℚ) < 3 ^ (f.lim - 1 - f.frac : Int) := by positivity
  rw [hv]
  refine ⟨fun hbig => ?_, fun h => ?_⟩
  · have hmin : f.half + 1 ≤ 2 * |f.outFrac x| := by have := f.two_minF; omega
    have hmin : (f.half + 1 : ℚ) ≤ 2 * (|f.outFrac x| : Int) := by exact_mod_cast hmin
    have hone : (1 : ℚ) ≤ f.half := by exact_mod_cast f.half_pos
    have hexp : (3 : ℚ) ^ (f.lim - 1 - f.frac + 1 : Int) ≤ 3 ^ (f.outExp x - f.frac : Int) :=
      zpow_le_zpow_right₀ (by norm_num) (by omega)
    rw [zpow_add_one₀ (by norm_num)] at hexp
    have hF : (0 : ℚ) ≤ (|f.outFrac x| : Int) := by exact_mod_cast abs_nonneg (f.outFrac x)
    calc (f.maxF : ℚ) * 3 ^ (f.lim - 1 - f.frac : Int)
        < 3 * (|f.outFrac x| : Int) * 3 ^ (f.lim - 1 - f.frac : Int) := by gcongr; linarith
      _ = (|f.outFrac x| : Int) * (3 ^ (f.lim - 1 - f.frac : Int) * 3) := by ring
      _ ≤ _ := by gcongr
  · by_contra hbig
    have hexp : (3 : ℚ) ^ (f.outExp x - f.frac : Int) ≤ 3 ^ (f.lim - 1 - f.frac : Int) :=
      zpow_le_zpow_right₀ (by norm_num) (by omega)
    have hF : ((|f.outFrac x| : Int) : ℚ) ≤ f.maxF := by exact_mod_cast hle
    have hmax0 : (0 : ℚ) ≤ f.maxF := by exact_mod_cast (abs_nonneg _).trans hle
    exact absurd h (not_lt.2 (by gcongr))

/-! ### Rounding a fraction once (R132, R135 to R137) -/

/-- Where rounding gives 0 its exponent is the lowest: the word of 0 is like every other. -/
theorem RFmt.word_out_of_outFrac_zero (hf : f.Sane) (hx : x.n ≠ 0) (h : f.outFrac x = 0) :
    f.outExp x = -f.lim ∧ f.zero = f.word (f.outExp x) (f.outFrac x) := by
  obtain ⟨-, -, he⟩ := f.out_onGrid hf hx
  have := f.minF_pos
  rw [h, abs_zero] at he
  have he : f.outExp x = -f.lim := by omega
  exact ⟨he, by rw [he, h]; rfl⟩

/-- Rounding, with the infinity that it gives or the word of its exponent and fraction. -/
theorem RFmt.rounded_eq (hf : f.Sane) (hx : x.n ≠ 0) :
    f.rounded x = if f.lim - 1 < f.outExp x
      then (f.inf (decide (x.n < 0)), ⟨false, true, f.tiny x.n x.k (x.k + tritLen x.n), true⟩)
      else (f.word (f.outExp x) (f.outFrac x),
        ⟨false, false, f.tiny x.n x.k (x.k + tritLen x.n) && f.cuts x, f.cuts x⟩) := by
  rw [RFmt.rounded, RFmt.round_eq hx]
  by_cases hz : f.outFrac x = 0
  · obtain ⟨he, hw⟩ := f.word_out_of_outFrac_zero hf hx hz
    have hlim := hf.lim_pos
    rw [if_pos hz, if_neg (by omega), hw]; rfl
  · rw [if_neg hz]
    split_ifs
    · simp [Rounded.flags]
    · rfl

theorem RFmt.rounded_of_zero (h : x.n = 0) : f.rounded x = quiet f.zero := by
  rw [RFmt.rounded, RFmt.round, if_pos h]; rfl

/-- A rational result that rounds a rational rounds it among the reals: the grid is rational. -/
theorem RFmt.roundsTo_of_rat {x y : ℚ} {r : RRes} {F e : Int} (hF : |F| ≤ f.maxF) (he : -f.lim ≤ e)
    (hy : y = F * 3 ^ (e - f.frac))
    (hnear : ∀ F e : Int, |F| ≤ f.maxF → -f.lim ≤ e → Nearer x y (F * 3 ^ (e - f.frac)))
    (hinv : r.2.inv = false) (hinx : r.2.inx = true ↔ y ≠ x ∨ (f.maxF : ℚ) * 3 ^ (f.lim - 1 - f.frac) < |y|)
    (hofl : r.2.ofl = true ↔ (f.maxF : ℚ) * 3 ^ (f.lim - 1 - f.frac) < |y|)
    (hufl : r.2.ufl = true ↔ y ≠ x ∧ |x| < f.minF * 3 ^ (-f.lim - f.frac))
    (hbig : (f.maxF : ℚ) * 3 ^ (f.lim - 1 - f.frac) < |y| → r.1 = f.inf (decide (x < 0)))
    (hfin : ¬ (f.maxF : ℚ) * 3 ^ (f.lim - 1 - f.frac) < |y| →
      f.Finite r.1 ∧ fits (f.frac + f.exp) r.1 = true ∧ f.unnormal r.1 = false ∧ f.value r.1 = y) :
    f.RoundsTo (x : ℝ) r := by
  have big : (f.maxF : ℝ) * 3 ^ (f.lim - 1 - f.frac) < |(y : ℝ)| ↔ (f.maxF : ℚ) * 3 ^ (f.lim - 1 - f.frac) < |y| := by
    rw [← Rat.cast_lt (K := ℝ)]; push_cast; rfl
  have ne : (y : ℝ) ≠ x ↔ y ≠ x := by exact_mod_cast Iff.rfl
  refine ⟨y, ⟨F, e, hF, he, by rw [hy]; push_cast; rfl⟩, ?_, hinv, ?_, ?_, ?_, ?_, ?_⟩
  · rintro z ⟨F', e', hF', he', rfl⟩
    have h := hnear F' e' hF' he'
    have hz : (F' : ℝ) * 3 ^ (e' - f.frac) = ((F' * 3 ^ (e' - f.frac) : ℚ) : ℝ) := by push_cast; rfl
    unfold Nearer at h
    rw [hz]
    exact_mod_cast h
  · rw [big, ne]; exact hinx
  · rw [big]; exact hofl
  · rw [ne, hufl]; exact and_congr_right fun _ => by rw [← Rat.cast_lt (K := ℝ)]; push_cast; rfl
  · rw [big]
    intro h
    rw [hbig h]
    congr 1
    exact decide_eq_decide.2 (by exact_mod_cast Iff.rfl)
  · rw [big]
    intro h
    obtain ⟨h1, h2, h3, h4⟩ := hfin h
    exact ⟨h1, h2, h3, by rw [h4]⟩

theorem TFrac.val_neg_iff (x : TFrac) : x.val < 0 ↔ x.n < 0 := by
  have hk : (0 : ℚ) < 3 ^ x.k := by positivity
  rw [TFrac.val, ← not_le, ← not_le, mul_nonneg_iff_of_pos_right hk, Int.cast_nonneg_iff]

/-- The word of a grid value whose exponent is finite is finite, in canonical form, and has its value (R131, R132). -/
theorem RFmt.word_of_onGrid (hf : f.Sane) {F e : Int} (hF : |F| ≤ f.maxF) (he : -f.lim ≤ e) (he' : e ≤ f.lim - 1)
    (hn : e = -f.lim ∨ f.minF ≤ |F|) :
    f.Finite (f.word e F) ∧ fits (f.frac + f.exp) (f.word e F) = true ∧ f.unnormal (f.word e F) = false ∧
      f.value (f.word e F) = F * 3 ^ (e - f.frac) := by
  have habs : |e| ≤ f.lim := abs_le.2 ⟨he, by omega⟩
  refine ⟨?_, f.fits_word hf habs hF, f.unnormal_word hf habs hF hn, f.value_word hf habs hF⟩
  rw [RFmt.Finite, f.expOf_word hf habs hF]; omega

/-- Rounding of 0 (R132). -/
theorem RFmt.roundsTo_rounded_of_zero (hf : f.Sane) (hx : x.n = 0) : f.RoundsTo (x.val : ℝ) (f.rounded x) := by
  have hlim := hf.lim_pos
  have hmax : (0 : ℚ) ≤ f.maxF := by exact_mod_cast maxTrits_nonneg f.frac
  have hnb : ¬ (f.maxF : ℚ) * 3 ^ (f.lim - 1 - f.frac) < |0| := by rw [abs_zero, not_lt]; positivity
  have h0 : |(0 : Int)| ≤ f.maxF := maxTrits_nonneg f.frac
  have hword := f.word_of_onGrid hf h0 le_rfl (by omega : -f.lim ≤ f.lim - 1) (.inl rfl)
  rw [Int.cast_zero, zero_mul] at hword
  have hclear : (quiet f.zero).2 = ⟨false, false, false, false⟩ := rfl
  rw [TFrac.val_of_zero hx, RFmt.rounded_of_zero hx]
  refine RFmt.roundsTo_of_rat (y := 0) h0 le_rfl (by simp) (fun F e _ _ => ?near) rfl ?inx ?ofl ?ufl
    (fun h => absurd h hnb) fun _ => hword
  case near =>
    by_cases hz : (F : ℚ) * 3 ^ (e - f.frac) = 0
    · rw [hz]; exact nearer_of_le le_rfl le_rfl
    · exact .inl (by simpa only [sub_zero, abs_zero, abs_pos] using hz)
  case inx => exact iff_of_false (by simp [hclear]) (not_or.2 ⟨not_not.2 rfl, hnb⟩)
  case ofl => exact iff_of_false (by simp [hclear]) hnb
  case ufl => exact iff_of_false (by simp [hclear]) fun h => h.1 rfl

/-- A fraction that is tiny is not beyond the largest finite value. -/
theorem RFmt.minF_bound_le_maxF_bound (hf : f.Sane) :
    (f.minF : ℚ) * 3 ^ (-f.lim - f.frac) ≤ f.maxF * 3 ^ (f.lim - 1 - f.frac) := by
  have hlim := hf.lim_pos
  have hle : f.minF ≤ f.maxF := by
    have h1 := f.two_minF; have h2 := f.two_maxF hf; have h3 := f.half_pos
    omega
  have hle : (f.minF : ℚ) ≤ f.maxF := by exact_mod_cast hle
  have hmax : (0 : ℚ) ≤ f.maxF := by exact_mod_cast maxTrits_nonneg f.frac
  have hexp : (3 : ℚ) ^ (-f.lim - f.frac) ≤ 3 ^ (f.lim - 1 - f.frac) := zpow_le_zpow_right₀ (by norm_num) (by omega)
  gcongr

/-- Rounding of a fraction other than 0: beyond the largest finite exponent it gives an infinity, else the word of the nearest
grid value (R132, R135 to R137). -/
theorem RFmt.roundsTo_rounded_of_ne_zero (hf : f.Sane) (hx : x.n ≠ 0) : f.RoundsTo (x.val : ℝ) (f.rounded x) := by
  obtain ⟨he, hF, hn⟩ := f.out_onGrid hf hx
  have big := f.outExp_big_iff hf hx
  have tiny := f.tiny_iff hf hx
  have cuts := f.cuts_iff_outVal_ne hf hx
  have near (F e : Int) (hF : |F| ≤ f.maxF) (he : -f.lim ≤ e) := f.outVal_nearest hf hx hF he
  rw [f.rounded_eq hf hx]
  by_cases hb : f.lim - 1 < f.outExp x
  · have hbig := big.1 hb
    have hchanged (ht : |x.val| < f.minF * 3 ^ (-f.lim - f.frac)) : f.outVal x ≠ x.val := by
      intro heq
      rw [heq] at hbig
      exact absurd hbig (not_lt.2 (ht.le.trans (f.minF_bound_le_maxF_bound hf)))
    rw [if_pos hb]
    refine RFmt.roundsTo_of_rat (y := f.outVal x) hF he rfl near rfl (iff_of_true rfl (.inr hbig)) (iff_of_true rfl hbig)
      (tiny.trans ⟨fun ht => ⟨hchanged ht, ht⟩, And.right⟩) (fun _ => ?_) fun h => absurd hbig h
    exact congrArg f.inf (decide_eq_decide.2 x.val_neg_iff.symm)
  · have hnb := big.not.1 hb
    rw [if_neg hb]
    refine RFmt.roundsTo_of_rat (y := f.outVal x) hF he rfl near rfl (cuts.trans (by simp [hnb]))
      (iff_of_false (by simp) hnb) ?_ (fun h => absurd h hnb) fun _ => f.word_of_onGrid hf hF he (by omega) hn
    rw [Bool.and_eq_true, tiny, cuts, and_comm]

/-- Rounding of an exact fraction is that of its value, once (R132, R135 to R137). -/
theorem RFmt.roundsTo_rounded (hf : f.Sane) (x : TFrac) : f.RoundsTo (x.val : ℝ) (f.rounded x) := by
  by_cases hx : x.n = 0
  · exact f.roundsTo_rounded_of_zero hf hx
  · exact f.roundsTo_rounded_of_ne_zero hf hx

end Sys2Proof.Machine

/-!
SUPPORT. What a conversion gives (R163), and how the real comparisons and FCVT write their results (R146, R157, R162).
-/

namespace Sys2Proof.Machine

/-! ### Operands by their class (R131) -/

section Operands
variable {f : RFmt} {w : Int}

theorem RFmt.read_of_finite (h : f.Finite w) : f.read w = .fin ⟨f.fracOf w, f.expOf w - f.frac⟩ := by
  simp [RFmt.read, show f.expOf w ≠ f.lim from h]

theorem RFmt.read_of_isNan (h : (f.read w).isNan = true) : f.read w = .nan w := by
  unfold RFmt.read at h ⊢
  dsimp only at h ⊢
  split_ifs at h ⊢ with hlim hpos hneg
  · simp [RVal.isNan] at h
  · simp [RVal.isNan] at h
  · rfl
  · simp [RVal.isNan] at h

theorem RFmt.read_inf (hf : f.Sane) (b : Bool) : f.read (f.inf b) = .inf b := by
  have hlim := hf.lim_pos
  have hpos := f.half_pos
  have hmax := f.two_maxF hf
  unfold RFmt.half at hpos hmax
  have he : |f.lim| ≤ f.lim := (abs_of_pos (by omega)).le
  have hF : |if b then -(p3 (f.frac - 1)) else p3 (f.frac - 1)| ≤ f.maxF := by
    cases b <;> simp only [if_true, Bool.false_eq_true, if_false, abs_neg, abs_of_pos hpos] <;> omega
  rw [RFmt.read, RFmt.inf, f.expOf_word hf he hF, f.fracOf_word hf hF]
  cases b
  · simp
  · have : -(p3 (f.frac - 1)) ≠ p3 (f.frac - 1) := by omega
    simp [this]

end Operands

/-! ### Conversion (R163) -/

theorem realFmt_of_integer {x : Fmt} (h : x ≠ .tf9 ∧ x ≠ .tf27) : realFmt x = none := by
  unfold realFmt
  split
  · exact absurd rfl h.1
  · exact absurd rfl h.2
  · rfl

theorem realFmt_of_mem {x : Fmt} {d : Fmt × RFmt} (h : d ∈ [(Fmt.tf9, tf9), (Fmt.tf27, tf27)]) (hd : d.1 = x) :
    realFmt x = some d.2 ∧ d.2.Sane := by
  subst hd
  obtain rfl | rfl := List.mem_pair.1 h
  · exact ⟨rfl, sane_tf9⟩
  · exact ⟨rfl, sane_tf27⟩

section Convert
variable {dst src : Fmt} {scale v : Int} {s d : RFmt}

theorem convert_integer_integer (hs : realFmt src = none) (hd : realFmt dst = none) : convert dst src scale v =
    quiet (sat (fmtTrits dst) (if 0 ≤ scale then v * p3z scale else trunc (-scale).toNat v)) := by
  simp only [convert, hs, hd]

theorem convert_integer_real (hs : realFmt src = none) (hd : realFmt dst = some d) :
    convert dst src scale v = d.rounded ⟨v, scale⟩ := by
  simp only [convert, hs, hd]

theorem convert_finite_real (hs : realFmt src = some s) (hd : realFmt dst = some d) (hv : s.Finite v) :
    convert dst src scale v = d.rounded (TFrac.scale ⟨s.fracOf v, s.expOf v - s.frac⟩ scale) := by
  simp only [convert, hs, hd, RFmt.read_of_finite hv]

theorem convert_inf_real {b : Bool} (hs : realFmt src = some s) (hd : realFmt dst = some d) (hv : s.read v = .inf b) :
    convert dst src scale v = quiet (d.inf b) := by
  simp only [convert, hs, hd, hv]

theorem convert_nan_real (hs : realFmt src = some s) (hd : realFmt dst = some d) (hv : (s.read v).isNan = true) :
    convert dst src scale v = quiet (nanTo d s v) := by
  simp only [convert, hs, hd, RFmt.read_of_isNan hv]

theorem convert_finite_integer (hs : realFmt src = some s) (hd : realFmt dst = none) (hv : s.Finite v) :
    convert dst src scale v =
      toInteger (fmtTrits dst) (.fin (TFrac.scale ⟨s.fracOf v, s.expOf v - s.frac⟩ scale)) := by
  simp only [convert, hs, hd, RFmt.read_of_finite hv]

theorem convert_inf_integer {b : Bool} (hs : realFmt src = some s) (hd : realFmt dst = none) (hv : s.read v = .inf b) :
    convert dst src scale v = invalid (if b then -(maxTrits (fmtTrits dst)) else maxTrits (fmtTrits dst)) := by
  simp only [convert, hs, hd, hv, toInteger]

theorem convert_nan_integer (hs : realFmt src = some s) (hd : realFmt dst = none) (hv : (s.read v).isNan = true) :
    convert dst src scale v = invalid 0 := by
  simp only [convert, hs, hd, RFmt.read_of_isNan hv, toInteger]

/-- The exact product that a finite value is converted to. -/
theorem val_scale_read (s : RFmt) (v scale : Int) :
    (TFrac.scale ⟨s.fracOf v, s.expOf v - s.frac⟩ scale).val = s.value v * 3 ^ scale := TFrac.val_scale _ _

end Convert

/-- A conversion to an integer: the nearest integer where it fits, marked inexact where it is not the value (R163). -/
theorem toInteger_fin (w : Nat) (x : TFrac) : toInteger w (.fin x) =
    if |x.nearest| ≤ maxTrits w
    then (x.nearest, { RealFlags.clear with inx := decide ((x.nearest : ℚ) ≠ x.val) })
    else invalid (sat w x.nearest) := by
  have hfits : fits w x.nearest = true ↔ |x.nearest| ≤ maxTrits w := by rw [fits_iff, abs_le]
  have hinx : (!(x.isInt x.nearest)) = decide ((x.nearest : ℚ) ≠ x.val) := by
    rw [Bool.eq_iff_iff, decide_eq_true_eq, Ne, ← x.isInt_iff]; simp
  simp only [toInteger, hfits, hinx]

theorem nanTo_self (d : RFmt) (w : Int) : nanTo d d w = w := if_pos rfl

/-- A NaN of TF9 keeps its payload as the highest trits of the fraction of TF27 (R163). -/
theorem nanTo_tf27_tf9 (w : Int) : trits (nanTo tf27 tf9 w) 26 21 = 364 ∧
    trits (nanTo tf27 tf9 w) 20 15 = trits w 5 0 ∧ trits (nanTo tf27 tf9 w) 14 0 = 0 := by
  have hF : fits 6 (trits w 5 0) = true := fits_wrap 6 _
  have hc : nanTo tf27 tf9 w = 0 + p3 15 * (trits w 5 0 + p3 6 * 364) := by
    have : nanTo tf27 tf9 w = 364 * p3 21 + trits w 5 0 * p3 15 := rfl
    rw [this, show p3 21 = p3 15 * p3 6 from p3_add 15 6]; ring
  have h15 : trunc 15 (nanTo tf27 tf9 w) = trits w 5 0 + p3 6 * 364 := by rw [hc, trunc_add_mul _ (fits_zero 15)]
  refine ⟨?_, ?_, ?_⟩
  · change wrap 6 (trunc (15 + 6) _) = 364
    rw [← trunc_trunc, h15, trunc_add_mul _ hF]; decide
  · change wrap 6 (trunc 15 _) = _
    rw [h15, wrap_add_mul _ hF]
  · change wrap 15 (trunc 0 _) = _
    rw [trunc_zero, hc, wrap_add_mul _ (fits_zero 15)]

/-- A NaN of TF27 keeps the highest trits of its fraction, or becomes the default NaN where those are an infinity's
(R163). -/
theorem nanTo_tf9_tf27 (w : Int) : if |trits w 20 15| = 243 then nanTo tf9 tf27 w = tf9.nan
    else trits (nanTo tf9 tf27 w) 8 6 = 13 ∧ trits (nanTo tf9 tf27 w) 5 0 = trits w 20 15 := by
  have hp : fits 6 (trits w 20 15) = true := fits_wrap 6 _
  have hcase : |trits w 20 15| = 243 ↔ trits w 20 15 = 243 ∨ trits w 20 15 = -243 := abs_eq (by norm_num)
  have hn : nanTo tf9 tf27 w = if trits w 20 15 = 243 ∨ trits w 20 15 = -243 then tf9.nan
      else tf9.word 13 (trits w 20 15) := rfl
  by_cases h : trits w 20 15 = 243 ∨ trits w 20 15 = -243
  · rw [if_pos (hcase.2 h), hn, if_pos h]
  · have hw : tf9.word 13 (trits w 20 15) = trits w 20 15 + p3 6 * 13 := RFmt.word_eq tf9 _ _
    rw [if_neg (hcase.not.2 h), hn, if_neg h, hw]
    constructor
    · change wrap 3 (trunc 6 _) = 13
      rw [trunc_add_mul _ hp]; decide
    · change wrap 6 (trunc 0 _) = _
      rw [trunc_zero, wrap_add_mul _ hp]

/-! ### Writing real results (R146, R150, R157, R162) -/

theorem RealFlags.or_clear (a : RealFlags) : a.or RealFlags.clear = a := by
  simp [RealFlags.or, RealFlags.clear]

theorem RealFlags.or_assoc (a b c : RealFlags) : (a.or b).or c = a.or (b.or c) := by
  simp [RealFlags.or, Bool.or_assoc]

/-- Raising the union of some flags raises each of them in turn. -/
theorem RealFlags.or_any (a : RealFlags) (l : List RealFlags) : a.or (RealFlags.any l) = l.foldl RealFlags.or a := by
  have shift (b : RealFlags) : a.or (l.foldl RealFlags.or b) = l.foldl RealFlags.or (a.or b) := by
    induction l generalizing b with
    | nil => rfl
    | cons c l ih => rw [List.foldl_cons, ih, List.foldl_cons, RealFlags.or_assoc]
  rw [RealFlags.any, shift, RealFlags.or_clear]

section Writes
variable {t : Thread}

theorem Thread.gotG_writeG_raise {d : Nat} {v : Int} (h : d < t.g.length) (fl : RealFlags) :
    ((t.writeG d v).raise fl).advance.GotG d v := by
  simp [Thread.GotG, Thread.readG_writeG t h]

theorem Thread.gotC_writeC_raise {d : Nat} {v : Trit} (h : d < t.c.length) (fl : RealFlags) :
    ((t.writeC d v).raise fl).advance.GotC d v := by
  simp [Thread.GotC, Thread.readC_writeC t h]

theorem Thread.frame_writeG_raise (t : Thread) (d : Nat) (v : Int) (fl : RealFlags) :
    t.Frame [gUse d] ((t.writeG d v).raise fl).advance := by
  refine ⟨by simp, fun i hi => ?_, by simp, by simp, by simp, by simp, by simp, by simp, by simp⟩
  rw [Thread.advance_readG, Thread.raise_readG]
  exact Thread.readG_writeG_ne t v (by simpa [gUse_inj] using hi)

theorem Thread.frame_writeC_raise (t : Thread) (d : Nat) (v : Trit) (fl : RealFlags) :
    t.Frame [cUse d] ((t.writeC d v).raise fl).advance := by
  refine ⟨by simp, by simp, by simp, fun i hi => ?_, by simp, by simp, by simp, by simp, by simp⟩
  rw [Thread.advance_readC, Thread.raise_readC]
  exact Thread.readC_writeC_ne t v (by simpa [cUse_inj] using hi)

/-- Two condition registers written in order change those two alone. -/
theorem Thread.keeps_writeC_writeC (t : Thread) (d e : Nat) (v w : Trit) :
    t.Keeps [cUse d, cUse e] ((t.writeC d v).writeC e w).advance := by
  refine ⟨⟨by simp, by simp, by simp, fun i hi => ?_, by simp, by simp, by simp, by simp, by simp⟩, by simp⟩
  obtain ⟨hd, he⟩ : i ≠ d ∧ i ≠ e := by simpa [cUse_inj] using hi
  rw [Thread.advance_readC, Thread.readC_writeC_ne _ w he, Thread.readC_writeC_ne t v hd]

/-- Of two condition registers written in order the second has its value, and the first where it is another. -/
theorem Thread.gotC_writeC_writeC {d e : Nat} {v w : Trit} (hs : t.Sized) (hd : d < t.c.length) (he : e < t.c.length) :
    (d ≠ e → ((t.writeC d v).writeC e w).advance.GotC d v) ∧ ((t.writeC d v).writeC e w).advance.GotC e w := by
  have he' : e < (t.writeC d v).c.length := by rw [(hs.writeC d v).c, ← hs.c]; exact he
  refine ⟨fun hne => ?_, Thread.gotC_writeC he'⟩
  rw [Thread.GotC, Thread.advance_readC, Thread.readC_writeC_ne _ w hne]
  simp [Thread.readC_writeC t hd]

/-- What putReal writes of computed elements. -/
theorem putReal_post {sh : Shape} {d : Nat} {f : Thread → Nat → RRes} (hs : t.Sized) (ho : t.owns (gUse d) = true) :
    let l := (List.range (elemCount sh)).map (f t)
    PutReal sh d f t ((t.writeG d (packElems sh (l.map Prod.fst))).raise (RealFlags.any (l.map Prod.snd))).advance := by
  intro l
  refine ⟨?_, ?_, Thread.frame_writeG_raise t d _ _, Thread.goesOn_advance (by simp) (by simp) (by simp) (by simp)⟩
  · have : (List.range (elemCount sh)).map (fun k => (f t k).1) = l.map Prod.fst := by rw [List.map_map]; rfl
    rw [this]
    exact Thread.gotG_writeG_raise (Thread.owns_g hs ho) _
  · have : ((t.writeG d (packElems sh (l.map Prod.fst))).raise (RealFlags.any (l.map Prod.snd))).advance.flags =
        t.flags.or (RealFlags.any (l.map Prod.snd)) := by simp [Thread.raise]
    rw [this, RealFlags.or_any, List.map_map, List.foldl_map]; rfl

end Writes

/-- An instruction that computes real elements writes them and raises their flags on every lane. -/
theorem State.runLocal_putReal {s : State} {gd : Guard} {uses : List RegUse} {sh : Shape} {d : Nat}
    {f : Thread → Nat → RRes} {g : Thread → Except Cause Thread} (hr : s.Ready gd uses) (hd : gUse d ∈ uses)
    (hg : ∀ t, g t = t.putReal d sh ((List.range (elemCount sh)).map (f t))) :
    ∃ F : Thread → Thread, s.runLocal gd uses g = .next { s with threads := s.threads.map F } ∧
      ∀ t ∈ s.threads, (t.id ∉ s.members → F t = t) ∧
        (t.id ∈ s.members → t.Passes gd → F t = t.advance) ∧
          (t.id ∈ s.members → ¬ t.Passes gd → PutReal sh d f t (F t)) :=
  State.runLocal_completes hr fun t _ _ _ hs ho hn =>
    ⟨_, hg t, by simp [hn], putReal_post hs (List.all_eq_true.1 ho _ hd)⟩

/-! ### FCMP and FCVT -/

/-- An instruction whose effect is confined to its thread completes when its part is defined on every lane. -/
theorem completes_of_runLocal {i : Instr} {gd : Guard} {uses : List RegUse} {f : Thread → Except Cause Thread}
    {Post : Thread → Thread → Prop} {s : State} (hr : s.Ready gd uses) (he : exec i s = s.runLocal gd uses f)
    (h : ∀ t : Thread, t.Sized → uses.all t.owns = true → t.failed = none →
      ∃ t', f t = .ok t' ∧ t'.failed = none ∧ Post t t') : Completes i gd Post s := by
  unfold Completes; rw [he]
  exact State.runLocal_completes hr fun t _ _ _ => h t

theorem unordered_iff (x y : Int) :
    unordered x y = true ↔ (tf27.read x).isNan = true ∨ (tf27.read y).isNan = true := by simp [unordered]

/-- FCMP on every lane: the order or 0, and INV where the operands are unordered (R157). -/
theorem fcmp_completes {gd : Guard} {d b c : Nat} {s : State} (hr : s.Ready gd [cUse d, gUse b, gUse c]) :
    Completes (.fcmp gd d b c) gd (fun t t' =>
      t'.GotC d (if unordered (t.readG b) (t.readG c) then .zero else realSign (t.readG b) (t.readG c)) ∧
      t.Frame [cUse d] t' ∧ t.GoesOn t' ∧
      t'.flags = { t.flags with inv := t.flags.inv || unordered (t.readG b) (t.readG c) }) s := by
  refine completes_of_runLocal hr rfl fun t hs ho hn => ?_
  have hd := Thread.owns_c hs (List.all_eq_true.1 ho (cUse d) (by simp))
  by_cases hu : unordered (t.readG b) (t.readG c) = true
  · rw [if_pos hu, if_pos hu, hu]
    exact ⟨_, rfl, by simp [hn], Thread.gotC_writeC_raise hd _, Thread.frame_writeC_raise t d _ _,
      Thread.goesOn_advance (by simp) (by simp) (by simp) (by simp),
      by simp [Thread.raise, RealFlags.or, RealFlags.clear]⟩
  · rw [if_neg hu, if_neg hu, Bool.eq_false_iff.2 hu]
    obtain ⟨hframe, hflags⟩ := Thread.keeps_writeC t d (realSign (t.readG b) (t.readG c))
    exact ⟨_, rfl, by simp [hn], Thread.gotC_writeC hd, hframe,
      Thread.goesOn_advance (by simp) (by simp) (by simp) (by simp), by rw [hflags, Bool.or_false]⟩

/-- FCMP.q on every lane: the order or 0, and whether the operands are ordered (R157). -/
theorem fcmpQ_completes {gd : Guard} {d b c e : Nat} {s : State}
    (hr : s.Ready gd [cUse d, gUse b, gUse c, cUse e]) :
    Completes (.fcmpQ gd d b c e) gd (fun t t' =>
      (d ≠ e → t'.GotC d (if unordered (t.readG b) (t.readG c) then .zero else realSign (t.readG b) (t.readG c))) ∧
      t'.GotC e (if unordered (t.readG b) (t.readG c) then .pos else .neg) ∧
      t.Keeps [cUse d, cUse e] t' ∧ t.GoesOn t') s := by
  refine completes_of_runLocal hr rfl fun t hs ho hn => ?_
  have hd := Thread.owns_c hs (List.all_eq_true.1 ho (cUse d) (by simp))
  have he := Thread.owns_c hs (List.all_eq_true.1 ho (cUse e) (by simp))
  have hstep (v w : Trit) := Thread.gotC_writeC_writeC (v := v) (w := w) hs hd he
  split
  · exact ⟨_, rfl, by simp [hn], (hstep _ _).1, (hstep _ _).2, Thread.keeps_writeC_writeC t d e _ _,
      Thread.goesOn_advance (by simp) (by simp) (by simp) (by simp)⟩
  · exact ⟨_, rfl, by simp [hn], (hstep _ _).1, (hstep _ _).2, Thread.keeps_writeC_writeC t d e _ _,
      Thread.goesOn_advance (by simp) (by simp) (by simp) (by simp)⟩

/-- FCVT of the three trytes (R162). -/
theorem fcvt_trytes_completes {gd : Guard} {k d b : Nat} {dst src : Fmt} {scale : Int} {s : State}
    (hr : s.Ready gd [gUse d, gUse b]) :
    Completes (.fcvt gd .trytes k d b dst src scale) gd
      (PutReal .trytes d fun t j => convert dst src scale (elem .trytes (t.readG b) j)) s :=
  State.runLocal_putReal hr (by simp) fun t => by rw [elems, List.map_map]; rfl

/-- FCVT of one tryte or word: the other trytes of gd stay where the destination is a tryte (R162). -/
theorem fcvt_word_completes {gd : Guard} {k d b : Nat} {dst src : Fmt} {scale : Int} {s : State}
    (hr : s.Ready gd [gUse d, gUse b]) :
    Completes (.fcvt gd .word k d b dst src scale) gd (fun t t' =>
      let r := convert dst src scale (if src.narrow then elem .trytes (t.readG b) k else t.readG b)
      t'.GotG d (if dst.narrow then packElems .trytes
        ((List.range 3).map fun j => if j = k then r.1 else elem .trytes (t.readG d) j) else r.1) ∧
      t'.flags = t.flags.or r.2 ∧ t.Frame [gUse d] t' ∧ t.GoesOn t') s := by
  refine completes_of_runLocal hr rfl fun t hs ho hn => ?_
  have hset (v : Int) : (elems .trytes (t.readG d)).set k v =
      (List.range 3).map fun j => if j = k then v else elem .trytes (t.readG d) j := by
    refine List.ext_getElem (by simp [elems, elemCount]) fun j _ _ => ?_
    simp [elems, List.getElem_set, eq_comm]
  refine ⟨_, rfl, by simp [hn], ?_, by simp [Thread.raise], Thread.frame_writeG_raise t d _ _,
    Thread.goesOn_advance (by simp) (by simp) (by simp) (by simp)⟩
  rw [hset]
  exact Thread.gotG_writeG_raise (Thread.owns_g hs (List.all_eq_true.1 ho _ (by simp))) _

/-! ### The statement -/

/-- The sign of an exact difference as a trit (R157). -/
theorem realSign_eq (x y : Int) : realSign x y = if (tf27.read x).cmp (tf27.read y) < 0 then .neg
    else if (tf27.read x).cmp (tf27.read y) = 0 then .zero else .pos := rfl

/-- What a conversion of a real value to a real format gives (R163). -/
theorem convert_real_real {src dst : Fmt} {s d : RFmt} {scale v : Int} (hs : realFmt src = some s)
    (hss : s.Sane) (hd : realFmt dst = some d) (hds : d.Sane) :
    (s.Finite v → d.RoundsTo (s.value v * 3 ^ scale) (convert dst src scale v)) ∧
      (∀ b, v = s.inf b → convert dst src scale v = (d.inf b, ⟨false, false, false, false⟩)) ∧
      ((s.read v).isNan = true → (convert dst src scale v).2 = ⟨false, false, false, false⟩ ∧
        (convert dst src scale v).1 = nanTo d s v) := by
  refine ⟨fun hv => ?_, fun b hv => ?_, fun hv => ?_⟩
  · rw [convert_finite_real hs hd hv]
    have h := d.roundsTo_rounded hds (TFrac.scale ⟨s.fracOf v, s.expOf v - s.frac⟩ scale)
    rw [val_scale_read] at h
    push_cast at h
    exact h
  · subst hv
    rw [convert_inf_real hs hd (s.read_inf hss b)]; rfl
  · rw [convert_nan_real hs hd hv]
    exact ⟨rfl, rfl⟩

/-- What a conversion of a real value to an integer gives (R163). -/
theorem convert_real_integer {src dst : Fmt} {s : RFmt} {scale v : Int} (hs : realFmt src = some s)
    (hss : s.Sane) (hd : realFmt dst = none) :
    (s.Finite v → ∃ y : Int, |(y : ℚ) - s.value v * 3 ^ scale| < 1 / 2 ∧ convert dst src scale v =
      if |y| ≤ maxTrits (fmtTrits dst)
      then (y, { RealFlags.clear with inx := decide ((y : ℚ) ≠ s.value v * 3 ^ scale) })
      else invalid (sat (fmtTrits dst) y)) ∧
    (∀ b, v = s.inf b → convert dst src scale v =
      invalid (if b then -maxTrits (fmtTrits dst) else maxTrits (fmtTrits dst))) ∧
    ((s.read v).isNan = true → convert dst src scale v = invalid 0) := by
  refine ⟨fun hv => ?_, fun b hv => ?_, convert_nan_integer hs hd⟩
  · have hnear := TFrac.two_abs_nearest_sub_lt (TFrac.scale ⟨s.fracOf v, s.expOf v - s.frac⟩ scale)
    have hint := toInteger_fin (fmtTrits dst) (TFrac.scale ⟨s.fracOf v, s.expOf v - s.frac⟩ scale)
    rw [val_scale_read] at hnear hint
    refine ⟨_, ?_, (convert_finite_integer hs hd hv).trans hint⟩
    linarith
  · subst hv
    exact convert_inf_integer hs hd (s.read_inf hss b)

/-- Settles O22: a conversion by the classes of its formats and its operand, through rounding once; the instructions by
what they write on each lane. -/
theorem realCompareAndConvertResults : Obligations.RealCompareAndConvertResults := by
  unfold Obligations.RealCompareAndConvertResults
  refine ⟨?conversion, ?instructions⟩
  case conversion =>
    intro dst src scale v c reals integer w max none inv
    refine ⟨fun hs hd => ?_, fun hs d hd hdst => ?_, fun q hq hsrc d hd hdst => ?_, fun q hq hsrc hd => ?_⟩
    · exact convert_integer_integer (realFmt_of_integer hs) (realFmt_of_integer hd)
    · obtain ⟨hreal, hsane⟩ := realFmt_of_mem hd hdst
      have h := d.2.roundsTo_rounded hsane ⟨v, scale⟩
      rw [← convert_integer_real (realFmt_of_integer hs) hreal] at h
      rw [TFrac.val] at h
      push_cast at h
      exact h
    · obtain ⟨hreals, hsanes⟩ := realFmt_of_mem hq hsrc
      obtain ⟨hreald, hsaned⟩ := realFmt_of_mem hd hdst
      obtain ⟨hfin, hinf, hnan⟩ := convert_real_real (v := v) (scale := scale) hreals hsanes hreald hsaned
      refine ⟨hfin, hinf, fun hv => ?_⟩
      obtain ⟨hflags, hword⟩ := hnan hv
      have format {x : Fmt} {f g : RFmt} (h : realFmt x = some f) (hg : realFmt x = some g) : f = g :=
        Option.some.inj (h.symm.trans hg)
      refine ⟨hflags, fun e => ?_, fun es ed => ?_, fun es ed => ?_⟩
      · subst e
        rw [hword, format hreals hreald, nanTo_self]
      · subst es ed
        rw [hword, format hreals rfl, format hreald rfl]; exact nanTo_tf27_tf9 v
      · subst es ed
        rw [hword, format hreals rfl, format hreald rfl]; exact nanTo_tf9_tf27 v
    · obtain ⟨hreals, hsanes⟩ := realFmt_of_mem hq hsrc
      exact convert_real_integer hreals hsanes (realFmt_of_integer hd)
  case instructions =>
    intro gd d b c e k dst src scale s nan order read
    have horder (t : Thread) : order t =
        if unordered (t.readG b) (t.readG c) then .zero else realSign (t.readG b) (t.readG c) := by
      simp only [order, nan, realSign_eq, unordered_iff]
    refine ⟨fun hr => ?_, fun hr => ?_, fun hr _ => ⟨fcvt_trytes_completes hr, fcvt_word_completes hr⟩⟩
    · have hnan (t : Thread) : decide (nan (t.readG b) ∨ nan (t.readG c)) = unordered (t.readG b) (t.readG c) := by
        rw [Bool.eq_iff_iff, decide_eq_true_eq, unordered_iff]
      simp only [horder, hnan]
      exact fcmp_completes hr
    · simp only [horder]
      simp only [nan, ← unordered_iff]
      exact fcmpQ_completes hr

end Sys2Proof.Machine

/-!
SUPPORT. Power and clocks: what an evaluation, a write of FCTL, a governed step, a frequency step and the end of a relock
make of a die, and how far time passes (R205, R366, R436 to R440).
-/

namespace Sys2Proof.Machine

/-! ### Rounded quotients (R21, R26) -/

theorem sgn_mul_natAbs (a : Int) : sgn a * (a.natAbs : Int) = a := by
  unfold sgn; split_ifs <;> omega

theorem abs_sgn_le (a : Int) : |sgn a| ≤ 1 := by
  unfold sgn; split_ifs <;> simp

/-- A rounded quotient is within half a divisor of its dividend. -/
theorem two_abs_divq_mul_sub_le (a : Int) {b : Int} (hb : 0 < b) : 2 * |divq a b * b - a| ≤ b := by
  obtain ⟨q, hq⟩ : ∃ q, q = (2 * (a.natAbs : Int) + b - 1) / (2 * b) := ⟨_, rfl⟩
  have hd : divq a b = sgn a * q := by
    have hs : sgn b = 1 := by simp [sgn, hb.not_gt, hb.ne']
    have hn : (b.natAbs : Int) = b := by omega
    rw [divq, hs, hn, ← hq, mul_one]
  have h1 : 2 * (q * b) ≤ 2 * (a.natAbs : Int) + b - 1 := by
    have := Int.ediv_mul_le (2 * (a.natAbs : Int) + b - 1) (by omega : 2 * b ≠ 0)
    rw [← hq] at this; linarith
  have h2 : 2 * (a.natAbs : Int) + b - 1 < 2 * (q * b) + 2 * b := by
    have := Int.lt_ediv_add_one_mul_self (2 * (a.natAbs : Int) + b - 1) (by omega : 0 < 2 * b)
    rw [← hq] at this; linarith
  calc 2 * |divq a b * b - a|
      = 2 * (|sgn a| * |q * b - a.natAbs|) := by rw [hd, ← abs_mul, mul_sub, sgn_mul_natAbs, mul_assoc]
    _ ≤ 2 * |q * b - a.natAbs| := by linarith [mul_le_of_le_one_left (abs_nonneg (q * b - a.natAbs)) (abs_sgn_le a)]
    _ ≤ b := by obtain ⟨h, -⟩ | ⟨h, -⟩ := abs_cases (q * b - (a.natAbs : Int)) <;> omega

/-! ### How far time passes (R205, R436, R438, R440) -/

/-- The least of some numbers and a bound is at most each of them. -/
theorem foldl_min_le (l : List Nat) (a : Nat) : l.foldl min a ≤ a ∧ ∀ x ∈ l, l.foldl min a ≤ x := by
  induction l generalizing a with
  | nil => simp
  | cons b l ih =>
    obtain ⟨hstart, hmem⟩ := ih (min a b)
    rw [List.foldl_cons]
    exact ⟨hstart.trans (min_le_left a b), List.forall_mem_cons.2 ⟨hstart.trans (min_le_right a b), hmem⟩⟩

theorem State.evalDue_iff (s : State) : s.evalDue = true ↔ s.evals ≠ s.reftime / 100 := by
  simp [State.evalDue]

/-- An evaluation that is due, or a relock that is over, is a step that is due. -/
theorem State.dueStep_ne_none {s : State} (h : s.evalDue = true ∨ ∃ d ∈ s.dies, d.relocked = true) :
    s.dueStep ≠ none := by
  unfold State.dueStep
  by_cases hr : s.dies.any Die.relocked = true
  · simp [hr]
  · obtain h | ⟨d, hd, hover⟩ := h
    · simp [hr, h]
    · exact absurd (List.any_eq_true.2 ⟨d, hd, hover⟩) hr

theorem State.passing_of_due {s : State} (h : s.dueStep ≠ none) : s.passing = 0 := by
  simp [State.passing, Option.isSome_iff_ne_none.2 h]

theorem State.passing_le_untilDue (s : State) : s.passing ≤ s.untilDue := by
  unfold State.passing
  split
  · exact Nat.zero_le _
  · exact min_le_right _ _

/-- Time does not pass a multiple of 100 ticks (R205). -/
theorem State.fine_add_passing_le {s : State} (h : s.fine < Config.tickUnits) :
    s.fine + s.passing ≤ (100 - (s.reftime % 100).toNat) * Config.tickUnits := by
  have hp : s.passing ≤ _ := s.passing_le_untilDue.trans (foldl_min_le _ _).1
  have hone : 1 * Config.tickUnits ≤ (100 - (s.reftime % 100).toNat) * Config.tickUnits :=
    Nat.mul_le_mul_right _ (by omega)
  omega

/-- Time does not pass the end of a relock (R438). -/
theorem State.passing_le_left {s : State} {d : Die} (hd : d ∈ s.dies) (hr : d.relock = true) : s.passing ≤ d.left :=
  s.passing_le_untilDue.trans
    ((foldl_min_le _ _).2 _ (List.mem_map_of_mem (List.mem_filter.2 ⟨hd, hr⟩)))

/-- N cycles take 2/3 of a tick, since 27,720 is a multiple of every frequency code (R436, R440). -/
theorem cycleUnits_mul {step : Int} (h1 : 1 ≤ step) (h9 : step ≤ 9) :
    3 * (cycleUnits step * (step + 3).toNat) = 2 * Config.tickUnits := by
  interval_cases step <;> rfl

theorem cycleUnits_pos {step : Int} (h1 : 1 ≤ step) (h9 : step ≤ 9) : 0 < cycleUnits step := by
  interval_cases step <;> decide

/-- A die that relocks counts no cycle (R438). -/
theorem Die.pass_of_relock {d : Die} (h : d.relock = true) (n : Nat) : d.pass n = { d with left := d.left - n } := by
  simp [Die.pass, h]

/-- A clock that runs counts its whole cycles and keeps the rest (R436). -/
theorem Die.pass_of_running {d : Die} (h : d.relock = false) (n : Nat) :
    d.pass n = { d with
      cycles := wrap 54 (d.cycles + ((d.phase + n) / cycleUnits d.step : Nat))
      phase := (d.phase + n) % cycleUnits d.step } := by
  simp [Die.pass, h]

/-! ### Evaluations (R205, R366, R437) -/

/-- Counting an evaluation changes the count alone. -/
theorem Die.countEval_eq (d : Die) (sign : Int) : d.countEval sign =
    { d with evalSign := (d.countEval sign).evalSign, evalCount := (d.countEval sign).evalCount } := by
  unfold Die.countEval; split_ifs <;> rfl

/-- The count of consecutive evaluations of one sign (R437). -/
theorem Die.countEval_count (d : Die) (sign : Int) :
    ((d.countEval sign).evalSign, (d.countEval sign).evalCount) =
      if d.relock then (d.evalSign, d.evalCount) else if sign = 0 then (0, 0)
        else if sign = d.evalSign then (d.evalSign, d.evalCount + 1) else (sign, 1) := by
  unfold Die.countEval; split_ifs <;> rfl

/-- An evaluation changes the measured energy, the headroom, the rate and the count (R205, R437). -/
theorem Die.evaluate_eq (d : Die) (energy : Nat) :
    let emeas := sat 54 (d.emeas + energy)
    let h := d.ebudget - (emeas - d.emeas)
    let sign := headroomOf h d.ebudget
    d.evaluate energy = { d with
      emeas := emeas, h := h, headroom := sign
      rate := if sign < 0 then max 1 (d.rate - 1) else if sign = 0 then d.rate else min 9 (d.rate + 1)
      evalSign := (d.evaluate energy).evalSign, evalCount := (d.evaluate energy).evalCount } :=
  Die.countEval_eq _ _

/-- The headroom and the rate that h sets under a budget (R205). -/
theorem Die.evaluate_headroom (d : Die) (energy : Nat) :
    let h := d.ebudget - (sat 54 (d.emeas + energy) - d.emeas)
    (h < 0 → (d.evaluate energy).headroom = -1 ∧ (d.evaluate energy).rate = max 1 (d.rate - 1)) ∧
      (0 ≤ h → 9 * h < d.ebudget → (d.evaluate energy).headroom = 0 ∧ (d.evaluate energy).rate = d.rate) ∧
      (0 ≤ h → d.ebudget ≤ 9 * h →
        (d.evaluate energy).headroom = 1 ∧ (d.evaluate energy).rate = min 9 (d.rate + 1)) := by
  intro h
  have hh : (d.evaluate energy).headroom = headroomOf h d.ebudget := by rw [Die.evaluate_eq]
  have hr : (d.evaluate energy).rate = if headroomOf h d.ebudget < 0 then max 1 (d.rate - 1)
      else if headroomOf h d.ebudget = 0 then d.rate else min 9 (d.rate + 1) := by rw [Die.evaluate_eq]
  rw [hh, hr]
  refine ⟨fun hneg => ?_, fun hpos hlow => ?_, fun hpos hhigh => ?_⟩
  · have e : headroomOf h d.ebudget = -1 := if_pos hneg
    simp [e]
  · have e : headroomOf h d.ebudget = 0 := by rw [headroomOf, if_neg (by omega), if_pos hlow]
    simp [e]
  · have e : headroomOf h d.ebudget = 1 := by rw [headroomOf, if_neg (by omega), if_neg (by omega)]
    simp [e]

/-- The count of consecutive evaluations after one more (R437). -/
theorem Die.evaluate_count (d : Die) (energy : Nat) :
    ((d.evaluate energy).evalSign, (d.evaluate energy).evalCount) =
      if d.relock then (d.evalSign, d.evalCount) else if (d.evaluate energy).headroom = 0 then (0, 0)
        else if (d.evaluate energy).headroom = d.evalSign then (d.evalSign, d.evalCount + 1)
          else ((d.evaluate energy).headroom, 1) := by
  rw [show (d.evaluate energy).headroom = headroomOf (d.ebudget - (sat 54 (d.emeas + energy) - d.emeas)) d.ebudget by
    rw [Die.evaluate_eq]]
  exact Die.countEval_count _ _

theorem Beam.govern_of_fixed {b : Beam} (h : b.fixstep ≠ 0) (signs : List Int) : b.govern signs = b := if_pos h

theorem Beam.govern_of_neg {b : Beam} (h : b.fixstep = 0) {signs : List Int} (hn : ∃ x ∈ signs, x < 0) :
    b.govern signs = { b with step := max b.minstep (b.step - 1) } := by
  have : signs.any (· < 0) = true := by simpa using hn
  simp [Beam.govern, h, this]

theorem Beam.govern_of_pos {b : Beam} (h : b.fixstep = 0) {signs : List Int} (hp : ∀ x ∈ signs, 0 < x) :
    b.govern signs = { b with step := min 9 (b.step + 1) } := by
  have hany : signs.any (· < 0) = false := by simpa using fun x hx => (hp x hx).le
  have hall : signs.all (0 < ·) = true := by simpa using hp
  simp [Beam.govern, h, hany, hall]

/-- The dies after an evaluation. -/
def State.evaluated (s : State) (energy : List Nat) : List Die :=
  s.dies.zipIdx.map fun p : Die × Nat => p.1.evaluate (energy.getD p.2 0)

theorem State.getElem?_evaluated {s : State} (energy : List Nat) {k : Nat} {d : Die} (h : s.dies[k]? = some d) :
    (s.evaluated energy)[k]? = some (d.evaluate (energy.getD k 0)) := by
  simp [State.evaluated, h]

theorem exec_headroomEvaluation_due {s : State} (energy : List Nat) (h : s.evalDue = true) :
    exec (.headroomEvaluation energy) s = .next { s with
      dies := s.evaluated energy, beam := s.beam.govern ((s.evaluated energy).map Die.headroom),
      evals := s.reftime / 100 } := by
  change execHeadroomEvaluation energy s = _
  simp only [execHeadroomEvaluation, h]; rfl

theorem exec_headroomEvaluation_idle {s : State} (energy : List Nat) (h : s.evalDue = false) :
    exec (.headroomEvaluation energy) s = .next s := by
  change execHeadroomEvaluation energy s = _
  simp [execHeadroomEvaluation, h]

/-! ### Frequency steps (R436 to R438) -/

/-- A change of a die is the die that it makes of the one there. -/
theorem State.setDie_eq_const (s : State) (k : Nat) (f : Die → Die) :
    s.setDie k f = s.setDie k fun _ => f (s.dieAt k) := rfl

theorem State.holds_dieAt_of_findIdx? {s : State} {p : Die → Bool} {k : Nat} (h : s.dies.findIdx? p = some k) :
    p (s.dieAt k) = true := by
  obtain ⟨hk, hp, -⟩ := List.findIdx?_eq_some_iff_getElem.1 h
  rwa [State.dieAt, List.getD_eq_getElem _ _ hk]

/-- The steps that FCTL allows (R437). -/
theorem Die.allows_iff (d : Die) (n : Int) :
    d.allows n = true ↔ if d.ffix = 0 then d.fmin ≤ n ∧ n ≤ d.fmax else n = d.ffix := by
  unfold Die.allows; split_ifs <;> simp_all

theorem Die.allows_nearest {d : Die} (h : d.fmin ≤ d.fmax) (n : Int) : d.allows (d.nearest n) = true := by
  rw [Die.allows_iff]
  unfold Die.nearest; split_ifs <;> omega

/-- A die with the bounds that a write of FCTL gives, and the step that it then requests (R437). -/
def Die.bounded (lo hi fix : Int) (d : Die) : Die :=
  let d := { d with fmin := lo, fmax := hi, ffix := fix }
  if d.allows d.step then { d with request := d.request.filter d.allows }
  else { d with request := some (d.nearest d.step), evalCount := 0, evalSign := 0 }

theorem exec_fctl (die : Nat) (v : Int) (s : State) :
    exec (.fctl die v) s =
      if 1 ≤ trits v 4 1 ∧ trits v 4 1 ≤ 9 ∧ trits v 4 1 ≤ trits v 8 5 ∧ trits v 8 5 ≤ 9 ∧
        0 ≤ trits v 12 9 ∧ trits v 12 9 ≤ 9
      then .next (s.setDie die (Die.bounded (trits v 4 1) (trits v 8 5) (trits v 12 9))) else .next s := rfl

theorem Die.bounded_keeps (lo hi fix : Int) (d : Die) :
    ((d.bounded lo hi fix).fmin, (d.bounded lo hi fix).fmax, (d.bounded lo hi fix).ffix, (d.bounded lo hi fix).step,
      (d.bounded lo hi fix).cycles) = (lo, hi, fix, d.step, d.cycles) := by
  unfold Die.bounded; dsimp only; split_ifs <;> rfl

/-- After a write of FCTL a die requests only steps within the new bounds, and one of them when its own is not (R437). -/
theorem Die.bounded_request {lo hi fix : Int} (h : lo ≤ hi) (d : Die) :
    let may (n : Int) := if fix = 0 then lo ≤ n ∧ n ≤ hi else n = fix
    (∀ n, (d.bounded lo hi fix).request = some n → may n) ∧ (¬ may d.step → (d.bounded lo hi fix).request ≠ none) := by
  intro may
  let e : Die := { d with fmin := lo, fmax := hi, ffix := fix }
  have hmay (n : Int) : e.allows n = true ↔ may n := Die.allows_iff e n
  by_cases hs : e.allows d.step = true
  · have hb : d.bounded lo hi fix = { e with request := d.request.filter e.allows } := if_pos hs
    rw [hb]
    exact ⟨fun n hn => (hmay n).1 (Option.filter_eq_some_iff.1 hn).2, fun hno => absurd ((hmay _).1 hs) hno⟩
  · have hb : d.bounded lo hi fix = { e with request := some (e.nearest d.step), evalCount := 0, evalSign := 0 } :=
      if_neg hs
    rw [hb]
    refine ⟨fun n hn => ?_, fun _ => Option.some_ne_none _⟩
    cases hn
    exact (hmay _).1 (Die.allows_nearest h _)

/-- The die that requests a step in governed mode, and the step it requests (R437). -/
theorem Die.governs_of_isSome {d : Die} (h : d.governs.isSome = true) :
    d.ffix = 0 ∧ 9 ≤ d.evalCount ∧ d.fmin ≤ d.step + d.evalSign ∧ d.step + d.evalSign ≤ d.fmax ∧
      d.governs = some (d.step + d.evalSign) := by
  unfold Die.governs at h ⊢
  dsimp only at h ⊢
  split_ifs at h ⊢ with hc
  · obtain ⟨hfix, -, -, hcount, hallow⟩ := hc
    rw [Die.allows_iff, if_pos hfix] at hallow
    exact ⟨hfix, hcount, hallow.1, hallow.2, rfl⟩
  · simp at h

theorem exec_governedStep {s : State} {k : Nat} (h : s.dies.findIdx? (fun d : Die => d.governs.isSome) = some k) :
    exec .governedStep s =
      .next (s.setDie k fun d => { d with request := d.governs, evalCount := 0, evalSign := 0 }) := by
  change execGovernedStep s = _
  simp [execGovernedStep, h]

theorem exec_frequencyStep {s : State} {k : Nat}
    (h : s.dies.findIdx? (fun d : Die => d.request.isSome && !d.relock) = some k) :
    exec .frequencyStep s = .next (s.setDie k Die.startStep) := by
  change execFrequencyStep s = _
  simp [execFrequencyStep, h]

theorem exec_relockEnd {s : State} {k : Nat} (h : s.dies.findIdx? Die.relocked = some k) :
    exec .relockEnd s = .next (s.setDie k Die.endRelock) := by
  change execRelockEnd s = _
  simp [execRelockEnd, h]

theorem Die.relocked_iff (d : Die) : d.relocked = true ↔ d.relock = true ∧ d.left = 0 := by simp [Die.relocked]

theorem exec_relockEnd_idle {s : State} (h : ∀ d ∈ s.dies, d.relock = true → 0 < d.left) :
    exec .relockEnd s = .next s := by
  have : s.dies.findIdx? Die.relocked = none := by
    rw [List.findIdx?_eq_none_iff]
    intro d hd
    rw [Bool.eq_false_iff, Ne, Die.relocked_iff]
    exact fun ⟨hr, hl⟩ => (h d hd hr).ne' hl
  change execRelockEnd s = _
  simp [execRelockEnd, this]

theorem Die.startStep_of_none {d : Die} (h : d.request = none) : d.startStep = d := by simp [Die.startStep, h]

/-- A step that begins: CYCLES keeps its time at the new frequency to half a cycle, and the clock stops (R438). -/
theorem Die.startStep_of_some {d : Die} {n : Int} (h : d.request = some n) (hn : n ≠ d.step) (hs : 0 < d.step + 3) :
    ∃ c, 2 * |c * (d.step + 3) - d.cycles * (n + 3)| ≤ d.step + 3 ∧ d.startStep = { d with
      cycles := wrap 54 c, step := n, relock := true, left := 120 * Config.tickUnits, phase := 0, request := none,
      evalCount := 0, evalSign := 0 } :=
  ⟨divq (d.cycles * (n + 3)) (d.step + 3), two_abs_divq_mul_sub_le _ hs, by
    simp [Die.startStep, h, hn, freqCode, relockUnits]⟩

/-- The relock's end: its addition to CYCLES, and then the step that was asked for meanwhile (R438). -/
theorem Die.endRelock_eq (d : Die) : d.endRelock =
    Die.startStep { d with relock := false, cycles := wrap 54 (d.cycles + 180 * (d.step + 3)) } := rfl

/-- Settles O57: each step of power and clocks by what it makes of a die. -/
theorem powerResults : Obligations.PowerResults := by
  unfold Obligations.PowerResults
  refine ⟨?time, ?clock, ?evaluation, ?fctl, ?steps⟩
  case time =>
    exact fun s => ⟨s.evalDue_iff, fun h energy => exec_headroomEvaluation_idle energy h, State.passing_of_due,
      State.dueStep_ne_none, State.fine_add_passing_le, fun d => State.passing_le_left, rfl, rfl, rfl⟩
  case clock =>
    refine fun d n => ⟨?_, fun hr h1 h9 => ?_⟩
    · cases hr : d.relock
      · rw [Die.pass_of_running hr]; rfl
      · rw [Die.pass_of_relock hr]; rfl
    · rw [Die.pass_of_running hr]
      exact ⟨(d.phase + n) / cycleUnits d.step, rfl, Nat.mod_lt _ (cycleUnits_pos h1 h9), Nat.div_add_mod' _ _,
        cycleUnits_mul h1 h9⟩
  case evaluation =>
    intro energy s h
    refine ⟨_, exec_headroomEvaluation_due energy h, rfl, by simp [State.evalDue], rfl, by simp [State.evaluated],
      fun k d hd => ⟨_, State.getElem?_evaluated energy hd, ?_⟩, fun hf => Beam.govern_of_fixed hf _, fun hf hn => ?_,
      fun hf hp => ?_⟩
    · obtain ⟨hneg, hlow, hhigh⟩ := d.evaluate_headroom (energy.getD k 0)
      exact ⟨by rw [Die.evaluate_eq], by rw [Die.evaluate_eq], hneg, hlow, hhigh, d.evaluate_count _,
        by rw [Die.evaluate_eq]⟩
    · exact Beam.govern_of_neg hf (by simpa using hn)
    · exact Beam.govern_of_pos hf (by simpa using hp)
  case fctl =>
    intro die v s _ lo hi fix
    refine ⟨fun hno => by rw [exec_fctl, if_neg hno], fun h1 h2 h3 h4 h5 => ?_⟩
    refine ⟨(s.dieAt die).bounded lo hi fix, ?_, Die.bounded_keeps _ _ _ _, Die.bounded_request h2 _⟩
    rw [exec_fctl, if_pos ⟨h1, h2.trans h3, h2, h3, h4, h5⟩]; rfl
  case steps =>
    intro k s _ d
    refine ⟨fun hf => ?_, fun n hf hr hn hs => ?_, exec_relockEnd_idle, fun hf hr => ?_, fun hf n hr hn hs => ?_⟩
    · obtain ⟨hfix, hcount, hmin, hmax, hg⟩ := Die.governs_of_isSome (State.holds_dieAt_of_findIdx? hf)
      refine ⟨hfix, hcount, hmin, hmax, ?_⟩
      rw [exec_governedStep hf, State.setDie_eq_const, hg]
    · obtain ⟨c, hc, hd⟩ := Die.startStep_of_some hr hn hs
      exact ⟨c, hc, by rw [exec_frequencyStep hf, State.setDie_eq_const, hd]⟩
    · obtain ⟨hrelock, hleft⟩ := (Die.relocked_iff _).1 (State.holds_dieAt_of_findIdx? hf)
      refine ⟨hrelock, hleft, ?_⟩
      have hd := Die.startStep_of_none
        (d := { d with relock := false, cycles := wrap 54 (d.cycles + 180 * (d.step + 3)) }) hr
      rw [exec_relockEnd hf, State.setDie_eq_const, Die.endRelock_eq]
      exact congrArg (fun e => Host.Outcome.next (s.setDie k fun _ => e)) hd
    · intro old
      obtain ⟨c, hc, hd⟩ := Die.startStep_of_some (d := { d with relock := false, cycles := old }) hr hn hs
      refine ⟨c, hc, ?_⟩
      rw [exec_relockEnd hf, State.setDie_eq_const, Die.endRelock_eq]
      exact congrArg (fun e => Host.Outcome.next (s.setDie k fun _ => e)) hd

end Sys2Proof.Machine

/-!
SUPPORT. What the runners make of a gang of one thread, whatever the thread's own part gives: the thread it becomes, or
the cause it takes (R48, R129).
-/

namespace Sys2Proof.Machine

section Alone

variable {s : State} {gd : Guard} {uses : List RegUse} {t : Thread} {c : Cause}

/-- Where no other thread has the identity of t, a change of the thread is a change of t. -/
theorem State.mapThread_eq_becomes (only : ∀ u ∈ s.threads, u.id = t.id → u = t) (f : Thread → Thread) :
    s.mapThread t.id f = s.becomes t (f t) := by
  unfold State.becomes State.mapThread
  congr 1
  refine List.map_congr_left fun u hu => ?_
  by_cases e : u.id = t.id
  · simp only [only u hu e]
  · simp [e]

theorem State.Alone.mapGang_eq (h : s.Alone gd uses t) (f : Thread → Thread) : s.mapGang f = s.mapThread t.id f := by
  unfold State.mapGang State.mapThread
  simp [h.gang]

/-- A thread that takes a cause outside a handler leaves nothing to settle. -/
theorem State.Alone.settle_fault (h : s.Alone gd uses t) (hi : t.status.intrap = false) (hv : t.trapvec ≠ 0) :
    (s.becomes t (t.fault c)).settle = s.becomes t (t.fault c) :=
  State.settle_of_calm (h.calm.becomes t (by rw [Thread.fault_failed hi hv, h.calm t h.mem]))

theorem State.runLocal_error {f : Thread → Except Cause Thread} (h : s.Alone gd uses t) (ho : uses.all t.owns = true)
    (hf : f t = .error c) : s.runLocal gd uses f = .next (s.mapThread t.id fun t => t.fault c).settle := by
  unfold State.runLocal State.runThreads
  rw [h.mapGang_eq, h.mapThread_eq, Thread.execute_error h.executes ho hf, h.mapThread_eq fun t => t.fault c]

/-- An instruction of one thread that takes a cause outside a handler. -/
theorem State.runLocal_trapped {f : Thread → Except Cause Thread} (h : s.Alone gd uses t) (ho : uses.all t.owns = true)
    (hf : f t = .error c) (hi : t.status.intrap = false) (hv : t.trapvec ≠ 0) :
    ∃ t', s.runLocal gd uses f = .next (s.becomes t t') ∧ Thread.Trapped c t t' :=
  ⟨t.fault c, by rw [State.runLocal_error h ho hf, h.mapThread_eq fun t => t.fault c, h.settle_fault hi hv],
    Thread.trapped_fault hi hv⟩

end Alone

end Sys2Proof.Machine

/-!
SUPPORT. The special registers: the trits of their words, what SETS writes, and the index that names none (R35 to R40, R47,
R109, R417).
-/

namespace Sys2Proof.Machine

/-! ### Words of special registers -/

theorem trits_flags_word (f : RealFlags) :
    trits f.word 0 0 = boolTrit f.inv ∧ trits f.word 1 1 = boolTrit f.ofl ∧ trits f.word 2 2 = boolTrit f.ufl ∧
      trits f.word 3 3 = boolTrit f.inx ∧ trits f.word 26 4 = 0 := by
  obtain ⟨inv, ofl, ufl, inx⟩ := f
  revert inv ofl ufl inx
  decide

theorem eq_of_fits_one {x : Int} (h : fits 1 x = true) : x = -1 ∨ x = 0 ∨ x = 1 := by
  rw [fits_iff] at h
  have : maxTrits 1 = 1 := rfl
  omega

theorem trits_status_word (st : Status) (h : fits 1 st.width = true) :
    trits st.word 6 6 = st.width ∧ trits st.word 5 5 = boolTrit st.det ∧ trits st.word 4 4 = boolTrit st.intrap ∧
      trits st.word 3 3 = boolTrit st.pm ∧ trits st.word 2 1 = 0 ∧ trits st.word 0 0 = (if st.system then 1 else -1) ∧
      trits st.word 26 7 = 0 := by
  obtain ⟨width, det, intrap, pm, system⟩ := st
  obtain rfl | rfl | rfl := eq_of_fits_one h <;> (clear h; revert det intrap pm system; decide)

theorem trits_trapInfo {slot : Nat} {c : Cause} (hs : slot ≤ 9) (hsub : fits 9 c.sub = true)
    (hcode : fits 9 c.code = true) : trits (trapInfo slot c) 21 18 = slot ∧ trits (trapInfo slot c) 17 9 = c.sub ∧
      trits (trapInfo slot c) 8 0 = c.code := by
  have hslot : fits 4 (slot : Int) = true := fits_iff.2 (by have : maxTrits 4 = 40 := rfl; omega)
  have hw : trapInfo slot c = c.code + p3 9 * (c.sub + p3 9 * slot) := by
    unfold trapInfo
    rw [show p3 18 = p3 9 * p3 9 from rfl]; ring
  rw [hw]
  refine ⟨?_, ?_, ?_⟩ <;> simp only [trits]
  · rw [show (18 : Nat) = 9 + 9 from rfl, ← trunc_trunc, trunc_add_mul _ hcode, trunc_add_mul _ hsub]
    exact wrap_of_fits hslot
  · rw [trunc_add_mul _ hcode]; exact wrap_add_mul _ hsub
  · rw [trunc_zero]; exact wrap_add_mul _ hcode

/-! ### SETS -/

section Sets

variable {s : State} {b : Nat} {t : Thread} {sp : Special} {v : Int}

theorem setsValue_own (only : ∀ u ∈ s.threads, u.id = t.id → u = t) (hm : mayset t.status.system sp = true)
    (hp : sp ≠ .probeflag) : setsValue sp v t s = .ok (s.becomes t (t.setSpecial sp v).advance) := by
  rw [← s.mapThread_eq_becomes only fun t => (t.setSpecial sp v).advance]
  unfold setsValue
  rw [if_pos hm]
  cases sp with
  | probeflag => exact absurd rfl hp
  | _ => rfl

/-- A write of PROBEFLAG with a trit of - writes nothing (R37). -/
theorem State.probeWrite_eq (s : State) (t : Thread) (v : Int) : s.probeWrite t (tritAt v 0) =
    if trits v 0 0 = -1 then s
    else s.mapTeam t.team fun m => { m with probe := m.probe.set t.grp (decide (trits v 0 0 = 1)) } := by
  obtain h | h | h := eq_of_fits_one (fits_wrap 1 (trunc 0 v)) <;>
    (have h : trits v 0 0 = _ := h; simp [State.probeWrite, tritAt, h, Trit.ofInt, State.setProbe])

theorem setsValue_probeflag (only : ∀ u ∈ s.threads, u.id = t.id → u = t) : setsValue .probeflag v t s =
    .ok ((if trits v 0 0 = -1 then s else
      s.mapTeam t.team fun m => { m with probe := m.probe.set t.grp (decide (trits v 0 0 = 1)) }).becomes t t.advance) := by
  rw [← State.probeWrite_eq]
  have only' : ∀ u ∈ (s.probeWrite t (tritAt v 0)).threads, u.id = t.id → u = t := by
    rw [State.probeWrite_eq]; split <;> exact only
  rw [← State.mapThread_eq_becomes only' fun t => t.advance]
  rfl

theorem setsValue_refused (hm : mayset t.status.system sp = false) : setsValue sp v t s = .error (t.illegal 4) := by
  unfold setsValue; rw [if_neg (by simp [hm])]

theorem Thread.setSpecial_failed (t : Thread) (sp : Special) (v : Int) : (t.setSpecial sp v).failed = t.failed := by
  cases sp <;> rfl

/-- SETS from a general or from an address register, whose value is v. -/
def SetsFrom (s : State) (gd : Guard) (b : Nat) (t : Thread) (v : Int) (i : Special → Instr) : Prop :=
  (i = (fun sp => .sets gd sp b) ∧ s.Alone gd [gUse b] t ∧ v = t.readG b) ∨
    (i = (fun sp => .setsA gd sp b) ∧ s.Alone gd [aUse b] t ∧ v = t.readA b)

variable {gd : Guard} {i : Special → Instr}

theorem SetsFrom.alone (hi : SetsFrom s gd b t v i) :
    s.Calm ∧ t ∈ s.threads ∧ ∀ u ∈ s.threads, u.id = t.id → u = t := by
  obtain ⟨-, h, -⟩ | ⟨-, h, -⟩ := hi <;> exact ⟨h.calm, h.mem, h.only⟩

theorem SetsFrom.exec_eq {s' : State} (hi : SetsFrom s gd b t v i) (hs : setsValue sp v t s = .ok s')
    (hc : s'.Calm) : exec (i sp) s = .next s' := by
  obtain ⟨rfl, h, rfl⟩ | ⟨rfl, h, rfl⟩ := hi
  · exact State.lanes_alone (f := fun t s => setsValue sp (t.readG b) t s) h hs hc
  · exact State.lanes_alone (f := fun t s => setsValue sp (t.readA b) t s) h hs hc

/-- A special register of the thread itself takes the value (R37, R417). -/
theorem SetsFrom.exec_own (hi : SetsFrom s gd b t v i) (hm : mayset t.status.system sp = true)
    (hp : sp ≠ .probeflag) : exec (i sp) s = .next (s.becomes t (t.setSpecial sp v).advance) := by
  obtain ⟨calm, mem, only⟩ := hi.alone
  exact hi.exec_eq (setsValue_own only hm hp)
    (calm.becomes t (by rw [Thread.advance_failed, Thread.setSpecial_failed, calm t mem]))

/-- PROBEFLAG of the thread's group takes trit 0 of the value (R37). -/
theorem SetsFrom.exec_probeflag (hi : SetsFrom s gd b t v i) : exec (i .probeflag) s =
    .next ((if trits v 0 0 = -1 then s else
      s.mapTeam t.team fun m => { m with probe := m.probe.set t.grp (decide (trits v 0 0 = 1)) }).becomes t t.advance) := by
  obtain ⟨calm, mem, only⟩ := hi.alone
  refine hi.exec_eq (setsValue_probeflag only) (State.Calm.becomes ?_ t (by simp [calm t mem]))
  split <;> exact calm

end Sets

/-! ### An index that names no special register -/

theorem specialOf_of_out {n : Int} (h : n < 1 ∨ 16 < n) : specialOf n = none := by
  unfold specialOf
  repeat rw [if_neg (by omega)]

theorem Raw.build_of_out {r : Raw} {o : Op} (ho : o = .movs ∨ o = .sets) (hl : r.literal < 1 ∨ 16 < r.literal) :
    r.build o = .error 4 := by
  obtain rfl | rfl := ho <;> simp only [Raw.build, specialOf_of_out hl]

/-- Such words are illegal with subcode 4, whatever else is wrong with them (R36, R49). -/
theorem decode_of_out {ws : List Word} {r : Raw} {o : Op} (hr : Raw.ofWords ws = some r) (hc : Op.ofCode r.opc = some o)
    (ho : o = .movs ∨ o = .sets) (hl : r.literal < 1 ∨ 16 < r.literal) :
    decode ws = .error (.illegal r.guard (usesOf ws) 4) := by
  have hlit : ¬ (r.len = 3 ∧ o.takesLit = false) := by obtain rfl | rfl := ho <;> simp [Op.takesLit]
  have hb := Raw.build_of_out ho hl
  have hsub : r.literalSub o = 4 := by simp only [Raw.literalSub, hb]
  simp only [decode, usesOf, hr, Raw.decode, hc, if_neg hlit, hsub]
  cases o.form r.modif with
  | none => rfl
  | some f => simp only [hb]

/-- The word that holds the index: the first continuation word where there is one. -/
theorem Raw.badWord_of_out {r : Raw} {o : Op} (hc : Op.ofCode r.opc = some o) (ho : o = .movs ∨ o = .sets)
    (ok : RegUse → Bool) : r.badWord ok 4 = if r.len = 1 then 0 else 1 := by
  have hbase : ∃ f, o.baseForm = some f := by
    obtain rfl | rfl := ho
    · exact ⟨_, rfl⟩
    · exact ⟨_, rfl⟩
  obtain ⟨f, hf⟩ := hbase
  unfold Raw.badWord
  simp only [hc]
  by_cases h1 : r.len = 1
  · simp [h1]
  · cases hm : o.form r.modif <;> simp [h1, hf]

/-- The gang's turn with such words raises illegal instruction with subcode 4. -/
theorem State.gangStep_of_out {s : State} {t : Thread} {r : Raw} {o : Op} (hr : Raw.ofWords t.words = some r)
    (hc : Op.ofCode r.opc = some o) (ho : o = .movs ∨ o = .sets) (hl : r.literal < 1 ∨ 16 < r.literal)
    (h : s.Alone r.guard (usesOf t.words) t) (hi : t.status.intrap = false) (hv : t.trapvec ≠ 0)
    (hg : s.gangThreads = [t]) (hstill : s.standsStill t.core = false) (hslot : t.takesAtSlot = false)
    (hheld : s.heldByCommit t = false) (hblock : t.blocker = none) (hq : t.quantumEnds = false) :
    ∃ t', s.gangStep = .pass (s.becomes t t') ∧
      Thread.Trapped ⟨1, 4, t.instrAddr + if r.len = 1 then 0 else 3⟩ t t' := by
  have hcause : s.refusal t 4 = ⟨1, 4, t.instrAddr + if r.len = 1 then 0 else 3⟩ := by
    simp only [State.refusal, hr, hc, Option.bind_some, Raw.build_of_out ho hl, Except.toOption, Thread.illegalAt,
      Option.map_some, Option.getD_some]
    rw [show ((4 : Nat) : Int) = 4 from rfl, Raw.badWord_of_out hc ho]
    split <;> rfl
  have hrefuse : s.refuse r.guard (usesOf t.words) 4 t = t.fault (s.refusal t 4) := by
    unfold State.refuse
    rw [if_neg (show ¬ (_ ∨ _) from h.executes), if_pos h.owns]
  have hstep : s.gangStep = .pass (s.runThreads (s.refuse r.guard (usesOf t.words) 4)) := by
    simp [State.gangStep, hg, hstill, hslot, hheld, hblock, hq, decode_of_out hr hc ho hl]
  refine ⟨t.fault (s.refusal t 4), ?_, hcause ▸ Thread.trapped_fault hi hv⟩
  rw [hstep, State.runThreads, h.mapGang_eq, h.mapThread_eq, hrefuse, h.settle_fault hi hv]

/-- Settles O14: MOVS as a write of one register, SETS as a write of the thread or of its group's flag, and the refusals. -/
theorem specialRegisterResults : Obligations.SpecialRegisterResults := by
  unfold Obligations.SpecialRegisterResults
  refine ⟨?movs, ?words, ?sets, ?refused, ?undefined⟩
  case movs =>
    exact fun gd d sp s => ⟨fun hr => word1_completes hr (by simp) rfl,
      fun hr => State.runLocal_putA hr (by simp) fun _ _ _ _ => rfl⟩
  case words =>
    exact fun s t => ⟨trits_flags_word t.flags, trits_status_word t.status, fun slot c => trits_trapInfo⟩
  case sets =>
    intro gd b s t i v hi
    have hi : SetsFrom s gd b t v i := hi
    refine ⟨hi.exec_own rfl (by decide), hi.exec_own rfl (by decide), hi.exec_own rfl (by decide), hi.exec_probeflag,
      fun hsys => ?_⟩
    have hm {sp : Special} (h : mayset true sp = true) : mayset t.status.system sp = true := hsys ▸ h
    exact ⟨hi.exec_own (hm rfl) (by decide), hi.exec_own (hm rfl) (by decide), hi.exec_own (hm rfl) (by decide),
      hi.exec_own (hm rfl) (by decide)⟩
  case refused =>
    intro gd b s t sp hi hv hsp
    have hm : mayset t.status.system sp = false := by
      obtain hsp | ⟨hsys, hsp⟩ := hsp
      · fin_cases hsp <;> rfl
      · rw [hsys]; fin_cases hsp <;> rfl
    exact ⟨fun h => State.lanes_trapped h (setsValue_refused hm) hi hv,
      fun h => State.lanes_trapped h (setsValue_refused hm) hi hv⟩
  case undefined =>
    intro r s t hr hc hl h hi hv
    obtain ⟨o, hc, ho⟩ : ∃ o, Op.ofCode r.opc = some o ∧ (o = .movs ∨ o = .sets) := by
      obtain hc | hc := hc
      · exact ⟨_, hc, .inl rfl⟩
      · exact ⟨_, hc, .inr rfl⟩
    exact ⟨decode_of_out hr hc ho hl, State.gangStep_of_out hr hc ho hl h hi hv⟩

end Sys2Proof.Machine

/-!
SUPPORT. The system instructions and the return from a handler, on every lane and on a thread of its own (R126 to R128, R413
to R416).
-/

namespace Sys2Proof.Machine

/-! ### One instruction of each thread -/

/-- An instruction whose effect is confined to its thread, by the thread that `execute` makes of each lane. -/
theorem State.runLocal_execute {s : State} {gd : Guard} {uses : List RegUse} {f : Thread → Except Cause Thread}
    {Post : Thread → Thread → Prop} (hr : s.Ready gd uses)
    (h : ∀ t ∈ s.threads, t.id ∈ s.members → ¬ t.Passes gd → uses.all t.owns = true →
      (t.execute uses gd f).failed = none ∧ Post t (t.execute uses gd f)) :
    ∃ F : Thread → Thread, s.runLocal gd uses f = .next { s with threads := s.threads.map F } ∧
      ∀ t ∈ s.threads, (t.id ∉ s.members → F t = t) ∧
        (t.id ∈ s.members → t.Passes gd → F t = t.advance) ∧ (t.id ∈ s.members → ¬ t.Passes gd → Post t (F t)) := by
  have calm : ∀ t ∈ s.threads, (if s.members.contains t.id then t.execute uses gd f else t).failed = none := by
    intro t ht
    by_cases hm : t.id ∈ s.members
    · by_cases hp : t.Passes gd
      · simp [hm, Thread.execute_passes hp, hr.1 t ht]
      · simp [hm, (h t ht hm hp ((hr.2 t ht).2 hm hp)).1]
    · simp [hm, hr.1 t ht]
  refine ⟨fun t => if s.members.contains t.id then t.execute uses gd f else t, ?_, fun t ht => ⟨?_, ?_, ?_⟩⟩
  · unfold State.runLocal State.runThreads State.mapGang
    rw [State.settle_of_calm (State.calm_map calm)]
  · intro hm; simp [hm]
  · intro hm hp; simp [hm, Thread.execute_passes hp]
  · intro hm hp; simpa [hm] using (h t ht hm hp ((hr.2 t ht).2 hm hp)).2

/-- An instruction that raises a cause on every lane, each outside a handler. -/
theorem completes_of_trap {i : Instr} {gd : Guard} {uses : List RegUse} {f : Thread → Except Cause Thread} {c : Cause}
    {s : State} (hr : s.Ready gd uses) (he : exec i s = s.runLocal gd uses f)
    (hx : s.Executing gd fun t => t.status.intrap = false ∧ t.trapvec ≠ 0) (hf : ∀ t, f t = .error c) :
    Completes i gd (Thread.Trapped c) s := by
  unfold Completes
  rw [he]
  refine State.runLocal_execute hr fun t ht hm hp ho => ?_
  obtain ⟨hi, hv⟩ := hx t ht hm hp
  rw [Thread.execute_error hp ho (hf t)]
  exact ⟨by rw [Thread.fault_failed hi hv, hr.1 t ht], Thread.trapped_fault hi hv⟩

/-- An instruction whose effect is confined to its thread completes when its part is defined on the lanes that execute it. -/
theorem completes_of_executing {i : Instr} {gd : Guard} {uses : List RegUse} {f : Thread → Except Cause Thread}
    {P : Thread → Prop} {Post : Thread → Thread → Prop} {s : State} (hr : s.Ready gd uses)
    (he : exec i s = s.runLocal gd uses f) (hx : s.Executing gd P)
    (h : ∀ t : Thread, P t → t.failed = none → ∃ t', f t = .ok t' ∧ t'.failed = none ∧ Post t t') :
    Completes i gd Post s := by
  unfold Completes; rw [he]
  exact State.runLocal_completes hr fun t ht hm hp _ _ => h t (hx t ht hm hp)

theorem advance_completes {i : Instr} {gd : Guard} {s : State} (hr : s.Ready gd [])
    (he : exec i s = s.runLocal gd [] fun t => .ok t.advance) :
    Completes i gd (fun t t' => t.Keeps [] t' ∧ t.GoesOn t') s :=
  completes_of_runLocal hr he fun t _ _ hn =>
    ⟨t.advance, rfl, by simp [hn], t.keeps_advance, Thread.goesOn_advance rfl rfl rfl rfl⟩

/-! ### System instructions -/

theorem exit_completes {gd : Guard} {s : State} (hr : s.Ready gd []) (hx : s.Executing gd fun t => t.element = none) :
    Completes (.exit gd) gd (fun t t' => t' = { t with run := .exiting none }) s := by
  refine completes_of_executing hr rfl hx fun t he hn => ⟨{ t with run := .exiting none }, ?_, hn, rfl⟩
  simp [Thread.inRun, he]

theorem halt_completes {gd : Guard} {b : Nat} {s : State} (hr : s.Ready gd [gUse b])
    (hx : s.Executing gd fun t => t.status.system = true) :
    Completes (.halt gd b) gd (fun t t' => t' = { t with run := .exiting (some (t.readG b)) }) s :=
  completes_of_executing hr rfl hx fun _ hsys hn => ⟨_, if_pos hsys, hn, rfl⟩

theorem pmode_completes {gd : Guard} {n : Int} {s : State} (hr : s.Ready gd []) (hn : n = 0 ∨ n = 1) :
    Completes (.pmode gd n) gd
      (fun t t' => t' = ({ t with status := { t.status with pm := n == 1 } } : Thread).advance) s :=
  completes_of_runLocal hr rfl fun t _ _ hf => ⟨_, if_pos hn, by simp [hf], rfl⟩

/-- An undefined opcode in probe mode sets PROBEFLAG of the group and goes on (R71, R72). -/
theorem exec_undefinedOpcode_probe {gd : Guard} {s : State} {t : Thread} (h : s.Alone gd [] t)
    (hpm : t.status.pm = true) : exec (.undefinedOpcode gd) s =
      .next ((s.mapTeam t.team fun m => { m with probe := m.probe.set t.grp true }).becomes t t.advance) := by
  have hset : (s.setProbe t true).mapThread t.id Thread.advance = (s.setProbe t true).becomes t t.advance :=
    State.mapThread_eq_becomes (s := s.setProbe t true) h.only _
  refine State.lanes_alone h ((if_pos hpm).trans (congrArg Except.ok hset)) (State.Calm.becomes ?_ t ?_)
  · exact h.calm
  · simp [h.calm t h.mem]

/-- Settles O19: what the system instructions make of each lane, and the cause that each raises where it may not stand. -/
theorem systemResults : Obligations.SystemResults := by
  unfold Obligations.SystemResults
  refine ⟨fun gd b n s => ⟨fun hr => ?_, fun hr => halt_completes hr, fun t h => exec_undefinedOpcode_probe h⟩,
    fun gd b n s t hi hv => ⟨fun h => ⟨?exit, ?rett, ?pmode, ?undefined⟩, ?halt⟩⟩
  · exact ⟨advance_completes hr rfl, advance_completes hr rfl, exit_completes hr, pmode_completes hr,
      fun hx => ⟨completes_of_trap hr rfl hx fun _ => rfl, completes_of_trap hr rfl hx fun _ => rfl⟩⟩
  case exit =>
    exact fun he => State.runLocal_trapped h h.owns (if_pos (Option.isSome_iff_ne_none.2 he)) hi hv
  case rett => exact State.runLocal_trapped h h.owns (if_pos hi) hi hv
  case pmode =>
    exact fun h0 h1 => State.runLocal_trapped h h.owns (if_neg (by omega)) hi hv
  case undefined =>
    exact fun hpm => State.lanes_trapped h (if_neg (by simp [hpm])) hi hv
  case halt =>
    exact fun h hsys => State.runLocal_trapped h h.owns (if_neg (by simp [hsys])) hi hv

/-! ### RETT -/

/-- The thread that RETT makes keeps all but INTRAP and its place (R413). -/
theorem Thread.keeps_rettTo (t : Thread) :
    ({ t with status := { t.status with intrap := false } } : Thread).Keeps [] { t.rettTo with capture := [] } :=
  ⟨⟨rfl, fun _ _ => rfl, fun _ _ => rfl, fun _ _ => rfl, rfl, rfl, rfl, rfl, rfl⟩, rfl⟩

theorem Thread.rettTo_slot (t : Thread) : (t.rettTo.slot : Int) = max 1 (trits t.trapinfo 21 18) := by
  have : t.rettTo.slot = if 1 ≤ (infoSlot t.trapinfo).toNat then (infoSlot t.trapinfo).toNat else 1 := rfl
  rw [this]
  unfold infoSlot
  split <;> omega

theorem Thread.rettTo_nopOnce (t : Thread) : t.rettTo.nopOnce = true ↔
    1 ≤ trits t.trapinfo 21 18 ∧ (trits t.trapinfo 8 0 = 12 ∨ trits t.trapinfo 8 0 = 13) := by
  have : t.rettTo.nopOnce = (decide (1 ≤ (infoSlot t.trapinfo).toNat) &&
    (infoCause t.trapinfo == 12 || infoCause t.trapinfo == 13)) := rfl
  have hslot : 1 ≤ (trits t.trapinfo 21 18).toNat ↔ 1 ≤ trits t.trapinfo 21 18 := by omega
  simp [this, infoSlot, infoCause, hslot]

theorem rett_completes {gd : Guard} {s : State} (hr : s.Ready gd [])
    (hx : s.Executing gd fun t => t.status.intrap = true ∧ s.targetFault { t with capture := [] } t.trappc = none) :
    Completes (.rett gd) gd (fun t t' =>
      ({ t with status := { t.status with intrap := false } }).Keeps [] t' ∧ t'.pc = t.trappc ∧
      t'.run = .boundary .rett ∧ (t'.slot : Int) = max 1 (trits t.trapinfo 21 18) ∧
      (t'.nopOnce = true ↔ 1 ≤ trits t.trapinfo 21 18 ∧ (trits t.trapinfo 8 0 = 12 ∨ trits t.trapinfo 8 0 = 13))) s := by
  refine completes_of_executing hr rfl hx fun t hP hn => ⟨{ t.rettTo with capture := [] }, ?_, hn, ?_⟩
  · obtain ⟨hi, hfault⟩ := hP
    simp only [returnFromTrap, hi, hfault, Bool.true_eq_false, if_false]
  · exact ⟨t.keeps_rettTo, rfl, rfl, t.rettTo_slot, t.rettTo_nopOnce⟩

end Sys2Proof.Machine

/-!
SUPPORT. The checks of one access: the range locks it meets, the pieces of its pages and their translation, and the order in
which its refusals stand (R43, R49, R263, R264, R292, R298).
-/

namespace Sys2Proof.Machine

/-! ### Range locks -/

theorem foldl_min_spec {α : Type} [LinearOrder α] (l : List α) (a : α) : (l.foldl min a = a ∨ l.foldl min a ∈ l) ∧
    l.foldl min a ≤ a ∧ ∀ x ∈ l, l.foldl min a ≤ x := by
  induction l generalizing a with
  | nil => simp
  | cons y l ih =>
    obtain ⟨hmem, hle, hall⟩ := ih (min a y)
    simp only [List.foldl_cons, List.mem_cons, forall_eq_or_imp]
    refine ⟨?_, hle.trans (min_le_left a y), hle.trans (min_le_right a y), hall⟩
    obtain h | h := hmem
    · rw [h]; obtain e | e := min_choice a y <;> simp [e]
    · exact .inr (.inr h)

/-- The subcode and the lowest shared address of each pair of a lock and a range that meet. -/
def lockHits (locks : List Lock) (p : Perm) (rs : List (Int × Nat)) : List (Int × Int) :=
  locks.flatMap fun l => rs.filterMap fun r =>
    match lockSub l.kind p with
    | none => none
    | some sub => if max l.lo r.1 ≤ min l.hi (r.1 + (r.2 : Int) - 1) then some (sub, max l.lo r.1) else none

theorem lockFault_eq (locks : List Lock) (p : Perm) (rs : List (Int × Nat)) : lockFault locks p rs =
    match lockHits locks p rs with
    | [] => none
    | h :: t =>
      let sub := t.foldl (fun m x => min m x.1) h.1
      let shared := ((lockHits locks p rs).filter fun x => x.1 == sub).map Prod.snd
      some ⟨16, sub, shared.foldl min (shared.headD 0)⟩ := rfl

theorem mem_lockHits {locks : List Lock} {p : Perm} {rs : List (Int × Nat)} {sub x : Int} :
    (sub, x) ∈ lockHits locks p rs ↔ ∃ l ∈ locks, ∃ r ∈ rs, lockSub l.kind p = some sub ∧ x = max l.lo r.1 ∧
      max l.lo r.1 ≤ min l.hi (r.1 + (r.2 : Int) - 1) := by
  unfold lockHits
  simp only [List.mem_flatMap, List.mem_filterMap]
  refine exists_congr fun l => and_congr_right fun _ => exists_congr fun r => and_congr_right fun _ => ?_
  cases lockSub l.kind p with
  | none => simp
  | some sub' =>
    by_cases h : max l.lo r.1 ≤ min l.hi (r.1 + (r.2 : Int) - 1)
    · simp [h, eq_comm]
    · simp [h]

theorem lockSub_pos {k : LockKind} {p : Perm} {sub : Int} (h : lockSub k p = some sub) :
    1 ≤ sub ∧ (sub = 1 → k = .dest) := by
  cases k <;> cases p <;> simp [lockSub] at h <;> simp [← h]

/-- Where no lock refuses the access, each lock that its kind would refuse lies apart from its ranges (R292). -/
theorem lockFault_eq_none {locks : List Lock} {p : Perm} {rs : List (Int × Nat)} (h : lockFault locks p rs = none)
    {l : Lock} (hl : l ∈ locks) (hs : lockSub l.kind p ≠ none) {r : Int × Nat} (hr : r ∈ rs) :
    min l.hi (r.1 + (r.2 : Int) - 1) < max l.lo r.1 := by
  by_contra hc
  obtain ⟨sub, hsub⟩ := Option.ne_none_iff_exists'.1 hs
  have hm := mem_lockHits.2 ⟨l, hl, r, hr, hsub, rfl, not_lt.1 hc⟩
  rw [lockFault_eq] at h
  cases e : lockHits locks p rs with
  | nil => rw [e] at hm; cases hm
  | cons a t => rw [e] at h; cases h

/-- A destination range that meets the access gives the range-lock fault its subcode 1, at an address of both (R292). -/
theorem lockFault_of_dest {locks : List Lock} {p : Perm} {rs : List (Int × Nat)} {x : Int}
    (hd : (1, x) ∈ lockHits locks p rs) :
    ∃ y, lockFault locks p rs = some ⟨16, 1, y⟩ ∧ (1, y) ∈ lockHits locks p rs := by
  rw [lockFault_eq]
  have hpos : ∀ q ∈ lockHits locks p rs, 1 ≤ q.1 := fun q hq => by
    obtain ⟨l, -, r, -, hsub, -⟩ := mem_lockHits.1 hq
    exact (lockSub_pos hsub).1
  cases e : lockHits locks p rs with
  | nil => rw [e] at hd; cases hd
  | cons h t =>
    rw [e] at hd hpos
    obtain ⟨hmem, hle, hall⟩ := foldl_min_spec (t.map Prod.fst) h.1
    have hsub : t.foldl (fun m x => min m x.1) h.1 = 1 := by
      rw [← List.foldl_map (f := Prod.fst) (g := min)]
      refine le_antisymm ?_ ?_
      · obtain rfl | ht := List.mem_cons.1 hd
        · exact hle
        · exact hall _ (List.mem_map_of_mem ht)
      · obtain hm | hm := hmem
        · rw [hm]; exact hpos h (by simp)
        · obtain ⟨q, hq, hm⟩ := List.mem_map.1 hm
          rw [← hm]; exact hpos q (by simp [hq])
    simp only [hsub]
    refine ⟨_, rfl, ?_⟩
    have hx : x ∈ (((h :: t).filter fun q => q.1 == 1).map Prod.snd) :=
      List.mem_map.2 ⟨_, List.mem_filter.2 ⟨hd, rfl⟩, rfl⟩
    generalize hsh : (((h :: t).filter fun q => q.1 == 1).map Prod.snd) = shared at hx
    have hin : shared.foldl min (shared.headD 0) ∈ shared := by
      obtain hm | hm := (foldl_min_spec shared (shared.headD 0)).1
      · rw [hm]; cases shared with
        | nil => cases hx
        | cons a l => simp
      · exact hm
    rw [← hsh] at hin ⊢
    obtain ⟨⟨sub, y⟩, hq, hy⟩ := List.mem_map.1 hin
    obtain ⟨hq, h1⟩ := List.mem_filter.1 hq
    rw [← hy, ← eq_of_beq h1]; exact hq

/-! ### Pieces of pages and their translation -/

theorem pagePieces_succ (m : Nat) (v : Int) (n : Nat) : ∃ room : Nat, pagePieces (m + 1) v n =
    if n ≤ room then [(v, n)] else (v, room) :: pagePieces m (v + room) (n - room) := ⟨_, rfl⟩

theorem pagePieces_eq_cons (m : Nat) (v : Int) (n : Nat) : ∃ k l, pagePieces m v n = (v, k) :: l := by
  cases m with
  | zero => exact ⟨_, _, rfl⟩
  | succ m =>
    obtain ⟨room, e⟩ := pagePieces_succ m v n
    rw [e]; split <;> exact ⟨_, _, rfl⟩

theorem pagePieces_sum (m : Nat) (v : Int) (n : Nat) : ((pagePieces m v n).map Prod.snd).sum = n := by
  induction m generalizing v n with
  | zero => simp [pagePieces]
  | succ m ih =>
    obtain ⟨room, e⟩ := pagePieces_succ m v n
    rw [e]; split
    · simp
    · rw [List.map_cons, List.sum_cons, ih]; simp only; omega

theorem pagePieces_within (m : Nat) (v : Int) (n : Nat) :
    ∀ r ∈ pagePieces m v n, v ≤ r.1 ∧ r.1 + (r.2 : Int) ≤ v + n := by
  induction m generalizing v n with
  | zero => simp [pagePieces]
  | succ m ih =>
    obtain ⟨room, e⟩ := pagePieces_succ m v n
    rw [e]; split
    · simp
    · next hroom =>
      intro r hr
      obtain rfl | hr := List.mem_cons.1 hr
      · simp only; omega
      · have := ih _ _ r hr; omega

theorem Cause.first_of_least {c : Cause} {r : Except Cause (List Seg)} (h : ∀ d, r = .error d → c.sub ≤ d.sub) :
    c.first r = c := by
  cases r with
  | ok l => rfl
  | error d => exact if_neg (not_lt.2 (h d rfl))

section Segments

variable {s : State} {a : Agent} {p : Perm}

theorem State.segmentOf_ok {v : Int} {n : Nat} {g : Seg} (h : s.segmentOf a p v n = .ok g) :
    g.v = v ∧ g.n = n ∧ permits g.leaf p = true := by
  unfold State.segmentOf at h
  split at h
  · cases h
  · simp only at h
    split at h
    · cases h
    · next hp =>
      split at h
      · cases h
      · cases h; exact ⟨rfl, rfl, by simpa using hp⟩

theorem State.segmentOf_error {v : Int} {n : Nat} {c : Cause} (h : s.segmentOf a p v n = .error c) : 1 ≤ c.sub := by
  unfold State.segmentOf at h
  split at h
  · cases h; exact le_rfl
  · simp only at h
    split at h
    · cases h; exact one_le_two
    · split at h
      · cases h; exact le_rfl
      · cases h

theorem State.segmentOf_unmapped {v : Int} {n : Nat} (h : s.leafFor a.queue a.qroot v = none) :
    s.segmentOf a p v n = .error ⟨6, 1, v⟩ := by simp [State.segmentOf, h]

theorem State.segments_error {l : List (Int × Nat)} {c : Cause} (h : s.segments a p l = .error c) : 1 ≤ c.sub := by
  induction l generalizing c with
  | nil => cases h
  | cons r l ih =>
    obtain ⟨v, n⟩ := r
    unfold State.segments at h
    split at h
    · next d hd =>
      cases h
      unfold Cause.first
      split
      · next e he => split <;> [exact ih he; exact State.segmentOf_error hd]
      · exact State.segmentOf_error hd
    · split at h
      · next he => cases h; exact ih he
      · cases h

/-- A range whose first tryte no leaf maps is not mapped, at its address (R49, R253). -/
theorem State.segments_unmapped {v : Int} {n : Nat} {l : List (Int × Nat)} (h : s.leafFor a.queue a.qroot v = none) :
    s.segments a p ((v, n) :: l) = .error ⟨6, 1, v⟩ := by
  simp only [State.segments, State.segmentOf_unmapped h]
  rw [Cause.first_of_least fun d hd => State.segments_error hd]

theorem State.segments_cons_ok {r : Int × Nat} {l : List (Int × Nat)} {segs : List Seg}
    (h : s.segments a p (r :: l) = .ok segs) :
    ∃ g k, segs = g :: k ∧ s.segmentOf a p r.1 r.2 = .ok g ∧ s.segments a p l = .ok k := by
  obtain ⟨v, n⟩ := r
  unfold State.segments at h
  split at h
  · cases h
  · next g hg =>
    split at h
    · cases h
    · next k hk => cases h; exact ⟨g, k, rfl, hg, hk⟩

theorem State.segments_append_ok {l k : List (Int × Nat)} {segs : List Seg} (h : s.segments a p (l ++ k) = .ok segs) :
    ∃ u w, segs = u ++ w ∧ s.segments a p l = .ok u ∧ s.segments a p k = .ok w := by
  induction l generalizing segs with
  | nil => exact ⟨[], segs, rfl, rfl, h⟩
  | cons r l ih =>
    obtain ⟨g, rest, rfl, hg, hrest⟩ := State.segments_cons_ok h
    obtain ⟨u, w, rfl, hu, hw⟩ := ih hrest
    exact ⟨g :: u, w, rfl, by simp only [State.segments, hg, hu], hw⟩

theorem State.segments_ok {l : List (Int × Nat)} {segs : List Seg} (h : s.segments a p l = .ok segs) :
    segs.map Seg.n = l.map Prod.snd ∧ ∀ g ∈ segs, (g.v, g.n) ∈ l ∧ permits g.leaf p = true := by
  induction l generalizing segs with
  | nil => cases h; simp
  | cons r l ih =>
    obtain ⟨g, k, rfl, hg, hk⟩ := State.segments_cons_ok h
    obtain ⟨hv, hn, hp⟩ := State.segmentOf_ok hg
    obtain ⟨hsum, hall⟩ := ih hk
    refine ⟨by simp [hn, hsum], fun x hx => ?_⟩
    obtain rfl | hx := List.mem_cons.1 hx
    · exact ⟨by simp [hv, hn], hp⟩
    · exact ⟨List.mem_cons_of_mem _ (hall x hx).1, (hall x hx).2⟩

/-- Translation knows of an agent only its queue and its tables. -/
theorem State.segments_congr {b : Agent} (hq : b.queue = a.queue) (hr : b.qroot = a.qroot) (l : List (Int × Nat)) :
    s.segments b p l = s.segments a p l := by
  induction l with
  | nil => rfl
  | cons r l ih => simp only [State.segments, State.segmentOf, hq, hr, ih]

/-- The pieces cover n trytes from x on, each on a page that permits the access. -/
def Covers (p : Perm) (l : List Seg) (x : Int) (n : Nat) : Prop :=
  (l.map Seg.n).sum = n ∧ ∀ g ∈ l, x ≤ g.v ∧ g.v + g.n ≤ x + n ∧ permits g.leaf p = true

/-- The pieces of pages of one range, translated, cover it. -/
theorem State.segments_covers {m n : Nat} {x : Int} {segs : List Seg}
    (h : s.segments a p (pagePieces m x n) = .ok segs) : Covers p segs x n := by
  obtain ⟨hsum, hall⟩ := State.segments_ok h
  refine ⟨by rw [hsum, pagePieces_sum], fun g hg => ?_⟩
  obtain ⟨hmem, hp⟩ := hall g hg
  obtain ⟨hlo, hhi⟩ := pagePieces_within _ _ _ _ hmem
  exact ⟨hlo, hhi, hp⟩

end Segments

/-! ### The order of the checks -/

/-- The subcode of an alignment that an address does not have. -/
def skewOf (al : Option Align) (ea : Int) : Option Int :=
  match al with
  | none => none
  | some al => if ea % al.mult = 0 then none else some al.sub

/-- Whether an address stands in the lane window of an agent below its SPLIMIT. -/
def Agent.low (a : Agent) (ea : Int) : Bool :=
  match a.win with
  | none => false
  | some w => w.holds ea && decide (ea < w.splimit)

/-- The checks that follow translation: the windows below 0 and the range locks. -/
def State.locked (s : State) (a : Agent) (p : Perm) (ea : Int) (whole : Bool) (rs : List (Int × Nat)) (segs : List Seg) :
    Except Cause (List Seg) :=
  match s.windowFault ea whole p segs with
  | some c => .error c
  | none =>
    match if p = .fetch ∨ p = .none then none else lockFault (s.memLocks a.core) p rs with
    | some c => .error c
    | none => .ok segs

/-- The pieces of the pages of ranges. -/
def piecesOf (rs : List (Int × Nat)) : List (Int × Nat) :=
  rs.flatMap fun r => pagePieces (2 * (r.2 / 531441) + 4) r.1 r.2

/-- The checks from translation on. -/
def State.translate (s : State) (a : Agent) (p : Perm) (ea : Int) (whole : Bool) (rs : List (Int × Nat)) :
    Except Cause (List Seg) :=
  match s.segments a p (piecesOf rs) with
  | .error c => .error c
  | .ok segs => s.locked a p ea whole rs segs

theorem skewOf_eq_none {al : Option Align} {ea : Int} : skewOf al ea = none ↔ ∀ k sub, al = some ⟨k, sub⟩ → ea % k = 0 := by
  cases al with
  | none => simp [skewOf]
  | some al => obtain ⟨k, sub⟩ := al; simp [skewOf]

theorem piecesOf_one (x : Int) (n : Nat) : piecesOf [(x, n)] = pagePieces (2 * (n / 531441) + 4) x n := by simp [piecesOf]

theorem piecesOf_two (x y : Int) (m n : Nat) : piecesOf [(x, m), (y, n)] =
    pagePieces (2 * (m / 531441) + 4) x m ++ pagePieces (2 * (n / 531441) + 4) y n := by simp [piecesOf]

section Check

variable {s : State} {a : Agent} {p : Perm} {ea : Int} {n : Nat} {al : Option Align} {sector whole : Bool}
  {rs : List (Int × Nat)} {segs : List Seg}

theorem nonCanonical_eq_none (h : fits 48 ea = true) (hl : fits 48 (ea + n - 1) = true) : nonCanonical ea n = none := by
  simp [nonCanonical, canonical, h, hl]

theorem nonCanonical_eq_some (h : fits 48 ea = false ∨ fits 48 (ea + n - 1) = false) :
    nonCanonical ea n = some (if fits 48 ea = true then maxTrits 48 + 1 else ea) := by
  cases hf : fits 48 ea with
  | false => simp [nonCanonical, canonical, hf]
  | true =>
    have hl : fits 48 (ea + n - 1) = false := by simpa [hf] using h
    simp [nonCanonical, canonical, hf, hl]

theorem State.check_user (hu : a.system = false ∧ ea < 0) : s.check a p ea n al sector whole = .error ⟨4, 3, ea⟩ := by
  unfold State.check
  exact if_pos (by simp [hu.1, hu.2])

theorem State.check_far (hu : ¬ (a.system = false ∧ ea < 0)) (hp : p ≠ .fetch)
    (hf : fits 48 ea = false ∨ fits 48 (ea + n - 1) = false) : s.check a p ea n al sector whole =
      .error ⟨5, 1, if fits 48 ea = true then maxTrits 48 + 1 else ea⟩ := by
  unfold State.check
  rw [if_neg (by simpa using hu), nonCanonical_eq_some hf]
  simp only [if_neg hp]

/-- The checks of an access whose address the privilege admits and is canonical (R49, R298). -/
theorem State.check_canonical (hu : ¬ (a.system = false ∧ ea < 0)) (h : fits 48 ea = true)
    (hl : fits 48 (ea + n - 1) = true) : s.check a p ea n al sector whole =
    match rangesOf a ea n (whole && n == 6), skewOf al ea with
    | none, _ => .error ⟨7, 1, ea⟩
    | some _, some sub => .error ⟨7, sub, ea⟩
    | some rs, none =>
      if sector = true ∧ ea / 81 ≠ (ea + n - 1) / 81 then .error ⟨7, 3, ea⟩
      else if a.low ea = true then .error ⟨8, 1, ea⟩ else s.translate a p ea whole rs := by
  unfold State.check
  rw [if_neg (by simpa using hu), nonCanonical_eq_none h hl]
  change (match rangesOf a ea n (whole && n == 6), skewOf al ea with
    | none, _ => _ | _, some sub => _ | some rs, none => _) = _
  cases rangesOf a ea n (whole && n == 6) <;> cases skewOf al ea <;> rfl

/-- What an access that is checked has passed. -/
theorem State.check_ok (hr : s.check a p ea n al sector whole = .ok segs) : ¬ (a.system = false ∧ ea < 0) ∧
    fits 48 ea = true ∧ fits 48 (ea + n - 1) = true ∧ skewOf al ea = none ∧
    ¬ (sector = true ∧ ea / 81 ≠ (ea + n - 1) / 81) ∧ a.low ea = false ∧
    ∃ rs, rangesOf a ea n (whole && n == 6) = some rs ∧ s.translate a p ea whole rs = .ok segs := by
  have hu : ¬ (a.system = false ∧ ea < 0) := fun hu => by rw [State.check_user hu] at hr; cases hr
  obtain ⟨h, hl⟩ : fits 48 ea = true ∧ fits 48 (ea + n - 1) = true := by
    by_contra hf
    have hn := nonCanonical_eq_some (ea := ea) (n := n) (by
      cases h : fits 48 ea <;> cases hl : fits 48 (ea + n - 1) <;> simp_all)
    unfold State.check at hr
    rw [if_neg (by simpa using hu), hn] at hr
    cases hr
  rw [State.check_canonical hu h hl] at hr
  split at hr
  · cases hr
  · cases hr
  · next rs hrs hskew =>
    split at hr
    · cases hr
    · next hs =>
      split at hr
      · cases hr
      · next hlow => exact ⟨hu, h, hl, hskew, hs, by simpa using hlow, rs, hrs, hr⟩

theorem State.translate_ok (hr : s.translate a p ea whole rs = .ok segs) :
    s.segments a p (piecesOf rs) = .ok segs ∧ s.windowFault ea whole p segs = none ∧
      (p ≠ .fetch → p ≠ .none → lockFault (s.memLocks a.core) p rs = none) := by
  unfold State.translate State.locked at hr
  split at hr
  · cases hr
  · next segs' hsegs =>
    split at hr
    · cases hr
    · next hw =>
      split at hr
      · cases hr
      · next hl =>
        cases hr
        exact ⟨hsegs, hw, fun hf hn => by simpa [hf, hn] using hl⟩

/-- An access whose first tryte no leaf maps is not mapped there (R49, R253). -/
theorem State.translate_unmapped {x : Int} {n : Nat} {rs : List (Int × Nat)} (h : s.leafFor a.queue a.qroot x = none) :
    s.translate a p ea whole ((x, n) :: rs) = .error ⟨6, 1, x⟩ := by
  obtain ⟨k, l, e⟩ := pagePieces_eq_cons (2 * (n / 531441) + 4) x n
  unfold State.translate piecesOf
  rw [List.flatMap_cons, e, List.cons_append, State.segments_unmapped h]

/-! ### Without a lane window -/

theorem rangesOf_plain (hw : a.win = none) (pair : Bool) : rangesOf a ea n pair = some [(ea, n)] := by
  simp [rangesOf, hw]

/-- The checks from alignment on of an access without a lane window. -/
theorem State.check_plain (hw : a.win = none) (hu : ¬ (a.system = false ∧ ea < 0))
    (hfar : ¬ (fits 48 ea = false ∨ fits 48 (ea + n - 1) = false)) : s.check a p ea n al sector whole =
    match skewOf al ea with
    | some sub => .error ⟨7, sub, ea⟩
    | none => if sector = true ∧ ea / 81 ≠ (ea + n - 1) / 81 then .error ⟨7, 3, ea⟩ else
      s.translate a p ea whole [(ea, n)] := by
  rw [not_or, Bool.not_eq_false, Bool.not_eq_false] at hfar
  rw [State.check_canonical hu hfar.1 hfar.2, rangesOf_plain hw]
  cases skewOf al ea with
  | some sub => rfl
  | none => simp only [Agent.low, hw, Bool.false_eq_true, if_false]

/-- What an access that is checked has passed, without a lane window: its pieces cover it, and no range lock that would
refuse it meets it. -/
theorem State.check_plain_ok (hw : a.win = none) (hf : p ≠ .fetch) (hn : p ≠ .none) (h1 : 1 ≤ n)
    (hr : s.check a p ea n al sector whole = .ok segs) : Covers p segs ea n ∧
      ∀ l ∈ s.memLocks a.core, l.lo ≤ l.hi → lockSub l.kind p ≠ none → l.hi < ea ∨ ea + n - 1 < l.lo := by
  obtain ⟨-, -, -, -, -, -, rs, hrs, htr⟩ := State.check_ok hr
  rw [rangesOf_plain hw] at hrs
  cases hrs
  obtain ⟨hsegs, -, hlock⟩ := State.translate_ok htr
  rw [piecesOf_one] at hsegs
  refine ⟨State.segments_covers hsegs, fun l hl hle hsub => ?_⟩
  have hapart := lockFault_eq_none (hlock hf hn) hl hsub (List.mem_singleton_self (ea, n))
  simp only at hapart
  omega

/-! ### With a lane window -/

section Window

variable {w : PrivWin}

theorem PrivWin.holds_iff {x : Int} : w.holds x = true ↔ w.plow ≤ x ∧ x < w.plow + 3 * w.pwords := by simp [PrivWin.holds]

theorem any_holds_iff : ((List.range n).any fun i => w.holds (ea + (i : Int))) = true ↔
    ∃ i < n, w.holds (ea + (i : Int)) = true := by simp

theorem rangesOf_outside (hw : a.win = some w) (h : ∀ i < n, ¬ w.holds (ea + (i : Int)) = true) (pair : Bool) :
    rangesOf a ea n pair = some [(ea, n)] := by
  have : ¬ ((List.range n).any fun i => w.holds (ea + (i : Int))) = true := by
    rw [any_holds_iff]; exact fun ⟨i, hi, hh⟩ => h i hi hh
  simp only [rangesOf, hw, Bool.not_eq_true] at this ⊢
  rw [this]; rfl

theorem rangesOf_window (hw : a.win = some w) (h : ∃ i < n, w.holds (ea + (i : Int)) = true) (pair : Bool) :
    rangesOf a ea n pair =
    if w.holds ea = true ∧ (ea - w.plow) % 3 + n ≤ 3 then some [(w.remap ea, n)]
    else if pair = true ∧ w.holds ea = true ∧ (ea - w.plow) % 3 = 0 ∧ w.holds (ea + 5) = true then
      some [(w.remap ea, 3), (w.remap (ea + 3), 3)]
    else none := by
  simp only [rangesOf, hw, any_holds_iff.2 h]; rfl

theorem holds_head (h1 : 1 ≤ n) (h : w.holds ea = true) : ∃ i < n, w.holds (ea + (i : Int)) = true :=
  ⟨0, h1, by simpa using h⟩

theorem Agent.low_window (hw : a.win = some w) : a.low ea = true ↔ w.holds ea = true ∧ ea < w.splimit := by
  simp [Agent.low, hw]

/-- An access that lies apart from the lane window goes as without one. -/
theorem State.check_outside (hw : a.win = some w) (h1 : 1 ≤ n) (hu : ¬ (a.system = false ∧ ea < 0))
    (hc : fits 48 ea = true) (hc' : fits 48 (ea + n - 1) = true) (h : ∀ i < n, ¬ w.holds (ea + (i : Int)) = true) :
    s.check a p ea n al sector whole = s.check { a with win := none } p ea n al sector whole := by
  have hlow : a.low ea = false := by
    rw [← Bool.not_eq_true, Agent.low_window hw]
    exact fun hh => h 0 h1 (by simpa using hh.1)
  rw [State.check_plain (a := { a with win := none }) rfl hu (by simp [hc, hc']), State.check_canonical hu hc hc',
    rangesOf_outside hw h]
  cases skewOf al ea with
  | some sub => rfl
  | none =>
    simp only [hlow, Bool.false_eq_true, if_false, State.translate,
      State.segments_congr (s := s) (p := p) (a := a) (b := { a with win := none }) rfl rfl]
    rfl

/-- An access that meets the lane window but stands in no word and no pair of words of it is misaligned (R264). -/
theorem State.check_astride (hw : a.win = some w) (hu : ¬ (a.system = false ∧ ea < 0))
    (hc : fits 48 ea = true) (hc' : fits 48 (ea + n - 1) = true) (h : ∃ i < n, w.holds (ea + (i : Int)) = true)
    (hone : ¬ (w.holds ea = true ∧ (ea - w.plow) % 3 + n ≤ 3))
    (htwo : ¬ ((whole && n == 6) = true ∧ w.holds ea = true ∧ (ea - w.plow) % 3 = 0 ∧ w.holds (ea + 5) = true)) :
    s.check a p ea n al sector whole = .error ⟨7, 1, ea⟩ := by
  rw [State.check_canonical hu hc hc', rangesOf_window hw h, if_neg hone, if_neg htwo]

/-- An access performed in the lane window: the stack limit, then translation where its words lie (R43, R263). -/
theorem State.check_inside {x : Int} {k : Nat} (hw : a.win = some w) (hu : ¬ (a.system = false ∧ ea < 0))
    (hc : fits 48 ea = true) (hc' : fits 48 (ea + n - 1) = true) (hin : w.holds ea = true)
    (hrs : rangesOf a ea n (whole && n == 6) = some ((x, k) :: rs)) (hal : ∀ k sub, al = some ⟨k, sub⟩ → ea % k = 0)
    (hsec : sector = true → ea / 81 = (ea + n - 1) / 81) :
    (ea < w.splimit → s.check a p ea n al sector whole = .error ⟨8, 1, ea⟩) ∧
    (w.splimit ≤ ea → s.leafFor a.queue a.qroot x = none → s.check a p ea n al sector whole = .error ⟨6, 1, x⟩) ∧
    ∀ segs, s.check a p ea n al sector whole = .ok segs →
      w.splimit ≤ ea ∧ s.segments a p (piecesOf ((x, k) :: rs)) = .ok segs := by
  have hr : s.check a p ea n al sector whole =
      if ea < w.splimit then .error ⟨8, 1, ea⟩ else s.translate a p ea whole ((x, k) :: rs) := by
    rw [State.check_canonical hu hc hc', hrs, skewOf_eq_none.2 hal]
    simp only [Agent.low_window hw, hin, true_and]
    exact if_neg fun h => h.2 (hsec h.1)
  by_cases hlt : ea < w.splimit
  · rw [hr, if_pos hlt]
    exact ⟨fun _ => rfl, fun hle => absurd hlt (not_lt.2 hle), nofun⟩
  · rw [hr, if_neg hlt]
    exact ⟨fun h => absurd h hlt, fun _ hleaf => State.translate_unmapped hleaf,
      fun segs hok => ⟨not_lt.1 hlt, (State.translate_ok hok).1⟩⟩

/-- An access of one word of the lane window (R43, R263). -/
theorem State.check_oneWord (hw : a.win = some w) (h1 : 1 ≤ n) (hu : ¬ (a.system = false ∧ ea < 0))
    (hc : fits 48 ea = true) (hc' : fits 48 (ea + n - 1) = true)
    (hone : w.holds ea = true ∧ (ea - w.plow) % 3 + n ≤ 3) (hal : ∀ k sub, al = some ⟨k, sub⟩ → ea % k = 0)
    (hsec : sector = true → ea / 81 = (ea + n - 1) / 81) :
    let r := s.check a p ea n al sector whole
    (ea < w.splimit → r = .error ⟨8, 1, ea⟩) ∧
    (w.splimit ≤ ea → s.leafFor a.queue a.qroot (w.remap ea) = none → r = .error ⟨6, 1, w.remap ea⟩) ∧
    ∀ segs, r = .ok segs → w.splimit ≤ ea ∧ Covers p segs (w.remap ea) n := by
  obtain ⟨hlow, hleaf, hok⟩ := State.check_inside (s := s) (p := p) hw hu hc hc' hone.1
    ((rangesOf_window hw (holds_head h1 hone.1) (whole && n == 6)).trans (if_pos hone)) hal hsec
  refine ⟨hlow, hleaf, fun segs hr => ?_⟩
  obtain ⟨hle, hsegs⟩ := hok segs hr
  rw [piecesOf_one] at hsegs
  exact ⟨hle, State.segments_covers hsegs⟩

/-- An access of an address pair at a word boundary of the lane window (R43, R264). -/
theorem State.check_twoWords (hw : a.win = some w) (hu : ¬ (a.system = false ∧ ea < 0)) (hc : fits 48 ea = true)
    (hc' : fits 48 (ea + n - 1) = true)
    (htwo : whole = true ∧ n = 6 ∧ w.holds ea = true ∧ (ea - w.plow) % 3 = 0 ∧ w.holds (ea + 5) = true)
    (hal : ∀ k sub, al = some ⟨k, sub⟩ → ea % k = 0) (hsec : sector = true → ea / 81 = (ea + n - 1) / 81) :
    let r := s.check a p ea n al sector whole
    (ea < w.splimit → r = .error ⟨8, 1, ea⟩) ∧
    (w.splimit ≤ ea → s.leafFor a.queue a.qroot (w.remap ea) = none → r = .error ⟨6, 1, w.remap ea⟩) ∧
    ∀ segs, r = .ok segs → w.splimit ≤ ea ∧
      ∃ l k, segs = l ++ k ∧ Covers p l (w.remap ea) 3 ∧ Covers p k (w.remap (ea + 3)) 3 := by
  obtain ⟨hwhole, h6, hin, ht, hin5⟩ := htwo
  have hone : ¬ (w.holds ea = true ∧ (ea - w.plow) % 3 + n ≤ 3) := fun h => by have := h.2; omega
  obtain ⟨hlow, hleaf, hok⟩ := State.check_inside (s := s) (p := p) hw hu hc hc' hin
    ((rangesOf_window hw (holds_head (by omega) hin) (whole && n == 6)).trans
      ((if_neg hone).trans (if_pos ⟨by simp [hwhole, h6], hin, ht, hin5⟩))) hal hsec
  refine ⟨hlow, hleaf, fun segs hr => ?_⟩
  obtain ⟨hle, hsegs⟩ := hok segs hr
  rw [piecesOf_two] at hsegs
  obtain ⟨l, k, e, hl, hk⟩ := State.segments_append_ok hsegs
  exact ⟨hle, l, k, e, State.segments_covers hl, State.segments_covers hk⟩

end Window

/-! ### Range locks of the core -/

/-- An access that passes every check but that of the locks of its core takes the fault of those locks. -/
theorem State.check_lockFault {core : Nat} {c : Cause} (hw : a.win = none) (hf : p ≠ .fetch) (hn : p ≠ .none)
    (hr : s.check { a with core := core } p ea n al sector whole = .ok segs)
    (hl : lockFault (s.memLocks a.core) p [(ea, n)] = some c) : s.check a p ea n al sector whole = .error c := by
  obtain ⟨hu, hc, hc', hskew, hsec, -, rs, hrs, htr⟩ := State.check_ok hr
  rw [rangesOf_plain (a := { a with core := core }) hw] at hrs
  cases hrs
  obtain ⟨hsegs, hwin, -⟩ := State.translate_ok htr
  have hsegs : s.segments a p (piecesOf [(ea, n)]) = .ok segs :=
    (State.segments_congr (a := { a with core := core }) (b := a) rfl rfl _).trans hsegs
  rw [State.check_plain hw hu (by simp [hc, hc']), hskew]
  simp only [if_neg hsec, State.translate, hsegs, State.locked, hwin, if_neg (not_or.2 ⟨hf, hn⟩), hl]

end Check

/-- Settles O32: the checks without and with a lane window, and the fault that a destination range raises last. -/
theorem accessChecks : Obligations.AccessChecks := by
  unfold Obligations.AccessChecks
  refine ⟨?plain, ?window, ?locks⟩
  case plain =>
    intro s a p ea n al sector whole hw hf hn h1 r user far skew split
    have hskew : ¬ skew → skewOf al ea = none := fun h =>
      skewOf_eq_none.2 fun k sub e => by_contra fun hk => h ⟨k, sub, e, hk⟩
    refine ⟨State.check_user, fun hu => State.check_far hu hf, fun hu hc k sub e hk => ?_, fun hu hc hs hsp => ?_,
      fun hu hc hs hsp hleaf => ?_, fun segs hr => ?_⟩
    · refine (State.check_plain hw hu hc).trans ?_
      subst e
      simp only [skewOf, if_neg hk]
    · refine (State.check_plain hw hu hc).trans ?_
      rw [hskew hs]; exact if_pos hsp
    · refine (State.check_plain hw hu hc).trans ?_
      rw [hskew hs]; exact (if_neg hsp).trans (State.translate_unmapped hleaf)
    · obtain ⟨hu, hc, hc', hsk, hsec, -⟩ := State.check_ok hr
      obtain ⟨⟨hsum, hall⟩, hlocks⟩ := State.check_plain_ok hw hf hn h1 hr
      exact ⟨hu, by simp [far, hc, hc'], fun ⟨k, sub, e, hk⟩ => hk (skewOf_eq_none.1 hsk k sub e), hsec, hsum, hall,
        hlocks⟩
  case window =>
    simp only [← PrivWin.holds_iff]
    intro s a w p ea n al sector whole hw _ _ h1 hu hc hc'
    have hu : ¬ (a.system = false ∧ ea < 0) := by rintro ⟨h, hlt⟩; simp [h] at hu; omega
    refine ⟨State.check_outside hw h1 hu hc hc', fun hin hone htwo => ?_, fun hwords hal hsec => ?_⟩
    · exact State.check_astride hw hu hc hc' hin hone fun ⟨hp, h⟩ => htwo ⟨by simp_all, by simp_all, h⟩
    · obtain hone | htwo := hwords
      · obtain ⟨hlow, hleaf, hok⟩ := State.check_oneWord (s := s) (p := p) (whole := whole) hw h1 hu hc hc' hone hal hsec
        exact ⟨hlow, hleaf, fun segs hr => ⟨(hok segs hr).1, fun _ => (hok segs hr).2,
          fun ⟨_, h6, _⟩ => by have := hone.2; omega⟩⟩
      · obtain ⟨hlow, hleaf, hok⟩ := State.check_twoWords (s := s) (p := p) hw hu hc hc' htwo hal hsec
        exact ⟨hlow, hleaf, fun segs hr => ⟨(hok segs hr).1, fun hone => by have := hone.2; have := htwo.2.1; omega,
          fun _ => (hok segs hr).2⟩⟩
  case locks =>
    intro s a p ea n core al sector whole segs l hw hf hn _ hr hl hcore hscratch hkind ⟨x, hx⟩
    have hmem : l ∈ s.memLocks a.core := by simp [State.memLocks, hl, hcore, hscratch]
    have hhit : (1, max l.lo ea) ∈ lockHits (s.memLocks a.core) p [(ea, n)] :=
      mem_lockHits.2 ⟨l, hmem, (ea, n), by simp, by rw [hkind]; rfl, rfl, by simp only; omega⟩
    obtain ⟨y, hfault, hy⟩ := lockFault_of_dest hhit
    obtain ⟨m, hm, r, hmr, hsub, rfl, hle⟩ := mem_lockHits.1 hy
    obtain rfl := List.mem_singleton.1 hmr
    have hm' : m ∈ s.locks ∧ m.core = a.core := by
      simp only [State.memLocks, List.mem_filter] at hm; simp_all
    simp only at hle
    exact ⟨_, State.check_lockFault hw hf hn hr hfault, by simp only; omega, by simp only; omega, m, hm'.1, hm'.2,
      (lockSub_pos hsub).2 rfl, by simp only; omega, by simp only; omega⟩

end Sys2Proof.Machine

/-!
SUPPORT. Control transfers of a thread of its own: where a branch goes and what a refused target leaves, and the return stack
while it needs no memory (R41, R44, R120 to R125).
-/

namespace Sys2Proof.Machine

/-! ### A taken branch -/

/-- The thread that a taken branch to x makes of t (R120, R271). -/
def State.branched (s : State) (t : Thread) (x : Int) : Thread := { t with capture := s.capture t x }.jump x

theorem Thread.goesTo_jump (t : Thread) (x : Int) : (t.jump x).GoesTo x := ⟨rfl, rfl, rfl⟩

theorem Thread.keeps_jump (t : Thread) (l : List (Int × List Word)) (x : Int) :
    t.Keeps [] ({ t with capture := l }.jump x) :=
  ⟨⟨rfl, fun _ _ => rfl, fun _ _ => rfl, fun _ _ => rfl, rfl, rfl, rfl, rfl, rfl⟩, rfl⟩

theorem Thread.keeps_jump_writeG (t : Thread) (l : List (Int × List Word)) (x : Int) (d : Nat) (v : Int) :
    t.Keeps [gUse d] (({ t with capture := l }.jump x).writeG d v) := by
  refine ⟨⟨by simp, fun i hi => ?_, by simp [Thread.readA], by simp [Thread.readC], by simp, by simp, by simp, by simp,
    by simp⟩, by simp⟩
  exact Thread.readG_writeG_ne ({ t with capture := l }.jump x) v (by simpa [gUse_inj] using hi)

theorem Thread.keeps_jump_writeA (t : Thread) (l : List (Int × List Word)) (x : Int) (d : Nat) (v : Int) :
    t.Keeps [aUse d] (({ t with capture := l }.jump x).writeA d v) := by
  refine ⟨⟨rfl, fun _ _ => rfl, fun i hi => ?_, fun _ _ => rfl, rfl, rfl, rfl, rfl, rfl⟩, rfl⟩
  exact Thread.readA_writeA_ne ({ t with capture := l }.jump x) v (by simpa [aUse_inj] using hi)

section Alone

variable {s : State} {gd : Guard} {uses : List RegUse} {t : Thread} {x : Int} {c : Cause} {i : Instr}
  {F : Thread → State → Except Cause State} {f : Thread → Thread}

theorem State.takeBranch_ok (h : s.targetFault t x = none) : s.takeBranch t x = .ok (s.branched t x) := by
  simp only [State.takeBranch, h]; rfl

theorem State.takeBranch_error (h : s.targetFault t x = some c) : s.takeBranch t x = .error c := by
  simp only [State.takeBranch, h]

theorem branchTo_taken (h : s.targetFault t x = none) (f : Thread → Thread) :
    branchTo t s (some x) f = .ok (s.becomes t (f (s.branched t x))) := by
  simp only [branchTo, State.takeBranch_ok h]; rfl

theorem branchTo_fault (h : s.targetFault t x = some c) (f : Thread → Thread) : branchTo t s (some x) f = .error c := by
  simp only [branchTo, State.takeBranch_error h]

theorem branchTo_untaken (h : s.Alone gd uses t) (f : Thread → Thread) :
    branchTo t s none f = .ok (s.becomes t (f t).advance) :=
  congrArg Except.ok (h.mapThread_eq fun t => (f t).advance)

/-- A branch to x, taken or not, of a gang of one thread, whose target a fetch accepts. -/
theorem branch_completes {x : Option Int} (h : s.Alone gd uses t) (he : exec i s = s.lanes gd uses F)
    (hF : F t s = branchTo t s x id) (hx : ∀ y, x = some y → s.targetFault t y = none) : CompletesAlone i s t fun t t' =>
      t.Keeps [] t' ∧ (x = none → t.GoesOn t') ∧ ∀ y, x = some y → t'.GoesTo y := by
  have hn := h.calm t h.mem
  unfold CompletesAlone
  rw [he]
  cases x with
  | none =>
    refine ⟨t.advance, State.lanes_becomes h (hF.trans (branchTo_untaken h id)) (by simp [hn]), t.keeps_advance, fun _ => ?_,
      nofun⟩
    exact Thread.goesOn_advance rfl rfl rfl rfl
  | some y =>
    refine ⟨s.branched t y, State.lanes_becomes h (hF.trans (branchTo_taken (hx y rfl) id)) hn, t.keeps_jump _ _, nofun, ?_⟩
    rintro _ ⟨⟩
    exact Thread.goesTo_jump _ y

/-- An instruction of one lane that takes a cause outside a handler leaves its return stack as it was. -/
theorem traps_alone (h : s.Alone gd uses t) (he : exec i s = s.lanes gd uses F) (hF : F t s = .error c)
    (hi : t.status.intrap = false) (hv : t.trapvec ≠ 0) : CompletesAlone i s t fun t t' =>
      Thread.Trapped c t t' ∧ (t'.rstack, t'.rsdepth) = (t.rstack, t.rsdepth) := by
  refine ⟨t.fault c, ?_, Thread.trapped_fault hi hv, ?_⟩
  · rw [he, State.lanes_error h hF, h.mapThread_eq fun t => t.fault c, h.settle_fault hi hv]
  · simp [Thread.fault, Thread.deliver, hi, hv]

/-! ### The branches -/

theorem j_completes {lit : Int} (h : s.Alone gd [] t) (hx : s.targetFault t (wrap 54 (t.pc + 3 * lit)) = none) :
    CompletesAlone (.j gd lit) s t fun t t' => t.Keeps [] t' ∧ t'.GoesTo (wrap 54 (t.pc + 3 * lit)) := by
  obtain ⟨t', he, hkeeps, -, hto⟩ := branch_completes (i := .j gd lit) (x := some (t.target lit)) h rfl rfl
    (by rintro _ ⟨⟩; exact hx)
  exact ⟨t', he, hkeeps, hto _ rfl⟩

theorem jx_completes {b : Nat} (h : s.Alone gd [aUse b] t) (hx : s.targetFault t (t.readA b) = none) :
    CompletesAlone (.jx gd b) s t fun t t' => t.Keeps [] t' ∧ t'.GoesTo (t.readA b) := by
  obtain ⟨t', he, hkeeps, -, hto⟩ := branch_completes (i := .jx gd b) (x := some (t.readA b)) h rfl rfl
    (by rintro _ ⟨⟩; exact hx)
  exact ⟨t', he, hkeeps, hto _ rfl⟩

theorem bc_completes {b : Nat} {lit : Int} (h : s.Alone gd [cUse b] t)
    (hx : s.targetFault t (wrap 54 (t.pc + 3 * lit)) = none) : CompletesAlone (.bc gd b lit) s t fun t t' =>
      t.Keeps [] t' ∧ if t.readC b = .zero then t.GoesOn t' else t'.GoesTo (wrap 54 (t.pc + 3 * lit)) := by
  obtain ⟨t', he, hkeeps, hon, hto⟩ := branch_completes (i := .bc gd b lit)
    (x := if t.readC b = .zero then none else some (t.target lit)) h rfl rfl
    (by intro y hy; split at hy <;> cases hy; exact hx)
  refine ⟨t', he, hkeeps, ?_⟩
  by_cases hz : t.readC b = .zero
  · rw [if_pos hz]; exact hon (if_pos hz)
  · rw [if_neg hz]; exact hto _ (if_neg hz)

theorem bcase_completes {b : Nat} {lit pos : Int} (h : s.Alone gd [cUse b] t)
    (hx : s.targetFault t (wrap 54 (t.pc + 3 * lit)) = none) (hp : s.targetFault t (wrap 54 (t.pc + 3 * pos)) = none) :
    CompletesAlone (.bcase gd b lit pos) s t fun t t' => t.Keeps [] t' ∧
      (t.readC b = .neg → t'.GoesTo (wrap 54 (t.pc + 3 * lit))) ∧ (t.readC b = .zero → t.GoesOn t') ∧
      (t.readC b = .pos → t'.GoesTo (wrap 54 (t.pc + 3 * pos))) := by
  obtain ⟨t', he, hkeeps, hon, hto⟩ := branch_completes (i := .bcase gd b lit pos) (x := caseTarget t b lit pos) h rfl rfl
    (by intro y hy; unfold caseTarget at hy; split at hy <;> cases hy <;> assumption)
  exact ⟨t', he, hkeeps, fun e => hto _ (by simp only [caseTarget, e]; rfl), fun e => hon (by simp only [caseTarget, e]),
    fun e => hto _ (by simp only [caseTarget, e]; rfl)⟩

/-- LOOP writes its counter, and branches while it is positive (R125). -/
theorem loop_completes {b : Nat} {lit : Int} (h : s.Alone gd [gUse b] t)
    (hx : s.targetFault t (wrap 54 (t.pc + 3 * lit)) = none) : CompletesAlone (.loop gd b lit) s t fun t t' =>
      t'.GotG b (wrap 27 (t.readG b - 1)) ∧ t.Keeps [gUse b] t' ∧
        if 0 < wrap 27 (t.readG b - 1) then t'.GoesTo (wrap 54 (t.pc + 3 * lit)) else t.GoesOn t' := by
  have hn := h.calm t h.mem
  have hb : b < t.g.length := Thread.owns_g h.sized (List.all_eq_true.1 h.owns (gUse b) (by simp))
  generalize hv : wrap 27 (t.readG b - 1) = v
  have he : ∀ t', branchTo t s (if 0 < v then some (t.target lit) else none) (fun t => t.writeG b v) =
      .ok (s.becomes t t') → t'.failed = none → exec (.loop gd b lit) s = .next (s.becomes t t') := by
    rw [← hv]; exact fun t' hF => State.lanes_becomes h hF
  by_cases hpos : 0 < v
  · rw [if_pos hpos] at he
    refine ⟨(s.branched t (t.target lit)).writeG b v, he _ (branchTo_taken hx _) (by simp [State.branched, hn]), ?_⟩
    simp only [hv, if_pos hpos]
    refine ⟨?_, t.keeps_jump_writeG _ _ _ _, ?_⟩
    · exact Thread.readG_writeG (s.branched t (t.target lit)) hb v b |>.trans (by simp)
    · simp [Thread.GoesTo, State.branched, Thread.jump, Thread.toBoundary, Thread.target]
  · rw [if_neg hpos] at he
    refine ⟨(t.writeG b v).advance, he _ (branchTo_untaken h _) (by simp [hn]), ?_⟩
    simp only [hv, if_neg hpos]
    exact ⟨Thread.gotG_writeG hb, t.keeps_writeG b v, Thread.goesOn_advance (by simp) (by simp) (by simp) (by simp)⟩

end Alone

/-! ### Loads and stores of one lane -/

theorem State.keysOf_length (s : State) (l : List Seg) : (s.keysOf l).length = (l.map Seg.n).sum := by
  simp [State.keysOf, List.length_flatMap]

theorem rangesOf_length {a : Agent} {ea : Int} {n : Nat} {pair : Bool} {rs : List (Int × Nat)} (hp : pair = true → n = 6)
    (h : rangesOf a ea n pair = some rs) : (rs.map Prod.snd).sum = n := by
  unfold rangesOf at h
  split at h
  · cases h; simp
  · simp only at h
    split at h
    · cases h; simp
    · split at h
      · cases h; simp
      · split at h
        · next htwo => cases h; simp [hp htwo.1]
        · cases h

theorem piecesOf_length (rs : List (Int × Nat)) : ((piecesOf rs).map Prod.snd).sum = (rs.map Prod.snd).sum := by
  induction rs with
  | nil => rfl
  | cons r rs ih =>
    have hcons : piecesOf (r :: rs) = pagePieces (2 * (r.2 / 531441) + 4) r.1 r.2 ++ piecesOf rs := by simp [piecesOf]
    rw [hcons, List.map_append, List.sum_append, ih, pagePieces_sum, List.map_cons, List.sum_cons]

/-- The pieces of a checked access hold its trytes, with and without a lane window. -/
theorem State.check_length {s : State} {a : Agent} {p : Perm} {ea : Int} {n : Nat} {al : Option Align}
    {sector whole : Bool} {segs : List Seg} (h : s.check a p ea n al sector whole = .ok segs) :
    (segs.map Seg.n).sum = n := by
  obtain ⟨-, -, -, -, -, -, rs, hrs, htr⟩ := State.check_ok h
  rw [(State.segments_ok (State.translate_ok htr).1).1, piecesOf_length]
  exact rangesOf_length (fun hp => by simp_all) hrs

theorem State.laneSegs_length (s : State) (gd : Guard) (uses : List RegUse) (p : Perm) (ea : Int) (n : Nat)
    (al : Option Align) (sector whole : Bool) (t : Thread) :
    ((s.laneSegs gd uses p ea n al sector whole t).map Seg.n).sum ≤ n := by
  unfold State.laneSegs
  split
  · simp
  · split
    · simp
    · next hr => exact (State.check_length hr).le

/-- Fewer places than a sector has trytes hold no sector whole. -/
theorem wholeSectors_of_short {keys : List (Nat × Int)} (h : keys.length < 81) : wholeSectors keys = [] := by
  unfold wholeSectors
  refine List.filter_eq_nil_iff.2 fun p _ hall => ?_
  generalize hk : keys.filter (fun k => decide (0 ≤ k.2)) = l at hall
  have hlen : l.length < 81 := (hk ▸ List.length_filter_le _ _ : l.length ≤ keys.length).trans_lt h
  have hsub : (List.range 81).map (fun i : Nat => (p.1, 81 * (p.2 : Int) + (i : Int))) ⊆ l := by
    intro x hx
    obtain ⟨i, hi, rfl⟩ := List.mem_map.1 hx
    exact List.contains_iff_mem.1 (List.all_eq_true.1 hall i hi)
  have hnodup : ((List.range 81).map fun i : Nat => (p.1, 81 * (p.2 : Int) + (i : Int))).Nodup :=
    List.nodup_range.map fun i j hij => by simpa using hij
  have := (List.subperm_of_subset hnodup hsub).length_le
  simp at this; omega

section Lanes

variable {s : State} {gd : Guard} {uses : List RegUse} {t : Thread} {acc : State → Thread → List Seg}

/-- A store of one lane that writes less than a sector cleans none. -/
theorem State.storeLanes_alone {f : Thread → State → Except Cause State} (h : s.Alone gd uses t)
    (hacc : ((acc s t).map Seg.n).sum < 81) : s.storeLanes gd uses acc f = s.lanes gd uses f := by
  have hwhole : s.writtenWhole acc = [] := by
    unfold State.writtenWhole
    rw [h.gang]
    refine wholeSectors_of_short (lt_of_le_of_lt ?_ hacc)
    cases hd : t.status.det <;> simp [h.here, hd, State.keysOf_length]
  unfold State.storeLanes
  rw [hwhole]; rfl

/-- A load of one lane reads memory as it stands. -/
theorem State.loadLanes_alone {f : State → Thread → State → Except Cause State} (h : s.Alone gd uses t) :
    s.loadLanes gd uses acc f = s.lanes gd uses (f s) := by
  unfold State.loadLanes
  simp [h.gang, h.here, State.freshen]

/-- The spill of one call writes less than a sector. -/
theorem callLanes_alone (h : s.Alone gd uses t) (x : Thread → Int) :
    callLanes gd uses x s = s.lanes gd uses fun t s => callTo t s (x t) := by
  refine State.storeLanes_alone h ?_
  unfold spillSegs
  cases s.targetFault t (x t) with
  | some c => simp
  | none =>
    simp only
    split
    · simp
    · exact (s.laneSegs_length ..).trans_lt (by decide)

end Lanes

/-! ### Calls and returns on the return stack -/

section Calls

variable {s : State} {gd : Guard} {uses : List RegUse} {t : Thread} {x : Int} {c : Cause} {i : Instr}

/-- A call of a thread of its own to x. -/
def Calls (s : State) (gd : Guard) (t : Thread) (i : Instr) (x : Int) : Prop :=
  ∃ uses, s.Alone gd uses t ∧ ∃ f : Thread → Int, f t = x ∧ exec i s = s.lanes gd uses fun t s => callTo t s (f t)

theorem calls_call {lit : Int} (h : s.Alone gd [] t) : Calls s gd t (.call gd lit) (wrap 54 (t.pc + 3 * lit)) :=
  ⟨_, h, fun t => t.target lit, rfl, callLanes_alone h _⟩

theorem calls_callx {b : Nat} (h : s.Alone gd [aUse b] t) : Calls s gd t (.callx gd b) (t.readA b) :=
  ⟨_, h, fun t => t.readA b, rfl, callLanes_alone h _⟩

theorem callTo_fault (h : s.targetFault t x = some c) : callTo t s x = .error c := by
  simp only [callTo, State.takeBranch_error h]

theorem callTo_pushed (h : s.targetFault t x = none) (hd : t.rsdepth < 9) :
    callTo t s x = .ok (s.becomes t ((s.branched t x).push t.fallAddr)) := by
  simp only [callTo, State.takeBranch_ok h, if_pos hd]; rfl

theorem callTo_limit (h : s.targetFault t x = none) (hd : 9 ≤ t.rsdepth) (hl : wrap 54 (t.readA 1 - 6) < t.splimit) :
    callTo t s x = .error ⟨8, 2, wrap 54 (t.readA 1 - 6)⟩ := by
  simp only [callTo, State.takeBranch_ok h, if_neg (not_lt.2 hd), if_pos hl]

theorem Calls.traps (hi : Calls s gd t i x) (hF : callTo t s x = .error c) (h0 : t.status.intrap = false)
    (hv : t.trapvec ≠ 0) : CompletesAlone i s t fun t t' =>
      Thread.Trapped c t t' ∧ (t'.rstack, t'.rsdepth) = (t.rstack, t.rsdepth) := by
  obtain ⟨uses, h, f, rfl, he⟩ := hi
  exact traps_alone (F := fun t s => callTo t s (f t)) h he hF h0 hv

/-- A call with fewer than nine addresses held pushes the address after the clause (R44, R123). -/
theorem Calls.pushes (hi : Calls s gd t i x) (hx : s.targetFault t x = none) (hd : t.rsdepth < 9) :
    CompletesAlone i s t fun t t' =>
      ({ t with rstack := t.fallAddr :: t.rstack, rsdepth := t.rsdepth + 1 } : Thread).Keeps [] t' ∧ t'.GoesTo x := by
  obtain ⟨uses, h, f, rfl, he⟩ := hi
  refine ⟨(s.branched t (f t)).push t.fallAddr, ?_, (t.push t.fallAddr).keeps_jump (s.capture t (f t)) (f t), rfl, rfl, rfl⟩
  exact he.trans (State.lanes_becomes (f := fun t s => callTo t s (f t)) h (callTo_pushed hx hd) (h.calm t h.mem))

theorem exec_ret (h : s.Alone gd [] t) : exec (.ret gd) s = s.lanes gd [] (returnFrom s) := by
  change execRet gd s = _
  unfold execRet
  exact State.loadLanes_alone h

theorem returnFrom_fault {view : State} (h : s.targetFault t (t.rstack.headD 0) = some c) (h1 : 1 ≤ t.rsdepth)
    (h9 : t.rsdepth ≤ 9) : returnFrom view t s = .error c := by
  simp only [returnFrom, if_neg (Nat.one_le_iff_ne_zero.1 h1), if_pos h9, State.takeBranch_error h]

/-- RET takes the newest address held (R44, R124). -/
theorem ret_pops {rest : List Int} (h : s.Alone gd [] t) (hr : t.rstack = x :: rest) (h1 : 1 ≤ t.rsdepth)
    (h9 : t.rsdepth ≤ 9) (hx : s.targetFault t x = none) : CompletesAlone (.ret gd) s t fun t t' =>
      ({ t with rstack := rest, rsdepth := t.rsdepth - 1 } : Thread).Keeps [] t' ∧ t'.GoesTo x := by
  have hF : returnFrom s t s = .ok (s.becomes t { s.branched t x with rstack := rest, rsdepth := t.rsdepth - 1 }) := by
    simp only [returnFrom, if_neg (Nat.one_le_iff_ne_zero.1 h1), if_pos h9, hr, List.headD_cons, State.takeBranch_ok hx]
    rfl
  refine ⟨_, (exec_ret h).trans (State.lanes_becomes (f := returnFrom s) h hF (h.calm t h.mem)), ?_, rfl, rfl, rfl⟩
  exact ({ t with rstack := rest, rsdepth := t.rsdepth - 1 } : Thread).keeps_jump (s.capture t x) x

/-- RET with no address held raises return-stack underflow (R124). -/
theorem ret_underflow (h : s.Alone gd [] t) (h0 : t.rsdepth = 0) (hi : t.status.intrap = false) (hv : t.trapvec ≠ 0) :
    CompletesAlone (.ret gd) s t (Thread.Trapped ⟨9, 0, 0⟩) := by
  unfold CompletesAlone; rw [exec_ret h]
  exact State.lanes_trapped h (if_pos h0) hi hv

end Calls

end Sys2Proof.Machine

/-!
SUPPORT. The branches: the causes of a refused target, in their order, and what each branch does (R41, R120 to R125).
-/

namespace Sys2Proof.Machine

section Targets

variable {s : State} {t : Thread} {x : Int}

theorem canonical_iff : canonical x = true ↔ -((3 ^ 48 - 1) / 2) ≤ x ∧ x ≤ (3 ^ 48 - 1) / 2 := fits_iff

theorem fetchWord_user (h : t.status.system = false ∧ x < 0) : s.fetchWord t x = .error ⟨4, 3, x⟩ :=
  if_pos (by simp [h.1, h.2])

theorem fetchWord_far (hu : ¬ (t.status.system = false ∧ x < 0)) (hc : ¬ canonical x = true) :
    s.fetchWord t x = .error ⟨5, 2, x⟩ :=
  (if_neg (by simpa using hu)).trans (if_pos (by simpa using hc))

theorem fetchWord_skew (hu : ¬ (t.status.system = false ∧ x < 0)) (hc : canonical x = true) (hm : x % 3 ≠ 0) :
    s.fetchWord t x = .error ⟨3, 2, x⟩ :=
  (if_neg (by simpa using hu)).trans ((if_neg (by simp [hc])).trans (if_pos hm))

theorem fetchWord_last (hu : ¬ (t.status.system = false ∧ x < 0)) (hc : canonical x = true) (hm : x % 3 = 0)
    (hl : ¬ canonical (x + 2) = true) : s.fetchWord t x = .error ⟨5, 2, x⟩ :=
  (if_neg (by simpa using hu)).trans ((if_neg (by simp [hc])).trans ((if_neg (by simp [hm])).trans
    (if_pos (by simpa using hl))))

theorem targetFault_of_error {c : Cause} (hcap : (t.capture.any fun c => c.1 == x) = false)
    (h : s.fetchWord t x = .error c) : s.targetFault t x = some c := by
  simp only [State.targetFault, hcap, Bool.false_eq_true, if_false, h]

end Targets

/-- The causes of a refused target in their order (R41, R120). -/
theorem targetFault_order (s : State) (t : Thread) (x : Int) (hcap : (t.capture.any fun c => c.1 == x) = false) :
    s.targetFault t x =
      if t.status.system = false ∧ x < 0 then some ⟨4, 3, x⟩
      else if ¬ (-((3 ^ 48 - 1) / 2) ≤ x ∧ x ≤ (3 ^ 48 - 1) / 2) then some ⟨5, 2, x⟩
      else if x % 3 ≠ 0 then some ⟨3, 2, x⟩
      else if (3 ^ 48 - 1) / 2 < x + 2 then some ⟨5, 2, x⟩
      else match s.fetchWord t x with
        | .error c => some c
        | .ok w => match role w with
          | .header => none
          | .continuation => some ⟨3, 1, x⟩
          | _ => some ⟨3, 2, x⟩ := by
  by_cases hu : t.status.system = false ∧ x < 0
  · rw [if_pos hu]; exact targetFault_of_error hcap (fetchWord_user hu)
  rw [if_neg hu]
  by_cases hc : canonical x = true
  · rw [if_neg (not_not.2 (canonical_iff.1 hc))]
    by_cases hm : x % 3 = 0
    · rw [if_neg (not_not.2 hm)]
      by_cases hl : (3 ^ 48 - 1) / 2 < x + 2
      · rw [if_pos hl]
        exact targetFault_of_error hcap (fetchWord_last hu hc hm fun h => not_lt.2 (canonical_iff.1 h).2 hl)
      · rw [if_neg hl]
        unfold State.targetFault
        rw [hcap]; rfl
    · rw [if_pos hm]; exact targetFault_of_error hcap (fetchWord_skew hu hc hm)
  · rw [if_pos fun h => hc (canonical_iff.2 h)]; exact targetFault_of_error hcap (fetchWord_far hu hc)

/-- Settles O16: where each branch goes, the causes of a target in their order, and what a refused target leaves. -/
theorem branchResults : Obligations.BranchResults := by
  unfold Obligations.BranchResults
  refine ⟨?accepted, targetFault_order, ?refused⟩
  case accepted =>
    intro gd b lit pos s t x keeps hx
    refine ⟨fun h => j_completes h hx, fun h hb => ?_, fun h => bc_completes h hx, fun h hp => bcase_completes h hx hp,
      fun h => loop_completes h hx⟩
    rw [← hb] at hx ⊢
    exact jx_completes h hx
  case refused =>
    intro gd b lit pos x s t c hi hv hx traps
    refine ⟨?_, ?_, ?_, ?_⟩
    · rintro rfl
      refine ⟨fun h => traps_alone h rfl (branchTo_fault hx id) hi hv,
        fun h => (calls_call h).traps (callTo_fault hx) hi hv, fun hb h => traps_alone h rfl ?_ hi hv,
        fun hb h => traps_alone h rfl ?_ hi hv, fun hpos h => traps_alone h rfl ?_ hi hv⟩
      · rw [if_neg hb]; exact branchTo_fault hx id
      · simp only [caseTarget, hb]; exact branchTo_fault hx id
      · simp only [if_pos hpos]; exact branchTo_fault hx _
    · rintro rfl hb h
      refine traps_alone h rfl ?_ hi hv
      simp only [caseTarget, hb]; exact branchTo_fault hx id
    · rintro rfl
      exact ⟨fun h => traps_alone h rfl (branchTo_fault hx id) hi hv,
        fun h => (calls_callx h).traps (callTo_fault hx) hi hv⟩
    · rintro rfl h1 h9 h
      exact traps_alone h (exec_ret h) (returnFrom_fault hx h1 h9) hi hv

end Sys2Proof.Machine

/-!
SUPPORT. Memory and the programs that run: what an access of memory changes, it leaves the threads, the teams and the bolts as
they are.
-/

namespace Sys2Proof.Machine

/-- The threads, the teams and the bolts of a machine. -/
def State.programs (s : State) : List Thread × List Team × List Bolt := (s.threads, s.teams, s.bolts)

theorem State.programs_eq_iff {s s' : State} : s'.programs = s.programs ↔
    s'.threads = s.threads ∧ s'.teams = s.teams ∧ s'.bolts = s.bolts := by simp [State.programs]

theorem foldl_programs {α : Type} {f : State → α → State} (h : ∀ s x, (f s x).programs = s.programs) (l : List α)
    (s : State) : (l.foldl f s).programs = s.programs :=
  foldl_keeps (fun a : State => a.programs = s.programs) f (fun a x ha => (h a x).trans ha) l s rfl

section Memory

variable (s : State) (core home sector : Nat) (leaf : Word) (h : Hint)

@[simp] theorem State.putL1_programs (e : L1Sector) : (s.putL1 e).programs = s.programs := by
  unfold State.putL1; split <;> rfl

@[simp] theorem State.putSlice_programs (e : SliceSector) : (s.putSlice e).programs = s.programs := by
  unfold State.putSlice; split <;> rfl

@[simp] theorem State.dropL1_programs : (s.dropL1 core home sector).programs = s.programs := rfl

@[simp] theorem State.setL1Prio_programs (line : Nat) (p : Int) : (s.setL1Prio core home line p).programs = s.programs := rfl

@[simp] theorem State.acquire_programs : (s.acquire core).programs = s.programs := rfl

@[simp] theorem State.needs_programs (b : Bool) : (s.needs b).programs = s.programs := by
  unfold State.needs; split <;> rfl

@[simp] theorem State.visit_programs : (s.visit home).programs = s.programs := State.needs_programs _ _

@[simp] theorem State.visitDie_programs (die : Nat) : (s.visitDie die).programs = s.programs := State.needs_programs _ _

@[simp] theorem State.lowerHit_programs : (s.lowerHit home sector).programs = s.programs := by
  unfold State.lowerHit; split <;> rfl

@[simp] theorem State.refreshL1_programs : (s.refreshL1 core home sector).programs = s.programs := by
  unfold State.refreshL1; split <;> simp

@[simp] theorem State.clearMark_programs : (s.clearMark home sector).programs = s.programs := by
  unfold State.clearMark; split <;> simp

@[simp] theorem State.writeBackSlice_programs (e : SliceSector) : (s.writeBackSlice e).programs = s.programs := by
  unfold State.writeBackSlice; split <;> rfl

@[simp] theorem State.roomInSlice_programs : (s.roomInSlice home sector).programs = s.programs := by
  unfold State.roomInSlice
  simp only
  split
  · rfl
  · split
    · rfl
    · exact foldl_programs State.writeBackSlice_programs _ s

@[simp] theorem State.allocSlice_programs : (s.allocSlice home sector leaf).programs = s.programs := by
  unfold State.allocSlice; split <;> simp

@[simp] theorem State.applyHome_programs (alloc : Bool) (ws : List (Nat × Int)) :
    (s.applyHome home sector alloc leaf ws).programs = s.programs := by
  have halloc : (if alloc then s.allocSlice home sector leaf else s).programs = s.programs := by split <;> simp
  unfold State.applyHome
  simp only
  split
  · rw [State.putSlice_programs, halloc]
  · exact halloc

@[simp] theorem State.bringHome_programs (e : L1Sector) : (s.bringHome e).programs = s.programs := by
  unfold State.bringHome
  simp only
  split
  · rfl
  · split
    · simp
    · split <;> simp

@[simp] theorem State.cleanL1_programs (e : L1Sector) : (s.cleanL1 e).programs = s.programs := by simp [State.cleanL1]

@[simp] theorem State.roomInL1_programs : (s.roomInL1 core home sector).programs = s.programs := by
  unfold State.roomInL1
  simp only
  split
  · rfl
  · split
    · rfl
    · exact foldl_programs State.cleanL1_programs _ s

@[simp] theorem State.fillL1_programs : (s.fillL1 core home sector leaf).programs = s.programs := by
  unfold State.fillL1; simp only; split <;> simp

@[simp] theorem State.recall_programs (keep : Option Nat) (words : List Nat) :
    (s.recall keep home sector words).programs = s.programs := by
  unfold State.recall
  exact foldl_programs (fun a e => by simp) _ s

@[simp] theorem State.storeHome_programs (ws : List (Nat × Int)) :
    (s.storeHome core leaf h home sector ws).programs = s.programs := by
  unfold State.storeHome
  simp only [State.refreshL1_programs]
  split <;> simp

@[simp] theorem State.storeSector_programs (ws : List (Nat × Int)) :
    (s.storeSector core leaf h home sector ws).programs = s.programs := by
  unfold State.storeSector
  simp only
  split
  · have hfilled : (if (s.l1At core home sector).isSome = true then (s.visit home).recall (some core) home sector (wordsOf ws)
        else (((s.visit home).recall (some core) home sector (wordsOf ws)).allocSlice home sector leaf).fillL1 core home
          sector leaf).programs = s.programs := by split <;> simp
    split
    · exact hfilled
    · split <;> split <;> simp [hfilled]
  · have hstored : (if h = .by ∧ (s.l1At core home sector).isSome = true then
        (s.storeHome core leaf h home sector ws).setL1Prio core home (sector / 9) (-1)
        else s.storeHome core leaf h home sector ws).programs = s.programs := by split <;> simp
    split
    · split <;> simp [hstored]
    · exact hstored

@[simp] theorem State.storePieces_programs (l : List (Nat × Nat × Nat)) (vals : List Int) :
    (s.storePieces core leaf h l vals).programs = s.programs := by
  induction l generalizing s vals with
  | nil => rfl
  | cons p l ih => obtain ⟨sec, k, n⟩ := p; simp [State.storePieces, ih]

@[simp] theorem State.storeSegs_programs (l : List Seg) (vals : List Int) :
    (s.storeSegs core h l vals).programs = s.programs := by
  induction l generalizing s vals with
  | nil => rfl
  | cons g l ih =>
    simp only [State.storeSegs, ih]
    split <;> simp

@[simp] theorem State.setDie_programs (d : Nat) (f : Die → Die) : (s.setDie d f).programs = s.programs := rfl

@[simp] theorem State.writeWord_programs (w v : Int) : (s.writeWord w v).programs = s.programs := by
  unfold State.writeWord; simp only; split <;> rfl

@[simp] theorem State.writePair_programs (w v : Int) : (s.writePair w v).programs = s.programs := by
  unfold State.writePair
  split
  · rfl
  · simp

@[simp] theorem State.writeWords_programs (l : List (Int × Int)) : (s.writeWords l).programs = s.programs := by
  induction s, l using State.writeWords.induct with
  | case1 s => rfl
  | case2 s a => simp [State.writeWords]
  | case3 s a b rest hpair ih => simp [State.writeWords, hpair, ih]
  | case4 s a b rest hpair ih => simp [State.writeWords, hpair, ih]

@[simp] theorem State.sendPeers_programs (l : List (Int × Int)) : (s.sendPeers l).programs = s.programs := rfl

@[simp] theorem State.writeBelow_programs (l : List (Int × Int)) : (s.writeBelow l).programs = s.programs := by
  simp [State.writeBelow]

@[simp] theorem State.storeAll_programs (l : List Seg) (vals : List Int) :
    (s.storeAll core h l vals).programs = s.programs := by simp [State.storeAll]

@[simp] theorem State.visitWalk_programs (v : Int) (n : Nat) (base : Int) :
    (s.visitWalk v n base).programs = s.programs := by
  induction n generalizing s base with
  | zero => rfl
  | succ n ih =>
    simp only [State.visitWalk]
    split
    · rfl
    · split <;> simp [ih]

@[simp] theorem State.cacheLeaf_programs (queue : Nat) (qroot v : Int) :
    (s.cacheLeaf queue qroot v).programs = s.programs := by
  unfold State.cacheLeaf
  split
  · rfl
  · simp only
    split
    · simp
    · exact State.visitWalk_programs s v 4 qroot

@[simp] theorem State.noteSegs_programs (a : Agent) (l : List Seg) : (s.noteSegs a l).programs = s.programs :=
  foldl_programs (fun a g => by simp) l s

end Memory

end Sys2Proof.Machine

/-!
SUPPORT. The return stack in memory: the spill of a tenth call and the fill of a return (R45, R123, R124).
-/

namespace Sys2Proof.Machine

section Spills

variable {s : State} {gd : Guard} {t : Thread} {x : Int} {i : Instr} {segs : List Seg}

/-- The address at which a call spills, and what it stores there. -/
def Thread.spillAt (t : Thread) : Int := wrap 54 (t.readA 1 - 6)

def Thread.spilled (t : Thread) : List Int := trytesOfWord (wrap 27 t.fallAddr) ++ trytesOfWord (trunc 27 t.fallAddr)

/-- The thread that a call to x makes of t when it spills. -/
def State.spillThread (s : State) (t : Thread) (x : Int) : Thread :=
  { (s.branched t x).writeA 1 t.spillAt with rsdepth := t.rsdepth + 1, buf := t.buf }

/-- A change of a thread in a machine that has the threads of another. -/
theorem State.mapThread_of_threads {s' : State} (hs : s'.threads = s.threads)
    (only : ∀ u ∈ s.threads, u.id = t.id → u = t) (f : Thread → Thread) :
    s'.mapThread t.id f = s'.becomes t (f t) :=
  State.mapThread_eq_becomes (by rw [hs]; exact only) f

/-- A tenth call stores the address after the clause below a1 (R45, R123). -/
theorem callTo_spills (only : ∀ u ∈ s.threads, u.id = t.id → u = t) (hx : s.targetFault t x = none) (hd : 9 ≤ t.rsdepth)
    (hdet : t.status.det = false) (hl : t.splimit ≤ t.spillAt)
    (hc : s.check (s.agentOf t) .store t.spillAt 6 (some ⟨3, 2⟩) false true = .ok segs) :
    callTo t s x = .ok (((s.noteSegs (s.agentOf t) segs).storeAll t.core .default segs t.spilled).becomes t
      (s.spillThread t x)) := by
  have hstore : ∀ fin : Thread → Thread, s.storeMem t .default t.spillAt (some ⟨3, 2⟩) false true t.spilled fin =
      .ok (((s.noteSegs (s.agentOf t) segs).storeAll t.core .default segs t.spilled).mapThread t.id fin) := by
    intro fin
    have hc : s.check (s.agentOf t) .store t.spillAt t.spilled.length (some ⟨3, 2⟩) false true = .ok segs := hc
    simp only [State.storeMem, hc, State.plainStore, hdet, Bool.false_eq_true, if_false]
  have hthreads : ((s.noteSegs (s.agentOf t) segs).storeAll t.core .default segs t.spilled).threads = s.threads :=
    (State.programs_eq_iff.1 (by simp)).1
  have hcall : callTo t s x =
      match s.storeMem t .default t.spillAt (some ⟨3, 2⟩) false true t.spilled fun v =>
        { (s.branched t x).writeA 1 t.spillAt with rsdepth := t.rsdepth + 1, buf := v.buf } with
      | .error c => .error { c with addr := t.spillAt }
      | .ok s => .ok s := by
    simp only [callTo, State.takeBranch_ok hx, if_neg (not_lt.2 hd)]
    exact if_neg (not_lt.2 hl)
  rw [hcall, hstore]
  exact congrArg Except.ok (State.mapThread_of_threads hthreads only _)

theorem State.spillThread_post (hs : t.Sized) : (s.spillThread t x).readA 1 = t.spillAt ∧
    ({ t with rsdepth := t.rsdepth + 1 } : Thread).Keeps [aUse 1] (s.spillThread t x) ∧ (s.spillThread t x).GoesTo x := by
  refine ⟨?_, ({ t with rsdepth := t.rsdepth + 1 } : Thread).keeps_jump_writeA (s.capture t x) x 1 t.spillAt, rfl, rfl, rfl⟩
  have hlen : 1 < (s.branched t x).a.length := by
    have : (s.branched t x).a = t.a := rfl
    rw [this, hs.a]; decide
  exact ((s.branched t x).readA_writeA hlen t.spillAt 1).trans (if_pos rfl)

/-- A tenth call: the spill in memory, and the thread at the target (R45, R123). -/
theorem Calls.spills (hi : Calls s gd t i x) (hx : s.targetFault t x = none) (hd : 9 ≤ t.rsdepth)
    (hdet : t.status.det = false) (hl : t.splimit ≤ t.spillAt)
    (hc : s.check (s.agentOf t) .store t.spillAt 6 (some ⟨3, 2⟩) false true = .ok segs) :
    ∃ t', exec i s = .next (((s.noteSegs (s.agentOf t) segs).storeAll t.core .default segs t.spilled).becomes t t') ∧
      t'.readA 1 = t.spillAt ∧ ({ t with rsdepth := t.rsdepth + 1 } : Thread).Keeps [aUse 1] t' ∧ t'.GoesTo x := by
  obtain ⟨uses, h, f, rfl, he⟩ := hi
  refine ⟨s.spillThread t (f t), ?_, State.spillThread_post h.sized⟩
  have hcalm : ((s.noteSegs (s.agentOf t) segs).storeAll t.core .default segs t.spilled).Calm := by
    have hthreads := (State.programs_eq_iff (s := s)
      (s' := (s.noteSegs (s.agentOf t) segs).storeAll t.core .default segs t.spilled)).1 (by simp)
    unfold State.Calm
    rw [hthreads.1]
    exact h.calm
  exact he.trans (State.lanes_alone (f := fun t s => callTo t s (f t)) h (callTo_spills h.only hx hd hdet hl hc)
    (hcalm.becomes t (h.calm t h.mem)))

/-! ### The fill of a return -/

section Fill

variable {s1 : State} {vals : List Int} {mark : Nat} {c : Cause}
  (hd : 9 < t.rsdepth) (hload : s.loadMem t .default (t.readA 1) 6 (some ⟨3, 2⟩) false true = .ok ((vals, mark), s1))

include hd hload

/-- What a return that fills does with the pair that it has read. -/
theorem returnFrom_fill : returnFrom s t s =
    if mark ≠ 0 then .error ⟨11, mark, t.readA 1⟩
    else match s1.takeBranch t (pairOf vals) with
      | .error c => .error c
      | .ok u => .ok (s1.becomes t { u.writeA 1 (wrap 54 (t.readA 1 + 6)) with rsdepth := t.rsdepth - 1 }) := by
  have hload : s.loadFrom s t .default (t.readA 1) 6 (some ⟨3, 2⟩) false true = .ok ((vals, mark), s1) := hload
  simp only [returnFrom, if_neg (Nat.ne_zero_of_lt hd), if_neg (not_le.2 hd), hload]
  rfl

theorem ret_fills (h : s.Alone gd [] t) (hm : mark = 0) (hx : s1.targetFault t (pairOf vals) = none) (hcalm : s1.Calm) :
    ∃ t', exec (.ret gd) s = .next (s1.becomes t t') ∧ t'.readA 1 = wrap 54 (t.readA 1 + 6) ∧
      ({ t with rsdepth := t.rsdepth - 1 } : Thread).Keeps [aUse 1] t' ∧ t'.GoesTo (pairOf vals) := by
  have hF := returnFrom_fill hd hload
  rw [if_neg (not_not.2 hm), State.takeBranch_ok hx] at hF
  refine ⟨_, (exec_ret h).trans (State.lanes_alone (f := returnFrom s) h hF (hcalm.becomes t (h.calm t h.mem))), ?_,
    ({ t with rsdepth := t.rsdepth - 1 } : Thread).keeps_jump_writeA (s1.capture t (pairOf vals)) (pairOf vals) 1 _,
    rfl, rfl, rfl⟩
  have hlen : 1 < (s1.branched t (pairOf vals)).a.length := by
    have : (s1.branched t (pairOf vals)).a = t.a := rfl
    rw [this, h.sized.a]; decide
  exact ((s1.branched t (pairOf vals)).readA_writeA hlen _ 1).trans (if_pos rfl)

/-- A return to a target that is refused, or from a poisoned pair, takes its cause. -/
theorem ret_fill_traps (h : s.Alone gd [] t)
    (hc : mark = 0 ∧ s1.targetFault t (pairOf vals) = some c ∨ mark ≠ 0 ∧ c = ⟨11, mark, t.readA 1⟩)
    (hi : t.status.intrap = false) (hv : t.trapvec ≠ 0) : CompletesAlone (.ret gd) s t (Thread.Trapped c) := by
  have hF : returnFrom s t s = .error c := by
    rw [returnFrom_fill hd hload]
    obtain ⟨hm, hx⟩ | ⟨hm, rfl⟩ := hc
    · rw [if_neg (not_not.2 hm), State.takeBranch_error hx]
    · exact if_pos hm
  unfold CompletesAlone
  rw [exec_ret h]
  exact State.lanes_trapped h hF hi hv

end Fill

end Spills

/-- Settles O18: calls and returns on the return stack, then spills, then fills. -/
theorem callAndReturnResults : Obligations.CallAndReturnResults := by
  unfold Obligations.CallAndReturnResults
  refine ⟨?stack, ?spill, ?fill⟩
  case stack =>
    intro gd b lit s t pushed
    exact ⟨fun hd => ⟨fun h hx => (calls_call h).pushes hx hd, fun h hx => (calls_callx h).pushes hx hd⟩,
      fun x rest hr h1 h9 h hx => ret_pops h hr h1 h9 hx, fun h0 h hi hv => ret_underflow h h0 hi hv⟩
  case spill =>
    intro gd b lit x i s t hi hd hx hdet sp
    have hcall : Calls s gd t i x := by
      obtain ⟨rfl, h, rfl⟩ | ⟨rfl, h, rfl⟩ := hi <;> [exact calls_call h; exact calls_callx h]
    refine ⟨fun hl h0 hv => ?_, fun segs hl hc => hcall.spills hx hd hdet hl hc⟩
    obtain ⟨t', he, htrap, -⟩ := hcall.traps (callTo_limit hx hd hl) h0 hv
    exact ⟨t', he, htrap⟩
  case fill =>
    intro gd s s1 t vals mark h hd hload x
    exact ⟨fun hm hx hcalm => ret_fills hd hload h hm hx hcalm,
      fun c hm hx hi hv => ret_fill_traps hd hload h (.inl ⟨hm, hx⟩) hi hv,
      fun hm hi hv => ret_fill_traps hd hload h (.inr ⟨hm, rfl⟩) hi hv⟩

end Sys2Proof.Machine

/-!
SUPPORT. The end of a bolt: what the kill of its teams and the raises that follow change of the threads' teams, the teams and
the outcomes of the bolts (R48, R421, R427).
-/

namespace Sys2Proof.Machine

/-! ### The roster -/

/-- How a bolt stands: its number, its outcome and the count of its teams that have ended. -/
def Bolt.fate (b : Bolt) : Nat × Int × Nat := (b.id, b.outcome, b.ended)

/-- The team of each thread, the teams, and how each bolt stands. -/
def State.roster (s : State) : List TeamId × List TeamId × List (Nat × Int × Nat) :=
  (s.threads.map Thread.team, s.teams.map Team.id, s.bolts.map Bolt.fate)

theorem State.roster_eq_of_programs {s s' : State} (h : s'.programs = s.programs) : s'.roster = s.roster := by
  obtain ⟨hthreads, hteams, hbolts⟩ := State.programs_eq_iff.1 h
  simp only [State.roster, hthreads, hteams, hbolts]

theorem foldl_roster {α : Type} {f : State → α → State} (h : ∀ s x, (f s x).roster = s.roster) (l : List α)
    (s : State) : (l.foldl f s).roster = s.roster :=
  foldl_keeps (fun a : State => a.roster = s.roster) f (fun a x ha => (h a x).trans ha) l s rfl

/-- Where a bolt is found it is the one that stands so. -/
theorem State.bolt?_fate (s : State) (bid : Nat) :
    (s.bolt? bid).map Bolt.fate = s.roster.2.2.find? fun x => x.1 == bid := by
  simp only [State.roster, State.bolt?, List.find?_map]; rfl

theorem State.bolt?_mapBolt {s : State} {bid : Nat} {f : Bolt → Bolt} (hf : ∀ b, (f b).id = b.id) :
    (s.mapBolt bid f).bolt? bid = (s.bolt? bid).map f := by
  simp only [State.bolt?, State.mapBolt, List.find?_map]
  have : ((fun b : Bolt => b.id == bid) ∘ fun b => if (b.id == bid) = true then f b else b) = fun b : Bolt => b.id == bid := by
    funext b; by_cases hb : b.id = bid <;> simp [hb, hf]
  rw [this]
  cases h : s.bolts.find? fun b => b.id == bid with
  | none => rfl
  | some b =>
    have hb : b.id = bid := by simpa using List.find?_some h
    simp [hb]

section Roster

variable (s : State) (core : Nat) (loc : SyncLoc)

theorem State.mapThread_roster {f : Thread → Thread} (hf : ∀ t, (f t).team = t.team) (id : ThreadId) :
    (s.mapThread id f).roster = s.roster := by
  simp only [State.roster, State.mapThread, List.map_map]
  congr 1
  refine List.map_congr_left fun t _ => ?_
  simp only [Function.comp]
  split <;> simp [hf]

theorem State.mapTeam_roster {f : Team → Team} (hf : ∀ m, (f m).id = m.id) (id : TeamId) :
    (s.mapTeam id f).roster = s.roster := by
  simp only [State.roster, State.mapTeam, List.map_map]
  congr 2
  refine List.map_congr_left fun m _ => ?_
  simp only [Function.comp]
  split <;> simp [hf]

@[simp] theorem Thread.resume_team (t : Thread) (now : Nat) : (t.resume now).team = t.team := by
  unfold Thread.resume
  split
  · rfl
  · simp only; split <;> simp

@[simp] theorem Thread.addPending_team (t : Thread) (p : Pending) : (t.addPending p).team = t.team := by
  unfold Thread.addPending; split <;> rfl

@[simp] theorem Thread.wakeEnd_team (t : Thread) (cd : Nat) (v : Trit) (c : Option Cause) :
    (t.wakeEnd cd v c).team = t.team := by
  unfold Thread.wakeEnd; split <;> simp

@[simp] theorem Thread.syncReturn_team (t : Thread) (now cd : Nat) (err : Trit) :
    (t.syncReturn now cd err).team = t.team := by simp [Thread.syncReturn]

/-! ### Words in memory and in scratchpads -/

@[simp] theorem State.putTryteAt_roster (v : Int) : (s.putTryteAt core loc v).roster = s.roster := by
  have hbelow : ∀ (pa : Int) (home : Nat) (leaf : Word), (if pa < 0 then s.sendPeers [(pa, v)]
      else s.storeHome core leaf .default home (pa.toNat / 81) [(pa.toNat % 81, v)]).roster = s.roster := by
    intro pa home leaf
    refine State.roster_eq_of_programs ?_
    split <;> simp
  cases loc with
  | scratch team o =>
    refine State.mapTeam_roster s (fun m => ?_) team
    rfl
  | memory home pa leaf => exact hbelow pa home leaf
  | cut home pa leaf n home2 pa2 leaf2 => exact hbelow pa home leaf

@[simp] theorem State.putTrytesAt_roster (l : List Int) : (s.putTrytesAt core loc l).roster = s.roster :=
  foldl_roster (fun a p => by simp) _ s

@[simp] theorem State.putSync_roster (w : SyncWord) : (s.putSync core loc w).roster = s.roster := by
  cases loc with
  | scratch team o =>
    refine State.mapTeam_roster s (fun m => ?_) team
    rfl
  | memory home pa leaf => exact State.roster_eq_of_programs (State.storeHome_programs ..)
  | cut home pa leaf n home2 pa2 leaf2 => exact State.putTrytesAt_roster ..

@[simp] theorem State.visitLoc_roster : (s.visitLoc loc).roster = s.roster := by
  refine State.roster_eq_of_programs ?_
  cases loc with
  | scratch team o => rfl
  | memory home pa leaf => simp only [State.visitLoc]; split <;> simp
  | cut home pa leaf n home2 pa2 leaf2 => simp [State.visitLoc]

/-! ### Raises of sync words -/

@[simp] theorem State.releaseWaiters_roster (w : SyncWord) (n : Nat) : (s.releaseWaiters loc w n).roster = s.roster := by
  unfold State.releaseWaiters
  simp only
  refine (State.roster_eq_of_programs (foldl_programs (fun a c => a.acquire_programs c) _ _)).trans ?_
  simp only [State.roster, List.map_map]
  congr 1
  refine List.map_congr_left fun t _ => ?_
  simp only [Function.comp]
  split
  · split <;> simp
  · rfl

@[simp] theorem State.testPreds_roster (only : Option SyncLoc) (n : Nat) : (s.testPreds only n).roster = s.roster := by
  simp only [State.testPreds, State.roster, List.map_map]
  congr 2
  refine List.map_congr_left fun b _ => ?_
  simp only [Function.comp]
  split <;> rfl

@[simp] theorem State.advanced_roster (w : SyncWord) (n : Nat) : (s.advanced loc w n).roster = s.roster := by
  have htest := (State.testPreds_roster (s.releaseWaiters loc w n) (some loc) n).trans (s.releaseWaiters_roster loc w n)
  unfold State.advanced
  split
  · rfl
  · cases loc with
    | scratch team o => simp
    | memory home pa leaf => exact htest
    | cut home pa leaf n home2 pa2 leaf2 => exact htest

@[simp] theorem State.applyRaise_roster (n : Int) : (s.applyRaise core loc n).roster = s.roster := by
  unfold State.applyRaise; split <;> simp

@[simp] theorem State.raiseBy_roster (by_ : Nat) (n : Int) : (s.raiseBy by_ loc core n).roster = s.roster := by
  cases loc with
  | scratch team o =>
    simp only [State.raiseBy]
    split
    · rfl
    · split
      · rfl
      · simp
  | memory home pa leaf => exact s.applyRaise_roster by_ _ n
  | cut home pa leaf m home2 pa2 leaf2 => exact s.applyRaise_roster by_ _ n

@[simp] theorem State.raise_roster (n : Int) : (s.raise loc core n).roster = s.roster := s.raiseBy_roster core loc noCore n

@[simp] theorem State.setErr_roster : (s.setErr loc).roster = s.roster := by
  unfold State.setErr; split <;> simp

@[simp] theorem State.wake_roster (w : Wake) : (s.wake core w).roster = s.roster := by
  unfold State.wake; simp only; split <;> simp

@[simp] theorem State.answerWake_roster (w : Wake) : (s.answerWake w).roster = s.roster := by
  unfold State.answerWake
  refine (State.mapThread_roster _ (fun t => by simp) _).trans ?_
  exact s.wake_roster _ w

/-! ### The end of a team -/

@[simp] theorem State.abortCollective_roster (c : Collective) : (s.abortCollective c).roster = s.roster := by
  unfold State.abortCollective
  exact foldl_roster (fun a m => by simp) _ _

@[simp] theorem State.freeAllocs_roster (t : Team) : (s.freeAllocs t).roster = s.roster :=
  foldl_roster (f := State.advanceTags) (fun _ _ => rfl) t.cores s

/-- The threads and the teams of a roster without those of one team. -/
def withoutTeam (id : TeamId) (r : List TeamId × List TeamId × List (Nat × Int × Nat)) :
    List TeamId × List TeamId × List (Nat × Int × Nat) :=
  (r.1.filter (· != id), r.2.1.filter (· != id), r.2.2)

/-- A kill removes the threads of a team and the team (R427). -/
theorem State.killTeam_roster {s : State} {id : TeamId} {t : Team} (h : s.team? id = some t) :
    (s.killTeam id).roster = withoutTeam id s.roster := by
  unfold State.killTeam
  rw [h]
  simp only
  refine (foldl_roster (fun a c => a.abortCollective_roster c) _ _).trans ?_
  refine (foldl_roster (fun a w => a.answerWake_roster w) _ _).trans ?_
  rw [← s.freeAllocs_roster t]
  simp only [State.roster, withoutTeam, List.filter_map]
  rfl

theorem State.killTeam_absent {s : State} {id : TeamId} (h : s.team? id = none) : s.killTeam id = s := by
  unfold State.killTeam; rw [h]

end Roster

/-! ### The end of a bolt -/

theorem State.team?_eq_none_iff {s : State} {id : TeamId} : s.team? id = none ↔ id ∉ s.roster.2.1 := by
  simp [State.team?, State.roster, List.find?_eq_none]

/-- No thread of the machine is one of the team. -/
def State.NoThreadOf (s : State) (id : TeamId) : Prop := id ∉ s.roster.1

theorem State.killTeam_fates (s : State) (id : TeamId) : (s.killTeam id).roster.2.2 = s.roster.2.2 := by
  cases h : s.team? id with
  | none => rw [State.killTeam_absent h]
  | some t => rw [State.killTeam_roster h]; rfl

theorem State.NoThreadOf.killTeam {s : State} {id : TeamId} (h : s.NoThreadOf id) (x : TeamId) :
    (s.killTeam x).NoThreadOf id := by
  cases hx : s.team? x with
  | none => rwa [State.killTeam_absent hx]
  | some t =>
    unfold State.NoThreadOf
    rw [State.killTeam_roster hx]
    exact fun hm => h (List.mem_filter.1 hm).1

/-- A kill of a team that is there leaves no thread of it. -/
theorem State.noThreadOf_killTeam {s : State} {id : TeamId} (h : id ∈ s.roster.2.1 ∨ s.NoThreadOf id) :
    (s.killTeam id).NoThreadOf id := by
  cases hx : s.team? id with
  | none => exact (h.resolve_left (State.team?_eq_none_iff.1 hx)).killTeam id
  | some t =>
    unfold State.NoThreadOf
    rw [State.killTeam_roster hx]
    simp [withoutTeam]

/-- While a team is killed, each other team stays there or has no thread. -/
theorem State.standing_killTeam {s : State} {id : TeamId} (h : id ∈ s.roster.2.1 ∨ s.NoThreadOf id) (x : TeamId) :
    id ∈ (s.killTeam x).roster.2.1 ∨ (s.killTeam x).NoThreadOf id := by
  by_cases hid : id = x
  · subst hid; exact .inr (State.noThreadOf_killTeam h)
  · obtain h | h := h
    · left
      cases hx : s.team? x with
      | none => rwa [State.killTeam_absent hx]
      | some t =>
        rw [State.killTeam_roster hx]
        exact List.mem_filter.2 ⟨h, by simpa using hid⟩
    · exact .inr (h.killTeam x)

/-- Kills leave how the bolts stand, and no thread of the killed teams. -/
theorem foldl_killTeam (l : List TeamId) (s : State) : (l.foldl State.killTeam s).roster.2.2 = s.roster.2.2 ∧
    ∀ id, (id ∈ s.roster.2.1 ∨ s.NoThreadOf id) → (id ∈ l ∨ s.NoThreadOf id) → (l.foldl State.killTeam s).NoThreadOf id := by
  induction l generalizing s with
  | nil => exact ⟨rfl, fun id _ h => h.resolve_left (by simp)⟩
  | cons x l ih =>
    obtain ⟨hfates, hgone⟩ := ih (s.killTeam x)
    refine ⟨hfates.trans (s.killTeam_fates x), fun id hstand hid => ?_⟩
    refine hgone id (State.standing_killTeam hstand x) ?_
    obtain hid | hid := hid
    · obtain rfl | hid := List.mem_cons.1 hid
      · exact .inr (State.noThreadOf_killTeam hstand)
      · exact .inl hid
    · exact .inr (hid.killTeam x)

theorem State.writeHeader_roster {s s' : State} {b : Bolt} {ws : List (Nat × Int)} (h : s.writeHeader b ws = some s') :
    s'.roster = s.roster := by
  unfold State.writeHeader at h
  simp only at h
  split at h
  · cases h
  · cases h
  · split at h
    · cases h
    · split at h
      · cases h
      · cases h; exact State.roster_eq_of_programs (State.storeHome_programs ..)

@[simp] theorem State.errDone_roster (s : State) (b : Bolt) : (s.errDone b).roster = s.roster := by
  unfold State.errDone; split <;> simp

@[simp] theorem State.raiseDone_roster (s : State) (b : Bolt) (n : Nat) : (s.raiseDone b n).roster = s.roster := by
  induction n generalizing s with
  | zero => rfl
  | succ n ih => simp only [State.raiseDone]; split <;> simp [ih]

/-- The bolt is found, with an outcome and a count of the teams that have ended. -/
def State.Fated (s : State) (bid : Nat) (outcome : Int) (ended : Nat) : Prop :=
  ∃ b, s.bolt? bid = some b ∧ b.outcome = outcome ∧ b.ended = ended

theorem State.fated_iff {s : State} {bid : Nat} {outcome : Int} {ended : Nat} : s.Fated bid outcome ended ↔
    (s.roster.2.2.find? fun x => x.1 == bid) = some (bid, outcome, ended) := by
  rw [← State.bolt?_fate]
  cases h : s.bolt? bid with
  | none => simp [State.Fated, h]
  | some b =>
    have hb : b.id = bid := by simpa using List.find?_some (show s.bolts.find? _ = some b from h)
    simp [State.Fated, h, Bolt.fate, hb]

theorem State.Fated.congr {s s' : State} {bid : Nat} {outcome : Int} {ended : Nat} (h : s.Fated bid outcome ended)
    (he : s'.roster.2.2 = s.roster.2.2) : s'.Fated bid outcome ended := State.fated_iff.2 (he ▸ State.fated_iff.1 h)

theorem State.Fated.mapBolt {s : State} {bid : Nat} {outcome o : Int} {ended : Nat} {f : Bolt → Bolt}
    (h : s.Fated bid outcome ended) (hf : ∀ b, (f b).id = b.id ∧ (f b).outcome = o ∧ (f b).ended = b.ended) :
    (s.mapBolt bid f).Fated bid o ended := by
  obtain ⟨b, hb, -, hended⟩ := h
  exact ⟨f b, by rw [State.bolt?_mapBolt fun b => (hf b).1, hb]; rfl, (hf b).2.1, (hf b).2.2.trans hended⟩

/-- Nothing of a bolt that has ended changes at a further end. -/
theorem State.endBolt_ended {s : State} {bid : Nat} {outcome o : Int} {ended : Nat} {header : List (Nat × Int)}
    (h : s.Fated bid outcome ended) (ho : outcome ≠ 0) : s.endBolt bid o header = s := by
  obtain ⟨b, hb, rfl, -⟩ := h
  unfold State.endBolt
  simp only [hb]
  exact if_pos ho

/-- A bolt that has failed: all its teams have ended. -/
def Bolt.fail (b : Bolt) : Bolt := { b with outcome := -1, queued := false, ended := b.record.teams, again := [] }

/-- The teams of a bolt are killed as it fails. -/
def State.killBolt (s : State) (bid : Nat) : State :=
  ((((s.mapBolt bid Bolt.fail).teams.filter fun t : Team => t.id.bolt == bid).map Team.id).foldl State.killTeam
    (s.mapBolt bid Bolt.fail)).dropHolds bid

theorem State.killBolt_fails {s : State} {bid : Nat} {b : Bolt} (hb : s.bolt? bid = some b) :
    (s.killBolt bid).Fated bid (-1) b.record.teams ∧
      ∀ id, id.bolt = bid → id ∈ s.roster.2.1 → (s.killBolt bid).NoThreadOf id := by
  have hfail : (s.mapBolt bid Bolt.fail).Fated bid (-1) b.record.teams :=
    ⟨b.fail, (State.bolt?_mapBolt (f := Bolt.fail) fun _ => rfl).trans (congrArg (Option.map Bolt.fail) hb), rfl, rfl⟩
  obtain ⟨hfates, hgone⟩ := foldl_killTeam
    (((s.mapBolt bid Bolt.fail).teams.filter fun t : Team => t.id.bolt == bid).map Team.id) (s.mapBolt bid Bolt.fail)
  refine ⟨hfail.congr hfates, fun id hid hmem => hgone id (.inl hmem) (.inl ?_)⟩
  obtain ⟨m, hm, rfl⟩ := List.mem_map.1 hmem
  exact List.mem_map_of_mem (List.mem_filter.2 ⟨hm, by simpa using hid⟩)

theorem State.endBolt_eq {s : State} {bid : Nat} {b : Bolt} (hb : s.bolt? bid = some b) (ho : b.outcome = 0)
    (header : List (Nat × Int)) : s.endBolt bid (-1) header =
      match (s.killBolt bid).writeHeader b ((0, -1) :: header) with
      | some s => (s.errDone b).raiseDone b (b.record.teams - b.ended)
      | none => (((s.killBolt bid).mapBolt bid fun b => { b with outcome := -1 }).errDone b).raiseDone b
          (b.record.teams - b.ended) := by
  unfold State.endBolt
  simp only [hb, ho, ne_eq, not_true_eq_false, if_false]
  rfl

/-- A bolt that ends with failure: its teams have no thread, and all of them have ended (R48, R421). -/
theorem State.endBolt_fails {s : State} {bid : Nat} {b : Bolt} (hb : s.bolt? bid = some b) (ho : b.outcome = 0)
    (header : List (Nat × Int)) : (s.endBolt bid (-1) header).Fated bid (-1) b.record.teams ∧
      ∀ id, id.bolt = bid → id ∈ s.roster.2.1 → (s.endBolt bid (-1) header).NoThreadOf id := by
  obtain ⟨hfated, hnone⟩ := State.killBolt_fails hb
  rw [State.endBolt_eq hb ho]
  unfold State.NoThreadOf at *
  split
  · next s' hs' =>
    have hroster : ((s'.errDone b).raiseDone b (b.record.teams - b.ended)).roster = (s.killBolt bid).roster := by
      simpa using State.writeHeader_roster hs'
    rw [hroster]
    exact ⟨hfated.congr (congrArg (·.2.2) hroster), hnone⟩
  · have hfated := hfated.mapBolt (f := fun b => { b with outcome := -1 }) fun _ => ⟨rfl, rfl, rfl⟩
    refine ⟨hfated.congr (by simp), ?_⟩
    rw [State.raiseDone_roster, State.errDone_roster]
    exact hnone

/-! ### A cause inside a handler -/

/-- The failure that a thread holds when a cause is delivered inside a handler, or with no handler named (R48). -/
def Thread.failing (t : Thread) (slot : Nat) (pc : Int) (c : Cause) : Thread := { t with failed := some ⟨c, slot, pc⟩ }

theorem Thread.deliver_fails {t : Thread} {slot : Nat} {pc : Int} {c : Cause}
    (h : t.status.intrap = true ∨ t.trapvec = 0) : t.deliver slot pc c = t.failing slot pc c := if_pos h

/-- The threads that hold a failure when one thread of a calm machine fails: it alone. -/
theorem State.failed_of_calm {s : State} {t u : Thread} {slot : Nat} {pc : Int} {c : Cause} (hc : s.Calm)
    (hu : u ∈ (s.becomes t (t.failing slot pc c)).threads) (hf : u.failed ≠ none) : u = t.failing slot pc c := by
  obtain ⟨w, hw, rfl⟩ := List.mem_map.1 hu
  by_cases he : w.id = t.id
  · simp [he]
  · simp [he, hc w hw] at hf

/-- A list of the failures of one thread ends its bolt once. -/
theorem foldl_failThread {s : State} {t : Thread} {f : Failure} {b : Bolt} (hf : t.failed = some f)
    (hb : s.bolt? t.id.bolt = some b) (ho : b.outcome = 0) (l : List Thread) (hl : ∀ u ∈ l, u = t) (hne : l ≠ []) :
    l.foldl (fun s t => match t.failed with | some f => s.failThread t f | none => s) s = s.failThread t f := by
  obtain ⟨hfated, -⟩ := State.endBolt_fails hb ho
    (failWords (trapInfo f.slot f.cause) t.id.tid t.team.team f.pc f.cause.addr)
  have hrest : ∀ l : List Thread, (∀ u ∈ l, u = t) → l.foldl
      (fun s t => match t.failed with | some f => s.failThread t f | none => s) (s.failThread t f) = s.failThread t f := by
    intro l hl
    induction l with
    | nil => rfl
    | cons u l ih =>
      have hu := hl u (by simp)
      subst hu
      simp only [List.foldl_cons, hf]
      rw [show (s.failThread u f).failThread u f = s.failThread u f from State.endBolt_ended hfated (by decide)]
      exact ih fun v hv => hl v (by simp [hv])
  cases l with
  | nil => exact absurd rfl hne
  | cons u l =>
    have hu := hl u (by simp)
    subst hu
    simp only [List.foldl_cons, hf]
    exact hrest l fun v hv => hl v (by simp [hv])

/-- A thread of a calm machine that fails ends its bolt with failure (R48). -/
theorem State.settle_failing {s : State} {t : Thread} {b : Bolt} {slot : Nat} {pc : Int} {c : Cause} (hc : s.Calm)
    (ht : t ∈ s.threads) (hb : s.bolt? t.id.bolt = some b) (ho : b.outcome = 0) :
    (s.becomes t (t.failing slot pc c)).settle =
      (s.becomes t (t.failing slot pc c)).failThread (t.failing slot pc c) ⟨c, slot, pc⟩ := by
  refine foldl_failThread (s := s.becomes t (t.failing slot pc c)) (t := t.failing slot pc c) (b := b) rfl hb ho _
    (fun u hu => ?_) ?_
  · obtain ⟨hmem, hf⟩ := List.mem_filter.1 hu
    exact State.failed_of_calm hc hmem (Option.isSome_iff_ne_none.1 hf)
  · refine List.ne_nil_of_mem (a := t.failing slot pc c) (List.mem_filter.2 ⟨?_, rfl⟩)
    exact List.mem_map.2 ⟨t, ht, by simp⟩

/-- Settles O20: RETT, the end of a bolt by a cause inside a handler, and what the runners make of a cause. -/
theorem handlerResults : Obligations.HandlerResults := by
  unfold Obligations.HandlerResults
  refine ⟨fun gd s hr hx => rett_completes hr hx, ?fails, ?raises⟩
  case fails =>
    intro s t b slot pc c hc ht only hin hb ho hteam hm s'
    have hmem : t ∈ s.threads := List.mem_of_find?_eq_some ht
    have hs' : s' = (s.becomes t (t.failing slot pc c)).endBolt t.id.bolt (-1)
        (failWords (trapInfo slot c) t.id.tid t.team.team pc c.addr) := by
      refine Eq.trans ?_ (State.settle_failing hc hmem hb ho)
      rw [← Thread.deliver_fails hin, ← State.mapThread_eq_becomes only fun u => u.deliver slot pc c]
    obtain ⟨hfated, hnone⟩ := State.endBolt_fails (s := s.becomes t (t.failing slot pc c)) hb ho
      (failWords (trapInfo slot c) t.id.tid t.team.team pc c.addr)
    rw [← hs'] at hfated hnone
    refine ⟨fun u hu he => hnone t.team hteam ?_ (List.mem_map.2 ⟨u, hu, he⟩), hfated⟩
    obtain ⟨m, hm⟩ := hm
    have : t.team ∈ s.roster.2.1 := by
      by_contra hn
      rw [State.team?_eq_none_iff.2 hn] at hm
      cases hm
    exact this
  case raises =>
    intro gd uses c s t h s'
    have hs' : (s.mapThread t.id fun u => u.fault c).settle = s' :=
      congrArg State.settle ((h.mapThread_eq fun u => u.fault c).trans (h.mapThread_eq fun u => u.deliver t.slot t.pc c).symm)
    rw [← hs']
    refine ⟨fun ho f hf => State.runLocal_error h ho hf, fun f hf => State.lanes_error h hf, fun hu hc => ?_⟩
    subst hu hc
    exact State.runLocal_error (f := fun _ => .error ⟨12, 0, 0⟩) h h.owns rfl

end Sys2Proof.Machine

/-!
SUPPORT. An instruction that every thread of the gang passes: each runner of instructions then only moves those threads on
(R33, R92).
-/

namespace Sys2Proof.Machine

/-- Every thread of the gang passes an instruction with this guard. -/
structure State.PassedBy (s : State) (gd : Guard) : Prop where
  calm : s.Calm
  distinct : s.members.Nodup
  passes : ∀ t ∈ s.threads, t.id ∈ s.members → t.Passes gd

/-- The threads of these identities stand after the instruction at their slot. -/
def State.passOver (s : State) (l : List ThreadId) : State :=
  { s with threads := s.threads.map fun t => if t.id ∈ l then t.advance else t }

section PassOver

variable {s : State} {gd : Guard} {uses : List RegUse}

theorem State.passOver_nil (s : State) : s.passOver [] = s := by simp [State.passOver]

theorem State.passOver_congr {l l' : List ThreadId} (h : ∀ t ∈ s.threads, t.id ∈ l ↔ t.id ∈ l') :
    s.passOver l = s.passOver l' := by
  unfold State.passOver
  congr 1
  exact List.map_congr_left fun t ht => by simp only [h t ht]

theorem State.mapThread_advance (s : State) (id : ThreadId) : s.mapThread id Thread.advance = s.passOver [id] := by
  simp [State.mapThread, State.passOver]

/-- One thread after others: each is moved on once. -/
theorem State.passOver_passOver {id : ThreadId} {l : List ThreadId} (h : id ∉ l) :
    (s.passOver [id]).passOver l = s.passOver (id :: l) := by
  unfold State.passOver
  simp only [List.map_map]
  congr 1
  refine List.map_congr_left fun t _ => ?_
  by_cases ht : t.id = id
  · simp [ht, h]
  · simp [ht]

theorem State.Calm.passOver (h : s.Calm) (l : List ThreadId) : (s.passOver l).Calm :=
  State.calm_map fun t ht => by split <;> simp [h t ht]

theorem foldl_mapThread_advance {l : List ThreadId} (hl : l.Nodup) :
    l.foldl (fun s id => s.mapThread id Thread.advance) s = s.passOver l := by
  induction l generalizing s with
  | nil => exact s.passOver_nil.symm
  | cons id l ih =>
    obtain ⟨hid, hl⟩ := List.nodup_cons.1 hl
    rw [List.foldl_cons, ih hl, State.mapThread_advance, State.passOver_passOver hid]

theorem State.lane_passes {f : Thread → State → Except Cause State} {t : Thread} (h : t.Passes gd) (s : State) :
    State.lane uses gd f t s = s.mapThread t.id Thread.advance := if_pos h

theorem State.id_of_thread? {id : ThreadId} {t : Thread} (h : s.thread? id = some t) : t ∈ s.threads ∧ t.id = id :=
  ⟨List.mem_of_find?_eq_some h, by simpa using List.find?_some h⟩

theorem State.thread?_eq_none {id : ThreadId} (h : s.thread? id = none) : ∀ t ∈ s.threads, t.id ≠ id := by
  simpa [State.thread?, List.find?_eq_none] using h

/-- The part of the lane with an identity, where the machine holds it. -/
def State.laneAt (uses : List RegUse) (gd : Guard) (f : Thread → State → Except Cause State) (s : State) (id : ThreadId) :
    State :=
  match s.thread? id with
  | none => s
  | some t => State.lane uses gd f t s

/-- The part of a lane that passes. -/
theorem State.laneAt_passes {f : Thread → State → Except Cause State} {id : ThreadId}
    (h : ∀ t ∈ s.threads, t.id = id → t.Passes gd) : State.laneAt uses gd f s id = s.passOver [id] := by
  unfold State.laneAt
  cases ht : s.thread? id with
  | none =>
    refine s.passOver_nil.symm.trans (State.passOver_congr fun t hm => ?_)
    simpa using State.thread?_eq_none ht t hm
  | some t =>
    obtain ⟨hm, rfl⟩ := State.id_of_thread? ht
    exact (State.lane_passes (h t hm rfl) s).trans (s.mapThread_advance _)

/-- Lanes that pass, one after the other. -/
theorem foldl_laneAt {f : Thread → State → Except Cause State} {l : List ThreadId} (hl : l.Nodup)
    (h : ∀ t ∈ s.threads, t.id ∈ l → t.Passes gd) : l.foldl (State.laneAt uses gd f) s = s.passOver l := by
  induction l generalizing s with
  | nil => exact s.passOver_nil.symm
  | cons id l ih =>
    obtain ⟨hid, hl⟩ := List.nodup_cons.1 hl
    have hstep : State.laneAt uses gd f s id = s.passOver [id] := State.laneAt_passes fun t ht e => h t ht (by simp [e])
    rw [List.foldl_cons, hstep, ih hl, State.passOver_passOver hid]
    intro t ht hmem
    obtain ⟨u, hu, rfl⟩ := List.mem_map.1 ht
    by_cases hui : u.id = id
    · exact absurd (by simpa [hui] using hmem) hid
    · simp only [List.mem_singleton, hui, if_false] at hmem ⊢
      exact h u hu (by simp [hmem])

theorem State.ids_filterMap (s : State) (l : List ThreadId) : (l.filterMap s.thread?).map Thread.id =
    l.filter fun id => (s.thread? id).isSome := by
  induction l with
  | nil => rfl
  | cons id l ih =>
    cases ht : s.thread? id with
    | none => simp [ht, ih]
    | some t => simp [ht, ih, (State.id_of_thread? ht).2]

/-- Accesses that name no sector ask for none. -/
theorem askedFor_nothing (accesses : List (List (Nat × Nat))) (n : Nat) : askedFor accesses n [] = [] := by
  induction n with
  | zero => rfl
  | succ n ih =>
    have hnone : (accesses.filter fun a => a.any [].contains) = [] := by simp
    simp only [askedFor, hnone]
    exact ih

/-- Lanes that read nothing take no copy anew. -/
theorem State.freshen_nothing (s : State) (core : Nat) {l : List (List Seg)} (hl : ∀ x ∈ l, x = []) :
    s.freshen core l = s := by
  unfold State.freshen
  split
  · rfl
  · have hnames : ((l.filter fun x => !(s.heldInL1 core x)).flatMap fun x => (s.sectorsOf x).map fun p => (p.1, p.2.1)) = [] :=
      List.flatMap_eq_nil_iff.2 fun x hx => by rw [hl x (List.mem_filter.1 hx).1]; rfl
    simp only [hnames]
    exact congrArg (s.refreshAll core) (askedFor_nothing _ _)

end PassOver

/-! ### The runners -/

section Runners

variable {s : State} {gd : Guard} {uses : List RegUse} (h : s.PassedBy gd)

include h

theorem State.PassedBy.settle : (s.passOver s.members).settle = s.passOver s.members :=
  State.settle_of_calm (h.calm.passOver _)

theorem State.PassedBy.runLocal (f : Thread → Except Cause Thread) :
    s.runLocal gd uses f = .next (s.passOver s.members) := by
  have hgang : s.mapGang (Thread.execute uses gd f) = s.passOver s.members := by
    unfold State.mapGang State.passOver
    congr 1
    refine List.map_congr_left fun t ht => ?_
    by_cases hm : t.id ∈ s.members
    · simp [hm, Thread.execute_passes (h.passes t ht hm)]
    · simp [hm]
  unfold State.runLocal State.runThreads
  rw [hgang, h.settle]

theorem State.PassedBy.lanes (f : Thread → State → Except Cause State) :
    s.lanes gd uses f = .next (s.passOver s.members) := by
  have hlanes : s.lanes gd uses f = .next (s.members.foldl (State.laneAt uses gd f) s).settle := rfl
  rw [hlanes, foldl_laneAt h.distinct h.passes, h.settle]

/-- The threads of the gang, all of which pass. -/
theorem State.PassedBy.threads : ∀ t ∈ s.members.filterMap s.thread?, t ∈ s.threads ∧ t.id ∈ s.members ∧ t.Passes gd := by
  intro t ht
  obtain ⟨id, hid, hf⟩ := List.mem_filterMap.1 ht
  obtain ⟨hm, rfl⟩ := State.id_of_thread? hf
  exact ⟨hm, hid, h.passes t hm hid⟩

theorem State.PassedBy.forGroups (f : Thread → List Thread → State → Except Cause State) :
    s.forGroups gd uses f = .next (s.passOver s.members) := by
  have hoff : (s.members.filterMap s.thread?).filter (fun t => t.guardHolds gd = false || t.nopOnce) =
      s.members.filterMap s.thread? :=
    List.filter_eq_self.2 fun t ht => by simpa [Thread.Passes] using (h.threads t ht).2.2
  have hon : (s.members.filterMap s.thread?).filter (fun t => !(t.guardHolds gd = false || t.nopOnce)) = [] :=
    List.filter_eq_nil_iff.2 fun t ht => by
      have hpass : t.guardHolds gd = false ∨ t.nopOnce = true := (h.threads t ht).2.2
      obtain hp | hp := hpass <;> simp [hp]
  have hmove : (s.members.filterMap s.thread?).foldl (fun s t => s.mapThread t.id Thread.advance) s =
      s.passOver s.members := by
    rw [← List.foldl_map (f := Thread.id) (g := fun s id => State.mapThread s id Thread.advance), State.ids_filterMap,
      foldl_mapThread_advance (h.distinct.filter _)]
    refine State.passOver_congr fun t ht => ?_
    have hsome : (s.thread? t.id).isSome = true := by
      simp only [State.thread?, List.find?_isSome]; exact ⟨t, ht, by simp⟩
    simp [hsome]
  unfold State.forGroups
  simp only [hoff, hon, hmove]
  exact congrArg _ h.settle

theorem State.PassedBy.loadLanes {acc : State → Thread → List Seg} (f : State → Thread → State → Except Cause State)
    (hacc : ∀ t, t.Passes gd → acc s t = []) : s.loadLanes gd uses acc f = .next (s.passOver s.members) := by
  have hfresh : ∀ core, s.freshen core ((s.members.filterMap s.thread?).map (acc s)) = s := fun core =>
    s.freshen_nothing core fun x hx => by
      obtain ⟨t, ht, rfl⟩ := List.mem_map.1 hx
      exact hacc t (h.threads t ht).2.2
  unfold State.loadLanes
  simp only [hfresh]
  exact h.lanes _

theorem State.PassedBy.storeLanes {acc : State → Thread → List Seg} (f : Thread → State → Except Cause State)
    (hacc : ∀ t, t.Passes gd → acc s t = []) : s.storeLanes gd uses acc f = .next (s.passOver s.members) := by
  have hwhole : s.writtenWhole acc = [] := by
    refine wholeSectors_of_short ?_
    have : (((s.members.filterMap s.thread?).filter fun t => !t.status.det).flatMap fun t => s.keysOf (acc s t)) = [] :=
      List.flatMap_eq_nil_iff.2 fun t ht => by
        rw [hacc t (h.threads t (List.mem_filter.1 ht).1).2.2]; rfl
    rw [this]; decide
  unfold State.storeLanes
  rw [hwhole]
  exact h.lanes f

end Runners

end Sys2Proof.Machine

/-!
SUPPORT. The guard of each instruction of a program, and the instruction of a gang whose threads all pass it (R33, R51, R92).
-/

namespace Sys2Proof.Machine

/-! ### The guard of an instruction -/

/-- The guard that an instruction of a program carries; an event carries none, and stands under the one that always holds. -/
def guardOf (i : Instr) : Guard :=
  match i with
  | .nop gd | .add gd .. | .adds gd .. | .addi gd .. | .sub gd .. | .subs gd .. | .neg gd .. | .abs gd .. | .mul gd ..
  | .mulh gd .. | .div gd .. | .mod gd .. | .min gd .. | .max gd .. | .clamp gd .. | .sht gd .. | .shtReg gd ..
  | .rot gd .. | .rotReg gd .. | .trn gd .. | .trnReg gd .. | .nrw9 gd .. | .sat9 gd .. | .sgn gd .. | .lead gd ..
  | .cnt gd .. | .tmin gd .. | .tmax gd .. | .tsum gd .. | .tmul gd .. | .cons gd .. | .field gd .. | .deposit gd ..
  | .cmp gd .. | .cmpi gd .. | .cset gd .. | .cand gd .. | .cor gd .. | .sel3 gd .. | .mov gd .. | .movi gd ..
  | .movcG gd .. | .movcC gd .. | .movs gd .. | .movsA gd .. | .sets gd .. | .setsA gd .. | .movx gd .. | .movy gd ..
  | .aadd gd .. | .asub gd .. | .amov gd .. | .amovPair gd .. | .amovLo gd .. | .amovHi gd .. | .alea gd ..
  | .hadd gd .. | .hsub gd .. | .hmin gd .. | .hmax gd .. | .hcmp gd .. | .hacs gd .. | .hpack gd .. | .hunpk gd ..
  | .pxin gd .. | .pxinS gd .. | .j gd .. | .jx gd .. | .bc gd .. | .bcase gd .. | .call gd .. | .callx gd .. | .ret gd
  | .loop gd .. | .yield gd | .exit gd | .brk gd | .fadd gd .. | .fsub gd .. | .fmul gd .. | .ffma gd .. | .ffmaE gd ..
  | .fmin gd .. | .fmax gd .. | .fcmp gd .. | .fcmpQ gd .. | .fabs gd .. | .fabsNeg gd .. | .fabsNabs gd ..
  | .frcp gd .. | .frsq gd .. | .fexp3 gd .. | .flog3 gd .. | .fscl gd .. | .fsclReg gd .. | .fclass gd .. | .fcvt gd ..
  | .arow gd .. | .arowClr gd .. | .drain gd .. | .drainF gd .. | .mbs gd .. | .mspa gd .. | .mshaW3 gd ..
  | .mshaW6 gd .. | .mmaf gd .. | .mma9 gd .. | .tzero gd .. | .tzeroQ gd .. | .tst gd .. | .tld gd .. | .tldX gd ..
  | .tget gd .. | .tset gd .. | .perm gd .. | .shuf gd .. | .bcast gd .. | .vote gd .. | .ballot gd .. | .red gd ..
  | .scan gd .. | .zip gd .. | .unzip gd .. | .gbar gd .. | .tbar gd .. | .probe gd .. | .cpri gd .. | .cdrop gd ..
  | .cdropCode gd .. | .cflush gd .. | .cflushMem gd .. | .cfence gd | .rel gd | .acq gd | .fence gd | .ld9 gd ..
  | .ld27 gd .. | .ldh gd .. | .lda gd .. | .st9 gd .. | .st27 gd .. | .sth gd .. | .sta gd .. | .lds9 gd ..
  | .lds27 gd .. | .sts9 gd .. | .sts27 gd .. | .pf gd .. | .xadd gd .. | .xmin gd .. | .xmax gd .. | .xswp gd ..
  | .xcas gd .. | .xsum gd .. | .reduce gd .. | .mcast gd .. | .launch gd .. | .qdone gd .. | .take gd ..
  | .append gd .. | .kyld gd | .kret gd | .kwait gd .. | .kwaitR gd .. | .kwake gd .. | .sweep gd .. | .engage gd ..
  | .epoll gd .. | .sarm gd .. | .sadd gd .. | .saddReg gd .. | .sget gd .. | .swait gd .. | .rlock gd ..
  | .rlockRd gd .. | .runlock gd .. | .runlockTorn gd .. | .board gd .. | .boardTile gd .. | .unboard gd ..
  | .beamst gd .. | .beamstLap gd .. | .trap gd .. | .rett gd | .halt gd .. | .pmode gd .. | .spool gd ..
  | .undefinedOpcode gd => gd
  | _ => ⟨0, .zero⟩

theorem left_of_and {a b : Bool} {P : Prop} (h : a = true → P) (hab : (a && b) = true) : P :=
  h (Bool.and_eq_true_iff.1 hab).1

/-- In every well-formed instruction of a program the guard names a condition register (R33, R51): its condition stands first. -/
theorem guardOf_reg_le {i : Instr} {r : Raw} (hw : i.wf = true) (hr : i.toRaw = some r) : (guardOf i).reg ≤ 8 := by
  have hguard : (guardOf i).wf = true := by
    cases i
    all_goals cases hr
    all_goals revert hw
    all_goals repeat refine left_of_and ?_
    all_goals exact id
  exact of_decide_eq_true hguard

theorem condIndex_condField {n : Nat} (h : n ≤ 8) : condIndex (condField n) = n := by
  unfold condIndex condField
  split <;> split <;> omega

theorem rawLit_guardFields (o : Op) (gd : Guard) (sh : Shape) (fd fb fe modif : Int) (rs : Trit) (lit : Int) :
    ((rawLit o gd sh fd fb fe modif rs lit).greg, (rawLit o gd sh fd fb fe modif rs lit).gsense) =
      (condField gd.reg, gd.sense) := by
  unfold rawLit
  simp only
  split
  · rfl
  · split <;> rfl

/-- The fields of an instruction hold its guard (R51). -/
theorem toRaw_guardFields {i : Instr} {r : Raw} (hr : i.toRaw = some r) :
    (r.greg, r.gsense) = (condField (guardOf i).reg, (guardOf i).sense) := by
  cases i
  case addi | sht | rot | trn | field | deposit | cmpi | movi | movs | movsA | sets | setsA | alea | j | bc | bcase | call
    | loop | fscl | fcvt | zip | unzip | cpri | ld9 | ld27 | ldh | lda | st9 | st27 | sth | sta | lds9 | lds27 | sts9
    | sts27 | pf | kwait | kwaitR | engage | sadd | trap | pmode =>
    cases hr
    exact rawLit_guardFields ..
  all_goals cases hr
  all_goals rfl

theorem toRaw_guard {i : Instr} {r : Raw} (hw : i.wf = true) (hr : i.toRaw = some r) : r.guard = guardOf i := by
  obtain ⟨hreg, hsense⟩ := Prod.mk.inj (toRaw_guardFields hr)
  unfold Raw.guard
  rw [hreg, hsense, condIndex_condField (guardOf_reg_le hw hr)]

/-! ### Accesses of a thread that passes -/

section Accesses

variable {s : State} {gd : Guard} {uses : List RegUse} {t : Thread} (h : t.Passes gd)

include h

theorem State.laneSegs_passes (p : Perm) (ea : Int) (n : Nat) (al : Option Align) (sector whole : Bool) :
    s.laneSegs gd uses p ea n al sector whole t = [] :=
  if_pos (h.imp_right Or.inl)

theorem State.rowSegs_passes (p : Perm) (m a c : Nat) (bad : TShape → Bool) (len : TShape → Nat)
    (al : TShape → Option Align) : State.rowSegs gd p m a c bad len al s t = [] := by
  unfold State.rowSegs
  simp only [State.laneSegs_passes h, ite_self]

theorem drainSegs_passes (real : Bool) (d q c e : Nat) : drainSegs gd real d q c e s t = [] :=
  if_pos (h.imp_right Or.inl)

theorem spillSegs_passes (x : Thread → Int) : spillSegs gd uses x s t = [] := by
  unfold spillSegs
  simp only [State.laneSegs_passes h, ite_self]
  split <;> rfl

end Accesses

/-! ### The instructions -/

section Loads

variable {s : State} {gd : Guard} (h : s.PassedBy gd)

include h

theorem loadG_passes (hint : Hint) (rs : Trit) (d b : Nat) (off : Int) (n : Nat) (al : Option Align) (sector whole : Bool)
    (f : List Int → Int) : loadG gd hint rs d b off n al sector whole f s = .next (s.passOver s.members) := by
  unfold loadG
  exact h.loadLanes _ fun t hp => State.laneSegs_passes hp ..

theorem execLda_passes (hint : Hint) (rs : Trit) (d b : Nat) (off : Int) :
    execLda gd hint rs d b off s = .next (s.passOver s.members) := by
  unfold execLda
  exact h.loadLanes _ fun t hp => State.laneSegs_passes hp ..

theorem execTld_passes (rs : Trit) (m a c : Nat) : execTld gd rs m a c s = .next (s.passOver s.members) := by
  unfold execTld
  exact h.loadLanes _ fun t hp => State.rowSegs_passes hp ..

theorem execTldX_passes (rs : Trit) (m a c : Nat) : execTldX gd rs m a c s = .next (s.passOver s.members) := by
  unfold execTldX
  exact h.loadLanes _ fun t hp => State.rowSegs_passes hp ..

theorem execRet_passes : execRet gd s = .next (s.passOver s.members) := by
  unfold execRet
  exact h.loadLanes _ fun t hp => ite_eq_left_iff.2 fun _ => State.laneSegs_passes hp ..

end Loads

/-- An instruction of a program that every thread of the gang passes: by the runner that performs it. -/
theorem exec_passedBy {i : Instr} {r : Raw} {s : State} (hr : i.toRaw = some r) (h : s.PassedBy (guardOf i)) :
    exec i s = .next (s.passOver s.members) := by
  cases i
  case ld9 | ld27 | ldh => exact loadG_passes h ..
  case lda => exact execLda_passes h ..
  case tld => exact execTld_passes h ..
  case tldX => exact execTldX_passes h ..
  case ret => exact execRet_passes h
  case st9 | st27 | sth | sta =>
    refine h.storeLanes _ fun t hp => ?_
    exact State.laneSegs_passes hp ..
  case tst =>
    refine h.storeLanes _ fun t hp => ?_
    exact State.rowSegs_passes hp ..
  case drain | drainF =>
    refine h.storeLanes _ fun t hp => ?_
    exact drainSegs_passes hp ..
  case call | callx =>
    refine h.storeLanes _ fun t hp => ?_
    exact spillSegs_passes hp ..
  case tset | launch | sweep | engage | board | boardTile => exact h.forGroups _
  case sets | setsA | j | jx | bc | bcase | loop | arow | arowClr | mbs | mspa | mshaW3 | mshaW6 | mmaf | mma9 | tzero | tzeroQ
    | tget | perm | shuf | bcast | vote | ballot | red | scan | zip | unzip | gbar | tbar | probe | cpri | cdrop
    | cdropCode | cflush | cflushMem | rel | acq | fence | lds9 | lds27 | sts9 | sts27 | pf | xadd | xmin | xmax | xswp
    | xcas | xsum | reduce | mcast | qdone | take | append | kyld | kret | kwait | kwaitR | kwake | epoll | sarm | sadd
    | saddReg | sget | swait | rlock | rlockRd | runlock | runlockTorn | unboard | beamst | beamstLap | spool =>
    exact h.lanes _
  all_goals cases hr
  all_goals exact h.runLocal _

/-- Settles O6: the guard of the fields is the instruction's, and each runner moves the threads that pass. -/
theorem guardedOffChangesNothing : Obligations.GuardedOffChangesNothing := by
  unfold Obligations.GuardedOffChangesNothing
  intro i r s hw hr hc hd hp
  rw [toRaw_guard hw hr] at hp
  exact exec_passedBy hr ⟨hc, hd, hp⟩

end Sys2Proof.Machine

/-!
SUPPORT. Words and the fields that stand in them: a word built of fields of their lengths gives each of them back (R50 to R57).
-/

namespace Sys2Proof

/-! ### Fields of a word -/

theorem fits_add_mul {m n : Nat} {a b : Int} (ha : fits m a = true) (hb : fits n b = true) :
    fits (m + n) (a + p3 m * b) = true := by
  rw [fits_iff_two_abs_lt] at *
  have hm := p3_pos m
  have hab : |a + p3 m * b| ≤ |a| + p3 m * |b| := by
    simpa [abs_mul, abs_of_pos hm] using abs_add_le a (p3 m * b)
  rw [p3_add]
  nlinarith

theorem fits_mono {m n : Nat} {a : Int} (h : m ≤ n) (ha : fits m a = true) : fits n a = true := by
  have := maxTrits_mono h
  rw [fits_iff] at *
  omega

/-- The lowest field of a word. -/
theorem trits_add_mul_low {hi : Nat} {a : Int} (b : Int) (h : fits (hi + 1) a = true) :
    trits (a + p3 (hi + 1) * b) hi 0 = a := by
  simpa [trits] using wrap_add_mul b h

/-- A word that is one field. -/
theorem trits_of_fits {hi : Nat} {a : Int} (h : fits (hi + 1) a = true) : trits a hi 0 = a := by
  simpa [trits] using wrap_of_fits h

/-- A field above the lowest one. -/
theorem trits_add_mul_high {n hi lo : Nat} {a : Int} (b : Int) (h : fits n a = true) (hlo : n ≤ lo) (hhi : n ≤ hi) :
    trits (a + p3 n * b) hi lo = trits b (hi - n) (lo - n) := by
  obtain ⟨k, rfl⟩ := Nat.exists_eq_add_of_le hlo
  unfold trits
  rw [← trunc_trunc, trunc_add_mul b h, show hi + 1 - (n + k) = hi - n + 1 - (n + k - n) by omega, Nat.add_sub_cancel_left]

theorem Trit.fits_toInt (t : Trit) : fits 1 t.toInt = true := by cases t <;> decide

theorem Trit.ofInt_toInt (t : Trit) : Trit.ofInt t.toInt = t := by cases t <;> rfl

/-- Fields that the words of an instruction of their length can hold (R50 to R57). -/
structure Raw.Encodable (r : Raw) : Prop where
  opc : fits 6 r.opc = true
  greg : fits 2 r.greg = true
  fd : fits 5 r.fd = true
  fb : fits 5 r.fb = true
  fc : fits 5 r.fc = true
  fe : fits 5 r.fe = true
  modif : fits 2 r.modif = true
  lit18 : fits 18 r.lit18 = true
  lithi : fits 9 r.lithi = true
  resv : fits 17 r.resv = true
  /-- what stands in the words that an instruction of one or two words does not have -/
  length : r.len = 1 ∧ (r.fe, r.modif, r.rs, r.lit18, r.lithi, r.resv) = (0, 0, .zero, 0, 0, 0) ∨
    r.len = 2 ∧ (r.lithi, r.resv) = (0, 0) ∨ r.len = 3

/-- The start word of fields, its lowest field first. -/
def Raw.start (r : Raw) : Word :=
  r.shape.toInt + p3 1 * (r.fc + p3 5 * (r.fb + p3 5 * (r.fd + p3 5 * (r.gsense.toInt + p3 1 * (r.greg + p3 2 *
    (r.opc + p3 6 * roleTrits r.len))))))

/-- The first continuation word of fields, its lowest field first. -/
def Raw.second (r : Raw) : Word := r.lit18 + p3 18 * (r.rs.toInt + p3 1 * (r.modif + p3 2 * (r.fe + p3 5 * Trit.neg.toInt)))

/-- The second continuation word of fields, its lowest field first. -/
def Raw.third (r : Raw) : Word := r.lithi + p3 9 * (r.resv + p3 17 * Trit.neg.toInt)

theorem Raw.words_eq (r : Raw) : r.words =
    if r.len = 1 then [r.start] else if r.len = 2 then [r.start, r.second] else [r.start, r.second, r.third] := by
  have hstart : roleTrits r.len * p3 25 + r.opc * p3 19 + r.greg * p3 17 + r.gsense.toInt * p3 16 + r.fd * p3 11 +
      r.fb * p3 6 + r.fc * p3 1 + r.shape.toInt = r.start := by simp only [Raw.start, p3]; ring
  have hsecond : -(p3 26) + r.fe * p3 21 + r.modif * p3 19 + r.rs.toInt * p3 18 + r.lit18 = r.second := by
    simp only [Raw.second, p3, Trit.toInt]; ring
  have hthird : -(p3 26) + r.resv * p3 9 + r.lithi = r.third := by simp only [Raw.third, p3, Trit.toInt]; ring
  simp only [Raw.words, hstart, hsecond, hthird]

section Fields

variable {r : Raw} (h : r.Encodable)

include h

theorem Raw.Encodable.fits_start : fits 27 r.start = true := by
  have htop : fits 2 (roleTrits r.len) = true := by unfold roleTrits; split_ifs <;> decide
  exact fits_add_mul (m := 1) (n := 26) r.shape.fits_toInt <| fits_add_mul (m := 5) (n := 21) h.fc <|
    fits_add_mul (m := 5) (n := 16) h.fb <| fits_add_mul (m := 5) (n := 11) h.fd <|
    fits_add_mul (m := 1) (n := 10) r.gsense.fits_toInt <| fits_add_mul (m := 2) (n := 8) h.greg <|
    fits_add_mul (m := 6) (n := 2) h.opc htop

theorem Raw.Encodable.fits_second : fits 27 r.second = true :=
  fits_add_mul (m := 18) (n := 9) h.lit18 <| fits_add_mul (m := 1) (n := 8) r.rs.fits_toInt <|
    fits_add_mul (m := 2) (n := 6) h.modif <| fits_add_mul (m := 5) (n := 1) h.fe Trit.neg.fits_toInt

theorem Raw.Encodable.fits_third : fits 27 r.third = true :=
  fits_add_mul (m := 9) (n := 18) h.lithi <| fits_add_mul (m := 17) (n := 1) h.resv Trit.neg.fits_toInt

theorem Raw.Encodable.start_fields : (trits r.start 24 19, trits r.start 18 17, tritAt r.start 16, trits r.start 15 11,
    trits r.start 10 6, trits r.start 5 1, tritAt r.start 0) = (r.opc, r.greg, r.gsense, r.fd, r.fb, r.fc, r.shape) := by
  simp [Raw.start, tritAt, trits_add_mul_high, trits_add_mul_low, Trit.fits_toInt, h.opc, h.greg, h.fd, h.fb, h.fc,
    Trit.ofInt_toInt]

theorem Raw.Encodable.role_start : role r.start =
    if r.len = 1 then .short else if r.len = 2 then .long2 else .long3 := by
  have htop : (tritAt r.start 26, tritAt r.start 25) = (tritAt (roleTrits r.len) 1, tritAt (roleTrits r.len) 0) := by
    simp [Raw.start, tritAt, trits_add_mul_high, Trit.fits_toInt, h.opc, h.greg, h.fd, h.fb, h.fc]
  obtain ⟨h26, h25⟩ := Prod.mk.inj htop
  unfold role
  rw [h26, h25]
  unfold roleTrits
  split_ifs <;> rfl

theorem Raw.Encodable.second_fields : (role r.second, trits r.second 25 21, trits r.second 20 19, tritAt r.second 18,
    trits r.second 17 0) = (.continuation, r.fe, r.modif, r.rs, r.lit18) := by
  simp [Raw.second, role, tritAt, trits_add_mul_high, trits_add_mul_low, Trit.fits_toInt, trits_of_fits, h.lit18, h.modif,
    h.fe, Trit.ofInt_toInt]

theorem Raw.Encodable.third_fields : (role r.third, trits r.third 25 9, trits r.third 8 0) =
    (.continuation, r.resv, r.lithi) := by
  simp [Raw.third, role, tritAt, trits_add_mul_high, trits_add_mul_low, trits_of_fits, Trit.fits_toInt,
    h.lithi, h.resv, Trit.ofInt_toInt]

/-- The words of fields give the fields back. -/
theorem Raw.Encodable.ofWords_words : Raw.ofWords r.words = some r := by
  have hs := h.start_fields
  have h2 := h.second_fields
  have h3 := h.third_fields
  simp only [Prod.mk.injEq] at hs h2 h3
  rw [Raw.words_eq]
  obtain ⟨hl, hz⟩ | ⟨hl, hz⟩ | hl := h.length
  · have hrole : role r.start = .short := by simp [h.role_start, hl]
    have hsense : tritAt 0 18 = .zero := by decide
    simp only [Prod.mk.injEq] at hz
    cases r
    simp_all [Raw.ofWords]
  · have hrole : role r.start = .long2 := by simp [h.role_start, hl]
    simp only [Prod.mk.injEq] at hz
    cases r
    simp_all [Raw.ofWords]
  · have hrole : role r.start = .long3 := by simp [h.role_start, hl]
    cases r
    simp_all [Raw.ofWords]

/-- The encoding has one to three words, each of 27 trits. -/
theorem Raw.Encodable.words_ok : 1 ≤ r.words.length ∧ r.words.length ≤ 3 ∧ ∀ w ∈ r.words, fits 27 w = true := by
  rw [Raw.words_eq]
  split_ifs <;> simp [h.fits_start, h.fits_second, h.fits_third]

end Fields

end Sys2Proof

/-!
SUPPORT. The fields of every instruction of a program stand for it: they are those of a form of its opcode, and its operands
are read back from them (R53 to R60, R86).
-/

namespace Sys2Proof

/-! ### Operands and the fields that hold them -/

theorem Op.ofCode_code (o : Op) : Op.ofCode o.code = some o := by cases o <;> rfl

theorem Op.fits_code (o : Op) : fits 6 o.code = true := by cases o <;> decide

@[simp] theorem regIndex_regField {i : Nat} (h : i ≤ 242) : regIndex (regField i) = i := by
  unfold regIndex regField
  split <;> split <;> omega

@[simp] theorem fits_regField {i : Nat} (h : i ≤ 242) : fits 5 (regField i) = true := by
  have hmax : maxTrits 5 = 121 := by decide
  rw [fits_iff, hmax]
  unfold regField
  split <;> omega

@[simp] theorem fits_condField {i : Nat} (h : i ≤ 8) : fits 2 (condField i) = true := by
  have hmax : maxTrits 2 = 4 := by decide
  rw [fits_iff, hmax]
  unfold condField
  split <;> omega

theorem Guard.wf_iff (gd : Guard) : gd.wf = true ↔ gd.reg ≤ 8 := decide_eq_true_iff

theorem Shape.mem_all (sh : Shape) : sh ∈ [Shape.trytes, .word, .halves] := by cases sh <;> decide

theorem Shape.mem_real {sh : Shape} (h : realShape sh = true) : sh ∈ [Shape.trytes, .word] := by
  cases sh with
  | trytes | word => decide
  | halves => cases h

@[simp] theorem hintOf_code (h : Hint) : hintOf h.code = h := by cases h <;> rfl
@[simp] theorem orderOf_code (o : Order) : orderOf o.code = o := by cases o <;> rfl
@[simp] theorem routeOf_code (r : Route) : routeOf r.code = r := by cases r <;> rfl
@[simp] theorem redOpOf_code (o : RedOp) : redOpOf o.code = o := by cases o <;> rfl
@[simp] theorem specialOf_code (sp : Special) : specialOf sp.code = some sp := by cases sp <;> rfl
@[simp] theorem fits_hint (h : Hint) : fits 2 h.code = true := by cases h <;> decide
@[simp] theorem fits_order (o : Order) : fits 2 o.code = true := by cases o <;> decide
@[simp] theorem fits_route (r : Route) : fits 2 r.code = true := by cases r <;> decide
@[simp] theorem fits_redOp (o : RedOp) : fits 2 o.code = true := by cases o <;> decide

/-! ### Fields that stand for an instruction -/

/-- The fields can stand in words, and decoding them gives the instruction. -/
def Raw.StandFor (r : Raw) (i : Instr) : Prop := r.Encodable ∧ r.decode = .ok i

theorem encode_of_standFor {i : Instr} {r : Raw} (hr : i.toRaw = some r) (h : r.StandFor i) :
    ∃ ws : List Word, encode i = some ws ∧ decode ws = .ok i ∧ 1 ≤ ws.length ∧ ws.length ≤ 3 ∧
      ∀ w ∈ ws, fits 27 w = true := by
  refine ⟨r.words, by simp [encode, hr], ?_, h.1.words_ok⟩
  simp [decode, h.1.ofWords_words, h.2]

/-- Fields of a form of an opcode decode to the instruction that the opcode builds of them. -/
theorem Raw.decode_of_form {r : Raw} {o : Op} {f : Form} {i : Instr} (ho : r.opc = o.code)
    (hlen : r.len = 3 → o.takesLit = true) (hf : o.form r.modif = some f) (hc : r.clean o f = true)
    (hb : r.build o = .ok i) : r.decode = .ok i := by
  have hthree : ¬ (r.len = 3 ∧ o.takesLit = false) := fun h => by simp [hlen h.1] at h
  simp [Raw.decode, ho, Op.ofCode_code, hthree, hf, hb, hc]

/-! ### Fields laid out in words -/

section Fields

variable (n : Nat) (o : Op) (gd : Guard) (sh : Shape) (fd fb fc fe m : Int) (rs : Trit) (lo hi l : Int)

/-- The fields of an instruction of n words, the literal of its continuation words in its low 18 trits and those above. -/
def fieldsOf : Raw :=
  { len := n, opc := o.code, greg := condField gd.reg, gsense := gd.sense, fd, fb, fc, shape := sh.trit, fe, modif := m, rs,
    lit18 := lo, lithi := hi, resv := 0 }

theorem rawOf_eq : rawOf o gd sh fd fb fc fe m rs =
    fieldsOf (if fe = 0 ∧ m = 0 ∧ rs = .zero then 1 else 2) o gd sh fd fb fc fe m rs 0 0 := rfl

/-- A literal stands in one word, in two or in three, by what it and the other fields need (R58, R86). -/
theorem rawLit_eq : rawLit o gd sh fd fb fe m rs l =
    if fe = 0 ∧ m = 0 ∧ rs = .zero ∧ fits 5 l = true then fieldsOf 1 o gd sh fd fb l fe m rs 0 0
    else if fits 18 l = true then fieldsOf 2 o gd sh fd fb 0 fe m rs l 0
    else fieldsOf 3 o gd sh fd fb 0 fe m rs (wrap 18 l) (trunc 18 l) := rfl

variable {n o gd sh fd fb fc fe m rs lo hi l}

@[simp] theorem fieldsOf_shapeOf : (fieldsOf n o gd sh fd fb fc fe m rs lo hi).shapeOf = sh := by cases sh <;> rfl

@[simp] theorem fieldsOf_guard (hg : gd.reg ≤ 8) : (fieldsOf n o gd sh fd fb fc fe m rs lo hi).guard = gd := by
  unfold Raw.guard fieldsOf
  simp only [Machine.condIndex_condField hg]

@[simp] theorem fieldsOf_fd : (fieldsOf n o gd sh fd fb fc fe m rs lo hi).fd = fd := rfl
@[simp] theorem fieldsOf_fb : (fieldsOf n o gd sh fd fb fc fe m rs lo hi).fb = fb := rfl
@[simp] theorem fieldsOf_fc : (fieldsOf n o gd sh fd fb fc fe m rs lo hi).fc = fc := rfl
@[simp] theorem fieldsOf_fe : (fieldsOf n o gd sh fd fb fc fe m rs lo hi).fe = fe := rfl
@[simp] theorem fieldsOf_modif : (fieldsOf n o gd sh fd fb fc fe m rs lo hi).modif = m := rfl
@[simp] theorem fieldsOf_rs : (fieldsOf n o gd sh fd fb fc fe m rs lo hi).rs = rs := rfl

/-! What the fields of an instruction without a literal hold are those of one laid out in one or two words. -/

@[simp] theorem rawOf_shapeOf : (rawOf o gd sh fd fb fc fe m rs).shapeOf = sh := fieldsOf_shapeOf
@[simp] theorem rawOf_guard (hg : gd.reg ≤ 8) : (rawOf o gd sh fd fb fc fe m rs).guard = gd := fieldsOf_guard hg
@[simp] theorem rawOf_fd : (rawOf o gd sh fd fb fc fe m rs).fd = fd := rfl
@[simp] theorem rawOf_fb : (rawOf o gd sh fd fb fc fe m rs).fb = fb := rfl
@[simp] theorem rawOf_fc : (rawOf o gd sh fd fb fc fe m rs).fc = fc := rfl
@[simp] theorem rawOf_fe : (rawOf o gd sh fd fb fc fe m rs).fe = fe := rfl
@[simp] theorem rawOf_modif : (rawOf o gd sh fd fb fc fe m rs).modif = m := rfl
@[simp] theorem rawOf_rs : (rawOf o gd sh fd fb fc fe m rs).rs = rs := rfl

@[simp] theorem rawLit_shapeOf : (rawLit o gd sh fd fb fe m rs l).shapeOf = sh := by
  rw [rawLit_eq]; split_ifs <;> exact fieldsOf_shapeOf
@[simp] theorem rawLit_guard (hg : gd.reg ≤ 8) : (rawLit o gd sh fd fb fe m rs l).guard = gd := by
  rw [rawLit_eq]; split_ifs <;> exact fieldsOf_guard hg
@[simp] theorem rawLit_fd : (rawLit o gd sh fd fb fe m rs l).fd = fd := by rw [rawLit_eq]; split_ifs <;> rfl
@[simp] theorem rawLit_fb : (rawLit o gd sh fd fb fe m rs l).fb = fb := by rw [rawLit_eq]; split_ifs <;> rfl
@[simp] theorem rawLit_fe : (rawLit o gd sh fd fb fe m rs l).fe = fe := by rw [rawLit_eq]; split_ifs <;> rfl
@[simp] theorem rawLit_modif : (rawLit o gd sh fd fb fe m rs l).modif = m := by rw [rawLit_eq]; split_ifs <;> rfl
@[simp] theorem rawLit_rs : (rawLit o gd sh fd fb fe m rs l).rs = rs := by rw [rawLit_eq]; split_ifs <;> rfl
@[simp] theorem rawLit_literal : (rawLit o gd sh fd fb fe m rs l).literal = l := by
  rw [rawLit_eq]
  split_ifs
  · rfl
  · rfl
  · exact wrap_add_trunc 18 l

end Fields

/-! ### Fields of a form -/

/-- The fields other than FC and the literal are of a form of the opcode: they fit, and those that the form does not use
hold 0 (R58, R59). -/
structure FormFields (o : Op) (f : Form) (gd : Guard) (sh : Shape) (fd fb fe m : Int) (rs : Trit) : Prop where
  form : o.form m = some f
  unused : ((f.fd != .none || fd == 0) && (f.fb != .none || fb == 0) && (f.fe != .none || fe == 0) &&
    (o.longLatency || rs == .zero)) = true
  shape : sh ∈ o.shapes
  guard : gd.reg ≤ 8
  small : fits 5 fd = true ∧ fits 5 fb = true ∧ fits 5 fe = true ∧ fits 2 m = true

section StandFor

variable {n : Nat} {o : Op} {gd : Guard} {sh : Shape} {fd fb fc fe m lo hi l : Int} {rs : Trit} {f : Form} {i j : Instr}

/-- Fields of a form that can stand in n words decode to what the opcode builds of them. -/
theorem FormFields.standFor_fieldsOf (h : FormFields o f gd sh fd fb fe m rs) (hfc : fits 5 fc = true)
    (hc : (f.fc != .none || fc == 0 || (f.lit && n == 1)) = true)
    (hlo : fits 18 lo = true) (hhi : fits 9 hi = true) (hl : (f.lit || (lo == 0 && hi == 0)) = true)
    (hn : n = 1 ∧ (fe = 0 ∧ m = 0 ∧ rs = .zero) ∧ lo = 0 ∧ hi = 0 ∨ n = 2 ∧ hi = 0 ∨ n = 3 ∧ o.takesLit = true)
    (hb : (fieldsOf n o gd sh fd fb fc fe m rs lo hi).build o = .ok i) :
    (fieldsOf n o gd sh fd fb fc fe m rs lo hi).StandFor i := by
  obtain ⟨hfd, hfb, hfe, hm⟩ := h.small
  refine ⟨⟨o.fits_code, fits_condField h.guard, hfd, hfb, hfc, hfe, hm, hlo, hhi, fits_zero _, ?_⟩,
    Raw.decode_of_form rfl ?_ h.form ?_ hb⟩
  · obtain ⟨rfl, ⟨rfl, rfl, rfl⟩, rfl, rfl⟩ | ⟨rfl, rfl⟩ | ⟨rfl, -⟩ := hn
    · exact .inl ⟨rfl, rfl⟩
    · exact .inr (.inl ⟨rfl, rfl⟩)
    · exact .inr (.inr rfl)
  · rintro (rfl : n = 3)
    simpa using hn
  · have hu := h.unused
    simp only [Bool.and_eq_true] at hu
    obtain ⟨⟨⟨hud, hub⟩, hue⟩, hur⟩ := hu
    simp only [Raw.clean, fieldsOf_shapeOf]
    simp [fieldsOf, hud, hub, hue, hur, hc, hl, h.shape]

/-- Fields without a literal. -/
theorem FormFields.standFor (h : FormFields o f gd sh fd fb fe m rs) (hfc : fits 5 fc = true)
    (hc : (f.fc != .none || fc == 0) = true) (hb : (rawOf o gd sh fd fb fc fe m rs).build o = .ok j) (hj : j = i) :
    (rawOf o gd sh fd fb fc fe m rs).StandFor i := by
  subst hj
  rw [rawOf_eq] at hb ⊢
  refine h.standFor_fieldsOf hfc (by simp only [hc, Bool.true_or]) (fits_zero _) (fits_zero _) (by simp) ?_ hb
  by_cases hone : fe = 0 ∧ m = 0 ∧ rs = .zero
  · exact .inl ⟨if_pos hone, hone, rfl, rfl⟩
  · exact .inr (.inl ⟨if_neg hone, rfl⟩)

/-- Fields without a literal that always take two words: a register in FE, or what MODIF names. -/
theorem FormFields.standFor_two (h : FormFields o f gd sh fd fb fe m rs) (hfc : fits 5 fc = true)
    (hc : (f.fc != .none || fc == 0) = true) (hb : (fieldsOf 2 o gd sh fd fb fc fe m rs 0 0).build o = .ok j) (hj : j = i) :
    { rawOf o gd sh fd fb fc fe m rs with len := 2 }.StandFor i := by
  subst hj
  have hstand := h.standFor_fieldsOf hfc (by simp only [hc, Bool.true_or]) (fits_zero _) (fits_zero _) (by simp)
    (.inr (.inl ⟨rfl, rfl⟩)) hb
  exact hstand

/-- Fields with a literal, of as many words as it needs. -/
theorem FormFields.standFor_lit (h : FormFields o f gd sh fd fb fe m rs) (hlit : o.takesLit = true ∧ f.lit = true)
    (hl : fits 27 l = true) (hb : (rawLit o gd sh fd fb fe m rs l).build o = .ok j) (hj : j = i) :
    (rawLit o gd sh fd fb fe m rs l).StandFor i := by
  subst hj
  have hhi : fits 9 (trunc 18 l) = true := by
    have hmax : maxTrits 27 = 3812798742493 ∧ maxTrits 18 = 193710244 ∧ p3 18 = 387420489 ∧ maxTrits 9 = 9841 := by decide
    obtain ⟨h27, h18, hp, h9⟩ := hmax
    rw [fits_iff] at *
    unfold trunc
    rw [h27] at hl
    rw [h18, hp, h9]
    omega
  rw [rawLit_eq] at hb ⊢
  split_ifs at hb ⊢ with hone h18
  · obtain ⟨he, hm, hr, h5⟩ := hone
    exact h.standFor_fieldsOf h5 (by simp [hlit]) (fits_zero _) (fits_zero _) (by simp) (.inl ⟨rfl, ⟨he, hm, hr⟩, rfl, rfl⟩) hb
  · exact h.standFor_fieldsOf (fits_zero _) (by simp) h18 (fits_zero _) (by simp [hlit]) (.inr (.inl ⟨rfl, rfl⟩)) hb
  · exact h.standFor_fieldsOf (fits_zero _) (by simp) (fits_wrap ..) hhi (by simp [hlit]) (.inr (.inr ⟨rfl, hlit.1⟩)) hb

end StandFor

end Sys2Proof

/-!
SUPPORT. Every instruction of a program, form by form: what its literal holds and what its opcode builds of its fields; then
decoding what was encoded, and the words that the manual prints (R52 to R60, R86).
-/

namespace Sys2Proof

/-! ### Literals that hold several values -/

theorem fits_of_le_max {l : Int} (h1 : -3812798742493 ≤ l) (h2 : l ≤ 3812798742493) : fits 27 l = true := by
  have hmax : maxTrits 27 = 3812798742493 := by decide
  rw [fits_iff, hmax]
  exact ⟨h1, h2⟩

theorem trits_above {lo : Nat} {x : Int} (hi : Nat) (h : fits lo x = true) : trits x hi lo = 0 := by
  unfold trits
  rw [trunc_of_fits h]
  exact wrap_of_fits (fits_zero _)

theorem Fmt.fits_cvtCode (x : Fmt) : fits 2 x.cvtCode = true := by cases x <;> decide

theorem fmtOf_cvtCode {x : Fmt} (h : (x.cvtCode != 0) = true) : fmtOf x.cvtCode = some x := by
  cases x
  case tf9 | t9 | t27 | tf27 => rfl
  all_goals cases h

theorem Shape.width_le (sh : Shape) : sh.width ≤ 27 := by cases sh <;> decide

/-- The literal of BCASE: two displacements. -/
theorem bcase_literal {a b : Int} (ha : fits 13 a = true) (hb : fits 14 b = true) :
    fits 27 (a + p3 13 * b) = true ∧ trits (a + p3 13 * b) 12 0 = a ∧ trits (a + p3 13 * b) 26 13 = b :=
  ⟨fits_add_mul ha hb, trits_add_mul_low b ha, (trits_add_mul_high b ha le_rfl (by decide)).trans (trits_of_fits hb)⟩

/-- The literal of FCVT: the two formats and the scale (R161). -/
theorem fcvt_literal {a b c : Int} (ha : fits 2 a = true) (hb : fits 2 b = true) (hc : fits 9 c = true) :
    fits 27 (a + 9 * b + 81 * c) = true ∧ trits (a + 9 * b + 81 * c) 1 0 = a ∧ trits (a + 9 * b + 81 * c) 3 2 = b ∧
      trits (a + 9 * b + 81 * c) 12 4 = c ∧ trits (a + 9 * b + 81 * c) 26 13 = 0 := by
  have hl : a + 9 * b + 81 * c = a + p3 2 * (b + p3 2 * c) := by simp only [p3]; ring
  have hbc := fits_add_mul hb hc
  have hfits : fits 13 (a + p3 2 * (b + p3 2 * c)) = true := fits_add_mul ha hbc
  rw [hl]
  refine ⟨fits_mono (by decide) hfits, trits_add_mul_low _ ha, ?_, ?_, trits_above _ hfits⟩
  · rw [trits_add_mul_high _ ha le_rfl (by decide)]
    exact trits_add_mul_low _ hb
  · rw [trits_add_mul_high _ ha (by decide) (by decide), trits_add_mul_high _ hb le_rfl (by decide)]
    exact trits_of_fits hc

/-- The literal of KWAIT: what it waits for and the argument. -/
theorem kwait_literal {a b : Int} (ha : fits 2 a = true) (hb : fits 9 b = true) :
    fits 27 (a + 9 * b) = true ∧ trits (a + 9 * b) 1 0 = a ∧ trits (a + 9 * b) 10 2 = b ∧ trits (a + 9 * b) 26 11 = 0 := by
  have hl : a + 9 * b = a + p3 2 * b := rfl
  have hfits : fits 11 (a + p3 2 * b) = true := fits_add_mul ha hb
  rw [hl]
  exact ⟨fits_mono (by decide) hfits, trits_add_mul_low _ ha,
    (trits_add_mul_high _ ha le_rfl (by decide)).trans (trits_of_fits hb), trits_above _ hfits⟩

theorem fits_small {w : Nat} (h : w ≤ 3) : fits 2 (w : Int) = true := by
  have hmax : maxTrits 2 = 4 := by decide
  rw [fits_iff, hmax]
  omega

/-- The values of MODIF that name a variant. -/
theorem fits_modif {m : Int} (h : m = 0 ∨ m = 1 ∨ m = 2 ∨ m = 3) : fits 2 m = true := by
  obtain rfl | rfl | rfl | rfl := h <;> decide

/-! ### What the opcodes with a table or a condition build -/

theorem Raw.build_movs {r : Raw} {sp : Special} (h : specialOf r.literal = some sp) :
    r.build .movs = .ok (if r.modif = 1 then .movsA r.guard (regIndex r.fd) sp else .movs r.guard (regIndex r.fd) sp) := by
  unfold Raw.build
  simp only [h]

theorem Raw.build_sets {r : Raw} {sp : Special} (h : specialOf r.literal = some sp) :
    r.build .sets = .ok (if r.modif = 1 then .setsA r.guard sp (regIndex r.fb) else .sets r.guard sp (regIndex r.fb)) := by
  unfold Raw.build
  simp only [h]

theorem Raw.build_sadd {r : Raw} (hm : ¬ (r.modif = 2 ∨ r.modif = 3)) (hl : 1 ≤ r.literal) :
    r.build .sadd = .ok (.sadd r.guard (placeOf (r.modif == 1) (regIndex r.fb)) r.literal) :=
  (if_neg hm).trans (if_pos hl)

theorem Raw.build_fcvt {r : Raw} {dst src : Fmt} (hd : fmtOf (trits r.literal 1 0) = some dst)
    (hs : fmtOf (trits r.literal 3 2) = some src) (hz : trits r.literal 26 13 = 0) (hp : fcvtPlaced r.shapeOf r.modif dst src = true) :
    r.build .fcvt = .ok (.fcvt r.guard r.shapeOf r.modif.toNat (regIndex r.fd) (regIndex r.fb) dst src (trits r.literal 12 4)) := by
  unfold Raw.build
  simp [hd, hs, hz, hp]

theorem Special.fits_code (sp : Special) : fits 27 sp.code = true := by cases sp <;> decide

/-! ### MODIF and the forms -/

theorem Op.form_route {o : Op} (h : o ∈ [Op.hadd, .hsub, .hmin, .hmax, .hcmp]) (r : Route) :
    o.form r.code = some ⟨.g, .g, .g, .none, false⟩ := by
  simp only [List.mem_cons, List.not_mem_nil, or_false] at h
  obtain rfl | rfl | rfl | rfl | rfl := h <;> cases r <;> rfl

/-! ### Every instruction -/

/-- The fields of a well-formed instruction stand for it: each case names its form and where its operands are read back. -/
theorem toRaw_standFor {i : Instr} {r : Raw} (hw : i.wf = true) (hr : i.toRaw = some r) : r.StandFor i := by
  cases i
  all_goals cases hr
  case nop | ret | yield | exit | brk | cfence | rel | acq | fence | kyld | kret | rett =>
    have hg := (Guard.wf_iff _).1 hw
    exact FormFields.standFor ⟨rfl, rfl, by decide, hg, by decide⟩ (fits_zero _) rfl rfl (by simp [hg])
  all_goals replace hw := Bool.and_eq_true_iff.1 hw
  all_goals simp only [Guard.wf_iff, fieldsOk, condOk, litOk, List.all_cons, List.all_nil, Bool.and_eq_true, decide_eq_true_eq,
    and_true] at hw
  case add | adds | sub | subs | mul | mulh | div | mod | min | max | clamp | neg | abs | sgn | lead | cnt | shtReg | rotReg |
      trnReg =>
    exact FormFields.standFor ⟨rfl, rfl, Shape.mem_all _, hw.1, by simp [fits_zero, fits_modif, hw]⟩
      (by simp [fits_zero, hw]) rfl rfl (by simp [hw])
  case fadd | fsub | fmul | ffma | fmin | fmax | fsclReg | ffmaE | fabs | fabsNeg | fabsNabs | frcp | frsq | fexp3 | flog3 |
      fclass =>
    exact FormFields.standFor ⟨rfl, rfl, Shape.mem_real hw.1.2, hw.1.1, by simp [fits_zero, fits_modif, hw]⟩
      (by simp [fits_zero, hw]) rfl rfl (by simp [hw])
  case nrw9 | sat9 | cset | mov | movcG | movcC | movx | movy | amov | amovLo | amovHi | pxin | pxinS | tget | tset | launch |
      sweep | epoll | runlock | unboard | beamst | tmin | tmax | tsum | tmul | cons | cmp | cand | cor | aadd | asub |
      amovPair | hpack | hunpk | fcmp | take | append | kwake | fcmpQ | jx | callx | tbar | reduce | mcast | qdone | halt |
      arow | arowClr | drain | drainF | mbs | mspa | mshaW6 | mshaW3 | mmaf | mma9 | tst | tld | tldX | tzero | tzeroQ |
      probe | cdrop | cdropCode | cflush | cflushMem | beamstLap =>
    exact FormFields.standFor ⟨rfl, rfl, by decide, hw.1, by simp [fits_zero, fits_modif, hw]⟩
      (by simp [fits_zero, hw]) rfl rfl (by simp [hw])
  case perm | shuf | bcast | vote | ballot | gbar =>
    exact FormFields.standFor ⟨rfl, rfl, by decide, hw.1.1, by simp [fits_zero, hw]⟩
      (by simp [fits_zero, hw]) rfl rfl (by simp [Machine.condIndex_condField, hw])
  case sht | rot | trn =>
    exact FormFields.standFor_lit ⟨rfl, rfl, Shape.mem_all _, hw.1.1, by simp [fits_zero, hw]⟩ ⟨rfl, rfl⟩ hw.2 rfl (by simp [hw])
  case fscl =>
    exact FormFields.standFor_lit ⟨rfl, rfl, Shape.mem_real hw.1.1.2, hw.1.1.1, by simp [fits_zero, hw]⟩ ⟨rfl, rfl⟩ hw.2 rfl (by simp [hw])
  case j | call  =>
    exact FormFields.standFor_lit ⟨rfl, rfl, by decide, hw.1, by simp [fits_zero]⟩ ⟨rfl, rfl⟩ hw.2 rfl (by simp [hw])
  case cmpi | movi | loop | bc | lds9 | lds27 | sts9 | sts27  =>
    exact FormFields.standFor_lit ⟨rfl, rfl, by decide, hw.1.1, by simp [fits_zero, hw]⟩ ⟨rfl, rfl⟩ hw.2 rfl (by simp [hw])
  case addi =>
    exact FormFields.standFor_lit ⟨rfl, rfl, Shape.mem_all _, hw.1.1, by simp [fits_zero, hw]⟩ ⟨rfl, rfl⟩
      (fits_mono (Shape.width_le _) hw.2) (if_pos (by simp [hw])) (by simp [hw])
  case field | deposit =>
    obtain ⟨⟨hregs, hle⟩, hhi⟩ := hw
    exact FormFields.standFor_lit ⟨rfl, rfl, by decide, hregs.1, by simp [fits_zero, hregs]⟩ ⟨rfl, rfl⟩
      (fits_of_le_max (by omega) (by omega)) (if_pos (by simp; omega)) (by simp [hregs]; omega)
  case alea =>
    exact FormFields.standFor_lit ⟨rfl, rfl, by decide, hw.1.1, by simp [fits_zero, hw]⟩ ⟨rfl, rfl⟩
      (fits_of_le_max (by omega) (by omega)) (if_pos (by simp; omega)) (by simp [hw])
  case zip | unzip =>
    exact FormFields.standFor_lit ⟨rfl, rfl, Shape.mem_all _, hw.1.1.1.1, by simp [hw]⟩ ⟨rfl, rfl⟩
      (fits_of_le_max (by omega) (by omega)) (if_pos (by simp; omega)) (by simp [Machine.condIndex_condField, hw])
  case trap =>
    exact FormFields.standFor_lit ⟨rfl, rfl, by decide, hw.1, by simp [fits_zero]⟩ ⟨rfl, rfl⟩
      (fits_mono (by decide) hw.2) (if_pos (by simp [hw])) (by simp [hw])
  case pmode =>
    have hm := hw.2
    simp only [Bool.or_eq_true, beq_iff_eq] at hm
    exact FormFields.standFor_lit ⟨rfl, rfl, by decide, hw.1, by simp [fits_zero]⟩ ⟨rfl, rfl⟩
      (fits_of_le_max (by omega) (by omega)) (if_pos (by simpa using hm)) (by simp [hw])
  case engage =>
    exact FormFields.standFor_lit ⟨rfl, rfl, by decide, hw.1.1.1, by simp [fits_zero, hw]⟩ ⟨rfl, rfl⟩
      (fits_of_le_max (by omega) (by omega)) (if_pos (by simp [hw])) (by simp [hw])
  case bcase =>
    obtain ⟨hl, hlo, hhi⟩ := bcase_literal hw.1.2 hw.2
    exact FormFields.standFor_lit ⟨rfl, rfl, by decide, hw.1.1.1, by simp [fits_zero, hw]⟩ ⟨rfl, rfl⟩
      hl rfl (by simp [hw, hlo, hhi])
  case cpri p =>
    exact FormFields.standFor_lit ⟨rfl, rfl, by decide, hw.1, by simp [fits_zero, hw]⟩ ⟨rfl, rfl⟩
      (fits_mono (by decide) p.fits_toInt) (if_pos (by simp; cases p <;> decide)) (by simp [hw, Trit.ofInt_toInt])
  case kwait =>
    obtain ⟨⟨⟨hg, h1⟩, h3⟩, harg⟩ := hw
    obtain ⟨hl, hlo, hhi, hz⟩ := kwait_literal (fits_small h3) harg
    exact FormFields.standFor_lit ⟨rfl, rfl, by decide, hg, by simp [fits_zero]⟩ ⟨rfl, rfl⟩
      hl ((if_pos (by simp [hlo, hz]; omega)).trans (if_neg (by simp))) (by simp [hg, hlo, hhi])
  case kwaitR =>
    obtain ⟨⟨⟨hg, hb⟩, h1⟩, h3⟩ := hw
    obtain ⟨hl, hlo, hhi, hz⟩ := kwait_literal (fits_small h3) (fits_zero 9)
    simp only [mul_zero, add_zero] at hl hlo hhi hz
    exact FormFields.standFor_lit ⟨rfl, rfl, by decide, hg, by simp [fits_zero, fits_modif, hb]⟩ ⟨rfl, rfl⟩
      hl ((if_pos (by simp [hlo, hz]; omega)).trans ((if_pos (by simp)).trans (if_pos (by simp [hhi])))) (by simp [hg, hb, hlo])
  case hadd _ r _ _ _ | hsub _ r _ _ _ | hmin _ r _ _ _ | hmax _ r _ _ _ | hcmp _ r _ _ _ =>
    exact FormFields.standFor ⟨by cases r <;> rfl, rfl, by decide, hw.1, by simp [fits_zero, hw]⟩
      (by simp [hw]) rfl rfl (by simp [hw])
  case red _ _ op _ _ _ _ | scan _ _ op _ _ _ _ =>
    exact FormFields.standFor ⟨by cases op <;> rfl, rfl, Shape.mem_all _, hw.1, by simp [hw]⟩
      (by simp [hw]) rfl rfl (by simp [hw])
  case xadd _ o _ _ _ _ | xmin _ o _ _ _ _ | xmax _ o _ _ _ _ | xswp _ o _ _ _ _ | xsum _ o _ _ _ _ =>
    exact FormFields.standFor ⟨by cases o <;> rfl, rfl, by decide, hw.1, by simp [fits_zero, hw]⟩
      (by simp [hw]) rfl rfl (by simp [hw])
  case sel3 =>
    exact FormFields.standFor_two ⟨rfl, rfl, by decide, hw.1.1, by simp [hw]⟩ (by simp [hw]) rfl rfl
      (by simp [Machine.condIndex_condField, hw])
  case hacs =>
    exact FormFields.standFor_two ⟨rfl, rfl, by decide, hw.1, by simp [fits_zero, hw]⟩ (by simp [hw]) rfl rfl (by simp [hw])
  case xcas _ o _ _ _ _ _ =>
    exact FormFields.standFor_two ⟨by cases o <;> rfl, rfl, by decide, hw.1, by simp [hw]⟩ (by simp [hw]) rfl rfl (by simp [hw])
  case ld9 _ h _ _ _ _ | ld27 _ h _ _ _ _ | ldh _ h _ _ _ _ | lda _ h _ _ _ _ | st9 _ h _ _ _ _ | st27 _ h _ _ _ _ | sth _ h _ _ _ _ | sta _ h _ _ _ _ | pf _ h _ _ =>
    exact FormFields.standFor_lit ⟨by cases h <;> rfl, rfl, by decide, hw.1.1, by simp [fits_zero, hw]⟩ ⟨rfl, rfl⟩ hw.2 rfl
      (by simp [hw])
  case movs _ _ sp | movsA _ _ sp =>
    exact FormFields.standFor_lit ⟨rfl, rfl, by decide, hw.1, by simp [fits_zero, fits_modif, hw]⟩ ⟨rfl, rfl⟩
      sp.fits_code (Raw.build_movs (sp := sp) (by simp)) (by simp [hw])
  case sets _ sp _ | setsA _ sp _ =>
    exact FormFields.standFor_lit ⟨rfl, rfl, by decide, hw.1, by simp [fits_zero, fits_modif, hw]⟩ ⟨rfl, rfl⟩
      sp.fits_code (Raw.build_sets (sp := sp) (by simp)) (by simp [hw])
  case sarm _ s _ | saddReg _ s _ | sget _ _ s | swait _ _ s _ | spool _ _ s _ | rlock _ _ s _ | rlockRd _ _ s _ |
      runlockTorn _ _ s | board _ _ _ s | boardTile _ _ _ s =>
    cases s
    all_goals refine FormFields.standFor ⟨rfl, rfl, by decide, hw.1, ?_⟩ ?_ rfl rfl ?_
    all_goals simp only [Place.idx] at hw
    all_goals simp [fits_zero, fits_modif, Place.idx, Place.isA, placeOf, hw]
  case sadd _ s _ =>
    cases s
    all_goals
      simp only [Place.idx] at hw
      refine FormFields.standFor_lit ⟨rfl, rfl, by decide, hw.1.1.1, ?_⟩ ⟨rfl, rfl⟩ hw.2
        (Raw.build_sadd (by simp [Place.isA]) (by simp [hw])) ?_
    all_goals simp [fits_zero, fits_modif, Place.idx, Place.isA, placeOf, hw]
  case fcvt _ sh t _ _ dst src _ =>
    obtain ⟨⟨⟨⟨⟨⟨hg, hregs⟩, ht⟩, hd⟩, hs⟩, hp⟩, hsc⟩ := hw
    obtain ⟨hl, h1, h2, h3, h4⟩ := fcvt_literal dst.fits_cvtCode src.fits_cvtCode hsc
    have hform : Op.form .fcvt t = some ⟨.g, .g, .none, .none, true⟩ := by interval_cases t <;> rfl
    exact FormFields.standFor_lit ⟨hform, rfl, by cases sh <;> simp_all [fcvtPlaced] <;> decide, hg, by simp [fits_zero, hregs]; exact fits_small (by omega)⟩
      ⟨rfl, rfl⟩ hl (Raw.build_fcvt (by simpa [h1] using fmtOf_cvtCode hd) (by simpa [h2] using fmtOf_cvtCode hs) (by simpa using h4) (by simpa using hp)) (by simp [hg, hregs, h3])

/-- The instructions of a program are those that have fields. -/
theorem Instr.inProgram_eq_isSome_toRaw (i : Instr) : i.inProgram = i.toRaw.isSome := by cases i <;> rfl

/-- Settles O4: the fields of an instruction stand for it, and words of fields decode as the fields do. -/
theorem decodeOfEncode : Obligations.DecodeOfEncode := by
  unfold Obligations.DecodeOfEncode
  intro i hp hw
  obtain ⟨r, hr⟩ := Option.isSome_iff_exists.1 (i.inProgram_eq_isSome_toRaw ▸ hp)
  exact encode_of_standFor hr (toRaw_standFor hw hr)

/-- Settles O3: each printed word decodes by evaluation. -/
theorem decodeWords : Obligations.DecodeWords := by
  unfold Obligations.DecodeWords
  decide +kernel

end Sys2Proof

/-!
SUPPORT. What goes next in a step, and what of it takes place (R65, R129, R205, R438, R473, R476).
-/

namespace Sys2Proof.Machine

/-! ### What goes next -/

theorem State.gangs_ne_nil {s : State} (h : s.pickGang.gangThreads ≠ []) : s.gangs ≠ [] := fun hg =>
  h (by simp [State.pickGang, State.gangThreads, State.members, hg])

theorem State.insideNext_of_gang {s : State} (hturn : s.turn = false) (h : s.gangs ≠ []) :
    s.insideNext = (s.pickGang.gangStep, s.pickGang) := by
  simp [State.insideNext, State.gangNext, hturn, h]

theorem State.next_eq_insideNext {s : State} (hfw : s.fwReady ≠ .neg) (hdue : s.dueStep = none) (hstarted : s.started = [])
    (hagenda : s.agenda = [] ∨ Config.arrives s.tick = false) : s.next = s.insideNext := by
  unfold State.next
  rw [if_neg hfw, hdue, hstarted]
  cases ha : s.agenda with
  | nil => rfl
  | cons i rest => simp [hagenda.resolve_left (by simp [ha])]

theorem State.next_of_dueStep {s : State} {i : Instr} (hfw : s.fwReady ≠ .neg) (hdue : s.dueStep = some i) :
    s.next = (.event i, s) := by
  unfold State.next
  rw [if_neg hfw, hdue]

theorem State.next_of_started {s : State} {i : Instr} {rest : List Instr} (hfw : s.fwReady ≠ .neg) (hdue : s.dueStep = none)
    (hstarted : s.started = i :: rest) : s.next = (.event i, { s with started := rest }) := by
  unfold State.next
  rw [if_neg hfw, hdue, hstarted]

theorem State.next_of_refused_firmware {s : State} (hfw : s.fwReady = .neg) (hagenda : s.agenda = []) :
    s.next = (.idle, s) := by
  unfold State.next
  rw [if_pos hfw, hagenda]

/-- A gang that may issue issues the instruction of its words. -/
theorem State.gangStep_of_decode {s : State} {t : Thread} {ts : List Thread} {i : Instr} (hts : s.gangThreads = t :: ts)
    (hdie : s.standsStill t.core = false)
    (hfree : ∀ u ∈ t :: ts, u.takesAtSlot = false ∧ s.heldByCommit u = false ∧ u.blocker = none ∧ u.quantumEnds = false)
    (hi : decode t.words = .ok i) : s.gangStep = .issue i := by
  have none_of {p : Thread → Bool} (h : ∀ u ∈ t :: ts, p u = false) : ¬ (t :: ts).any p = true := by
    simpa only [List.any_eq_true, not_exists, not_and, Bool.not_eq_true] using h
  unfold State.gangStep
  rw [hts]
  simp only []
  rw [if_neg (by simp [hdie]), if_neg (none_of fun u hu => (hfree u hu).1), if_neg (none_of fun u hu => (hfree u hu).2.1),
    if_neg (none_of fun u hu => by simp [(hfree u hu).2.2.1]), if_neg (none_of fun u hu => (hfree u hu).2.2.2), hi]

/-- What is due is no instruction of a program. -/
theorem State.isProgram_of_dueStep {s : State} {i : Instr} (h : s.dueStep = some i) : isProgram i = false := by
  unfold State.dueStep at h
  split_ifs at h <;> cases h <;> rfl

/-! ### What takes place -/

theorem step_of_attempt {s : State} {o : Host.Outcome State Fault Refusal} (h : attempt s.next = some o) : step s = o := by
  unfold step
  rw [h]

theorem attempt_event {s s' : State} {i : Instr} (hi : isProgram i = false) (hx : exec i s = .next s')
    (hs : s'.stalled = false) : attempt (.event i, s) = some (.next s'.afterEvent) := by
  simp [attempt, settledBy, hi, hx, hs]

/-- What the gang issues takes effect, unless it reaches a die whose clock stands still. -/
theorem step_of_issue {s : State} {i : Instr} (hn : s.next = s.insideNext) (hin : s.insideNext = (.issue i, s.pickGang)) :
    (∀ s', exec i s.pickGang = .next s' →
      step s = .next (if s'.stalled = true then s.afterEvent else s'.afterIssue s.pickGang.members)) ∧
    (∀ f, exec i s.pickGang = .fault f → step s = .fault f) ∧ (∀ r, exec i s.pickGang = .refused r → step s = .refused r) := by
  refine ⟨fun s' hx => ?_, fun f hx => ?_, fun r hx => ?_⟩
  · unfold step
    rw [hn, hin]
    cases hs : s'.stalled <;> simp [attempt, settledBy, hx, hs]
  · exact step_of_attempt (by simp [hn, hin, attempt, settledBy, hx])
  · exact step_of_attempt (by simp [hn, hin, attempt, settledBy, hx])

/-- Settles O1, from what goes next in each of its cases. -/
theorem stepRunsDecoded : Obligations.StepRunsDecoded := by
  unfold Obligations.StepRunsDecoded
  refine fun s i => ⟨fun hfw => ⟨?_, ?_, ?_⟩, fun hfw hagenda => ?_⟩
  · intro t ts hdue hstarted hagenda hturn hts hdie hfree hi
    refine step_of_issue (State.next_eq_insideNext hfw hdue hstarted hagenda) ?_
    rw [State.insideNext_of_gang hturn (State.gangs_ne_nil (by simp [hts])), State.gangStep_of_decode hts hdie hfree hi]
  · intro rest s' hdue hstarted hi hx hs
    exact step_of_attempt ((congrArg attempt (State.next_of_started hfw hdue hstarted)).trans (attempt_event hi hx hs))
  · intro s' hdue hx hs
    exact step_of_attempt ((congrArg attempt (State.next_of_dueStep hfw hdue)).trans
      (attempt_event (State.isProgram_of_dueStep hdue) hx hs))
  · exact step_of_attempt (congrArg attempt (State.next_of_refused_firmware hfw hagenda))

end Sys2Proof.Machine

/-!
SUPPORT. The completion of a long-latency operation: what it writes of its thread, and what it leaves (R68, R69, R233, R299).
-/

namespace Sys2Proof.Machine

/-! ### Registers written in order -/

theorem Thread.writeG_eq (t : Thread) (d : Nat) (v : Int) : t.writeG d v = { t with g := (t.writeG d v).g } := by
  unfold Thread.writeG
  split <;> rfl

theorem Thread.writeC_eq (t : Thread) (d : Nat) (v : Trit) : t.writeC d v = { t with c := (t.writeC d v).c } := by
  unfold Thread.writeC
  split <;> rfl

theorem Thread.writeGs_eq (t : Thread) (l : List (Nat × Int)) : t.writeGs l = { t with g := (t.writeGs l).g } := by
  induction l generalizing t with
  | nil => rfl
  | cons p l ih =>
    exact (ih (t.writeG p.1 p.2)).trans
      (congrArg (fun u : Thread => { u with g := (t.writeGs (p :: l)).g }) (t.writeG_eq p.1 p.2))

theorem Thread.writeAs_eq (t : Thread) (l : List (Nat × Int)) : t.writeAs l = { t with a := (t.writeAs l).a } := by
  induction l generalizing t with
  | nil => rfl
  | cons p l ih => exact ih (t.writeA p.1 p.2)

theorem Thread.writeCs_eq (t : Thread) (l : List (Nat × Trit)) : t.writeCs l = { t with c := (t.writeCs l).c } := by
  induction l generalizing t with
  | nil => rfl
  | cons p l ih =>
    exact (ih (t.writeC p.1 p.2)).trans
      (congrArg (fun u : Thread => { u with c := (t.writeCs (p :: l)).c }) (t.writeC_eq p.1 p.2))

theorem Thread.readG_writeGs_of_not_mem {t : Thread} {l : List (Nat × Int)} {i : Nat} (h : ∀ p ∈ l, p.1 ≠ i) :
    (t.writeGs l).readG i = t.readG i := by
  induction l generalizing t with
  | nil => rfl
  | cons p l ih =>
    obtain ⟨hp, hl⟩ := List.forall_mem_cons.1 h
    exact (ih hl).trans (Thread.readG_writeG_ne t p.2 hp.symm)

/-- Registers of distinct names get their values. -/
theorem Thread.gotG_writeGs {t : Thread} {l : List (Nat × Int)} (hs : t.Sized) (hd : (l.map Prod.fst).Nodup)
    (ho : ∀ p ∈ l, p.1 < t.nregs) : ∀ p ∈ l, (t.writeGs l).GotG p.1 p.2 := by
  induction l generalizing t with
  | nil => nofun
  | cons q l ih =>
    rw [List.map_cons, List.nodup_cons] at hd
    obtain ⟨hq, hl⟩ := List.forall_mem_cons.1 ho
    refine List.forall_mem_cons.2 ⟨?_, ih (hs.writeG q.1 q.2) hd.2 fun p hp => by simpa using hl p hp⟩
    have hkept : (t.writeGs (q :: l)).readG q.1 = (t.writeG q.1 q.2).readG q.1 :=
      Thread.readG_writeGs_of_not_mem fun p hp e => hd.1 (List.mem_map.2 ⟨p, hp, e⟩)
    rw [Thread.GotG, hkept, Thread.readG_writeG t (hs.g ▸ hq), if_pos rfl]

theorem Thread.readC_writeCs_of_not_mem {t : Thread} {l : List (Nat × Trit)} {i : Nat} (h : ∀ p ∈ l, p.1 ≠ i) :
    (t.writeCs l).readC i = t.readC i := by
  induction l generalizing t with
  | nil => rfl
  | cons p l ih =>
    obtain ⟨hp, hl⟩ := List.forall_mem_cons.1 h
    exact (ih hl).trans (Thread.readC_writeC_ne t p.2 hp.symm)

theorem Thread.gotC_writeCs {t : Thread} {l : List (Nat × Trit)} (hs : t.Sized) (hl : l.length ≤ 1) (ho : ∀ p ∈ l, p.1 < 9) :
    ∀ p ∈ l, (t.writeCs l).GotC p.1 p.2 := by
  match l, hl with
  | [], _ => nofun
  | [q], _ =>
    refine List.forall_mem_singleton.2 ?_
    have hq : q.1 < t.c.length := hs.c ▸ ho q (List.mem_singleton_self q)
    exact (Thread.readC_writeC t hq q.2 q.1).trans (by rw [if_pos rfl])

/-- A write of the condition registers does not look at the others. -/
theorem Thread.writeCs_c_congr {t u : Thread} {l : List (Nat × Trit)} (h : t.c = u.c) : (t.writeCs l).c = (u.writeCs l).c := by
  induction l generalizing t u with
  | nil => exact h
  | cons p l ih =>
    have hp : (t.writeC p.1 p.2).c = (u.writeC p.1 p.2).c := by
      unfold Thread.writeC
      split
      · exact h
      · simp only [h]
    exact ih hp

/-! ### The operation completes in its thread (R69) -/

/-- The results of an operation are written. -/
def Thread.wrote (t : Thread) (o : LongOp) : Thread := ((t.writeGs o.gs).writeAs o.prs).writeCs o.cs

/-- The operation is outstanding no more, and its flag counts one less. -/
def Thread.left (t : Thread) (o : LongOp) : Thread :=
  { t.subFlag o.flag with ops := t.ops.filter fun x => x.num != o.num }

theorem Thread.wrote_eq (t : Thread) (o : LongOp) :
    t.wrote o = { t with g := (t.wrote o).g, a := (t.wrote o).a, c := (t.wrote o).c } := by
  unfold Thread.wrote
  rw [Thread.writeCs_eq, Thread.writeAs_eq, Thread.writeGs_eq]

theorem Thread.subFlag_eq (t : Thread) (f : Option Nat) : t.subFlag f = { t with cflags := (t.subFlag f).cflags } := by
  cases f <;> rfl

/-- An operation that completes writes the three register files and the real flags. -/
theorem Thread.finish_eq {t : Thread} {o : LongOp} (hc : o.cause = none) :
    t.finish o = { t.left o with
      g := (t.wrote o).g, a := (t.wrote o).a, c := (t.wrote o).c, flags := t.flags.or o.sets } := by
  unfold Thread.finish Thread.left
  rw [hc]
  simp only []
  rw [← Thread.wrote, Thread.wrote_eq]
  cases o.flag <;> rfl

/-- A deferred cause joins the pending causes. -/
theorem Thread.finish_of_cause {t : Thread} {o : LongOp} {c : Cause} (hc : o.cause = some c) (hg : o.gs = []) (hp : o.prs = [])
    (hcs : o.cs = []) (hsets : o.sets = RealFlags.clear) (hpend : t.pend = []) :
    t.finish o = { t.left o with pend := [⟨c, o.dests⟩] } := by
  unfold Thread.finish Thread.left Thread.addPending
  rw [hc, hg, hp, hcs, hsets]
  cases o.flag <;> simp [Thread.writeGs, Thread.writeAs, Thread.writeCs, Thread.raise, RealFlags.or_clear, Thread.subFlag,
    Thread.flagCount, hpend]

theorem Thread.abandon_of_not_waiting {t : Thread} (h : ∀ cd l n b, t.run ≠ .waiting cd l n b) : t.abandon = t := by
  unfold Thread.abandon
  split
  next cd l n b hr => exact absurd hr (h cd l n b)
  next => rfl

theorem Thread.takePending_of_nil {t : Thread} (h : t.pend = []) (slot : Nat) : t.takePending slot = t := by
  unfold Thread.takePending
  rw [h]

/-- Where the keys of a list are distinct, a key finds its element. -/
theorem find?_of_nodup_map {α β : Type} [DecidableEq β] {f : α → β} {l : List α} {a : α} (hd : (l.map f).Nodup) (h : a ∈ l) :
    (l.find? fun x => f x == f a) = some a := by
  induction l with
  | nil => cases h
  | cons x l ih =>
    rw [List.map_cons, List.nodup_cons] at hd
    obtain rfl | ha := List.mem_cons.1 h
    · simp
    · have hne : f x ≠ f a := fun e => hd.1 (e ▸ List.mem_map_of_mem ha)
      rw [List.find?_cons_of_neg (by simpa using hne)]
      exact ih hd.2 ha

/-! ### The operation completes in the machine -/

theorem State.mapThread_eq_self {s : State} {id : ThreadId} {f : Thread → Thread} (h : ∀ u ∈ s.threads, u.id = id → f u = u) :
    s.mapThread id f = s := by
  have hmap : s.threads.map (fun u => if u.id == id then f u else u) = s.threads.map fun u => u :=
    List.map_congr_left fun u hu => by
      by_cases hid : u.id = id
      · simp [hid, h u hu hid]
      · simp [hid]
  unfold State.mapThread
  rw [hmap, List.map_id']

theorem State.mapThread_becomes {s : State} {t t' : Thread} (hid : t'.id = t.id) (f : Thread → Thread) :
    (s.becomes t t').mapThread t.id f = s.becomes t (f t') := by
  unfold State.becomes State.mapThread
  simp only [List.map_map]
  congr 1
  refine List.map_congr_left fun u _ => ?_
  by_cases hu : u.id = t.id <;> simp [hu, hid]

section OneThread

variable {s : State} {t t' : Thread} {o : LongOp}

theorem State.finishOp_becomes (here : s.thread? t.id = some t) (only : ∀ u ∈ s.threads, u.id = t.id → u = t)
    (ho : o ∈ t.ops) (hd : (t.ops.map LongOp.num).Nodup) (htile : o.tileOp = none) :
    s.finishOp t.id o.num = s.becomes t (t.finish o).abandon := by
  unfold State.finishOp
  rw [here]
  simp only [find?_of_nodup_map hd ho, htile]
  exact State.mapThread_eq_becomes only _

/-- The completion in a thread that nothing pending stops. -/
theorem exec_completion_becomes (here : s.thread? t.id = some t) (only : ∀ u ∈ s.threads, u.id = t.id → u = t) (hcalm : s.Calm)
    (ho : o ∈ t.ops) (hd : (t.ops.map LongOp.num).Nodup) (htile : o.tileOp = none) (hfin : t.finish o = t')
    (hid : t'.id = t.id) (hrun : t'.run = t.run) (hfailed : t'.failed = t.failed) (hwait : ∀ cd l n b, t.run ≠ .waiting cd l n b)
    (hpend : t'.pend = [] ∨ t'.waitsForPoison = false) :
    exec (.longLatencyCompletion t.id o.num) s = .next (s.becomes t t') := by
  have habandon : (t.finish o).abandon = t' := by
    rw [hfin]
    exact Thread.abandon_of_not_waiting (by simpa only [hrun] using hwait)
  have hmem : t ∈ s.threads := (State.id_of_thread? here).1
  refine congrArg Host.Outcome.next ?_
  rw [State.finishOp_becomes here only ho hd htile, habandon, State.mapThread_becomes hid]
  obtain hnil | hpoison := hpend
  · rw [Thread.takePending_of_nil hnil, ite_self]
    exact State.settle_of_calm (hcalm.becomes t (hfailed.trans (hcalm t hmem)))
  · rw [if_neg (by simp [hpoison])]
    exact State.settle_of_calm (hcalm.becomes t (hfailed.trans (hcalm t hmem)))

end OneThread

/-! ### A tile operation completes (R233) -/

/-- What the thread becomes as the tile operation of a number completes. -/
def Thread.finishTile (k : Nat) (u : Thread) : Thread :=
  match u.ops.find? fun x => x.tileOp == some k with
  | some x => (u.finish x).abandon
  | none => u

section Tile

variable {s : State} {t u : Thread} {o x : LongOp} {k : Nat}

theorem State.finishOp_tile (here : s.thread? t.id = some t) (ho : o ∈ t.ops) (hd : (t.ops.map LongOp.num).Nodup)
    (htile : o.tileOp = some k) :
    s.finishOp t.id o.num = { s with threads := s.threads.map (Thread.finishTile k) } := by
  unfold State.finishOp
  rw [here]
  simp only [find?_of_nodup_map hd ho, htile]
  rfl

theorem Thread.finishTile_of_find (hx : (u.ops.find? fun x => x.tileOp == some k) = some x)
    (hk : ∀ x ∈ u.ops, x.tileOp = some k → x.cause = none ∧ ∀ cd l n b, u.run ≠ .waiting cd l n b) :
    u.finishTile k = { u.left x with
      g := (u.wrote x).g, a := (u.wrote x).a, c := (u.wrote x).c, flags := u.flags.or x.sets } := by
  obtain ⟨hcause, hrun⟩ := hk x (List.mem_of_find?_eq_some hx) (by simpa using List.find?_some hx)
  unfold Thread.finishTile
  rw [hx]
  simp only []
  rw [Thread.finish_eq hcause]
  refine Thread.abandon_of_not_waiting fun cd l n b => ?_
  simpa [Thread.left] using hrun cd l n b

/-- The completion of a tile operation keeps of a thread its identity, its pending causes and its place. -/
theorem Thread.finishTile_keeps
    (hk : ∀ x ∈ u.ops, x.tileOp = some k → x.cause = none ∧ ∀ cd l n b, u.run ≠ .waiting cd l n b) :
    (u.finishTile k).id = u.id ∧ (u.finishTile k).pend = u.pend ∧ (u.finishTile k).failed = u.failed := by
  cases hx : u.ops.find? fun x => x.tileOp == some k with
  | none => simp [Thread.finishTile, hx]
  | some x => simp [Thread.finishTile_of_find hx hk, Thread.left]

theorem exec_completion_tile (here : s.thread? t.id = some t) (hcalm : s.Calm) (hids : (s.threads.map Thread.id).Nodup)
    (ho : o ∈ t.ops) (hd : (t.ops.map LongOp.num).Nodup) (htile : o.tileOp = some k) (hpend : t.pend = [])
    (hk : ∀ u ∈ s.threads, ∀ x ∈ u.ops, x.tileOp = some k → x.cause = none ∧ ∀ cd l n b, u.run ≠ .waiting cd l n b) :
    exec (.longLatencyCompletion t.id o.num) s = .next { s with threads := s.threads.map (Thread.finishTile k) } := by
  refine congrArg Host.Outcome.next ?_
  rw [State.finishOp_tile here ho hd htile, State.mapThread_eq_self]
  · exact State.settle_of_calm (State.calm_map fun u hu => (Thread.finishTile_keeps (hk u hu)).2.2.trans (hcalm u hu))
  · intro v hv hid
    obtain ⟨u, hu, rfl⟩ := List.mem_map.1 hv
    obtain ⟨huid, hupend, -⟩ := Thread.finishTile_keeps (hk u hu)
    have hut : u = t := List.inj_on_of_nodup_map hids hu (State.id_of_thread? here).1 (huid.symm.trans hid)
    rw [Thread.takePending_of_nil (hupend.trans (hut ▸ hpend)), ite_self]

/-- A thread found by its identity after a map that keeps identities. -/
theorem State.thread?_map {f : Thread → Thread} (hids : (s.threads.map Thread.id).Nodup) (hu : u ∈ s.threads)
    (hf : ∀ v ∈ s.threads, (f v).id = v.id) :
    ({ s with threads := s.threads.map f } : State).thread? u.id = some (f u) := by
  have hkeys : (s.threads.map f).map Thread.id = s.threads.map Thread.id := by
    rw [List.map_map]
    exact List.map_congr_left hf
  have hfind := find?_of_nodup_map (hkeys ▸ hids) (List.mem_map_of_mem (f := f) hu)
  rwa [hf u hu] at hfind

end Tile

/-! ### What each kind of operation leaves -/

section Results

variable {t : Thread} {o : LongOp} {k d : Nat} {v : Int}

theorem Thread.left_eq (hflag : o.flag = some k) :
    { t with cflags := t.cflags.set k (t.cflags.getD k 0 - 1), ops := t.ops.filter fun x => x.num != o.num } = t.left o := by
  unfold Thread.left
  rw [hflag]
  rfl

theorem Thread.finish_of_no_results (hg : o.gs = []) (hp : o.prs = []) (hc : o.cs = []) (hcause : o.cause = none) :
    t.finish o = { t.left o with flags := t.flags.or o.sets } := by
  rw [Thread.finish_eq hcause, Thread.wrote, hg, hp, hc]
  unfold Thread.left
  rw [Thread.subFlag_eq]
  rfl

theorem Thread.finish_of_g (hg : o.gs = [(d, v)]) (hp : o.prs = []) (hc : o.cs = []) (hcause : o.cause = none)
    (hsets : o.sets = RealFlags.clear) : t.finish o = (t.left o).writeG d v := by
  rw [Thread.finish_eq hcause, Thread.wrote, hg, hp, hc, hsets, RealFlags.or_clear, Thread.left, Thread.subFlag_eq]
  by_cases hd : d = 0
  · subst hd
    rfl
  · simp only [Thread.writeGs, Thread.writeAs, Thread.writeCs, List.foldl_cons, List.foldl_nil, Thread.writeG, if_neg hd]

theorem Thread.finish_of_pair (hg : o.gs = []) (hp : o.prs = [(d, v)]) (hc : o.cs = []) (hcause : o.cause = none) :
    t.finish o = ((t.left o).writeA d v).raise o.sets := by
  rw [Thread.finish_eq hcause, Thread.wrote, hg, hp, hc]
  unfold Thread.left
  rw [Thread.subFlag_eq]
  rfl

theorem Thread.Sized.left (hs : t.Sized) (o : LongOp) : (t.left o).Sized :=
  (hs.subFlag o.flag).congr rfl rfl rfl rfl rfl

theorem Thread.left_slotUses (t : Thread) (o : LongOp) (l : List Pending) :
    ({ t.left o with pend := l } : Thread).slotUses = t.slotUses := by
  unfold Thread.left
  rw [Thread.subFlag_eq]
  rfl

theorem Thread.waitsForPoison_of_unused {c : Cause} (hu : ∀ u ∈ o.dests, u ∉ t.slotUses) :
    ({ t.left o with pend := [⟨c, o.dests⟩] } : Thread).waitsForPoison = false := by
  unfold Thread.waitsForPoison
  rw [Thread.left_slotUses]
  simp only [List.any_cons, List.any_nil, Bool.or_false, List.any_eq_false, List.contains_iff_mem]
  exact fun u hmem => hu u (List.mem_of_mem_filter hmem)

end Results

/-- A register written where the thread stands. -/
theorem Thread.keeps_writeG_here (t : Thread) (d : Nat) (v : Int) : t.Keeps [gUse d] (t.writeG d v) := by
  refine ⟨⟨by simp, fun i hi => ?_, by simp, by simp, by simp, by simp, by simp, by simp, by simp⟩, by simp⟩
  exact Thread.readG_writeG_ne t v (by simpa [gUse_inj] using hi)

theorem Thread.frame_writeA_raise_here (t : Thread) (d : Nat) (v : Int) (fl : RealFlags) :
    t.Frame [aUse d] ((t.writeA d v).raise fl) := by
  refine ⟨by simp, by simp, fun i hi => ?_, by simp, by simp, by simp, by simp, by simp, by simp⟩
  rw [Thread.raise_readA]
  exact Thread.readA_writeA_ne t v (by simpa [aUse_inj] using hi)

/-- What the tile operation of a thread writes: its words, its condition, and nothing that it does not name. -/
theorem Thread.finishTile_post {t u : Thread} {x : LongOp} (hs : t.Sized)
    (hu : u = { t.left x with g := (t.wrote x).g, a := (t.wrote x).a, c := (t.wrote x).c, flags := t.flags.or x.sets })
    (hgs : (x.gs.map Prod.fst).Nodup) (hg : ∀ p ∈ x.gs, p.1 < t.nregs ∧ gUse p.1 ∈ x.dests) (hprs : x.prs = [])
    (hc : ∀ p ∈ x.cs, p.1 < 9 ∧ cUse p.1 ∈ x.dests) (hcs : x.cs.length ≤ 1) :
    (∀ p ∈ x.gs, u.GotG p.1 p.2) ∧ (∀ p ∈ x.cs, u.GotC p.1 p.2) ∧ u.flags = t.flags.or x.sets ∧
      u.ops = t.ops.filter (fun y => y.num != x.num) ∧ (∀ i, gUse i ∉ x.dests → u.readG i = t.readG i) ∧
      (∀ i, u.readA i = t.readA i) ∧ (∀ i, cUse i ∉ x.dests → u.readC i = t.readC i) ∧
      (u.pc, u.slot, u.run) = (t.pc, t.slot, t.run) := by
  have hwrote : t.wrote x = (t.writeGs x.gs).writeCs x.cs := by
    rw [Thread.wrote, hprs]
    rfl
  have hreadG : ∀ i, u.readG i = (t.writeGs x.gs).readG i := Thread.readG_congr (by
    rw [hu, hwrote, Thread.writeCs_eq])
  have hreadA : ∀ i, u.readA i = t.readA i := Thread.readA_congr (by
    rw [hu, hwrote, Thread.writeCs_eq, Thread.writeGs_eq])
  have hreadC : ∀ i, u.readC i = (t.writeCs x.cs).readC i := Thread.readC_congr (by
    rw [hu, hwrote]
    exact Thread.writeCs_c_congr (by rw [Thread.writeGs_eq]))
  refine ⟨fun p hp => ?_, fun p hp => ?_, ?_, ?_, fun i hi => ?_, hreadA, fun i hi => ?_, ?_⟩
  · exact (hreadG p.1).trans (Thread.gotG_writeGs hs hgs (fun q hq => (hg q hq).1) p hp)
  · exact (hreadC p.1).trans (Thread.gotC_writeCs hs hcs (fun q hq => (hc q hq).1) p hp)
  · rw [hu]
  · rw [hu]; rfl
  · exact (hreadG i).trans (Thread.readG_writeGs_of_not_mem fun p hp e => hi (e ▸ (hg p hp).2))
  · exact (hreadC i).trans (Thread.readC_writeCs_of_not_mem fun p hp e => hi (e ▸ (hc p hp).2))
  · simp [hu, Thread.left]

/-- Settles O37: each kind of operation by what it leaves of its thread. -/
theorem completionResults : Obligations.CompletionResults := by
  unfold Obligations.CompletionResults
  refine ⟨?_, ?_⟩
  · intro s t o k d v here only hcalm hs ho hd htile hflag hk hpend hwait
    rw [Thread.left_eq hflag]
    have hleft : (t.left o).id = t.id ∧ (t.left o).run = t.run ∧ (t.left o).failed = t.failed ∧ (t.left o).pend = [] := by
      simp [Thread.left, hpend]
    obtain ⟨hid, hrun, hfailed, hlpend⟩ := hleft
    have done {t' : Thread} := @exec_completion_becomes s t t' o here only hcalm ho hd htile
    refine ⟨fun hg hp hc hcause hsets hdn => ?_, fun hg hp hc hcause hdn => ?_, fun hg hp hc hcause => ?_,
      fun c hg hp hc hcause hsets hu => ?_⟩
    · have hdg : d < (t.left o).g.length := by rw [(hs.left o).g]; simpa [Thread.left] using hdn
      refine ⟨_, done (Thread.finish_of_g hg hp hc hcause hsets) (by simp [hid]) (by simp [hrun]) (by simp [hfailed]) hwait
        (.inl (by simp [hlpend])), ?_, ?_, ?_⟩
      · simp [Thread.GotG, Thread.readG_writeG _ hdg]
      · exact Thread.keeps_writeG_here _ d v
      · simp [Thread.left]
    · have hda : d < (t.left o).a.length := by rwa [(hs.left o).a]
      refine ⟨_, done (Thread.finish_of_pair hg hp hc hcause) (by simp [hid]) (by simp [hrun]) (by simp [hfailed]) hwait
        (.inl (by simp [hlpend])), ?_, ?_, ?_, ?_⟩
      · simp [Thread.readA_writeA _ hda]
      · exact Thread.frame_writeA_raise_here _ d v _
      · simp [Thread.left, Thread.raise]
      · simp [Thread.left]
    · exact done (Thread.finish_of_no_results hg hp hc hcause) hid hrun hfailed hwait (.inl hlpend)
    · exact done (Thread.finish_of_cause hcause hg hp hc hsets hpend) hid hrun hfailed hwait
        (.inr (Thread.waitsForPoison_of_unused hu))
  · intro s t o k here hcalm hids ho hd htile hpend hops
    refine ⟨_, exec_completion_tile here hcalm hids ho hd htile hpend hops, rfl, fun u hu => ⟨fun hnone => ?_, ?_⟩⟩
    · have hfind : (u.ops.find? fun x => x.tileOp == some k) = none := by simpa using hnone
      exact List.mem_map.2 ⟨u, hu, by simp [Thread.finishTile, hfind]⟩
    · intro x hx hsz hgs hgd hprs hcd hcs
      exact ⟨_, State.thread?_map hids hu fun v hv => (Thread.finishTile_keeps (hops v hv)).1,
        Thread.finishTile_post hsz (Thread.finishTile_of_find hx (hops u hu)) hgs hgd hprs hcd hcs⟩

end Sys2Proof.Machine

/-!
SUPPORT. A race trap that no handler takes: it ends the thread with failure, and the thread's team is no more (R48, R289, R427).
-/

namespace Sys2Proof.Machine

theorem exec_teamCommit {s : State} {team : TeamId} (h : s.commitReady team = true) :
    exec (.teamCommit team) s = .next (s.commit team false) := if_pos h

/-- A deterministic thread without a handler, whose quantum has ended with one tryte stored. -/
def unhandledThread : Thread :=
  { bootThread [0] with
    status := { (bootThread [0]).status with det := true }
    trapvec := 0, run := .quantum, buf := [.memory 0 0 0 0 .default 0 1] }

/-- A machine of this thread and its team, in which another team of the bolt holds the tryte that it stores. -/
def unhandledRace : State :=
  { State.reset.place [0] with
    threads := [unhandledThread], teams := [startTeam bootBolt 0 0 [0] [0, 0, 0]], heldTrytes := [(0, 0, ⟨0, 1⟩)] }

theorem unhandledRace_calm : unhandledRace.Calm := List.forall_mem_singleton.2 rfl

theorem unhandledRace_sound : unhandledRace.MemorySound := ⟨rfl, List.nodup_nil, List.nodup_nil, nofun, nofun, nofun, nofun⟩

theorem unhandledRace_ready : unhandledRace.commitReady unhandledThread.team = true ∧
    unhandledRace.liveThreads unhandledThread.team = [unhandledThread] := by decide +kernel

/-- The commit ends the bolt, and the thread with it. -/
theorem thread?_commit_unhandledRace : (unhandledRace.commit unhandledThread.team false).thread? unhandledThread.id = none := by
  decide +kernel

/-- Refutes O60: a commit of one tryte that another team holds leaves no thread where TRAPVEC is 0, since the race trap
then ends the thread's bolt (R48), but the last clause has the thread stand after every commit. -/
theorem not_fetchAndCommitResults : ¬ Obligations.FetchAndCommitResults := by
  unfold Obligations.FetchAndCommitResults
  rintro ⟨-, -, -, -, hone⟩
  obtain ⟨hready, hlive⟩ := unhandledRace_ready
  obtain ⟨s', t', hexec, hthere, -⟩ := hone unhandledRace unhandledThread 0 0 0 0 0 1 .default unhandledRace_calm unhandledRace_sound
    rfl (List.forall_mem_singleton.2 fun _ => rfl) hready hlive rfl
  obtain rfl : unhandledRace.commit unhandledThread.team false = s' :=
    Host.Outcome.next.inj ((exec_teamCommit hready).symm.trans hexec)
  rw [thread?_commit_unhandledRace] at hthere
  cases hthere

end Sys2Proof.Machine

/-!
SUPPORT. What the binary integer instructions, division and the shifts give of two elements, and that it fits the element
(R19, R21, R26, R27, R94, R96, R99).
-/

namespace Sys2Proof

/-- Dropping trits takes a number no further from 0. -/
theorem fits_trunc {n : Nat} (m : Nat) {x : Int} (h : fits n x = true) : fits n (trunc m x) = true := by
  rw [fits_iff] at *
  obtain ⟨hlo, hhi⟩ := h
  have hm := two_maxTrits m
  have hpos := maxTrits_nonneg m
  unfold trunc
  constructor
  · rw [Int.le_ediv_iff_mul_le (p3_pos m)]; nlinarith [maxTrits_nonneg n]
  · rw [← Int.lt_add_one_iff, Int.ediv_lt_iff_lt_mul (p3_pos m)]; nlinarith [maxTrits_nonneg n]

/-- The high half of a product of two n-trit values has an n-trit string (R94). -/
theorem fits_trunc_mul {n : Nat} {x y : Int} (hx : fits n x = true) (hy : fits n y = true) :
    fits n (trunc n (x * y)) = true := by
  rw [fits_iff_two_abs_lt] at *
  have hcut : 2 * |trunc n (x * y) * p3 n - x * y| < p3 n := Machine.two_abs_trunc_mul_sub_lt n (x * y)
  have htri : |trunc n (x * y)| * p3 n ≤ |trunc n (x * y) * p3 n - x * y| + |x| * |y| := by
    rw [← abs_of_pos (p3_pos n), ← abs_mul, ← abs_mul, abs_of_pos (p3_pos n)]
    simpa using abs_add_le (trunc n (x * y) * p3 n - x * y) (x * y)
  have hxy : |x| * |y| * 4 ≤ (p3 n - 1) * (p3 n - 1) := by nlinarith [abs_nonneg x, abs_nonneg y]
  by_contra hlt
  have := mul_le_mul_of_nonneg_right (not_lt.1 hlt) (p3_pos n).le
  nlinarith [p3_pos n]

/-- A value shifted left by its width or more leaves no trit. -/
theorem wrap_mul_p3 {n m : Nat} (h : n ≤ m) (x : Int) : wrap n (x * p3 m) = 0 := by
  obtain ⟨k, rfl⟩ := Nat.exists_eq_add_of_le h
  have := wrap_add_mul (x * p3 k) (fits_zero n)
  rwa [zero_add, show p3 n * (x * p3 k) = x * p3 (n + k) by rw [p3_add]; ring] at this

/-- A value other than 0, scaled up by its width or more, is beyond the largest value. -/
theorem maxTrits_lt_mul_p3 {n m : Nat} (h : n ≤ m) {x : Int} (hx : 0 < x) : maxTrits n < x * p3 m := by
  have hmono := maxTrits_mono h
  have htwo := two_maxTrits m
  nlinarith [maxTrits_nonneg m, p3_pos m]

theorem sat_mul_p3_min (n m : Nat) (x : Int) : sat n (x * p3 (min m n)) = sat n (x * p3 m) := by
  obtain h | h := le_total m n
  · rw [min_eq_left h]
  rw [min_eq_right h]
  have hn := maxTrits_nonneg n
  obtain hx | rfl | hx := lt_trichotomy x 0
  · have h1 := maxTrits_lt_mul_p3 (le_refl n) (neg_pos.2 hx)
    have h2 := maxTrits_lt_mul_p3 h (neg_pos.2 hx)
    rw [Machine.sat_eq_max_min, Machine.sat_eq_max_min]
    rw [neg_mul] at h1 h2; omega
  · simp
  · have h1 := maxTrits_lt_mul_p3 (le_refl n) hx
    have h2 := maxTrits_lt_mul_p3 h hx
    rw [Machine.sat_eq_max_min, Machine.sat_eq_max_min]; omega

theorem wrap_mul_p3_min (n m : Nat) (x : Int) : wrap n (x * p3 (min m n)) = wrap n (x * p3 m) := by
  obtain h | h := le_total m n
  · rw [min_eq_left h]
  · rw [min_eq_right h, wrap_mul_p3 le_rfl, wrap_mul_p3 h]

theorem trunc_min {n : Nat} (m : Nat) {x : Int} (hx : fits n x = true) : trunc (min m n) x = trunc m x := by
  obtain h | h := le_total m n
  · rw [min_eq_left h]
  · rw [min_eq_right h, trunc_of_fits hx, trunc_of_fits (fits_mono h hx)]

namespace Machine

/-! ### Division -/

/-- The magnitude of a quotient: the nearest integer, of two that are equally near the one nearer to 0 (R26). -/
def quotMag (a b : Int) : Int := (2 * |a| + |b| - 1) / (2 * |b|)

theorem divq_eq (a b : Int) : divq a b = a.sign * b.sign * quotMag a b := by
  unfold divq quotMag
  rw [sgn_eq_sign, sgn_eq_sign, Int.natCast_natAbs, Int.natCast_natAbs]

/-- What remains of |a| is at most half of |b|, and half of it only from below. -/
theorem quotMag_spec (a : Int) {b : Int} (hb : b ≠ 0) : 0 ≤ quotMag a b ∧ quotMag a b ≤ |a| ∧
    -|b| < 2 * (|a| - |b| * quotMag a b) ∧ 2 * (|a| - |b| * quotMag a b) ≤ |b| := by
  have hpos : 0 < |b| := abs_pos.2 hb
  have ha := abs_nonneg a
  have hlo : quotMag a b * (2 * |b|) ≤ 2 * |a| + |b| - 1 := Int.ediv_mul_le _ (by omega)
  have hhi : 2 * |a| + |b| - 1 < (quotMag a b + 1) * (2 * |b|) := Int.lt_ediv_add_one_mul_self _ (by omega)
  refine ⟨Int.ediv_nonneg (by omega) (by omega), ?_, by linarith, by linarith⟩
  by_contra hlt
  nlinarith

/-- The multiple of the divisor that a quotient stands for has the sign of the dividend. -/
theorem mul_divq (a b : Int) : b * divq a b = a.sign * (|b| * quotMag a b) := by
  rw [divq_eq, ← Int.sign_mul_self_eq_abs b]; ring

theorem abs_mul_divq {a b : Int} (ha : a ≠ 0) (hb : b ≠ 0) : |b * divq a b| = |b| * quotMag a b := by
  have := (quotMag_spec a hb).1
  rw [mul_divq, abs_mul, Int.abs_sign_of_ne_zero ha, one_mul, abs_of_nonneg (by positivity)]

theorem divq_zero (b : Int) : divq 0 b = 0 := by simp [divq_eq]

/-- Quotient and remainder of a division: the remainder is at most half of the divisor, and where it is half of it, the
quotient is the one nearer to 0 (R21, R26, R27). -/
theorem divq_spec (a : Int) {b : Int} (hb : b ≠ 0) :
    2 * |a - b * divq a b| ≤ |b| ∧ (2 * |a - b * divq a b| = |b| → |b * divq a b| ≤ |a|) := by
  by_cases ha : a = 0
  · simp [ha, divq_zero]
  obtain ⟨hq, -, hlo, hhi⟩ := quotMag_spec a hb
  have hrem : |a - b * divq a b| = |(|a| - |b| * quotMag a b)| := by
    have hsplit : a - b * divq a b = a.sign * (|a| - |b| * quotMag a b) := by
      rw [mul_divq, mul_sub, Int.sign_mul_abs]
    rw [hsplit, abs_mul, Int.abs_sign_of_ne_zero ha, one_mul]
  rw [hrem, abs_mul_divq ha hb]
  obtain ⟨h, hx⟩ | ⟨h, hx⟩ := abs_cases (|a| - |b| * quotMag a b)
  · exact ⟨by omega, fun _ => by omega⟩
  · exact ⟨by omega, fun _ => by omega⟩

theorem abs_divq_le (a b : Int) : |divq a b| ≤ |a| := by
  by_cases hb : b = 0
  · simp [divq_eq, hb]
  obtain ⟨hq, hle, -, -⟩ := quotMag_spec a hb
  have hs (x : Int) : |x.sign| ≤ 1 := by
    obtain h | h | h := lt_trichotomy x 0 <;> simp [Int.sign_eq_neg_one_of_neg, Int.sign_eq_one_of_pos, h]
  rw [divq_eq, abs_mul, abs_mul, abs_of_nonneg hq]
  have : |a.sign| * |b.sign| ≤ 1 := mul_le_one₀ (hs a) (abs_nonneg _) (hs b)
  nlinarith

theorem fits_of_abs_le {n : Nat} {x y : Int} (h : |x| ≤ |y|) (hy : fits n y = true) : fits n x = true := by
  rw [fits_iff_two_abs_lt] at *; omega

theorem fits_divm {n : Nat} {a b : Int} (ha : fits n a = true) (hb : fits n b = true) : fits n (divm a b) = true := by
  unfold divm
  by_cases h0 : b = 0
  · simpa [h0] using ha
  · refine fits_of_abs_le ?_ hb
    have := (divq_spec a h0).1
    have := abs_nonneg (a - b * divq a b)
    omega

/-- The elements of a word of computed elements: what the function gives of each, within its width. -/
theorem mapElems_spec {sh : Shape} {f : Int → Int} {P : Int → Int → Prop}
    (h : ∀ x, fits (elemWidth sh) x = true → fits (elemWidth sh) (f x) = true ∧ P x (f x)) (x : Int) :
    (∀ k < elemCount sh, P (elem sh x k) (elem sh (mapElems sh f x) k)) ∧ IsWord sh (mapElems sh f x) := by
  obtain ⟨helem, hword⟩ := hasElems1 (f := f) (g := f) (x := x) (fun k => (h _ (fits_elem sh x k)).1) fun _ => rfl
  exact ⟨fun k hk => helem k hk ▸ (h _ (fits_elem ..)).2, hword⟩

theorem mapElems2_spec {sh : Shape} {f : Int → Int → Int} {P : Int → Int → Int → Prop}
    (h : ∀ x y, fits (elemWidth sh) x = true → fits (elemWidth sh) y = true →
      fits (elemWidth sh) (f x y) = true ∧ P x y (f x y)) (x y : Int) :
    (∀ k < elemCount sh, P (elem sh x k) (elem sh y k) (elem sh (mapElems2 sh f x y) k)) ∧
      IsWord sh (mapElems2 sh f x y) := by
  obtain ⟨helem, hword⟩ := hasElems2 (f := f) (g := f) (x := x) (y := y)
    (fun k => (h _ _ (fits_elem sh x k) (fits_elem sh y k)).1) fun _ => rfl
  exact ⟨fun k hk => helem k hk ▸ (h _ _ (fits_elem ..) (fits_elem ..)).2, hword⟩

/-- Whether an element of a word is 0, as the trap on a divisor asks it (R96). -/
theorem any_elems_eq_zero {sh : Shape} {x : Int} :
    (elems sh x).any (· == 0) = true ↔ ∃ k < elemCount sh, elem sh x k = 0 := by
  simp [elems]

/-- An instruction that raises one cause on every lane that executes it, each outside a handler. -/
theorem completes_trapped {i : Instr} {gd : Guard} {uses : List RegUse} {f : Thread → Except Cause Thread} {c : Cause}
    {P : Thread → Prop} {s : State} (hr : s.Ready gd uses) (he : exec i s = s.runLocal gd uses f)
    (hx : s.Executing gd fun t => P t ∧ t.status.intrap = false ∧ t.trapvec ≠ 0) (hf : ∀ t, P t → f t = .error c) :
    Completes i gd (Thread.Trapped c) s := by
  unfold Completes; rw [he]
  refine State.runLocal_execute hr fun t ht hm hp ho => ?_
  obtain ⟨hP, hi, hv⟩ := hx t ht hm hp
  rw [Thread.execute_error hp ho (hf t hP)]
  exact ⟨by rw [Thread.fault_failed hi hv, hr.1 t ht], Thread.trapped_fault hi hv⟩

section Division

variable {gd : Guard} {sh : Shape} {d b c : Nat} {sub : Int} {f : Int → Int → Int} {i : Instr} {s : State}

/-- Division where no divisor is 0: each element is the function of the elements (R96). -/
theorem divide_completes {P : Int → Int → Int → Prop} (hr : s.Ready gd [gUse d, gUse b, gUse c])
    (hx : s.Executing gd fun t => ∀ k < elemCount sh, elem sh (t.readG c) k ≠ 0)
    (he : exec i s = divideElems gd sh d b c sub f s)
    (h : ∀ x y, fits (elemWidth sh) x = true → fits (elemWidth sh) y = true →
      fits (elemWidth sh) (f x y) = true ∧ (y ≠ 0 → P x y (f x y))) :
    Completes i gd (PutG d fun t v =>
      (∀ k < elemCount sh, P (elem sh (t.readG b) k) (elem sh (t.readG c) k) (elem sh v k)) ∧ IsWord sh v) s := by
  unfold Completes; rw [he]
  refine State.runLocal_putG (val := fun t => mapElems2 sh f (t.readG b) (t.readG c)) hr (by simp) fun t ht hm hp => ?_
  have hne := hx t ht hm hp
  have hnone : ¬ (elems sh (t.readG c)).any (· == 0) = true := fun h =>
    have ⟨k, hk, h0⟩ := any_elems_eq_zero.1 h
    hne k hk h0
  obtain ⟨helem, hword⟩ := mapElems2_spec (P := fun x y v => y ≠ 0 → P x y v) h (t.readG b) (t.readG c)
  exact ⟨if_neg hnone, fun k hk => helem k hk (hne k hk), hword⟩

/-- Division by 0 in an element raises divide by zero, outside a handler, and writes nothing (R96). -/
theorem divide_trapped (hr : s.Ready gd [gUse d, gUse b, gUse c])
    (hx : s.Executing gd fun t => t.status.intrap = false ∧ t.trapvec ≠ 0 ∧
      ∃ k < elemCount sh, elem sh (t.readG c) k = 0)
    (he : exec i s = divideElems gd sh d b c sub f s) : Completes i gd (Thread.Trapped ⟨10, sub, 0⟩) s := by
  refine completes_trapped (P := fun t => ∃ k < elemCount sh, elem sh (t.readG c) k = 0) hr he (fun t ht hm hp => ?_)
    fun t hzero => if_pos (any_elems_eq_zero.2 hzero)
  obtain ⟨hi, hv, hzero⟩ := hx t ht hm hp
  exact ⟨hzero, hi, hv⟩

end Division

/-- Settles O8: quotient and remainder of each element where no divisor is 0, and the trap where one is. -/
theorem divisionResults : Obligations.DivisionResults := by
  unfold Obligations.DivisionResults
  refine ⟨fun gd sh d b c s hr hx => ⟨?div, ?mod⟩, fun gd sh d b c s hr hx =>
    ⟨divide_trapped hr hx rfl, divide_trapped hr hx rfl⟩⟩
  case div =>
    exact divide_completes (P := fun x y q => 2 * |x - y * q| ≤ |y| ∧ (2 * |x - y * q| = |y| → |y * q| ≤ |x|)) hr hx rfl
      fun x y hx _ => ⟨fits_of_abs_le (abs_divq_le x y) hx, divq_spec x⟩
  case mod =>
    refine divide_completes (P := fun x y r => y ∣ x - r ∧ 2 * |r| ≤ |y| ∧ (2 * |r| = |y| → |x - r| ≤ |x|)) hr hx rfl
      fun x y hx hy => ⟨fits_divm hx hy, fun hne => ?_⟩
    have hmul : x - divm x y = y * divq x y := by simp [divm]
    rw [hmul]
    exact ⟨dvd_mul_right .., divq_spec x hne⟩

/-! ### Addition, multiplication and bounds -/

theorem fits_min {n : Nat} {x y : Int} (hx : fits n x = true) (hy : fits n y = true) : fits n (min x y) = true := by
  rw [fits_iff] at *; omega

theorem fits_max {n : Nat} {x y : Int} (hx : fits n x = true) (hy : fits n y = true) : fits n (max x y) = true := by
  rw [fits_iff] at *; omega

theorem clampTo_eq (x y : Int) : clampTo x y = max (-|y|) (min x |y|) := by rw [clampTo, Int.natCast_natAbs]

/-- Settles O7: each instruction by what its function of two elements gives within the element's width. -/
theorem binaryIntegerResults : Obligations.BinaryIntegerResults := by
  unfold Obligations.BinaryIntegerResults
  intro gd sh d b c s hr
  simp only [← width_eq]
  refine ⟨?add, ?adds, ?sub, ?subs, ?mul, ?mulh, ?min, ?max, ?clamp⟩
  case add | sub | mul => exact binary_completes hr rfl fun x y _ _ => ⟨fits_wrap .., rfl⟩
  case adds | subs => exact binary_completes hr rfl fun x y _ _ => ⟨fits_sat .., rfl⟩
  case mulh => exact binary_completes hr rfl fun x y hx hy => ⟨fits_trunc_mul hx hy, rfl⟩
  case min => exact binary_completes hr rfl fun x y hx hy => ⟨fits_min hx hy, rfl⟩
  case max => exact binary_completes hr rfl fun x y hx hy => ⟨fits_max hx hy, rfl⟩
  case clamp =>
    refine binary_completes hr rfl fun x y hx hy => ⟨?_, clampTo_eq x y⟩
    rw [clampTo_eq]
    exact fits_max (fits_neg (fits_abs hy)) (fits_min hx (fits_abs hy))

end Machine
end Sys2Proof

/-!
SUPPORT. The trits of words built of trits, of a part of a word and of a word with a part replaced; the shifts, the tritwise
instructions, FIELD and DEPOSIT (R11, R99, R101 to R104).
-/

namespace Sys2Proof

/-! ### Trits of a word at a trit above -/

theorem trunc_add_p3_mul (n : Nat) (a b : Int) : trunc n (a + p3 n * b) = trunc n a + b := by
  unfold trunc
  rw [show a + p3 n * b + maxTrits n = a + maxTrits n + p3 n * b by ring, Int.add_mul_ediv_left _ _ (p3_pos n).ne']

theorem wrap_add_p3_mul (n : Nat) (a b : Int) : wrap n (a + p3 n * b) = wrap n a := by
  unfold wrap
  rw [show a + p3 n * b + maxTrits n = a + maxTrits n + p3 n * b by ring, Int.add_mul_emod_self_left]

/-- What stands above a trit does not change it. -/
theorem trit_add_p3_mul {i n : Nat} (h : i < n) (a b : Int) : trits (a + p3 n * b) i i = trits a i i := by
  obtain ⟨k, rfl⟩ := Nat.exists_eq_add_of_lt h
  have hsplit : p3 (i + k + 1) * b = p3 i * (p3 1 * (p3 k * b)) := by
    rw [show i + k + 1 = i + (1 + k) by omega, p3_add, p3_add]; ring
  unfold trits
  rw [hsplit, trunc_add_p3_mul, show i + 1 - i = 1 by omega, wrap_add_p3_mul]

theorem trit_wrap {i n : Nat} (h : i < n) (x : Int) : trits (wrap n x) i i = trits x i i := by
  rw [← trit_add_p3_mul h (wrap n x) (trunc n x), wrap_add_trunc]

theorem trit_trunc (n i : Nat) (x : Int) : trits (trunc n x) i i = trits x (n + i) (n + i) := by
  unfold trits
  rw [trunc_trunc, show i + 1 - i = n + i + 1 - (n + i) by omega]

/-- The trits of a part of a word (R104). -/
theorem trit_trits {hi lo i : Nat} (hle : lo ≤ hi) (h : i ≤ hi - lo) (x : Int) :
    trits (trits x hi lo) i i = trits x (lo + i) (lo + i) := by
  rw [show trits x hi lo = wrap (hi + 1 - lo) (trunc lo x) from rfl, trit_wrap (by omega), trit_trunc]

theorem fits_trit (x : Int) (i : Nat) : fits 1 (trits x i i) = true := by
  unfold trits
  rw [show i + 1 - i = 1 by omega]; exact fits_wrap 1 _

namespace Machine

/-! ### A word of trits -/

/-- The word of some trits has them, the least significant first (R11). -/
theorem ofTrits_spec (l : List Int) (h : ∀ x ∈ l, fits 1 x = true) :
    fits l.length (ofTrits l) = true ∧ ∀ i (_ : i < l.length), trits (ofTrits l) i i = l[i] := by
  induction l with
  | nil => exact ⟨fits_zero 0, by simp⟩
  | cons t l ih =>
    obtain ⟨hfit, htrit⟩ := ih fun x hx => h x (by simp [hx])
    have ht := h t (by simp)
    have hcons : ofTrits (t :: l) = t + p3 1 * ofTrits l := rfl
    rw [hcons]
    refine ⟨by rw [List.length_cons, Nat.add_comm]; exact fits_add_mul ht hfit, fun i hi => ?_⟩
    cases i with
    | zero => exact trits_add_mul_low (hi := 0) _ ht
    | succ i =>
      rw [trits_add_mul_high _ ht (by omega) (by omega)]
      exact htrit i (by simpa using hi)

/-- A word given trit by trit. -/
theorem ofTrits_range {n : Nat} {f : Nat → Int} (h : ∀ i < n, fits 1 (f i) = true) :
    fits n (ofTrits ((List.range n).map f)) = true ∧
      ∀ i < n, trits (ofTrits ((List.range n).map f)) i i = f i := by
  obtain ⟨hfit, htrit⟩ := ofTrits_spec ((List.range n).map f) fun x hx => by
    obtain ⟨i, hi, rfl⟩ := List.mem_map.1 hx
    exact h i (List.mem_range.1 hi)
  refine ⟨by simpa using hfit, fun i hi => ?_⟩
  rw [htrit i (by simpa using hi)]; simp

theorem mapTrits2_eq (f : Int → Int → Int) (x y : Int) :
    mapTrits2 f x y = ofTrits ((List.range 27).map fun i => f (trits x i i) (trits y i i)) := by
  unfold mapTrits2 tritList
  rw [List.zipWith_map, List.zipWith_self]

/-! ### Shifts -/

theorem shiftElem_eq {w : Nat} {x : Int} (hx : fits w x = true) (n : Int) :
    shiftElem w x n = if 0 ≤ n then wrap w (x * 3 ^ n.toNat) else trunc (-n).toNat x := by
  unfold shiftElem
  rw [wrap_mul_p3_min, trunc_min _ hx]; rfl

theorem fits_shiftElem {w : Nat} {x : Int} (hx : fits w x = true) (n : Int) : fits w (shiftElem w x n) = true := by
  unfold shiftElem
  split
  · exact fits_wrap ..
  · exact fits_trunc _ hx

theorem truncElem_eq {w : Nat} {x : Int} (hx : fits w x = true) (n : Int) :
    truncElem w x n = if 0 ≤ n then trunc n.toNat x else sat w (x * 3 ^ (-n).toNat) := by
  unfold truncElem
  rw [sat_mul_p3_min, trunc_min _ hx]; rfl

theorem fits_truncElem {w : Nat} {x : Int} (hx : fits w x = true) (n : Int) : fits w (truncElem w x n) = true := by
  unfold truncElem
  split
  · exact fits_trunc _ hx
  · exact fits_sat ..

/-- The trit that ROT moves to trit i, counted up from it or down. -/
theorem rotIndex_eq {w : Nat} (hw : 0 < w) (i : Nat) (n : Int) :
    (i + w - (n % w).toNat) % w = ((i - n) % w).toNat := by
  have h0 := Int.emod_nonneg n (show (w : Int) ≠ 0 by omega)
  have h1 := Int.emod_lt_of_pos n (show (0 : Int) < w by omega)
  zify
  rw [Int.toNat_of_nonneg (Int.emod_nonneg _ (by omega)), Nat.cast_sub (by omega), Int.toNat_of_nonneg h0]
  push_cast
  rw [show (i + w - n % w : Int) = i - n % w + w by ring, Int.add_emod_right, Int.sub_emod_emod]

/-- ROT turns the trits of an element (R99). -/
theorem rotElem_spec {w : Nat} (hw : 0 < w) (x n : Int) : fits w (rotElem w x n) = true ∧
    ∀ i < w, trits (rotElem w x n) i i = trits x ((i - n) % w).toNat ((i - n) % w).toNat := by
  obtain ⟨hfit, htrit⟩ := ofTrits_range (n := w)
    (f := fun i => trits x ((i + w - (n % (w : Int)).toNat) % w) ((i + w - (n % (w : Int)).toNat) % w))
    fun i _ => fits_trit x _
  refine ⟨hfit, fun i hi => ?_⟩
  rw [← rotIndex_eq hw i]; exact htrit i hi

section Shifts

variable {i : Instr} {gd : Guard} {sh : Shape} {d b e : Nat} {f g : Nat → Int → Int → Int} {lit : Int} {s : State}

/-- A shift by the literal, by what its function of an element gives (R99). -/
theorem shiftLit_completes (hr : s.Ready gd [gUse d, gUse b]) (he : exec i s = shiftLit gd sh d b lit f s)
    (h : ∀ x, fits (elemWidth sh) x = true →
      fits (elemWidth sh) (f (elemWidth sh) x lit) = true ∧ f (elemWidth sh) x lit = g (elemWidth sh) x lit) :
    Completes i gd (Unary sh d b fun x => g sh.width x lit) s := by
  rw [← width_eq]; exact unary_completes hr he h

/-- A shift by the elements of a register, by what its function of two elements gives (R99). -/
theorem shiftReg_completes (hr : s.Ready gd [gUse d, gUse b, gUse e]) (he : exec i s = shiftReg gd sh d b e f s)
    (h : ∀ x n, fits (elemWidth sh) x = true →
      fits (elemWidth sh) (f (elemWidth sh) x n) = true ∧ f (elemWidth sh) x n = g (elemWidth sh) x n) :
    Completes i gd (Binary sh d b e fun x n => g sh.width x n) s := by
  rw [← width_eq]; exact binary_completes hr he fun x n hx _ => h x n hx

/-- ROT by the literal: each trit of an element comes from the trit that is the amount below it (R99). -/
theorem rot_completes (hr : s.Ready gd [gUse d, gUse b]) :
    Completes (.rot gd sh d b lit) gd (PutG d fun t v => (∀ k < elemCount sh, ∀ i < sh.width, trits (elem sh v k) i i =
      trits (elem sh (t.readG b) k) ((i - lit) % sh.width).toNat ((i - lit) % sh.width).toNat) ∧ IsWord sh v) s := by
  refine State.runLocal_putG hr (by simp) fun t _ _ _ => ⟨rfl, ?_⟩
  exact mapElems_spec (P := fun x v => ∀ i < sh.width,
    trits v i i = trits x ((i - lit) % sh.width).toNat ((i - lit) % sh.width).toNat)
    (fun x _ => by rw [← width_eq]; exact rotElem_spec (one_le_elemWidth sh) x lit) _

/-- ROT by the elements of a register (R99). -/
theorem rotReg_completes (hr : s.Ready gd [gUse d, gUse b, gUse e]) :
    Completes (.rotReg gd sh d b e) gd (PutG d fun t v => (∀ k < elemCount sh, ∀ i < sh.width,
      let n := elem sh (t.readG e) k
      trits (elem sh v k) i i =
        trits (elem sh (t.readG b) k) ((i - n) % sh.width).toNat ((i - n) % sh.width).toNat) ∧ IsWord sh v) s := by
  refine State.runLocal_putG hr (by simp) fun t _ _ _ => ⟨rfl, ?_⟩
  exact mapElems2_spec (P := fun x n v => ∀ i < sh.width,
    trits v i i = trits x ((i - n) % sh.width).toNat ((i - n) % sh.width).toNat)
    (fun x n _ _ => by rw [← width_eq]; exact rotElem_spec (one_le_elemWidth sh) x n) _ _

end Shifts

/-- Settles O10: the shifts by what they give of an element, and ROT trit by trit. -/
theorem shiftResults : Obligations.ShiftResults := by
  unfold Obligations.ShiftResults
  intro left shl trn gd sh d b e lit s
  refine ⟨fun hr => ⟨?sht, ?trn, rot_completes hr⟩, fun hr => ⟨?shtReg, ?trnReg, rotReg_completes hr⟩⟩
  case sht => exact shiftLit_completes (g := shl) hr rfl fun x hx => ⟨fits_shiftElem hx _, shiftElem_eq hx _⟩
  case trn => exact shiftLit_completes (g := trn) hr rfl fun x hx => ⟨fits_truncElem hx _, truncElem_eq hx _⟩
  case shtReg => exact shiftReg_completes (g := shl) hr rfl fun x n hx => ⟨fits_shiftElem hx n, shiftElem_eq hx n⟩
  case trnReg => exact shiftReg_completes (g := trn) hr rfl fun x n hx => ⟨fits_truncElem hx n, truncElem_eq hx n⟩

/-! ### Tritwise instructions -/

/-- A function of two trits that gives a trit. -/
def IsTritFun (f : Int → Int → Int) : Prop := ∀ x y, fits 1 x = true → fits 1 y = true → fits 1 (f x y) = true

theorem isTritFun_mul : IsTritFun fun x y => x * y := fun x y hx hy => by
  obtain rfl | rfl | rfl := eq_of_fits_one hx
  · simpa using fits_neg hy
  · simp [fits_zero]
  · simpa using hy

theorem isTritFun_cons : IsTritFun fun x y => if x = y then x else 0 := fun x y hx _ => by
  dsimp only
  split
  · exact hx
  · exact fits_zero 1

/-- A tritwise instruction: each trit of gd is the function of the trits at its place (R101). -/
theorem tritwise_completes {i : Instr} {gd : Guard} {d b c : Nat} {f : Int → Int → Int} {s : State}
    (hr : s.Ready gd [gUse d, gUse b, gUse c]) (he : exec i s = tritwise gd d b c f s) (hf : IsTritFun f) :
    Completes i gd (PutG d fun t v => fits 27 v = true ∧
      ∀ i < 27, trits v i i = f (trits (t.readG b) i i) (trits (t.readG c) i i)) s := by
  unfold Completes; rw [he]
  refine State.runLocal_putG hr (by simp) fun t _ _ _ => ⟨rfl, ?_⟩
  rw [mapTrits2_eq]
  exact ofTrits_range fun i _ => hf _ _ (fits_trit ..) (fits_trit ..)

/-! ### FIELD and DEPOSIT -/

/-- A word with trits hi to lo replaced: below them, in them and above them (R104). -/
theorem trit_depositTrits {hi lo : Nat} (h : lo ≤ hi) (x y : Int) (i : Nat) : trits (depositTrits x y hi lo) i i =
    if lo ≤ i ∧ i ≤ hi then trits y (i - lo) (i - lo) else trits x i i := by
  have hx : x = wrap lo x + p3 lo * (trits x hi lo + p3 (hi + 1 - lo) * trunc (hi + 1) x) := by
    have hrest : trits x hi lo + p3 (hi + 1 - lo) * trunc (hi + 1) x = trunc lo x := by
      have := wrap_add_trunc (hi + 1 - lo) (trunc lo x)
      rwa [trunc_trunc, show lo + (hi + 1 - lo) = hi + 1 by omega] at this
    rw [hrest, wrap_add_trunc]
  have hv : depositTrits x y hi lo =
      wrap lo x + p3 lo * (wrap (hi + 1 - lo) y + p3 (hi + 1 - lo) * trunc (hi + 1) x) := by
    unfold depositTrits; linear_combination hx
  by_cases hlow : i < lo
  · rw [if_neg (by omega), hv, trit_add_p3_mul hlow, trit_wrap hlow]
  by_cases hmid : i ≤ hi
  · rw [if_pos (by omega), hv, trits_add_mul_high _ (fits_wrap ..) (by omega) (by omega), trit_add_p3_mul (by omega),
      trit_wrap (by omega)]
  · have habove (m : Int) (hm : fits (hi + 1 - lo) m = true) :
        trits (wrap lo x + p3 lo * (m + p3 (hi + 1 - lo) * trunc (hi + 1) x)) i i = trits x i i := by
      rw [trits_add_mul_high _ (fits_wrap ..) (by omega) (by omega), trits_add_mul_high _ hm (by omega) (by omega),
        trit_trunc, show hi + 1 + (i - lo - (hi + 1 - lo)) = i by omega]
    rw [if_neg (by omega), hv, habove _ (fits_wrap ..)]

/-- Settles O11: the tritwise instructions by their functions of trits, FIELD and DEPOSIT by the parts of the word. -/
theorem tritwiseAndFieldResults : Obligations.TritwiseAndFieldResults := by
  unfold Obligations.TritwiseAndFieldResults
  intro tritwise gd d b c hi lo s
  refine ⟨fun hr => ⟨?tmin, ?tmax, ?tmul, ?tsum, ?cons⟩, fun hr hle _ => ⟨?field, ?deposit⟩⟩
  case tmin => exact tritwise_completes hr rfl fun _ _ => fits_min
  case tmax => exact tritwise_completes hr rfl fun _ _ => fits_max
  case tmul => exact tritwise_completes hr rfl isTritFun_mul
  case tsum => exact tritwise_completes hr rfl fun _ _ _ _ => fits_wrap ..
  case cons => exact tritwise_completes hr rfl isTritFun_cons
  case field =>
    refine State.runLocal_putG (val := fun t => trits (t.readG b) hi lo) hr (by simp) fun t _ _ _ => ⟨rfl, ?_⟩
    exact ⟨fits_wrap .., fun i hi' => trit_trits hle hi' _⟩
  case deposit =>
    exact State.runLocal_putG (val := fun t => depositTrits (t.readG d) (t.readG b) hi lo) hr (by simp) fun t _ _ _ =>
      ⟨rfl, fun i _ => trit_depositTrits hle _ _ i⟩

end Machine
end Sys2Proof

/-!
SUPPORT. Compares, condition instructions, SEL3 and the moves; moves through a register number and the arithmetic of address
pairs (R105 to R107, R110 to R112).
-/

namespace Sys2Proof.Machine

/-! ### Compares and condition instructions -/

/-- The sign of a difference is the order of the values (R105). -/
theorem Trit.ofInt_sub (x y : Int) : Trit.ofInt (x - y) = if x < y then .neg else if x = y then .zero else .pos := by
  unfold Trit.ofInt
  simp only [sub_neg, sub_eq_zero]

/-- The lower of two conditions: CAND (R105). -/
theorem Trit.ofInt_min (x y : Trit) : Trit.ofInt (min x.toInt y.toInt) =
    if x = .neg ∨ y = .neg then .neg else if x = .zero ∨ y = .zero then .zero else .pos := by
  cases x <;> cases y <;> rfl

/-- The higher of two conditions: COR (R105). -/
theorem Trit.ofInt_max (x y : Trit) : Trit.ofInt (max x.toInt y.toInt) =
    if x = .pos ∨ y = .pos then .pos else if x = .zero ∨ y = .zero then .zero else .neg := by
  cases x <;> cases y <;> rfl

/-- An instruction that writes one condition register computed of its thread. -/
theorem putC_completes {i : Instr} {gd : Guard} {uses : List RegUse} {d : Nat} {f g : Thread → Trit} {s : State}
    (hr : s.Ready gd uses) (hd : cUse d ∈ uses) (he : exec i s = s.runLocal gd uses fun t => t.putC d (f t))
    (hfg : ∀ t, f t = g t) : Completes i gd (PutC d g) s := by
  unfold Completes; rw [he, funext hfg]
  exact State.runLocal_putC hr hd fun _ _ _ _ => rfl

/-- Settles O12: each instruction by the value that it writes to its register. -/
theorem compareAndMoveResults : Obligations.CompareAndMoveResults := by
  unfold Obligations.CompareAndMoveResults
  intro gd d m b c e lit s
  refine ⟨?cmp, fun hr => ⟨?cmpi, ?cset⟩, fun hr => ⟨?cand, ?cor⟩, ?sel3, ?mov, ?movi, ?movcG, ?movcC⟩
  case cmp => exact fun hr => putC_completes hr (by simp) rfl fun _ => Trit.ofInt_sub ..
  case cmpi => exact putC_completes hr (by simp) rfl fun _ => Trit.ofInt_sub ..
  case cset => exact putC_completes hr (by simp) rfl fun _ => rfl
  case cand => exact putC_completes hr (by simp) rfl fun _ => Trit.ofInt_min ..
  case cor => exact putC_completes hr (by simp) rfl fun _ => Trit.ofInt_max ..
  case sel3 =>
    intro hr
    refine State.runLocal_putG hr (by simp) fun t _ _ _ => ⟨?_, rfl⟩
    cases t.readC m <;> simp
  case mov | movi | movcG => exact fun hr => word1_completes hr (by simp) rfl
  case movcC => exact fun hr => putC_completes hr (by simp) rfl fun _ => rfl

/-! ### Moves through a register number -/

theorem Thread.named_of_range {t : Thread} {v : Int} (h : 0 ≤ v ∧ v < t.nregs) : t.named v = some v.toNat := if_pos h

theorem Thread.named_of_beyond {t : Thread} {v : Int} (h : v < 0 ∨ t.nregs ≤ v) : t.named v = none :=
  if_neg (by omega)

/-- An instruction whose effect is confined to its thread completes when its part is defined on the lanes that execute it,
each of which satisfies P and has files of their sizes. -/
theorem completes_of_sized {i : Instr} {gd : Guard} {uses : List RegUse} {f : Thread → Except Cause Thread}
    {P : Thread → Prop} {Post : Thread → Thread → Prop} {s : State} (hr : s.Ready gd uses)
    (he : exec i s = s.runLocal gd uses f) (hx : s.Executing gd P)
    (h : ∀ t : Thread, P t → t.Sized → t.failed = none → ∃ t', f t = .ok t' ∧ t'.failed = none ∧ Post t t') :
    Completes i gd Post s := by
  unfold Completes; rw [he]
  exact State.runLocal_completes hr fun t ht hm hp hs _ => h t (hx t ht hm hp) hs

section Named

variable {gd : Guard} {d b : Nat} {s : State}

theorem movx_completes (hr : s.Ready gd [gUse d, gUse b])
    (hx : s.Executing gd fun t => 0 ≤ t.readG b ∧ t.readG b < t.nregs) :
    Completes (.movx gd d b) gd (Word1 d fun t => t.readG (t.readG b).toNat) s := by
  refine State.runLocal_putG (val := fun t => t.readG (t.readG b).toNat) hr (by simp) fun t ht hm hp => ⟨?_, rfl⟩
  simp only [Thread.named_of_range (hx t ht hm hp)]

theorem movy_completes (hr : s.Ready gd [gUse d, gUse b])
    (hx : s.Executing gd fun t => 0 ≤ t.readG d ∧ t.readG d < t.nregs) :
    Completes (.movy gd d b) gd (fun t t' => t'.GotG (t.readG d).toNat (t.readG b) ∧
      t.Keeps [gUse (t.readG d).toNat] t' ∧ t.GoesOn t') s := by
  refine completes_of_sized hr rfl hx fun t hin hs hn => ?_
  have hlen : (t.readG d).toNat < t.g.length := by rw [hs.g]; omega
  refine ⟨(t.writeG (t.readG d).toNat (t.readG b)).advance, ?_, by simp [hn], Thread.gotG_writeG hlen,
    Thread.keeps_writeG .., Thread.goesOn_advance (by simp) (by simp) (by simp) (by simp)⟩
  simp only [Thread.named_of_range hin]; rfl

theorem movx_trapped (hr : s.Ready gd [gUse d, gUse b])
    (hx : s.Executing gd fun t => (t.readG b < 0 ∨ t.nregs ≤ t.readG b) ∧ t.status.intrap = false ∧ t.trapvec ≠ 0) :
    Completes (.movx gd d b) gd (Thread.Trapped ⟨1, 3, 0⟩) s :=
  completes_trapped hr rfl hx fun t h => by simp only [Thread.named_of_beyond h]

theorem movy_trapped (hr : s.Ready gd [gUse d, gUse b])
    (hx : s.Executing gd fun t => (t.readG d < 0 ∨ t.nregs ≤ t.readG d) ∧ t.status.intrap = false ∧ t.trapvec ≠ 0) :
    Completes (.movy gd d b) gd (Thread.Trapped ⟨1, 3, 0⟩) s :=
  completes_trapped hr rfl hx fun t h => by simp only [Thread.named_of_beyond h]

end Named

/-! ### Address pairs -/

/-- An instruction that writes one address register computed of its thread. -/
theorem putA_completes {i : Instr} {gd : Guard} {uses : List RegUse} {d : Nat} {f : Thread → Int} {s : State}
    (hr : s.Ready gd uses) (hd : aUse d ∈ uses) (he : exec i s = s.runLocal gd uses fun t => t.putA d (f t)) :
    Completes i gd (PutA d f) s := by
  unfold Completes; rw [he]
  exact State.runLocal_putA hr hd fun _ _ _ _ => rfl

theorem exec_alea {gd : Guard} {d b c k : Nat} (hk : k ≤ 26) (s : State) : exec (.alea gd d b c k) s =
    s.runLocal gd [aUse d, aUse b, gUse c] fun t => t.putA d (wrap 54 (t.readA b + t.readG c * 3 ^ k)) := by
  change execAlea gd d b c k s = _
  unfold execAlea
  simp only [hk, if_true]; rfl

/-- Settles O13: moves through a register number, with the cause of a number that names none, and address pairs by the value
written. -/
theorem addressResults : Obligations.AddressResults := by
  unfold Obligations.AddressResults
  intro gd d b c k s
  refine ⟨fun hr => ⟨movx_completes hr, movy_completes hr, movx_trapped hr, movy_trapped hr⟩,
    fun hr => ⟨?aadd, ?asub, ?alea⟩, ?amov, ?amovPair, fun hr => ⟨?amovLo, ?amovHi⟩⟩
  case aadd | asub => exact putA_completes hr (by simp) rfl
  case alea => exact fun hk => putA_completes hr (by simp) (exec_alea hk s)
  case amov | amovPair => exact fun hr => putA_completes hr (by simp) rfl
  case amovLo =>
    exact State.runLocal_putG (val := fun t => wrap 27 (t.readA b)) hr (by simp) fun t _ _ _ =>
      ⟨rfl, fun i hi => trit_wrap hi _⟩
  case amovHi =>
    exact State.runLocal_putG (val := fun t => trunc 27 (t.readA b)) hr (by simp) fun t _ _ _ =>
      ⟨rfl, fun i => trit_trunc 27 i _⟩

end Sys2Proof.Machine

/-!
SUPPORT. The packed halves: the routed halves, the butterfly of HACS, the conversions and the samples of PXIN (R113 to R118).
-/

namespace Sys2Proof.Machine

/-- A word of two given halves (R15). -/
theorem hasElems_halves {x y : Int} {f : Nat → Int} (hx : fits 13 x = true) (hy : fits 13 y = true) (h0 : x = f 0)
    (h1 : y = f 1) : HasElems .halves (packElems .halves [x, y]) f := by
  obtain ⟨e0, e1⟩ := elem_pack2 hx hy
  refine ⟨fun k hk => ?_, fits_pack2 hx hy, fun _ => high_pack2 hx hy⟩
  change k < 2 at hk
  obtain rfl | rfl : k = 0 ∨ k = 1 := by omega
  · exact e0.trans h0
  · exact e1.trans h1

/-- The half of gc that a route brings to half j (R114). -/
def routeSource (r : Route) (j : Nat) : Nat :=
  match r with
  | .straight => j
  | .sw => 1 - j
  | .bl => 0
  | .bh => 1

theorem elem_routed (r : Route) (x : Int) {j : Nat} (hj : j < 2) :
    elem .halves (routed r x) j = elem .halves x (routeSource r j) := by
  have hpack (a b : Nat) := elem_pack2 (fits_elem .halves x a) (fits_elem .halves x b)
  obtain rfl | rfl : j = 0 ∨ j = 1 := by omega
  · cases r <;> exact (hpack _ _).1
  · cases r <;> exact (hpack _ _).2

/-- An instruction of the halves of gb and the routed halves of gc (R115). -/
theorem half_completes {i : Instr} {gd : Guard} {r : Route} {d b c : Nat} {f g : Int → Int → Int} {s : State}
    (hr : s.Ready gd [gUse d, gUse b, gUse c]) (he : exec i s = halfElems gd r d b c f s)
    (h : ∀ x y, fits 13 x = true → fits 13 y = true → fits 13 (f x y) = true ∧ f x y = g x y) :
    Completes i gd (PutG d fun t v => HasElems .halves v fun j =>
      g (elem .halves (t.readG b) j) (elem .halves (t.readG c) (routeSource r j))) s := by
  unfold Completes; rw [he]
  refine State.runLocal_putG (val := fun t => mapElems2 .halves f (t.readG b) (routed r (t.readG c))) hr (by simp)
    fun t _ _ _ => ⟨rfl, ?_⟩
  obtain ⟨helem, hword⟩ := mapElems2_spec (sh := .halves) (P := fun x y v => v = g x y)
    (fun x y hx hy => h x y hx hy) (t.readG b) (routed r (t.readG c))
  exact ⟨fun j hj => by rw [helem j hj, elem_routed r _ hj], hword⟩

theorem fits_sign (x : Int) : fits 13 x.sign = true := by
  obtain h | h | h := Int.sign_trichotomy x <;> rw [h] <;> decide

/-! ### Two and three registers written -/

section Writes

variable {t : Thread}

/-- Two general registers written in order change those two alone. -/
theorem Thread.keeps_writeG_writeG (t : Thread) (d e : Nat) (v w : Int) :
    t.Keeps [gUse d, gUse e] ((t.writeG d v).writeG e w).advance := by
  refine ⟨⟨by simp, fun i hi => ?_, by simp, by simp, by simp, by simp, by simp, by simp, by simp⟩, by simp⟩
  obtain ⟨hd, he⟩ : i ≠ d ∧ i ≠ e := by simpa [gUse_inj] using hi
  rw [Thread.advance_readG, Thread.readG_writeG_ne _ w he, Thread.readG_writeG_ne t v hd]

/-- Of two general registers written in order the second has its value, and the first where it is another. -/
theorem Thread.gotG_writeG_writeG {d e : Nat} {v w : Int} (hs : t.Sized) (hd : d < t.g.length) (he : e < t.g.length) :
    (d ≠ e → ((t.writeG d v).writeG e w).advance.GotG d v) ∧ ((t.writeG d v).writeG e w).advance.GotG e w := by
  have he' : e < (t.writeG d v).g.length := by rw [(hs.writeG d v).g, Thread.writeG_nregs, ← hs.g]; exact he
  refine ⟨fun hne => ?_, Thread.gotG_writeG he'⟩
  rw [Thread.GotG, Thread.advance_readG, Thread.readG_writeG_ne _ w hne]
  simp [Thread.readG_writeG t hd]

/-- A general register and two condition registers written change those three alone. -/
theorem Thread.keeps_writeG_writeC_writeC (t : Thread) (d k l : Nat) (v : Int) (x y : Trit) :
    t.Keeps [gUse d, cUse k, cUse l] (((t.writeG d v).writeC k x).writeC l y).advance := by
  refine ⟨⟨by simp, fun i hi => ?_, by simp, fun i hi => ?_, by simp, by simp, by simp, by simp, by simp⟩, by simp⟩
  · have hd : i ≠ d := by
      rintro rfl; exact hi (by simp)
    rw [Thread.advance_readG, Thread.writeC_readG, Thread.writeC_readG, Thread.readG_writeG_ne t v hd]
  · obtain ⟨hk, hl⟩ : i ≠ k ∧ i ≠ l := by simpa [cUse_inj] using hi
    rw [Thread.advance_readC, Thread.readC_writeC_ne _ y hl, Thread.readC_writeC_ne _ x hk, Thread.writeG_readC]

theorem Thread.gotG_writeG_writeC_writeC {d k l : Nat} {v : Int} {x y : Trit} (h : d < t.g.length) :
    (((t.writeG d v).writeC k x).writeC l y).advance.GotG d v := by
  simp [Thread.GotG, Thread.readG_writeG t h]

end Writes

/-! ### HACS, HPACK and HUNPK -/

/-- Two saturated values packed into halves (R116, R117). -/
theorem hasElems_halfPair (p q : Int) : HasElems .halves (packElems .halves [sat 13 p, sat 13 q])
    fun j => sat 13 (if j = 0 then p else q) := hasElems_halves (fits_sat ..) (fits_sat ..) rfl rfl

/-- HACS on every lane: the survivors of the butterfly and its two decisions (R116). -/
theorem hacs_completes {gd : Guard} {d b c k : Nat} {s : State}
    (hr : s.Ready gd [gUse d, gUse b, gUse c, cUse k, cUse (k + 1)]) :
    Completes (.hacs gd d b c k) gd (fun t t' =>
      let half (i j : Nat) := elem .halves (t.readG i) j
      let x := half b 0 + half c 0
      let y := half b 1 + half c 1
      let x' := half b 0 + half c 1
      let y' := half b 1 + half c 0
      (∃ v, HasElems .halves v (fun j => sat 13 (if j = 0 then min x y else min x' y')) ∧ t'.GotG d v) ∧
        t'.GotC k (Trit.ofInt (x - y)) ∧ t'.GotC (k + 1) (Trit.ofInt (x' - y')) ∧
        t.Keeps [gUse d, cUse k, cUse (k + 1)] t' ∧ t.GoesOn t') s := by
  refine completes_of_runLocal hr rfl fun t hs ho hn => ⟨_, rfl, by simp [hn], ?_⟩
  intro half x y x' y'
  have hd := Thread.owns_g hs (List.all_eq_true.1 ho (gUse d) (by simp))
  have hk := Thread.owns_c hs (List.all_eq_true.1 ho (cUse k) (by simp))
  have hk1 := Thread.owns_c hs (List.all_eq_true.1 ho (cUse (k + 1)) (by simp))
  obtain ⟨hgot, hgot1⟩ := Thread.gotC_writeC_writeC (v := Trit.ofInt (x - y)) (w := Trit.ofInt (x' - y'))
    (hs.writeG d (packElems .halves [sat 13 (min x y), sat 13 (min x' y')])) (by simpa using hk) (by simpa using hk1)
  refine ⟨⟨_, hasElems_halfPair (min x y) (min x' y'), Thread.gotG_writeG_writeC_writeC hd⟩, hgot (by omega),
    hgot1, t.keeps_writeG_writeC_writeC d k (k + 1) _ _ _, Thread.goesOn_advance (by simp) (by simp) (by simp) (by simp)⟩

/-- HUNPK on every lane: the low half first, then the high half, which stays where both go to one register (R117). -/
theorem hunpk_completes {gd : Guard} {d c b : Nat} {s : State} (hr : s.Ready gd [gUse d, gUse c, gUse b]) :
    Completes (.hunpk gd d c b) gd (fun t t' => (d ≠ c → t'.GotG d (elem .halves (t.readG b) 0)) ∧
      t'.GotG c (elem .halves (t.readG b) 1) ∧ t.Keeps [gUse d, gUse c] t' ∧ t.GoesOn t') s := by
  refine completes_of_runLocal hr rfl fun t hs ho hn => ⟨_, rfl, by simp [hn], ?_⟩
  have hd := Thread.owns_g hs (List.all_eq_true.1 ho (gUse d) (by simp))
  have hc := Thread.owns_g hs (List.all_eq_true.1 ho (gUse c) (by simp))
  obtain ⟨hlow, hhigh⟩ := Thread.gotG_writeG_writeG (v := elem .halves (t.readG b) 0) (w := elem .halves (t.readG b) 1)
    hs hd hc
  exact ⟨hlow, hhigh, t.keeps_writeG_writeG d c _ _, Thread.goesOn_advance (by simp) (by simp) (by simp) (by simp)⟩

/-! ### PXIN -/

/-- The 16-bit sample j of a word, unsigned (R118). -/
def sampleOf (x : Int) (j : Nat) : Int := x / 65536 ^ j % 65536

/-- A sample without or with its sign (R118). -/
def signedSample (signed : Bool) (v : Int) : Int := if signed = true ∧ 32768 ≤ v then v - 65536 else v

theorem signedSample_true (v : Int) : signedSample true v = if 32768 ≤ v then v - 65536 else v := by
  simp [signedSample]

theorem fits_signedSample (signed : Bool) (x : Int) : fits 13 (signedSample signed (x % 65536)) = true := by
  have hmax : maxTrits 13 = 797161 := by decide
  unfold signedSample
  rw [fits_iff, hmax]
  split <;> omega

/-- The two samples of a word stand in its halves (R118). -/
theorem hasElems_samplesOf (signed : Bool) (x : Int) :
    HasElems .halves (samplesOf signed x) fun j => signedSample signed (sampleOf x j) := by
  have h0 : x % 4294967296 % 65536 = sampleOf x 0 := by unfold sampleOf; omega
  have h1 : x % 4294967296 / 65536 = sampleOf x 1 := by unfold sampleOf; omega
  have hpack : samplesOf signed x =
      packElems .halves [signedSample signed (sampleOf x 0), signedSample signed (sampleOf x 1)] := by
    rw [← h0, ← h1]; rfl
  rw [hpack]
  exact hasElems_halves (fits_signedSample ..) (fits_signedSample ..) rfl rfl

/-- Settles O15: the packed halves by what is given of each pair of halves, HACS and HUNPK by the registers written, and PXIN
by its samples. -/
theorem halfResults : Obligations.HalfResults := by
  unfold Obligations.HalfResults
  intro gd r d b c k s half from_ routed sat13 order
  have hfrom : routeSource r = from_ := by funext j; cases r <;> rfl
  have hsat (x : Int) : sat 13 x = sat13 x := sat_eq_max_min 13 x
  have hfit (x : Int) : fits 13 (sat 13 x) = true := fits_sat ..
  have hrouted {i : Instr} {f g : Int → Int → Int} (hr : s.Ready gd [gUse d, gUse b, gUse c])
      (he : exec i s = halfElems gd r d b c f s)
      (h : ∀ x y, fits 13 x = true → fits 13 y = true → fits 13 (f x y) = true ∧ f x y = g x y) :
      Completes i gd (routed g) s := by
    have := half_completes hr he h
    rwa [hfrom] at this
  refine ⟨fun hr => ⟨?hadd, ?hsub, ?hmin, ?hmax, ?hcmp, ?hpack⟩, ?hacs, fun hr => hunpk_completes hr,
    fun hr => ⟨?pxin, ?pxinS⟩⟩
  case hadd | hsub => exact hrouted hr rfl fun x y _ _ => ⟨hfit _, hsat _⟩
  case hmin => exact hrouted hr rfl fun x y hx hy => ⟨fits_min hx hy, rfl⟩
  case hmax => exact hrouted hr rfl fun x y hx hy => ⟨fits_max hx hy, rfl⟩
  case hcmp => exact hrouted hr rfl fun x y _ _ => ⟨sgn_eq_sign _ ▸ fits_sign _, sgn_eq_sign _⟩
  case hpack =>
    refine State.runLocal_putG (val := fun t => packElems .halves [sat 13 (t.readG b), sat 13 (t.readG c)]) hr (by simp)
      fun t _ _ _ => ⟨rfl, ?_⟩
    simp only [← hsat]
    exact hasElems_halfPair ..
  case hacs =>
    intro hr
    have := hacs_completes hr
    simp only [Trit.ofInt_sub, hsat] at this
    exact this
  case pxin =>
    exact State.runLocal_putG hr (by simp) fun t _ _ _ => ⟨rfl, hasElems_samplesOf false _⟩
  case pxinS =>
    refine State.runLocal_putG (val := fun t => samplesOf true (t.readG b)) hr (by simp) fun t _ _ _ => ⟨rfl, ?_⟩
    have := hasElems_samplesOf true (t.readG b)
    simp only [signedSample_true] at this
    exact this

end Sys2Proof.Machine

/-!
SUPPORT. The end of a thread and of a team: what COMPLETION_COUNTER_ADD does for an exiting thread, what a team that has ended
frees, and under which tags (R127, R188, R189, R323, R410, R414).
-/

namespace Sys2Proof.Machine

/-! ### An exiting thread -/

theorem State.drainOps_of_nil {s : State} {t : Thread} (ht : s.thread? t.id = some t) (hops : t.ops = []) :
    s.drainOps t.id = s := by
  unfold State.drainOps
  simp [ht, hops]

/-- A team of which no thread waits at a barrier has none that clash there (R225). -/
theorem State.barrierClash_of_none {s : State} {team : TeamId}
    (h : ∀ u ∈ s.threads, u.team = team → u.barrier? = none) : s.barrierClash team = s := by
  unfold State.barrierClash
  refine if_neg fun ⟨hall, hmany⟩ => ?_
  have hlive : s.liveThreads team = [] := by
    refine List.eq_nil_iff_forall_not_mem.2 fun u hu => ?_
    have hat := List.all_eq_true.1 hall u hu
    obtain ⟨hmem, hteam⟩ := List.mem_filter.1 hu
    have hnone := h u hmem (by simp_all)
    simp [hnone] at hat
  simp [hlive] at hmany

/-- The first pending cause, taken at the slot outside a handler (R48, R409). -/
theorem Thread.takePending_spec {t : Thread} {p : Pending} {rest : List Pending} (hp : t.pend = p :: rest)
    (hi : t.status.intrap = false) (hv : t.trapvec ≠ 0) : Thread.Trapped p.cause t (t.takePending t.slot) ∧
      (t.takePending t.slot).pend = rest ∧ (t.takePending t.slot).failed = t.failed := by
  have htake : t.takePending t.slot = ({ t with pend := rest } : Thread).fault p.cause := by
    simp [Thread.takePending, hp, Thread.fault]
  rw [htake]
  refine ⟨Thread.trapped_fault (t := { t with pend := rest }) hi hv, ?_,
    Thread.fault_failed (t := { t with pend := rest }) hi hv⟩
  simp [Thread.fault, Thread.deliver, hi, hv, Thread.toBoundary]

section Exiting

variable {s : State} {t : Thread} {halt : Option Int}

/-- The machine after an exiting thread has counted (R188). -/
def State.counted (s : State) (t : Thread) : State :=
  (s.becomes t { t with run := .exited, capture := [] }).mapTeam t.team fun m => { m with counter := m.counter + 1 }

/-- Once the thread has gone, its team has no clash at a barrier, and no failure to settle. -/
theorem State.settle_counted (hc : s.Calm) (ht : t ∈ s.threads)
    (hbar : ∀ u ∈ s.threads, u.team = t.team → u.barrier? = none) :
    ((s.counted t).barrierClash t.team).settle = s.counted t := by
  have hclash : (s.counted t).barrierClash t.team = s.counted t := by
    refine State.barrierClash_of_none fun u hu hteam => ?_
    obtain ⟨w, hw, rfl⟩ := List.mem_map.1 hu
    by_cases he : w.id = t.id
    · simp [he, Thread.barrier?]
    · simp only [beq_iff_eq, he, if_false] at hteam ⊢
      exact hbar w hw hteam
  rw [hclash]
  exact State.settle_of_calm (hc.becomes t (hc t ht))

section Counts

variable (ht : s.thread? t.id = some t) (only : ∀ u ∈ s.threads, u.id = t.id → u = t) (hrun : t.run = .exiting halt)
  (hclause : t.clause ≠ []) (hops : t.ops = []) (hlive : s.teamLive t.team = true)
include ht only hrun hclause hops hlive

/-- An exiting thread without a pending cause is done and counts in its team; HALT ends the bolt (R127, R188, R414). -/
theorem exec_completionCounterAdd (hc : s.Calm) (hp : t.pend = [])
    (hbar : ∀ u ∈ s.threads, u.team = t.team → u.barrier? = none) :
    (halt = none → exec (.completionCounterAdd t.id) s = .next (s.counted t)) ∧
    ∀ v, halt = some v → exec (.completionCounterAdd t.id) s = .next ((s.counted t).endBolt t.id.bolt 2 [(8, v)]) := by
  have hsettle := State.settle_counted hc (List.mem_of_find?_eq_some ht) hbar
  have hcounted : s.counted t = (s.mapThread t.id fun u => { u with run := .exited, capture := [] }).mapTeam t.team
      fun m => { m with counter := m.counter + 1 } := by rw [State.mapThread_eq_becomes only]; rfl
  have hgo : ¬ (s.teamLive t.team = false ∨ t.clause.isEmpty = true) := by simp [hlive, hclause]
  refine ⟨fun h => ?_, fun v h => ?_⟩
  all_goals
    change execCompletionCounterAdd t.id s = _
    simp only [execCompletionCounterAdd, ht, hrun, if_neg hgo, State.drainOps_of_nil ht hops, hp, ne_eq, not_true_eq_false,
      if_false, ← hcounted, hsettle, h]

/-- An exiting thread with a pending cause takes the first at its slot (R410). -/
theorem exec_completionCounterAdd_pending (hc : s.Calm) {p : Pending} {rest : List Pending} (hp : t.pend = p :: rest)
    (hi : t.status.intrap = false) (hv : t.trapvec ≠ 0) :
    ∃ t', exec (.completionCounterAdd t.id) s = .next (s.becomes t t') ∧ Thread.Trapped p.cause t t' ∧ t'.pend = rest := by
  have hgo : ¬ (s.teamLive t.team = false ∨ t.clause.isEmpty = true) := by simp [hlive, hclause]
  have hne : t.pend ≠ [] := by simp [hp]
  obtain ⟨htrap, hpend, hfailed⟩ := Thread.takePending_spec hp hi hv
  refine ⟨t.takePending t.slot, ?_, htrap, hpend⟩
  change execCompletionCounterAdd t.id s = _
  simp only [execCompletionCounterAdd, ht, hrun, if_neg hgo, State.drainOps_of_nil ht hops, if_pos hne,
    State.mapThread_eq_becomes only fun t => t.takePending t.slot]
  rw [State.settle_of_calm (hc.becomes t (hfailed.trans (hc t (List.mem_of_find?_eq_some ht))))]

end Counts

end Exiting

/-! ### Generation tags -/

/-- The tags of a core advance, each by 1 (R323). -/
theorem State.tagOf_advanceTags (s : State) (core : Nat) (k : Alloc) :
    (s.advanceTags core).tagOf core k = wrap 18 (s.tagOf core k + 1) := by
  have hnone : (s.tags.filter fun x => x.core != core).find? (fun x => x.core == core && x.kind == k) = none := by
    rw [List.find?_eq_none]
    intro x hx
    have := (List.mem_filter.1 hx).2
    simp_all
  conv_lhs => unfold State.tagOf State.advanceTags
  rw [List.find?_append, hnone]
  cases k <;> simp [allocKinds]

/-- The tags of another core stay. -/
theorem State.tagOf_advanceTags_ne (s : State) {core other : Nat} (h : core ≠ other) (k : Alloc) :
    (s.advanceTags other).tagOf core k = s.tagOf core k := by
  have hnew : (allocKinds.map fun k => TagCount.mk other k (wrap 18 (s.tagOf other k + 1))).find?
      (fun x => x.core == core && x.kind == k) = none := by
    simp [h.symm]
  have hold : (fun x : TagCount => x.core != other && (x.core == core && x.kind == k)) =
      fun x => x.core == core && x.kind == k := by
    funext x
    by_cases hx : x.core = core <;> simp [hx, h]
  conv_lhs => unfold State.tagOf State.advanceTags
  rw [List.find?_append, hnew, Option.or_none, List.find?_filter]
  simp only [Bool.decide_and, Bool.decide_eq_true, hold]
  rfl

/-- The tags of the first core of a team advance as its allocations are freed (R323). -/
theorem State.tagOf_freeAllocs (s : State) (m : Team) (k : Alloc) :
    (s.freeAllocs m).tagOf m.core k = wrap 18 (s.tagOf m.core k + 1) := by
  have hcores : (s.freeAllocs m).tagOf m.core k = (m.cores.foldl State.advanceTags s).tagOf m.core k := rfl
  rw [hcores]
  unfold Team.cores
  split
  · simp only [List.foldl_cons, List.foldl_nil]
    rw [State.tagOf_advanceTags_ne _ (by omega), State.tagOf_advanceTags]
  · exact s.tagOf_advanceTags m.core k

/-! ### A team that has ended -/

section TeamEnd

variable {s : State} {m : Team}

/-- The machine after a team that has ended has freed all it held and counts in its bolt (R189). -/
def State.withoutEnded (s : State) (id : TeamId) : State :=
  (s.freeTeam id).mapBolt id.bolt fun b => { b with ended := b.ended + 1 }

theorem State.withoutEnded_frees (s : State) (id : TeamId) :
    (∀ t ∈ (s.withoutEnded id).threads, t.team ≠ id) ∧ (∀ x ∈ (s.withoutEnded id).teams, x.id ≠ id) ∧
      ∀ l ∈ (s.withoutEnded id).locks, l.team = id → l.kind = .torn ∨ ∃ cid rank, l.owner = .collective cid rank := by
  refine ⟨fun t ht => ?_, fun x hx => ?_, fun l hl hteam => ?_⟩
  · simpa using (List.mem_filter.1 ht).2
  · simpa using (List.mem_filter.1 hx).2
  · have h := (List.mem_filter.1 hl).2
    cases ho : l.owner with
    | collective cid rank => exact .inr ⟨cid, rank, rfl⟩
    | _ => left; simpa [hteam, ho] using h

theorem State.tagOf_withoutEnded (hm : s.team? m.id = some m) (k : Alloc) :
    (s.withoutEnded m.id).tagOf m.core k = wrap 18 (s.tagOf m.core k + 1) := by
  have htags : (s.withoutEnded m.id).tagOf m.core k = (((s.team? m.id).map s.freeAllocs).getD s).tagOf m.core k := rfl
  rw [htags, hm]
  exact s.tagOf_freeAllocs m k

variable {b : Bolt} (hm : s.team? m.id = some m) (hdone : s.teamDone m = true)
  (hb : (s.withoutEnded m.id).bolt? m.id.bolt = some b)
include hm hdone hb

/-- A team that is not the last of its bolt raises the completion sync word once (R189). -/
theorem exec_teamEnd_of_lt (h : b.ended < b.record.teams) :
    exec (.teamEnd m.id) s = .next ((s.withoutEnded m.id).raiseDone b 1) := by
  change execTeamEnd m.id s = _
  unfold State.withoutEnded at *
  simp only [execTeamEnd, hm, hdone, hb, if_pos h]
  rfl

/-- The last team of a bolt puts the outcome in the header first (R189, R421). -/
theorem exec_teamEnd_of_le (h : b.record.teams ≤ b.ended) :
    (∀ s2, ((s.withoutEnded m.id).dropHolds b.id).writeHeader b [(0, 1)] = some s2 → exec (.teamEnd m.id) s =
      .next ((s2.mapBolt b.id fun b => { b with outcome := 1 }).raiseDone b 1)) ∧
    (((s.withoutEnded m.id).dropHolds b.id).writeHeader b [(0, 1)] = none → exec (.teamEnd m.id) s =
      .next (((((s.withoutEnded m.id).dropHolds b.id).mapBolt b.id fun b => { b with outcome := -1 }).errDone b).raiseDone
        b 1)) := by
  have hlast : ¬ b.ended < b.record.teams := by omega
  unfold State.withoutEnded at *
  refine ⟨fun s2 hw => ?_, fun hw => ?_⟩
  all_goals
    change execTeamEnd m.id s = _
    simp only [execTeamEnd, hm, hdone, hb, if_neg hlast, hw]
    rfl

end TeamEnd

end Sys2Proof.Machine

/-!
SUPPORT. A bolt that ends with any outcome: what a raise leaves of every bolt, and what the kill of its teams leaves of the
machine (R189, R209, R421, R427).
-/

namespace Sys2Proof.Machine

/-! ### Bolts but for their predecessor slots -/

/-- A bolt but for its predecessor slots, of which an advance of a sync word may meet some (R198). -/
def Bolt.butPreds (b : Bolt) : Bolt := { b with record := { b.record with preds := [] } }

/-- The bolts of a machine but for their predecessor slots. -/
def State.boltsButPreds (s : State) : List Bolt := s.bolts.map Bolt.butPreds

theorem State.boltsButPreds_of_programs {s s' : State} (h : s'.programs = s.programs) :
    s'.boltsButPreds = s.boltsButPreds := by
  obtain ⟨-, -, hbolts⟩ := State.programs_eq_iff.1 h
  simp only [State.boltsButPreds, hbolts]

theorem foldl_boltsButPreds {α : Type} {f : State → α → State} (h : ∀ s x, (f s x).boltsButPreds = s.boltsButPreds)
    (l : List α) (s : State) : (l.foldl f s).boltsButPreds = s.boltsButPreds :=
  foldl_keeps (fun a : State => a.boltsButPreds = s.boltsButPreds) f (fun a x ha => (h a x).trans ha) l s rfl

/-- A bolt is found where it was, and stands as it stood. -/
theorem State.bolt?_of_boltsButPreds {s s' : State} {bid : Nat} {b : Bolt} (h : s'.boltsButPreds = s.boltsButPreds)
    (hb : s.bolt? bid = some b) : ∃ b', s'.bolt? bid = some b' ∧ b'.butPreds = b.butPreds := by
  have hfind (s : State) : s.boltsButPreds.find? (fun x => x.id == bid) = (s.bolt? bid).map Bolt.butPreds := by
    simp only [State.boltsButPreds, State.bolt?, List.find?_map]; rfl
  have hmap := (hfind s').symm.trans (h ▸ hfind s)
  rw [hb] at hmap
  exact Option.map_eq_some_iff.1 hmap

section Raises

variable (s : State) (core : Nat) (loc : SyncLoc)

@[simp] theorem State.mapThread_boltsButPreds (id : ThreadId) (f : Thread → Thread) :
    (s.mapThread id f).boltsButPreds = s.boltsButPreds := rfl

@[simp] theorem State.mapTeam_boltsButPreds (id : TeamId) (f : Team → Team) :
    (s.mapTeam id f).boltsButPreds = s.boltsButPreds := rfl

@[simp] theorem State.putTryteAt_boltsButPreds (v : Int) : (s.putTryteAt core loc v).boltsButPreds = s.boltsButPreds := by
  have hbelow : ∀ (pa : Int) (home : Nat) (leaf : Word), (if pa < 0 then s.sendPeers [(pa, v)]
      else s.storeHome core leaf .default home (pa.toNat / 81) [(pa.toNat % 81, v)]).boltsButPreds = s.boltsButPreds := by
    intro pa home leaf
    refine State.boltsButPreds_of_programs ?_
    split <;> simp
  cases loc with
  | scratch team o => rfl
  | memory home pa leaf => exact hbelow pa home leaf
  | cut home pa leaf n home2 pa2 leaf2 => exact hbelow pa home leaf

@[simp] theorem State.putTrytesAt_boltsButPreds (l : List Int) :
    (s.putTrytesAt core loc l).boltsButPreds = s.boltsButPreds :=
  foldl_boltsButPreds (fun a p => by simp) _ s

@[simp] theorem State.putSync_boltsButPreds (w : SyncWord) : (s.putSync core loc w).boltsButPreds = s.boltsButPreds := by
  cases loc with
  | scratch team o => rfl
  | memory home pa leaf => exact State.boltsButPreds_of_programs (State.storeHome_programs ..)
  | cut home pa leaf n home2 pa2 leaf2 => exact State.putTrytesAt_boltsButPreds ..

@[simp] theorem State.visitLoc_boltsButPreds : (s.visitLoc loc).boltsButPreds = s.boltsButPreds := by
  refine State.boltsButPreds_of_programs ?_
  cases loc with
  | scratch team o => rfl
  | memory home pa leaf => simp only [State.visitLoc]; split <;> simp
  | cut home pa leaf n home2 pa2 leaf2 => simp [State.visitLoc]

@[simp] theorem State.releaseWaiters_boltsButPreds (w : SyncWord) (n : Nat) :
    (s.releaseWaiters loc w n).boltsButPreds = s.boltsButPreds :=
  foldl_boltsButPreds (fun a c => State.boltsButPreds_of_programs (a.acquire_programs c)) _ _

/-- The one step of a raise that changes a bolt (R198). -/
@[simp] theorem State.testPreds_boltsButPreds (only : Option SyncLoc) (n : Nat) :
    (s.testPreds only n).boltsButPreds = s.boltsButPreds := by
  simp only [State.testPreds, State.boltsButPreds, List.map_map]
  refine List.map_congr_left fun b _ => ?_
  simp only [Function.comp]
  split <;> rfl

@[simp] theorem State.advanced_boltsButPreds (w : SyncWord) (n : Nat) :
    (s.advanced loc w n).boltsButPreds = s.boltsButPreds := by
  have htest := (State.testPreds_boltsButPreds (s.releaseWaiters loc w n) (some loc) n).trans
    (s.releaseWaiters_boltsButPreds loc w n)
  unfold State.advanced
  split
  · rfl
  · cases loc with
    | scratch team o => simp
    | memory home pa leaf => exact htest
    | cut home pa leaf n home2 pa2 leaf2 => exact htest

@[simp] theorem State.applyRaise_boltsButPreds (n : Int) : (s.applyRaise core loc n).boltsButPreds = s.boltsButPreds := by
  unfold State.applyRaise; split <;> simp

@[simp] theorem State.raise_boltsButPreds (n : Int) : (s.raise loc core n).boltsButPreds = s.boltsButPreds := by
  unfold State.raise
  cases loc with
  | scratch team o =>
    simp only [State.raiseBy]
    split
    · rfl
    · split
      · rfl
      · simp
  | memory home pa leaf => exact s.applyRaise_boltsButPreds noCore _ n
  | cut home pa leaf m home2 pa2 leaf2 => exact s.applyRaise_boltsButPreds noCore _ n

@[simp] theorem State.setErr_boltsButPreds : (s.setErr loc).boltsButPreds = s.boltsButPreds := by
  unfold State.setErr; split <;> simp

@[simp] theorem State.wake_boltsButPreds (w : Wake) : (s.wake core w).boltsButPreds = s.boltsButPreds := by
  unfold State.wake; simp only; split <;> simp

@[simp] theorem State.answerWake_boltsButPreds (w : Wake) : (s.answerWake w).boltsButPreds = s.boltsButPreds :=
  s.wake_boltsButPreds _ w

/-! ### Kills -/

@[simp] theorem State.abortCollective_boltsButPreds (c : Collective) :
    (s.abortCollective c).boltsButPreds = s.boltsButPreds := by
  unfold State.abortCollective
  exact foldl_boltsButPreds (fun a m => by simp) _ _

@[simp] theorem State.freeAllocs_boltsButPreds (t : Team) : (s.freeAllocs t).boltsButPreds = s.boltsButPreds :=
  foldl_boltsButPreds (f := State.advanceTags) (fun _ _ => rfl) t.cores s

/-- A kill of a team leaves the bolts (R427). -/
@[simp] theorem State.killTeam_boltsButPreds (id : TeamId) : (s.killTeam id).boltsButPreds = s.boltsButPreds := by
  unfold State.killTeam
  split
  · rfl
  · next t _ =>
    refine (foldl_boltsButPreds (fun a c => a.abortCollective_boltsButPreds c) _ _).trans ?_
    refine (foldl_boltsButPreds (fun a w => a.answerWake_boltsButPreds w) _ _).trans ?_
    exact s.freeAllocs_boltsButPreds t

/-- A kill leaves no team of the number. -/
theorem State.mem_teams_killTeam {id x : TeamId} (h : id ∈ (s.killTeam x).roster.2.1) : id ∈ s.roster.2.1 ∧ id ≠ x := by
  cases hx : s.team? x with
  | none =>
    rw [State.killTeam_absent hx] at h
    exact ⟨h, fun e => State.team?_eq_none_iff.1 hx (e ▸ h)⟩
  | some t =>
    rw [State.killTeam_roster hx] at h
    simpa [withoutTeam] using h

theorem mem_teams_foldl_killTeam {l : List TeamId} {s : State} {id : TeamId}
    (h : id ∈ (l.foldl State.killTeam s).roster.2.1) : id ∈ s.roster.2.1 ∧ id ∉ l := by
  induction l generalizing s with
  | nil => exact ⟨h, by simp⟩
  | cons x l ih =>
    obtain ⟨hmem, hl⟩ := ih h
    obtain ⟨hmem, hx⟩ := s.mem_teams_killTeam hmem
    exact ⟨hmem, by simp [hx, hl]⟩

theorem State.writeHeader_boltsButPreds {s s' : State} {b : Bolt} {ws : List (Nat × Int)}
    (h : s.writeHeader b ws = some s') : s'.boltsButPreds = s.boltsButPreds := by
  unfold State.writeHeader at h
  simp only at h
  split at h
  · cases h
  · cases h
  · split at h
    · cases h
    · split at h
      · cases h
      · cases h; exact State.boltsButPreds_of_programs (State.storeHome_programs ..)

@[simp] theorem State.errDone_boltsButPreds (b : Bolt) : (s.errDone b).boltsButPreds = s.boltsButPreds := by
  unfold State.errDone; split <;> simp

@[simp] theorem State.raiseDone_boltsButPreds (b : Bolt) (n : Nat) : (s.raiseDone b n).boltsButPreds = s.boltsButPreds := by
  induction n generalizing s with
  | zero => rfl
  | succ n ih => simp only [State.raiseDone]; split <;> simp [ih]

end Raises

/-! ### The end of a bolt -/

section EndBolt

variable {s : State} {b : Bolt} {outcome : Int}

/-- A bolt that has ended with an outcome: it is queued no more, and all its teams have ended. -/
def Bolt.endWith (outcome : Int) (b : Bolt) : Bolt :=
  { b with outcome := outcome, queued := false, ended := b.record.teams, again := [] }

/-- The teams of a bolt are killed as it ends with an outcome. -/
def State.closeBolt (s : State) (bid : Nat) (outcome : Int) : State :=
  ((((s.mapBolt bid (Bolt.endWith outcome)).teams.filter fun t : Team => t.id.bolt == bid).map Team.id).foldl
    State.killTeam (s.mapBolt bid (Bolt.endWith outcome))).dropHolds bid

/-- No team of a bolt is left of a machine, and no thread of those that were there. -/
def State.ClearedOf (s s' : State) (bid : Nat) : Prop :=
  (∀ id ∈ s'.roster.2.1, id.bolt ≠ bid) ∧ ∀ id ∈ s.roster.2.1, id.bolt = bid → s'.NoThreadOf id

/-- The bolt is found, ended with an outcome (R421). -/
def State.Ended (s : State) (bid : Nat) (outcome : Int) (ended : Nat) : Prop :=
  ∃ b, s.bolt? bid = some b ∧ b.outcome = outcome ∧ b.queued = false ∧ b.ended = ended

theorem State.Ended.congr {s s' : State} {bid ended : Nat} (h : s.Ended bid outcome ended)
    (he : s'.boltsButPreds = s.boltsButPreds) : s'.Ended bid outcome ended := by
  obtain ⟨b, hb, ho, hq, hend⟩ := h
  obtain ⟨b', hb', hsame⟩ := State.bolt?_of_boltsButPreds he hb
  have hfields := congrArg (fun b : Bolt => (b.outcome, b.queued, b.ended)) hsame
  obtain ⟨ho', hq', hend'⟩ : b'.outcome = b.outcome ∧ b'.queued = b.queued ∧ b'.ended = b.ended := by
    simpa [Bolt.butPreds] using hfields
  exact ⟨b', hb', ho'.trans ho, hq'.trans hq, hend'.trans hend⟩

theorem State.Ended.setOutcome {bid ended : Nat} (h : s.Ended bid outcome ended) (o : Int) :
    (s.mapBolt bid fun b => { b with outcome := o }).Ended bid o ended := by
  obtain ⟨b, hb, -, hq, hend⟩ := h
  have hfind := State.bolt?_mapBolt (s := s) (bid := bid) (f := fun b => { b with outcome := o }) fun _ => rfl
  exact ⟨{ b with outcome := o }, hfind.trans (by rw [hb]; rfl), rfl, hq, hend⟩

theorem State.ClearedOf.congr {s s' s'' : State} {bid : Nat} (h : s.ClearedOf s' bid) (he : s''.roster.1 = s'.roster.1)
    (he' : s''.roster.2.1 = s'.roster.2.1) : s.ClearedOf s'' bid := by
  unfold State.ClearedOf State.NoThreadOf at *
  rwa [he, he']

theorem State.closeBolt_spec (hb : s.bolt? b.id = some b) (outcome : Int) :
    s.ClearedOf (s.closeBolt b.id outcome) b.id ∧ (s.closeBolt b.id outcome).Ended b.id outcome b.record.teams := by
  have hkilled : ∀ id ∈ s.roster.2.1, id.bolt = b.id →
      id ∈ ((s.mapBolt b.id (Bolt.endWith outcome)).teams.filter fun t : Team => t.id.bolt == b.id).map Team.id := by
    intro id hid hbolt
    obtain ⟨m, hm, rfl⟩ := List.mem_map.1 hid
    exact List.mem_map_of_mem (List.mem_filter.2 ⟨hm, by simpa using hbolt⟩)
  refine ⟨⟨fun id hid hbolt => ?_, fun id hid hbolt => ?_⟩, ?_⟩
  · obtain ⟨hmem, hnot⟩ := mem_teams_foldl_killTeam hid
    exact hnot (hkilled id hmem hbolt)
  · exact (foldl_killTeam _ (s.mapBolt b.id (Bolt.endWith outcome))).2 id (.inl hid) (.inl (hkilled id hid hbolt))
  · have hstart : (s.mapBolt b.id (Bolt.endWith outcome)).Ended b.id outcome b.record.teams :=
      ⟨b.endWith outcome, (State.bolt?_mapBolt (f := Bolt.endWith outcome) fun _ => rfl).trans (by rw [hb]; rfl), rfl, rfl,
        rfl⟩
    exact hstart.congr (foldl_boltsButPreds (fun a id => a.killTeam_boltsButPreds id) _ _)

theorem State.endBolt_eq_closeBolt (hb : s.bolt? b.id = some b) (ho : b.outcome = 0) (header : List (Nat × Int)) :
    s.endBolt b.id outcome header =
      match (s.closeBolt b.id outcome).writeHeader b ((0, outcome) :: header) with
      | some s => (s.errDone b).raiseDone b (b.record.teams - b.ended)
      | none => (((s.closeBolt b.id outcome).mapBolt b.id fun b => { b with outcome := -1 }).errDone b).raiseDone b
          (b.record.teams - b.ended) := by
  unfold State.endBolt
  simp only [hb, ho, ne_eq, not_true_eq_false, if_false]
  rfl

/-- A bolt that ends: none of its teams is left, and it has its outcome or, where the header cannot be written, failure
(R421). -/
theorem State.endBolt_spec (hb : s.bolt? b.id = some b) (ho : b.outcome = 0) (outcome : Int) (header : List (Nat × Int)) :
    s.ClearedOf (s.endBolt b.id outcome header) b.id ∧ ∃ o, (o = outcome ∨ o = -1) ∧
      (s.endBolt b.id outcome header).Ended b.id o b.record.teams := by
  obtain ⟨hclear, hended⟩ := State.closeBolt_spec hb outcome
  rw [State.endBolt_eq_closeBolt hb ho]
  cases hw : (s.closeBolt b.id outcome).writeHeader b ((0, outcome) :: header) with
  | some s' =>
    have hroster := State.writeHeader_roster hw
    have hbolts := State.writeHeader_boltsButPreds hw
    exact ⟨hclear.congr (by simp [hroster]) (by simp [hroster]), outcome, .inl rfl, hended.congr (by simp [hbolts])⟩
  | none =>
    refine ⟨hclear.congr ?_ ?_, -1, .inr rfl, (hended.setOutcome (-1)).congr (by simp)⟩
    · rw [State.raiseDone_roster, State.errDone_roster]; rfl
    · rw [State.raiseDone_roster, State.errDone_roster]; rfl

end EndBolt

/-- Settles O54: an exiting thread by what COMPLETION_COUNTER_ADD does of it, a team that is done by what TEAM_END frees, and the
end of a bolt by the kill of its teams. -/
theorem endResults : Obligations.EndResults := by
  unfold Obligations.EndResults
  refine ⟨fun s t halt hc ht only hrun hclause hops hlive => ⟨fun hp hbar => ?counts, fun p rest hp hi hv => ?pending⟩,
    ?team, fun s b outcome header hb ho => ?bolt⟩
  case counts => exact exec_completionCounterAdd ht only hrun hclause hops hlive hc hp hbar
  case pending => exact exec_completionCounterAdd_pending ht only hrun hclause hops hlive hc hp hi hv
  case team =>
    intro s m b hm hdone s1 hb
    obtain ⟨hthreads, hteams, hlocks⟩ := s.withoutEnded_frees m.id
    exact ⟨hthreads, hteams, hlocks, exec_teamEnd_of_lt hm hdone hb, exec_teamEnd_of_le hm hdone hb,
      State.tagOf_withoutEnded hm⟩
  case bolt =>
    obtain ⟨⟨hteams, hthreads⟩, o, ho', b', hb', rfl, hq, hend⟩ := State.endBolt_spec hb ho outcome header
    refine ⟨fun m hm => hteams m.id (List.mem_map_of_mem hm), fun t ht m hm he hbolt => ?_, b', hb', ho', hq, hend⟩
    exact hthreads m.id (List.mem_map_of_mem hm) hbolt (List.mem_map.2 ⟨t, ht, he⟩)

end Sys2Proof.Machine

/-!
SUPPORT. Rounding gives the nearest word of the format, and overflows from half way to the grid value above the largest
finite one on (R135 to R137).
-/

namespace Sys2Proof.Machine

section Round

variable {f : RFmt} {x : TFrac}

/-- The fraction and the exponent of any word are within their fields, which the lowest grid exponent bounds below. -/
theorem RFmt.abs_fracOf_le (hf : f.Sane) (w : Int) : |f.fracOf w| ≤ f.maxF := by
  have hfrac := hf.frac
  have h := fits_wrap f.frac (trunc 0 w)
  rw [RFmt.fracOf, trits, show f.frac - 1 + 1 - 0 = f.frac by omega]
  exact abs_le.2 (fits_iff.1 h)

theorem RFmt.neg_lim_le_expOf (hf : f.Sane) (w : Int) : -f.lim ≤ f.expOf w := by
  have hexp := hf.exp
  have h := fits_wrap f.exp (trunc f.frac w)
  rw [RFmt.expOf, trits, show f.frac + f.exp - 1 + 1 - f.frac = f.exp by omega, hf.lim]
  exact (fits_iff.1 h).1

/-- Among the finite words of the format none is nearer than the grid value that rounding gives. -/
theorem RFmt.outVal_nearest_word (hf : f.Sane) (hx : x.n ≠ 0) (w : Int) : |f.outVal x - x.val| ≤ |f.value w - x.val| :=
  (f.outVal_nearest hf hx (f.abs_fracOf_le hf w) (f.neg_lim_le_expOf hf w)).elim le_of_lt fun h => h.1.le

/-- Rounding of a fraction other than 0, by its exponent and fraction: the infinity, or the word of the grid value. -/
theorem RFmt.round_of_ne_zero (hf : f.Sane) (hx : x.n ≠ 0) :
    f.round x = if f.lim - 1 < f.outExp x
      then ⟨f.inf (decide (x.n < 0)), true, f.tiny x.n x.k (x.k + tritLen x.n), true⟩
      else ⟨f.word (f.outExp x) (f.outFrac x), false, f.tiny x.n x.k (x.k + tritLen x.n), f.cuts x⟩ := by
  rw [f.round_eq hx]
  split_ifs with hz hbig hbig
  · have hlim := hf.lim_pos
    have := (f.word_out_of_outFrac_zero hf hx hz).1
    omega
  · rw [(f.word_out_of_outFrac_zero hf hx hz).2]
  · rfl
  · rfl

theorem RFmt.round_of_zero (hx : x.n = 0) : f.round x = ⟨f.zero, false, false, false⟩ := if_pos hx

theorem RFmt.value_zero (hf : f.Sane) : f.value f.zero = 0 := by
  have hlim := hf.lim_pos
  rw [RFmt.zero, f.value_word hf (by rw [abs_neg, abs_of_pos (by omega)]) (by rw [abs_zero]; exact maxTrits_nonneg _)]
  simp

/-- The word of a rounding that does not overflow has the grid value that rounding gives. -/
theorem RFmt.value_round (hf : f.Sane) (hx : x.n ≠ 0) (hbig : ¬ f.lim - 1 < f.outExp x) :
    f.value (f.word (f.outExp x) (f.outFrac x)) = f.outVal x := by
  obtain ⟨he, hF, hn⟩ := f.out_onGrid hf hx
  exact (f.word_of_onGrid hf hF he (by omega) hn).2.2.2

/-- A grid value beyond the largest finite one is at least the smallest normal of the exponent above, two units away. -/
theorem RFmt.abs_outVal_ge_of_big (hf : f.Sane) (hx : x.n ≠ 0) (hbig : f.lim - 1 < f.outExp x) :
    (f.maxF + 2 : ℚ) * 3 ^ (f.lim - 1 - f.frac) ≤ |f.outVal x| := by
  obtain ⟨-, -, hn⟩ := f.out_onGrid hf hx
  have hlim := hf.lim_pos
  have hmin : f.maxF + 2 ≤ 3 * |f.outFrac x| := by
    have := f.two_minF; have := f.two_maxF hf; omega
  have hmin : (f.maxF + 2 : ℚ) ≤ 3 * |(f.outFrac x : ℚ)| := by exact_mod_cast hmin
  have hexp : (3 : ℚ) * 3 ^ (f.lim - 1 - f.frac) ≤ 3 ^ (f.outExp x - f.frac) := by
    rw [mul_comm, ← zpow_add_one₀ (by norm_num)]
    exact zpow_le_zpow_right₀ (by norm_num) (by omega)
  have hpos : (0 : ℚ) < 3 ^ (f.outExp x - f.frac) := by positivity
  rw [RFmt.outVal, abs_mul, abs_of_pos hpos]
  calc (f.maxF + 2 : ℚ) * 3 ^ (f.lim - 1 - f.frac) ≤ 3 * |(f.outFrac x : ℚ)| * 3 ^ (f.lim - 1 - f.frac) := by gcongr
    _ = |(f.outFrac x : ℚ)| * (3 * 3 ^ (f.lim - 1 - f.frac)) := by ring
    _ ≤ _ := by gcongr

/-- A grid value of the sign of x is no nearer to it than its magnitude is. -/
theorem RFmt.outVal_nearest_abs (hf : f.Sane) (hx : x.n ≠ 0) {F e : Int} (h0 : 0 ≤ F) (hF : F ≤ f.maxF) (he : -f.lim ≤ e) :
    Nearer |x.val| |f.outVal x| (F * 3 ^ (e - f.frac)) := by
  have hs : |sgn x.n * F| ≤ f.maxF := by rwa [abs_mul, abs_sgn_of_ne_zero hx, one_mul, abs_of_nonneg h0]
  have h := f.outVal_nearest hf hx hs he
  have hval : ((sgn x.n * F : Int) : ℚ) * 3 ^ (e - f.frac) - x.val =
      sgn x.n * (F * 3 ^ (e - f.frac) - |x.val|) := by
    rw [mul_sub, sgn_val]; push_cast; ring
  have hone : |(sgn x.n : ℚ)| = 1 := by exact_mod_cast abs_sgn_of_ne_zero hx
  have habs : |((sgn x.n * F : Int) : ℚ) * 3 ^ (e - f.frac)| = |(F : ℚ) * 3 ^ (e - f.frac)| := by
    rw [Int.cast_mul, mul_assoc, abs_mul, hone, one_mul]
  unfold Nearer at h ⊢
  rw [abs_abs]
  rwa [hval, habs, abs_mul, hone, one_mul, f.abs_outVal_sub hf] at h

/-- Rounding goes beyond the largest finite value from half way to the grid value above on. -/
theorem RFmt.big_iff_half_way (hf : f.Sane) (hx : x.n ≠ 0) :
    f.lim - 1 < f.outExp x ↔ (f.maxF + 1 : ℚ) * 3 ^ (f.lim - 1 - f.frac) ≤ |x.val| := by
  have hlim := hf.lim_pos
  have hmax := f.two_maxF hf
  have hmin := f.two_minF
  have hhalf := f.half_pos
  have hu : (0 : ℚ) < 3 ^ (f.lim - 1 - f.frac) := by positivity
  have htop : (f.minF : ℚ) * 3 ^ (f.lim - f.frac) = (f.maxF + 2) * 3 ^ (f.lim - 1 - f.frac) := by
    have h : (3 * f.minF : ℚ) = f.maxF + 2 := by exact_mod_cast (by omega : 3 * f.minF = f.maxF + 2)
    rw [show f.lim - f.frac = f.lim - 1 - f.frac + 1 by ring, zpow_add_one₀ (by norm_num), ← h]; ring
  have hbelow := f.outVal_nearest_abs hf hx (F := f.maxF) (e := f.lim - 1) (by omega) le_rfl (by omega)
  have habove := f.outVal_nearest_abs hf hx (F := f.minF) (e := f.lim) (by omega) (by omega) (by omega)
  rw [htop] at habove
  refine ⟨fun hbig => ?_, fun h => ?_⟩
  · have hy := f.abs_outVal_ge_of_big hf hx hbig
    by_contra hlt
    have hy' := le_abs_self (|f.outVal x| - |x.val|)
    have hz : |(f.maxF : ℚ) * 3 ^ (f.lim - 1 - f.frac) - (|x.val|)| < |f.outVal x| - |x.val| := by
      rw [abs_lt]; constructor <;> linarith
    obtain h | ⟨h, -⟩ := hbelow <;> linarith
  · rw [f.outExp_big_iff hf hx]
    by_contra hle
    have hz : |(f.maxF + 2 : ℚ) * 3 ^ (f.lim - 1 - f.frac) - (|x.val|)| ≤ |x.val| - |f.outVal x| := by
      rw [abs_le]; constructor <;> linarith
    have hy := neg_abs_le (|f.outVal x| - |x.val|)
    obtain h | ⟨-, h⟩ := habove
    · linarith
    · rw [abs_abs] at h
      have := le_abs_self ((f.maxF + 2 : ℚ) * 3 ^ (f.lim - 1 - f.frac))
      linarith

end Round

theorem sane_of_mem {f : RFmt} (hf : f ∈ [tf27, tf9]) : f.Sane := by
  obtain rfl | rfl := List.mem_pair.1 hf
  · exact sane_tf27
  · exact sane_tf9

/-- Settles O23: 0 is its own rounding; another fraction goes to the word of the nearest grid value, or to an infinity. -/
theorem realRoundingIsNearest : Obligations.RealRoundingIsNearest := by
  unfold Obligations.RealRoundingIsNearest
  intro f hmem n k x r
  have hf := sane_of_mem hmem
  have hround : f.RoundsTo (x : ℚ) (f.rounded ⟨n, k⟩) := f.roundsTo_rounded hf ⟨n, k⟩
  have hval : (TFrac.mk n k).val = x := rfl
  by_cases hn : n = 0
  · have hx : x = 0 := by simp [x, hn]
    have hr : r = ⟨f.zero, false, false, false⟩ := f.round_of_zero hn
    have hmax : (0 : ℚ) ≤ f.maxF := by exact_mod_cast maxTrits_nonneg f.frac
    have hpos : (0 : ℚ) < (f.maxF + 1) * 3 ^ (f.lim - 1 - f.frac) := by positivity
    rw [hr, hx, f.value_zero hf]
    refine ⟨fun _ => ⟨fun w _ => by simp, by simp⟩, iff_of_false (by simp) ?_, fun h => absurd hn h, hx ▸ hround⟩
    rw [abs_zero]; exact not_le.2 hpos
  · have hr : r = _ := f.round_of_ne_zero hf (x := ⟨n, k⟩) hn
    have half := f.big_iff_half_way hf (x := ⟨n, k⟩) hn
    have tiny := f.tiny_iff hf (x := ⟨n, k⟩) hn
    rw [hval] at half tiny
    by_cases hbig : f.lim - 1 < f.outExp ⟨n, k⟩
    · rw [hr, if_pos hbig]
      exact ⟨fun h => by simp at h, iff_of_true rfl (half.1 hbig), fun _ => tiny, hround⟩
    · rw [hr, if_neg hbig, f.value_round hf hn hbig]
      refine ⟨fun _ => ⟨fun w _ => f.outVal_nearest_word hf hn w, ?_⟩, iff_of_false (by simp) (half.not.1 hbig),
        fun _ => tiny, hround⟩
      rw [← hval, ← Bool.not_eq_true, f.cuts_iff_outVal_ne hf hn, not_not]

end Sys2Proof.Machine

/-!
SUPPORT. The real instructions write the results of their operations, element by element (R145, R150, R154 to R160).
-/

namespace Sys2Proof.Machine

section Elements

variable {i : Instr} {gd : Guard} {sh : Shape} {d b c : Nat} {uses : List RegUse} {s : State}

/-- An instruction whose elements are computed one by one writes them and raises their flags. -/
theorem putReal_completes {f : Thread → Nat → RRes} {l : Thread → List RRes} (hr : s.Ready gd uses)
    (he : exec i s = s.runLocal gd uses fun t => t.putReal d sh (l t)) (hd : gUse d ∈ uses)
    (hl : ∀ t, l t = (List.range (elemCount sh)).map (f t)) : Completes i gd (PutReal sh d f) s := by
  unfold Completes; rw [he]
  exact State.runLocal_putReal hr hd fun t => by rw [hl]

theorem zipWith_elems (f : Int → Int → RRes) (x y : Int) :
    List.zipWith f (elems sh x) (elems sh y) = (List.range (elemCount sh)).map fun k => f (elem sh x k) (elem sh y k) := by
  rw [elems, elems, List.zipWith_map, List.zipWith_self]

theorem fmaElems_eq (t : Thread) (b c u : Nat) : fmaElems sh t b c u = (List.range (elemCount sh)).map fun k =>
    (shapeFmt sh).fmaOf (elem sh (t.readG b) k) (elem sh (t.readG c) k) (elem sh (t.readG u) k) := by
  simp only [fmaElems, elems, List.zip_map', List.zipWith_map, List.zipWith_self]

theorem realUnary_completes {f : RFmt → Int → RRes} (hr : s.Ready gd [gUse d, gUse b])
    (he : exec i s = realUnary gd sh d b f s) :
    Completes i gd (PutReal sh d fun t k => f (shapeFmt sh) (elem sh (t.readG b) k)) s :=
  putReal_completes hr he (by simp) fun t => by rw [elems, List.map_map]; rfl

theorem realBinary_completes {f : RFmt → Int → Int → RRes} (hr : s.Ready gd [gUse d, gUse b, gUse c])
    (he : exec i s = realBinary gd sh d b c f s) :
    Completes i gd (PutReal sh d fun t k => f (shapeFmt sh) (elem sh (t.readG b) k) (elem sh (t.readG c) k)) s :=
  putReal_completes hr he (by simp) fun _ => zipWith_elems _ _ _

/-- Elements that raise no flag leave a thread as a plain write of the word does. -/
theorem Thread.putReal_quiet (t : Thread) (d : Nat) (sh : Shape) (l : List Int) :
    t.putReal d sh (l.map quiet) = t.put d (packElems sh l) := by
  have hwords : (l.map quiet).map Prod.fst = l := by simp [quiet, Function.comp_def]
  have hflags : RealFlags.any ((l.map quiet).map Prod.snd) = RealFlags.clear := by
    rw [RealFlags.any, List.map_map, List.foldl_map]
    exact List.foldl_fixed' (fun _ => RealFlags.or_clear _) _
  rw [Thread.putReal, hwords, hflags, Thread.raise, RealFlags.or_clear]; rfl

theorem fclass_completes (hr : s.Ready gd [gUse d, gUse b]) : Completes (.fclass gd sh d b) gd
    (PutReal sh d fun t k => ((shapeFmt sh).classOf (elem sh (t.readG b) k), RealFlags.clear)) s := by
  refine putReal_completes (l := fun t => ((elems sh (t.readG b)).map (shapeFmt sh).classOf).map quiet) hr ?_ (by simp)
    fun t => by rw [elems, List.map_map, List.map_map]; rfl
  simp only [Thread.putReal_quiet]; rfl

end Elements

/-- Settles O21: each instruction by the list of results that it computes of the elements of its operands. -/
theorem realArithmeticResults : Obligations.RealArithmeticResults := by
  unfold Obligations.RealArithmeticResults
  intro gd sh d b c e lit s x f
  refine ⟨fun hr => ⟨?_, ?_, ?_, ?_, ?_, ?_⟩, fun hr => ?_, fun hr => ⟨?_, ?_, ?_, ?_, ?_, ?_, ?_, ?_, ?_⟩, fun hr => ?_⟩
  · exact realBinary_completes hr rfl
  · exact realBinary_completes hr rfl
  · exact realBinary_completes hr rfl
  · exact putReal_completes hr rfl (by simp) fun t => fmaElems_eq t b c d
  · exact realBinary_completes hr rfl
  · exact realBinary_completes hr rfl
  · exact putReal_completes hr rfl (by simp) fun t => fmaElems_eq t b c e
  · exact realUnary_completes hr rfl
  · exact realUnary_completes hr rfl
  · exact realUnary_completes hr rfl
  · exact realUnary_completes hr rfl
  · exact realUnary_completes hr rfl
  · exact realUnary_completes hr rfl
  · exact realUnary_completes hr rfl
  · exact realUnary_completes (f := fun f x => f.sclOf x lit) hr rfl
  · exact fclass_completes hr
  · exact putReal_completes hr rfl (by simp) fun _ => zipWith_elems _ _ _

end Sys2Proof.Machine

/-!
SUPPORT. The accumulators: what a write of one leaves of the machine, what a matrix operation makes of the row of its lane,
block by block, and how it completes (R143, R145, R232, R240).
-/

namespace Sys2Proof.Machine

/-! ### One accumulator written -/

section SetAcc

variable {s : State} {t : Thread} {q : Nat}

theorem State.team?_mapTeam {f : Team → Team} (hf : ∀ m, (f m).id = m.id) (s : State) (id id' : TeamId) :
    (s.mapTeam id f).team? id' = (s.team? id').map fun m => if id' = id then f m else m := by
  simp only [State.team?, State.mapTeam, List.find?_map]
  have hid : ((fun m : Team => m.id == id') ∘ fun m => if (m.id == id) = true then f m else m) =
      fun m : Team => m.id == id' := by
    funext m; by_cases hm : m.id = id <;> simp [hm, hf]
  rw [hid]
  cases h : s.teams.find? fun m : Team => m.id == id' with
  | none => rfl
  | some m =>
    have hm : m.id = id' := by simpa using List.find?_some h
    simp [hm]

/-- The team of the thread with the set of its core changed. -/
def Team.onCore (m : Team) (core : Nat) (f : TileCore → TileCore) : Team :=
  match m.core? core with
  | none => m
  | some c => { m with tiles := m.tiles.set (core - m.core) (f c) }

theorem State.mapTiles_eq (s : State) (t : Thread) (f : TileCore → TileCore) :
    s.mapTiles t f = s.mapTeam t.team fun m => m.onCore t.core f := rfl

theorem Team.onCore_id (m : Team) (core : Nat) (f : TileCore → TileCore) : (m.onCore core f).id = m.id := by
  unfold Team.onCore; split <;> rfl

theorem Team.onCore_withoutTiles (m : Team) (core : Nat) (f : TileCore → TileCore) :
    { m.onCore core f with tiles := [] } = { m with tiles := [] } := by
  unfold Team.onCore; split <;> rfl

theorem Team.core?_onCore {m : Team} {core : Nat} {c : TileCore} (h : m.core? core = some c) (f : TileCore → TileCore) :
    (m.onCore core f).core? core = some (f c) := by
  obtain ⟨hlt, -⟩ := List.getElem?_eq_some_iff.1 h
  simp only [Team.onCore, h]
  exact List.getElem?_set_self hlt

/-- A change of the sets of a core changes the tiles and accumulators of that team alone. -/
theorem State.onlyTiles_mapTiles (s : State) (t : Thread) (f : TileCore → TileCore) : s.OnlyTiles (s.mapTiles t f) t := by
  refine ⟨rfl, fun id => ?_⟩
  rw [State.mapTiles_eq, State.team?_mapTeam fun m => m.onCore_id t.core f, Option.map_map]
  refine congrArg (fun g => (s.team? id).map g) (funext fun m => ?_)
  by_cases hid : id = t.team
  · simp [hid, Team.onCore_withoutTiles]
  · simp [hid]

/-- The set of the thread's core after a change of it. -/
theorem State.core_mapTiles {m : Team} {c : TileCore} (hm : s.team? t.team = some m) (hc : m.core? t.core = some c)
    (f : TileCore → TileCore) :
    (((s.mapTiles t f).team? t.team).bind fun m => m.core? t.core) = some (f c) := by
  rw [State.mapTiles_eq, State.team?_mapTeam fun m => m.onCore_id t.core f, hm]
  simp [Team.core?_onCore hc]

/-- A write of an accumulator that the team holds changes that accumulator alone. -/
theorem State.setAcc_spec (h : s.HasAcc t q) (f : Acc → Acc) :
    s.OnlyAcc (s.setAcc t q f) t q ∧ (s.setAcc t q f).accAt t q = f (s.accAt t q) := by
  obtain ⟨m, c, hm, hc, hq⟩ := h
  have hnew := State.core_mapTiles hm hc fun c => { c with accs := c.accs.modify q f }
  have hold : ((s.team? t.team).bind fun m => m.core? t.core) = some c := by rw [hm]; exact hc
  refine ⟨⟨s.onlyTiles_mapTiles t _, fun i hi => ?_, fun i => ?_⟩, ?_⟩
  · simp [State.setAcc, State.accAt, hnew, hold, Ne.symm hi]
  · simp [State.setAcc, State.tileAt, hnew, hold]
  · simp [State.setAcc, State.accAt, hnew, hold, hq]

end SetAcc

/-! ### The blocks of a row -/

theorem mem_addSorted {l : List Nat} {k r : Nat} : r ∈ addSorted l k ↔ r ∈ l ∨ r = k := by
  induction l with
  | nil => simp [addSorted]
  | cons a l ih =>
    unfold addSorted
    split_ifs with hlt heq
    · simp only [List.mem_cons]; tauto
    · subst heq; simp only [List.mem_cons]; tauto
    · simp only [List.mem_cons, ih]; tauto

/-- The row and the flags after one element of it takes a block. -/
def putElem (i : Nat) (f : Nat → Nat → Int → Int × Bool × RealFlags) (b : Nat) (st : Acc × RealFlags) (j : Nat) :
    Acc × RealFlags :=
  let r := f b j (st.1.word i j)
  let acc := st.1.put i j r.1
  (if r.2.1 then acc.mark i else acc, st.2.or r.2.2)

/-- The row and the flags after its first n elements take a block. -/
def putBlock (i n : Nat) (f : Nat → Nat → Int → Int × Bool × RealFlags) (st : Acc × RealFlags) (b : Nat) :
    Acc × RealFlags := (List.range n).foldl (putElem i f b) st

theorem updateRow_eq (i n k : Nat) (f : Nat → Nat → Int → Int × Bool × RealFlags) (a : Acc) :
    updateRow i n k f a = (List.range (blockCount k)).foldl (putBlock i n f) (a, RealFlags.clear) := rfl

/-- What an element is after the first m blocks. -/
def afterBlocks (f : Nat → Nat → Int → Int × Bool × RealFlags) (j m : Nat) (x : Int) : Int :=
  (List.range m).foldl (fun v b => (f b j v).1) x

/-- What rows have become: the row i has the words `new` in its first n columns, it is marked where `marks` says, and the
flags that `raises` names are raised; all else is as it was. -/
structure RowPut (i n : Nat) (new : Nat → Int) (marks : Prop) (raises : (RealFlags → Bool) → Prop)
    (st st' : Acc × RealFlags) : Prop where
  wf : Memory.wf st'.1.data = true
  words : AccRowPut st.1 st'.1 i n fun j _ => new j
  rovf : ∀ r, r ∈ st'.1.rovf ↔ r ∈ st.1.rovf ∨ r = i ∧ marks
  flags : ∀ p ∈ [RealFlags.inv, RealFlags.ofl, RealFlags.ufl, RealFlags.inx], p st'.2 = true ↔ p st.2 = true ∨ raises p

section Rows

variable {i n : Nat} {f : Nat → Nat → Int → Int × Bool × RealFlags} {st : Acc × RealFlags}

theorem or_flag {p : RealFlags → Bool} (hp : p ∈ [RealFlags.inv, RealFlags.ofl, RealFlags.ufl, RealFlags.inx])
    (a b : RealFlags) : p (a.or b) = (p a || p b) := by
  simp only [List.mem_cons, List.not_mem_nil, or_false] at hp
  obtain rfl | rfl | rfl | rfl := hp <;> rfl

theorem putElem_data (b j : Nat) :
    (putElem i f b st j).1.data = memSet st.1.data (27 * i + j) (f b j (st.1.word i j)).1 := by
  simp only [putElem]; split <;> rfl

theorem putElem_word (hw : Memory.wf st.1.data = true) {b j : Nat} (hj : j < 27) (r : Nat) {c : Nat} (hc : c < 27) :
    (putElem i f b st j).1.word r c = if r = i ∧ c = j then (f b j (st.1.word i j)).1 else st.1.word r c := by
  have hplace : 27 * r + c = 27 * i + j ↔ r = i ∧ c = j := by omega
  simp only [Acc.word, putElem_data, memGet_memSet hw, hplace]

theorem putElem_rovf (b j r : Nat) :
    r ∈ (putElem i f b st j).1.rovf ↔ r ∈ st.1.rovf ∨ r = i ∧ (f b j (st.1.word i j)).2.1 = true := by
  simp only [putElem]
  split
  · next h => simp [Acc.mark, Acc.put, mem_addSorted, h]
  · next h => simp [Acc.put, h]

/-- One block on the row: each of its first n elements takes it. -/
theorem rowPut_putBlock (hn : n ≤ 27) (hw : Memory.wf st.1.data = true) (b : Nat) :
    RowPut i n (fun j => (f b j (st.1.word i j)).1) (∃ j < n, (f b j (st.1.word i j)).2.1 = true)
      (fun p => ∃ j < n, p (f b j (st.1.word i j)).2.2 = true) st (putBlock i n f st b) := by
  induction n with
  | zero => exact ⟨hw, fun r j hj => by simp [putBlock], fun r => by simp [putBlock], fun p hp => by simp [putBlock]⟩
  | succ n ih =>
    obtain ⟨hw', words, rovf, flags⟩ := ih (by omega)
    have hstep : putBlock i (n + 1) f st b = putElem i f b (putBlock i n f st b) n := by
      simp [putBlock, List.range_succ]
    have hold : (putBlock i n f st b).1.word i n = st.1.word i n := by rw [words i n (by omega), if_neg (by omega)]
    rw [hstep]
    refine ⟨?_, fun r j hj => ?_, fun r => ?_, fun p hp => ?_⟩
    · rw [putElem_data]; exact Memory.wf_memSet _ _ hw'
    · rw [putElem_word hw' (by omega) r hj, hold, words r j hj]
      by_cases hjn : j = n
      · subst hjn; by_cases hr : r = i <;> simp [hr]
      · have hlt : j < n + 1 ↔ j < n := by omega
        simp [hjn, hlt]
    · rw [putElem_rovf, hold, rovf, or_assoc, ← and_or_left, Nat.exists_lt_succ_right]
    · have : (putElem i f b (putBlock i n f st b) n).2 = (putBlock i n f st b).2.or (f b n (st.1.word i n)).2.2 := by
        rw [← hold]; rfl
      rw [this, or_flag hp, Bool.or_eq_true, flags p hp, or_assoc, Nat.exists_lt_succ_right]

/-- The first m blocks on the row, in order. -/
theorem rowPut_blocks (hn : n ≤ 27) (hw : Memory.wf st.1.data = true) (m : Nat) :
    RowPut i n (fun j => afterBlocks f j m (st.1.word i j))
      (∃ j < n, ∃ b < m, (f b j (afterBlocks f j b (st.1.word i j))).2.1 = true)
      (fun p => ∃ j < n, ∃ b < m, p (f b j (afterBlocks f j b (st.1.word i j))).2.2 = true)
      st ((List.range m).foldl (putBlock i n f) st) := by
  induction m with
  | zero =>
    refine ⟨hw, fun r j hj => ?_, fun r => by simp, fun p hp => by simp⟩
    by_cases hr : r = i <;> simp [afterBlocks, hr]
  | succ m ih =>
    obtain ⟨hw', words, rovf, flags⟩ := ih
    obtain ⟨hw'', words', rovf', flags'⟩ := rowPut_putBlock (i := i) (f := f) hn hw' m
    have hword {j : Nat} (hj : j < n) : ((List.range m).foldl (putBlock i n f) st).1.word i j =
        afterBlocks f j m (st.1.word i j) := by rw [words i j (by omega), if_pos ⟨rfl, hj⟩]
    have hsplit (P : Nat → Nat → Prop) :
        (∃ j < n, ∃ b < m + 1, P j b) ↔ (∃ j < n, ∃ b < m, P j b) ∨ ∃ j < n, P j m := by
      simp only [Nat.exists_lt_succ_right, and_or_left, exists_or]
    rw [List.range_succ, List.foldl_append, List.foldl_cons, List.foldl_nil]
    refine ⟨hw'', fun r j hj => ?_, fun r => ?_, fun p hp => ?_⟩
    · rw [words' r j hj]
      split
      · next h => simp only [hword h.2, afterBlocks, List.range_succ, List.foldl_append, List.foldl_cons, List.foldl_nil]
      · next h => rw [words r j hj, if_neg h]
    · rw [rovf', rovf, hsplit, or_assoc, ← and_or_left]
      refine or_congr_right (and_congr_right fun _ => or_congr_right (exists_congr fun j => and_congr_right fun hj => ?_))
      rw [hword hj]
    · rw [flags' p hp, flags p hp, hsplit, or_assoc]
      refine or_congr_right (or_congr_right (exists_congr fun j => and_congr_right fun hj => ?_))
      rw [hword hj]

/-- A row after all its blocks (R143). -/
theorem rowPut_updateRow (hn : n ≤ 27) (k : Nat) {a : Acc} (hw : Memory.wf a.data = true) :
    RowPut i n (fun j => afterBlocks f j (blockCount k) (a.word i j))
      (∃ j < n, ∃ b < blockCount k, (f b j (afterBlocks f j b (a.word i j))).2.1 = true)
      (fun p => ∃ j < n, ∃ b < blockCount k, p (f b j (afterBlocks f j b (a.word i j))).2.2 = true)
      (a, RealFlags.clear) (updateRow i n k f a) := by
  rw [updateRow_eq]; exact rowPut_blocks (st := (a, RealFlags.clear)) hn hw _

/-- What every element keeps of rows and flags, the whole operation keeps. -/
theorem updateRow_keeps {P : Acc × RealFlags → Prop} (h : ∀ b st j, P st → P (putElem i f b st j)) {k : Nat} {a : Acc}
    (h0 : P (a, RealFlags.clear)) : P (updateRow i n k f a) := by
  rw [updateRow_eq]
  refine List.foldlRecOn (motive := P) _ _ h0 fun st hst b _ => ?_
  exact List.foldlRecOn (motive := P) _ _ hst fun st hst j _ => h b st j hst

/-- Without an overflow the marks of the rows stay (R143). -/
theorem updateRow_rovf (h : ∀ b j v, (f b j v).2.1 = false) (k : Nat) (a : Acc) :
    (updateRow i n k f a).1.rovf = a.rovf :=
  updateRow_keeps (P := fun st => st.1.rovf = a.rovf) (fun b st j hst => by simpa [putElem, h, Acc.put] using hst) rfl

/-- The integer formats raise no real flag (R143). -/
theorem updateRow_flags (h : ∀ b j v, (f b j v).2.2 = RealFlags.clear) (k : Nat) (a : Acc) :
    (updateRow i n k f a).2 = RealFlags.clear :=
  updateRow_keeps (P := fun st => st.2 = RealFlags.clear)
    (fun b st j hst => by simp [putElem, h, hst, RealFlags.or_clear]) rfl

end Rows

/-! ### The indices of a block (R142) -/

theorem blockOf_eq (k n : Nat) : blockOf k n = (List.range k).filter fun i => i / 27 = n := by
  have hinc : ((List.range 27).map fun i => 27 * n + i).Pairwise (· < ·) :=
    List.pairwise_map.2 (List.pairwise_lt_range.imp fun h => by omega)
  refine List.Pairwise.eq_of_mem_iff (hinc.filter fun i => decide (i < k)) (List.pairwise_lt_range.filter _) fun i => ?_
  simp only [blockOf, List.mem_filter, List.mem_map, List.mem_range, decide_eq_true_eq]
  constructor
  · rintro ⟨⟨j, hj, rfl⟩, hk⟩
    exact ⟨hk, by omega⟩
  · rintro ⟨hk, rfl⟩
    exact ⟨⟨i % 27, Nat.mod_lt _ (by omega), Nat.div_add_mod i 27⟩, hk⟩

/-! ### How a matrix operation completes -/

section Completes

variable {s : State} {gd : Guard} {uses names : List RegUse} {t : Thread} {i : Instr} {real : Bool} {rs : Trit} {q n k : Nat}
  {rows : Int} {f : Nat → Nat → Int → Int × Bool × RealFlags} {F : Thread → State → Except Cause State}

/-- The operation that a matrix instruction has in flight (R232, R240). -/
def matrixOp (s : State) (t : Thread) (rs : Trit) (q : Nat) (names : List RegUse) (real : Bool) (fl : RealFlags) : LongOp :=
  { LongOp.plain (t.raisedFlag rs) with
    dests := qUse q :: names, tileOp := some s.tick, flagging := real, sets := fl }

/-- A lane within the rows of A updates its row of the accumulator, and its operation is in flight (R238, R240). -/
theorem matrix_completes (h : s.Alone gd uses t) (he : exec i s = s.lanes gd uses F)
    (hF : F t s = .ok (matrixLane real rs q names t s rows n k f)) (hrows : t.lane < rows) (hacc : s.HasAcc t q) :
    ∃ s', exec i s = .next (s'.becomes t
        (t.begin (matrixOp s t rs q names real (updateRow t.lane n k f (s.accAt t q)).2)).advance) ∧
      s.OnlyAcc s' t q ∧ s'.accAt t q = (updateRow t.lane n k f (s.accAt t q)).1 := by
  obtain ⟨honly, hat⟩ := State.setAcc_spec hacc fun _ => (updateRow t.lane n k f (s.accAt t q)).1
  refine ⟨s.setAcc t q fun _ => (updateRow t.lane n k f (s.accAt t q)).1, ?_, honly, hat⟩
  have hcalm : (s.setAcc t q fun _ => (updateRow t.lane n k f (s.accAt t q)).1).Calm := h.calm
  rw [he]
  refine State.lanes_alone h ?_ (hcalm.becomes t (by simp [h.calm t h.mem]))
  rw [hF, matrixLane, if_neg (not_le.2 hrows)]
  exact congrArg Except.ok (State.mapThread_eq_becomes
    (s := s.setAcc t q fun _ => (updateRow t.lane n k f (s.accAt t q)).1) h.only fun t => (t.begin _).advance)

/-- No tile fault is raised where no condition of one holds (R231, R238). -/
theorem tileFault_none {b1 b2 b3 : Bool} (h1 : b1 = false) (h2 : b2 = false) (h3 : b3 = false) (x y z : Int) :
    tileFault [(b1, x), (b2, y), (b3, z)] = none := by
  subst h1 h2 h3; rfl

theorem badExtents_eq_false {k : Int} {b : TShape} (hrows : b.rows = k) (hcols : b.cols ≤ 27) : badExtents k b = false := by
  simp [badExtents, hrows, hcols]

end Completes

end Sys2Proof.Machine

/-!
SUPPORT. The matrix operations of the integer formats and of the real ones: the blocks of 27 that they take, and the whole
dot product that the wrapped sums add up to (R143, R144, R238 to R240).
-/

namespace Sys2Proof.Machine

/-! ### The whole dot product (R143) -/

theorem wrap_wrap_add (n : Nat) (x y : Int) : wrap n (wrap n x + y) = wrap n (x + y) := by
  have hx : x + y = wrap n x + y + p3 n * trunc n x := by linarith [wrap_add_trunc n x]
  rw [hx, wrap_add_p3_mul]

/-- The indices of the first m + 1 blocks are those of the first m and those of block m. -/
theorem sum_blocks_succ (g : Nat → Int) (l : List Nat) (m : Nat) :
    ((l.filter fun k => k / 27 < m + 1).map g).sum =
      ((l.filter fun k => k / 27 < m).map g).sum + ((l.filter fun k => k / 27 = m).map g).sum := by
  simp only [Nat.lt_succ_iff]
  induction l with
  | nil => rfl
  | cons k l ih =>
    obtain h | h | h := lt_trichotomy (k / 27) m
    · simp [h, h.ne, h.le, ih, add_assoc]
    · simp [h, ih, add_left_comm]
    · simp [h.not_gt, h.ne', h.not_ge, ih]

/-- Narrowed block sums, wrapped one after the other, are the whole sum wrapped (R143). -/
theorem foldl_wrap_blocks (g : Nat → Int) (l : List Nat) (x : Int) (m : Nat) :
    (List.range (m + 1)).foldl (fun v b => wrap 27 (v + ((l.filter fun k => k / 27 = b).map g).sum)) x =
      wrap 27 (x + ((l.filter fun k => k / 27 < m + 1).map g).sum) := by
  induction m with
  | zero => simp [List.range_succ]
  | succ m ih =>
    rw [List.range_succ, List.foldl_append, ih, List.foldl_cons, List.foldl_nil, wrap_wrap_add, sum_blocks_succ g l (m + 1),
      add_assoc]

/-- All the blocks of a reduction wrapped in order are the whole dot product wrapped (R143). -/
theorem foldl_wrap_all (g : Nat → Int) {K : Nat} (hK : 1 ≤ K) (x : Int) :
    (List.range ((K + 26) / 27)).foldl
        (fun v b => wrap 27 (v + (((List.range K).filter fun k => k / 27 = b).map g).sum)) x =
      wrap 27 (x + ((List.range K).map g).sum) := by
  obtain ⟨m, hm⟩ : ∃ m, (K + 26) / 27 = m + 1 := ⟨(K + 26) / 27 - 1, by omega⟩
  have hall : (List.range K).filter (fun k => k / 27 < m + 1) = List.range K :=
    List.filter_eq_self.2 fun k hk => by
      have := List.mem_range.1 hk
      rw [decide_eq_true_eq]; omega
  rw [hm, foldl_wrap_blocks, hall]

/-! ### The integer formats (R143) -/

section Integer

variable {s : State} {gd : Guard} {uses names : List RegUse} {t : Thread} {i : Instr} {rs : Trit} {q n k : Nat}
  {rows : Int} {F : Thread → State → Except Cause State} {narrow : Int → Int} {sum : Nat → Nat → Int}

/-- An operation of an integer format: each element takes the block sums in order, narrowed each time, and a sum that does
not fit marks the row; no real flag is raised (R143). -/
theorem integer_completes (h : s.Alone gd uses t) (he : exec i s = s.lanes gd uses F)
    (hF : F t s = .ok (matrixLane false rs q names t s rows n k fun b j acc => addBlock narrow acc (sum b j)))
    (hrows : t.lane < rows) (hacc : s.HasAcc t q) (hn : n ≤ 27) (hw : Memory.wf (s.accAt t q).data = true) :
    ∃ s', exec i s = .next (s'.becomes t (t.begin (matrixOp s t rs q names false RealFlags.clear)).advance) ∧
      s.OnlyAcc s' t q ∧
      AccRowPut (s.accAt t q) (s'.accAt t q) t.lane n (fun j x =>
        (List.range ((k + 26) / 27)).foldl (fun v b => narrow (v + sum b j)) x) ∧
      ∀ r, r ∈ (s'.accAt t q).rovf ↔ r ∈ (s.accAt t q).rovf ∨ r = t.lane ∧ ∃ j < n, ∃ m < (k + 26) / 27,
        fits 27 ((List.range m).foldl (fun v b => narrow (v + sum b j)) ((s.accAt t q).word t.lane j) + sum m j) =
          false := by
  obtain ⟨s', hexec, honly, hat⟩ := matrix_completes h he hF hrows hacc
  obtain ⟨-, words, rovf, -⟩ := rowPut_updateRow (i := t.lane) (f := fun b j acc => addBlock narrow acc (sum b j)) hn k hw
  rw [updateRow_flags fun _ _ _ => rfl] at hexec
  refine ⟨s', hexec, honly, ?_, fun r => ?_⟩
  · intro r j hj
    rw [hat, words r j hj]
    by_cases hr : r = t.lane
    · subst hr; rfl
    · simp [hr]
  · rw [hat, rovf]
    simp only [addBlock, Bool.not_eq_true']
    rfl

end Integer

/-- Settles O26: the operation takes the blocks in order, which add up to the whole dot product. -/
theorem integerMatrixResults : Obligations.IntegerMatrixResults := by
  unfold Obligations.IntegerMatrixResults
  intro gd rs q a b e s t hacc _ hw A B M n dense sparse block marked op hba hbb hA hB hn hrows hcols
  have hn' : n.toNat ≤ 27 := by omega
  refine ⟨fun h hext => ?mma9, fun h hbe hM hext hK hMrows hMcols => ?mspa⟩
  case mma9 =>
    have hfmt : ((s.tileAt t a).sh.fmt != -1 || (s.tileAt t b).sh.fmt != -1) = false := by
      simp [show (s.tileAt t a).sh.fmt = -1 from hA, show (s.tileAt t b).sh.fmt = -1 from hB]
    obtain ⟨s', hexec, honly, hwords, hmarks⟩ := integer_completes (i := .mma9 gd rs q a b) (rs := rs)
      (names := [mUse a, mUse b]) (rows := A.sh.rows) (n := n.toNat) (k := A.sh.cols.toNat) (narrow := wrap 27)
      (sum := fun m j => block dense A.sh.cols.toNat m j) h rfl (by
        dsimp only
        rw [tileFault_none hfmt (badExtents_eq_false hext hn) (by simp [hba, hbb])]
        simp only [blockOf_eq]; rfl) hrows hacc hn' hw
    refine ⟨s', hexec, honly, ?_, hmarks⟩
    simpa only [block, foldl_wrap_all _ (by omega : 1 ≤ A.sh.cols.toNat)] using hwords
  case mspa =>
    have hfmt : ((s.tileAt t a).sh.fmt != -1 || (s.tileAt t b).sh.fmt != -1 || (s.tileAt t e).sh.fmt != -3) = false := by
      simp [show (s.tileAt t a).sh.fmt = -1 from hA, show (s.tileAt t b).sh.fmt = -1 from hB,
        show (s.tileAt t e).sh.fmt = -3 from hM]
    have hsize : (badExtents (3 * A.sh.cols) B.sh || decide (81 < 3 * A.sh.cols) || decide (M.sh.rows < A.sh.rows) ||
        M.sh.cols != A.sh.cols) = false := by
      simp [badExtents_eq_false hext hn, hK, hMrows, hMcols]
    obtain ⟨s', hexec, honly, hwords, hmarks⟩ := integer_completes (i := .mspa gd rs q a b e) (rs := rs)
      (names := [mUse a, mUse b, mUse e]) (rows := A.sh.rows) (n := n.toNat) (k := (3 * A.sh.cols).toNat)
      (narrow := wrap 27) (sum := fun m j => block sparse (3 * A.sh.cols).toNat m j) h rfl (by
        dsimp only
        rw [tileFault_none hfmt hsize (by simp [hba, hbb, hbe])]
        simp only [blockOf_eq]; rfl) hrows hacc hn' hw
    refine ⟨s', hexec, honly, ?_, hmarks⟩
    simpa only [block, foldl_wrap_all _ (by omega : 1 ≤ (3 * A.sh.cols).toNat)] using hwords

/-! ### The real formats (R138, R143, R144) -/

theorem TFrac.val_mul (a b : TFrac) : (a.mul b).val = a.val * b.val := by
  simp only [TFrac.val, TFrac.mul, Int.cast_mul, zpow_add₀ (by norm_num : (3 : ℚ) ≠ 0)]; ring

theorem TFrac.val_sum (l : List TFrac) : (TFrac.sum l).val = (l.map TFrac.val).sum := by
  have from_ (x : TFrac) : (l.foldl TFrac.add x).val = x.val + (l.map TFrac.val).sum := by
    induction l generalizing x with
    | nil => simp
    | cons a l ih => rw [List.foldl_cons, ih, TFrac.val_add, List.map_cons, List.sum_cons, add_assoc]
  rw [TFrac.sum, from_, TFrac.val_of_zero rfl, zero_add]

/-- The fraction that a finite word holds. -/
def RFmt.fin (f : RFmt) (w : Int) : TFrac := ⟨f.fracOf w, f.expOf w - f.frac⟩

theorem RFmt.val_fin (f : RFmt) (w : Int) : (f.fin w).val = f.value w := rfl

theorem RFmt.read_eq_fin {f : RFmt} {w : Int} (h : f.Finite w) : f.read w = .fin (f.fin w) := RFmt.read_of_finite h

/-- A block of finite inputs takes none of the special rows: the exact sum of the products is rounded once (R143, R144). -/
theorem mmafBlock_of_finite {v : Int} {ps : List (Int × Int)} (hv : tf27.Finite v)
    (hps : ∀ p ∈ ps, tf9.Finite p.1 ∧ tf9.Finite p.2) : mmafBlock v ps =
      let r := tf27.rounded (TFrac.sum (tf27.fin v :: ps.map fun p => (tf9.fin p.1).mul (tf9.fin p.2)))
      (r.1, false, r.2) := by
  have hxs : (ps.map fun p => (tf9.read p.1, tf9.read p.2)) =
      ps.map fun p => (RVal.fin (tf9.fin p.1), RVal.fin (tf9.fin p.2)) :=
    List.map_congr_left fun p hp => by rw [RFmt.read_eq_fin (hps p hp).1, RFmt.read_eq_fin (hps p hp).2]
  have hfin : finites (RVal.fin (tf27.fin v) :: ps.map fun p => RVal.fin ((tf9.fin p.1).mul (tf9.fin p.2))) =
      tf27.fin v :: ps.map fun p => (tf9.fin p.1).mul (tf9.fin p.2) := by
    simp [finites, List.filterMap_map]
  have hnone : (RVal.fin (tf27.fin v) :: ps.map fun p => RVal.fin ((tf9.fin p.1).mul (tf9.fin p.2))).find? RVal.isInf =
      none := by
    simp [List.find?_eq_none, RVal.isInf]
  simp only [mmafBlock, hxs, RFmt.read_eq_fin hv, List.map_map, Function.comp_def, RVal.times, hnone, hfin]
  simp [RVal.isInf, RVal.isNan, zeroTimesInf]

theorem mmafBlock_rounds {v : Int} {ps : List (Int × Int)} (hv : tf27.Finite v)
    (hps : ∀ p ∈ ps, tf9.Finite p.1 ∧ tf9.Finite p.2) : (mmafBlock v ps).2.1 = false ∧ tf27.RoundsTo
      ((tf27.value v + (ps.map fun p => tf9.value p.1 * tf9.value p.2).sum : ℚ) : ℝ)
      ((mmafBlock v ps).1, (mmafBlock v ps).2.2) := by
  have h := tf27.roundsTo_rounded sane_tf27
    (TFrac.sum (tf27.fin v :: ps.map fun p => (tf9.fin p.1).mul (tf9.fin p.2)))
  rw [TFrac.val_sum, List.map_cons, List.sum_cons, List.map_map] at h
  simp only [Function.comp_def, TFrac.val_mul, RFmt.val_fin] at h
  rw [mmafBlock_of_finite hv hps]
  exact ⟨rfl, h⟩

theorem mmafBlock_fits (v : Int) (ps : List (Int × Int)) : (mmafBlock v ps).2.1 = false := by
  unfold mmafBlock
  dsimp only
  split
  · rfl
  · split
    · rfl
    · split <;> rfl

theorem mbsBlock_fits (v n sa sb : Int) : (mbsBlock v n sa sb).2.1 = false := by
  unfold mbsBlock; split <;> rfl

theorem val_scaleOf (w : Int) : (scaleOf w).val = (243 + trits w 4 0) * 3 ^ (trits w 8 5 - 5) := by
  simp [TFrac.val, scaleOf]

theorem mbsBlock_rounds {v : Int} (hv : tf27.Finite v) (n sa sb : Int) : tf27.RoundsTo
    ((tf27.value v + n * (scaleOf sa).val * (scaleOf sb).val : ℚ) : ℝ) ((mbsBlock v n sa sb).1, (mbsBlock v n sa sb).2.2) := by
  have h := tf27.roundsTo_rounded sane_tf27
    ((tf27.fin v).add ((TFrac.mul ⟨n, 0⟩ (scaleOf sa)).mul (scaleOf sb)))
  have hn : (TFrac.mk n 0).val = n := by simp [TFrac.val]
  rw [TFrac.val_add, TFrac.val_mul, TFrac.val_mul, RFmt.val_fin, hn] at h
  simpa only [mbsBlock, RFmt.read_eq_fin hv] using h

section Real

variable {s : State} {gd : Guard} {uses names : List RegUse} {t : Thread} {i : Instr} {rs : Trit} {q n k : Nat}
  {rows : Int} {F : Thread → State → Except Cause State} {f : Nat → Nat → Int → Int × Bool × RealFlags}

/-- An operation of a real format: each element takes the blocks in order, no row is marked, and the flags of every block of
every element are set as it completes (R143, R146). -/
theorem real_completes (h : s.Alone gd uses t) (he : exec i s = s.lanes gd uses F)
    (hF : F t s = .ok (matrixLane true rs q names t s rows n k f)) (hf : ∀ b j v, (f b j v).2.1 = false)
    (hrows : t.lane < rows) (hacc : s.HasAcc t q) (hn : n ≤ 27) (hw : Memory.wf (s.accAt t q).data = true) :
    ∃ s' fl, exec i s = .next (s'.becomes t (t.begin (matrixOp s t rs q names true fl)).advance) ∧
      (s.OnlyAcc s' t q ∧ AccRowPut (s.accAt t q) (s'.accAt t q) t.lane n fun j x =>
        (List.range ((k + 26) / 27)).foldl (fun v b => (f b j v).1) x) ∧
      (s'.accAt t q).rovf = (s.accAt t q).rovf ∧
      ∀ p ∈ [RealFlags.inv, RealFlags.ofl, RealFlags.ufl, RealFlags.inx], p fl = true ↔
        ∃ j < n, ∃ m < (k + 26) / 27,
          p (f m j ((List.range m).foldl (fun v b => (f b j v).1) ((s.accAt t q).word t.lane j))).2.2 = true := by
  obtain ⟨s', hexec, honly, hat⟩ := matrix_completes h he hF hrows hacc
  obtain ⟨-, words, -, flags⟩ := rowPut_updateRow (i := t.lane) (f := f) hn k hw
  refine ⟨s', _, hexec, ⟨honly, ?_⟩, by rw [hat, updateRow_rovf hf], fun p hp => (flags p hp).trans ?_⟩
  · intro r j hj
    rw [hat, words r j hj]
    by_cases hr : r = t.lane
    · subst hr; rfl
    · simp [hr]
  · have hclear : ¬ p RealFlags.clear = true := by
      simp only [List.mem_cons, List.not_mem_nil, or_false] at hp
      obtain rfl | rfl | rfl | rfl := hp <;> simp [RealFlags.clear]
    exact or_iff_right hclear

end Real

/-- Settles O27: the blocks by their exact sums, and each operation by its blocks in order. -/
theorem blockMatrixResults : Obligations.BlockMatrixResults := by
  unfold Obligations.BlockMatrixResults
  refine ⟨fun v ps hv hps => mmafBlock_rounds hv hps, fun v n sa sb hv => ?scales, ?instructions⟩
  case scales =>
    have h := mbsBlock_rounds hv n sa sb
    rw [val_scaleOf, val_scaleOf] at h
    exact ⟨mbsBlock_fits v n sa sb, h⟩
  case instructions =>
    intro gd rs q a b e s t hacc _ hw A B E k n op block blocks all word row saturates rounds hba hbb hn hrows hext
    have hn' : n.toNat ≤ 27 := by omega
    have hsize := badExtents_eq_false hext hn
    have held : (s.boarded t a || s.boarded t b) = false := by simp [hba, hbb]
    refine ⟨fun h hA hB => ?w3, fun h hbe hA hB hE hErows hEcols => ?w6, fun h hA hB => ?mmaf,
      fun h hbe hA hB hE hErows hEblocks hEcols => ?mbs⟩
    case w3 =>
      have hfmt : (A.sh.fmt != -1 || B.sh.fmt != 3 || false) = false := by simp [hA, hB]
      obtain ⟨s', hexec, honly, hwords, hmarks⟩ := integer_completes (i := .mshaW3 gd rs q a b) (rs := rs)
        (names := [mUse a, mUse b]) (rows := A.sh.rows) (n := n.toNat) (k := k) (narrow := sat 27)
        (sum := fun m j => ((block m).map fun i => A.elem t.lane i * termOf (B.elem i j)).sum) h rfl (by
          delta mshaLane
          dsimp only [Option.map_none]
          rw [tileFault_none hfmt (by simpa using hsize) (by simpa using held)]
          simp only [blockOf_eq, add_zero]; rfl) hrows hacc hn' hw
      exact ⟨s', hexec, ⟨honly, hwords⟩, hmarks⟩
    case w6 =>
      have hfmt : (A.sh.fmt != -1 || B.sh.fmt != 3 || E.sh.fmt != 3) = false := by simp [hA, hB, hE]
      have hsize' : (badExtents A.sh.cols B.sh || (E.sh.rows != A.sh.cols || E.sh.cols != B.sh.cols)) = false := by
        simp [hsize, hErows, hEcols]
      obtain ⟨s', hexec, honly, hwords, hmarks⟩ := integer_completes (i := .mshaW6 gd rs q a b e) (rs := rs)
        (names := [mUse a, mUse b, mUse e]) (rows := A.sh.rows) (n := n.toNat) (k := k) (narrow := sat 27)
        (sum := fun m j => ((block m).map fun i => A.elem t.lane i * (termOf (B.elem i j) + termOf (E.elem i j))).sum)
        h rfl (by
          delta mshaLane
          dsimp only [Option.map_some]
          rw [tileFault_none hfmt hsize' (by simp [hba, hbb, hbe])]
          simp only [blockOf_eq]; rfl) hrows hacc hn' hw
      exact ⟨s', hexec, ⟨honly, hwords⟩, hmarks⟩
    case mmaf =>
      have hfmt : (A.sh.fmt != -2 || B.sh.fmt != -2) = false := by simp [hA, hB]
      exact real_completes (i := .mmaf gd rs q a b) (f := fun b j v =>
          mmafBlock v ((block b).map fun i => (A.elem t.lane i, B.elem i j))) h rfl (by
        dsimp only
        rw [tileFault_none hfmt hsize held]
        simp only [blockOf_eq]; rfl) (fun _ _ _ => mmafBlock_fits _ _) hrows hacc hn' hw
    case mbs =>
      have hfmt : (A.sh.fmt != -1 || B.sh.fmt != -1 || E.sh.fmt != 4) = false := by simp [hA, hB, hE]
      have hsize' : (badExtents A.sh.cols B.sh || decide (E.sh.rows < max A.sh.rows ((A.sh.cols + 26) / 27)) ||
          decide (E.sh.cols < 3 + B.sh.cols)) = false := by
        simp [hsize, hErows, hEblocks, hEcols]
      exact real_completes (i := .mbs gd rs q a b e) (f := fun b j v =>
          mbsBlock v ((block b).map fun i => A.elem t.lane i * B.elem i j).sum (E.elem t.lane b) (E.elem b (3 + j))) h rfl (by
        dsimp only
        rw [tileFault_none hfmt hsize' (by simp [hba, hbb, hbe])]
        simp only [blockOf_eq]; rfl) (fun _ _ _ => mbsBlock_fits _ _ _ _) hrows hacc hn' hw

end Sys2Proof.Machine

/-!
SUPPORT. Rounding of a real number: it is that of a fraction near to it where no value at which rounding parts lies between
the two (R135, R136, R152).
-/

namespace Sys2Proof.Machine

/-! ### The nearer of two values -/

/-- y is nearer to x than z, or as near and no smaller in magnitude. -/
def NearerTo (x y z : ℝ) : Prop := |y - x| < |z - x| ∨ |y - x| = |z - x| ∧ |z| ≤ |y|

theorem nearer_iff_nearerTo {x y z : ℚ} : Nearer x y z ↔ NearerTo x y z := by
  unfold Nearer NearerTo; exact_mod_cast Iff.rfl

theorem abs_sub_lt_abs_sub_iff {x y z : ℝ} :
    |y - x| < |z - x| ↔ y < z ∧ 2 * x < y + z ∨ z < y ∧ y + z < 2 * x := by
  rw [← sq_lt_sq, ← sub_pos, show (z - x) ^ 2 - (y - x) ^ 2 = (z - y) * (y + z - 2 * x) by ring, mul_pos_iff]
  simp only [sub_pos, sub_neg]

theorem abs_sub_eq_abs_sub_iff {x y z : ℝ} : |y - x| = |z - x| ↔ y = z ∨ y + z = 2 * x := by
  rw [abs_eq_abs, sub_left_inj, neg_sub, sub_eq_sub_iff_add_eq_add, two_mul, eq_comm (a := y + z)]

/-- Which value is nearer depends only on which side of half way a number lies. -/
theorem NearerTo.congr {a x y z : ℝ} (h : NearerTo a y z) (hlt : 2 * a < y + z ↔ 2 * x < y + z)
    (hgt : y + z < 2 * a ↔ y + z < 2 * x) : NearerTo x y z := by
  have heq : y + z = 2 * a ↔ y + z = 2 * x := by
    rw [eq_iff_le_not_lt, eq_iff_le_not_lt, ← not_lt, ← not_lt, hlt, hgt]
  unfold NearerTo at h ⊢
  rwa [abs_sub_lt_abs_sub_iff, abs_sub_eq_abs_sub_iff, hlt, hgt, heq, ← abs_sub_lt_abs_sub_iff,
    ← abs_sub_eq_abs_sub_iff] at h

/-- No multiple of g parts two numbers. -/
def SameSide (g a x : ℝ) : Prop := ∀ m : ℤ, (m * g < a ↔ m * g < x) ∧ (a < m * g ↔ x < m * g)

section Round

variable {f : RFmt} {x : TFrac} {X : ℝ}

/-- The smallest normal value of a format (R131). -/
def RFmt.least (f : RFmt) : ℚ := f.minF * 3 ^ (-f.lim - f.frac)

/-- A real number rounds as a fraction does to whose rounded value it is nearest, if both are exact or not, tiny or not, and
of one sign. -/
theorem RFmt.roundsTo_of_nearest (hf : f.Sane) (hx : x.n ≠ 0)
    (near : ∀ F e : ℤ, |F| ≤ f.maxF → -f.lim ≤ e → NearerTo X (f.outVal x) (F * 3 ^ (e - f.frac)))
    (exact_ : f.outVal x = x.val ↔ (f.outVal x : ℝ) = X) (tiny : |x.val| < f.least ↔ |X| < f.least)
    (neg : x.val < 0 ↔ X < 0) : f.RoundsTo X (f.rounded x) := by
  obtain ⟨he, hF, hn⟩ := f.out_onGrid hf hx
  have big : f.lim - 1 < f.outExp x ↔ (f.maxF : ℝ) * 3 ^ (f.lim - 1 - f.frac) < |(f.outVal x : ℝ)| := by
    rw [f.outExp_big_iff hf hx, ← Rat.cast_lt (K := ℝ)]; push_cast; rfl
  have least : ((f.least : ℚ) : ℝ) = f.minF * 3 ^ (-f.lim - f.frac) := by rw [RFmt.least]; push_cast; rfl
  have htiny := (f.tiny_iff hf hx).trans tiny
  have hcuts := (f.cuts_iff_outVal_ne hf hx).trans exact_.not
  rw [least] at htiny
  refine ⟨f.outVal x, ⟨f.outFrac x, f.outExp x, hF, he, by rw [RFmt.outVal]; push_cast; rfl⟩, ?_, ?_⟩
  · rintro z ⟨F, e, hF, he, rfl⟩
    exact near F e hF he
  rw [f.rounded_eq hf hx]
  by_cases hb : f.lim - 1 < f.outExp x
  · have hbig := big.1 hb
    have hchanged (ht : |X| < f.minF * 3 ^ (-f.lim - f.frac)) : (f.outVal x : ℝ) ≠ X := by
      rintro rfl
      have hle : (f.minF : ℝ) * 3 ^ (-f.lim - f.frac) ≤ f.maxF * 3 ^ (f.lim - 1 - f.frac) := by
        have h := f.minF_bound_le_maxF_bound hf
        rw [← Rat.cast_le (K := ℝ)] at h
        push_cast at h; exact h
      exact absurd hbig (not_lt.2 (ht.le.trans hle))
    rw [if_pos hb]
    exact ⟨rfl, iff_of_true rfl (.inr hbig), iff_of_true rfl hbig,
      htiny.trans ⟨fun ht => ⟨hchanged ht, ht⟩, And.right⟩,
      fun _ => congrArg f.inf (decide_eq_decide.2 (x.val_neg_iff.symm.trans neg)), fun h => absurd hbig h⟩
  · have hnb := big.not.1 hb
    obtain ⟨h1, h2, h3, h4⟩ := f.word_of_onGrid hf hF he (by omega) hn
    rw [if_neg hb]
    refine ⟨rfl, hcuts.trans (by simp [hnb]), iff_of_false (by simp) hnb, ?_, fun h => absurd h hnb,
      fun _ => ⟨h1, h2, h3, by rw [h4, RFmt.outVal]⟩⟩
    rw [Bool.and_eq_true, htiny, hcuts, and_comm]

/-- The grain of a fraction: every grid value near to it is a multiple, and every value at which rounding parts a multiple of
half of it. -/
noncomputable def RFmt.grain (f : RFmt) (P : ℤ) : ℝ := 3 ^ (P - 2 - f.frac)

theorem RFmt.minF_le_maxF (hf : f.Sane) : f.minF ≤ f.maxF := by
  have := f.two_minF; have := f.two_maxF hf; have := f.half_pos; omega

theorem RFmt.grain_pos (f : RFmt) (P : ℤ) : 0 < f.grain P := by unfold RFmt.grain; positivity

/-- A grid value of an exponent that is not far below is a multiple of the grain. -/
theorem RFmt.multiple_of_grain (f : RFmt) {P e : ℤ} (h : P - 2 ≤ e) (F : ℤ) :
    ∃ m : ℤ, (F : ℝ) * 3 ^ (e - f.frac) = m * f.grain P := by
  obtain ⟨j, hj⟩ := Int.le.dest h
  refine ⟨F * 3 ^ j, ?_⟩
  rw [RFmt.grain, show e - f.frac = j + (P - 2 - f.frac) by omega, zpow_add₀ (by norm_num), zpow_natCast]
  push_cast; ring

/-- A grid value of an exponent far below is smaller than the smallest fraction at that of the grain. -/
theorem RFmt.abs_lt_of_far_below (hf : f.Sane) {P F e : ℤ} (hF : |F| ≤ f.maxF) (h : e < P - 2) :
    |(F : ℝ) * 3 ^ (e - f.frac)| < f.minF * f.grain P := by
  have hpos : (0 : ℝ) < 3 ^ (e - f.frac) := by positivity
  have hmax : |F| < 3 * f.minF := by
    have := f.two_minF; have := f.two_maxF hf; omega
  have hmax : |(F : ℝ)| < 3 * f.minF := by exact_mod_cast hmax
  have hmin : (0 : ℝ) < f.minF := by exact_mod_cast f.minF_pos
  have hexp : 3 * (3 : ℝ) ^ (e - f.frac) ≤ f.grain P := by
    rw [RFmt.grain, mul_comm, ← zpow_add_one₀ (by norm_num)]
    exact zpow_le_zpow_right₀ (by norm_num) (by omega)
  calc |(F : ℝ) * 3 ^ (e - f.frac)| = |(F : ℝ)| * 3 ^ (e - f.frac) := by rw [abs_mul, abs_of_pos hpos]
    _ < 3 * f.minF * 3 ^ (e - f.frac) := by gcongr
    _ = f.minF * (3 * 3 ^ (e - f.frac)) := by ring
    _ ≤ f.minF * f.grain P := by gcongr

/-- What rounding gives is larger than the smallest fraction at the exponent of the grain, where that is no lowest one. -/
theorem RFmt.lt_abs_outVal (hf : f.Sane) (hx : x.n ≠ 0) {P : ℤ} (hP : P ≤ f.place x) (hlow : -f.lim < P - 2) :
    f.minF * f.grain P < |(f.outVal x : ℝ)| := by
  obtain ⟨-, -, hn⟩ := f.out_onGrid hf hx
  have hexp : P - 1 ≤ f.outExp x := by unfold RFmt.outExp; split <;> omega
  have hpos : (0 : ℝ) < 3 ^ (f.outExp x - f.frac) := by positivity
  have hmin0 : (0 : ℝ) < f.minF := by exact_mod_cast f.minF_pos
  have hmin : f.minF ≤ |f.outFrac x| := by omega
  have hmin : (f.minF : ℝ) ≤ |(f.outFrac x : ℝ)| := by exact_mod_cast hmin
  have hlt : f.grain P < 3 ^ (f.outExp x - f.frac) := zpow_lt_zpow_right₀ (by norm_num) (by omega)
  have hval : |(f.outVal x : ℝ)| = |(f.outFrac x : ℝ)| * 3 ^ (f.outExp x - f.frac) := by
    rw [RFmt.outVal]; push_cast; rw [abs_mul, abs_of_pos hpos]
  rw [hval]
  calc (f.minF : ℝ) * f.grain P < f.minF * 3 ^ (f.outExp x - f.frac) := by gcongr
    _ ≤ _ := by gcongr

/-- So is the fraction itself. -/
theorem RFmt.lt_abs_val (hf : f.Sane) (hx : x.n ≠ 0) {P : ℤ} (hP : P ≤ f.place x) (hlow : -f.lim < P - 2) :
    f.minF * f.grain P < |(x.val : ℝ)| := by
  have h : ((f.half : ℚ) * f.ulp x : ℝ) < 2 * |(x.val : ℝ)| := by exact_mod_cast f.ulp_lt_two_abs_val hf hx (by omega)
  have hmin : (2 * f.minF : ℝ) = f.half + 1 := by exact_mod_cast f.two_minF
  have hhalf : (1 : ℝ) ≤ f.half := by exact_mod_cast f.half_pos
  have hg := f.grain_pos P
  have hulp : 9 * f.grain P ≤ (f.ulp x : ℝ) := by
    rw [RFmt.grain, RFmt.ulp, show (9 : ℝ) = 3 ^ (2 : ℤ) by norm_num, ← zpow_add₀ (by norm_num)]
    push_cast
    exact zpow_le_zpow_right₀ (by norm_num) (by omega)
  push_cast at h
  nlinarith

theorem SameSide.two_mul {g a X : ℝ} (h : SameSide (g / 2) a X) (m : ℤ) :
    (2 * a < m * g ↔ 2 * X < m * g) ∧ (m * g < 2 * a ↔ m * g < 2 * X) := by
  have hhalf (y : ℝ) : (2 * y < m * g ↔ y < m * (g / 2)) ∧ (m * g < 2 * y ↔ m * (g / 2) < y) :=
    ⟨by constructor <;> intro <;> linarith, by constructor <;> intro <;> linarith⟩
  rw [(hhalf a).1, (hhalf a).2, (hhalf X).1, (hhalf X).2]
  exact ⟨(h m).2, (h m).1⟩

theorem SameSide.multiple {g a X : ℝ} (h : SameSide (g / 2) a X) (m : ℤ) :
    (m * g < a ↔ m * g < X) ∧ (a < m * g ↔ X < m * g) := by
  have hm := h (2 * m)
  rwa [show ((2 * m : ℤ) : ℝ) * (g / 2) = m * g by push_cast; ring] at hm

/-- What rounding gives is a multiple of the grain. -/
theorem RFmt.outVal_multiple (f : RFmt) {P : ℤ} (hP : P ≤ f.place x) : ∃ m : ℤ, (f.outVal x : ℝ) = m * f.grain P := by
  have hexp : P - 2 ≤ f.outExp x := by unfold RFmt.outExp; split <;> omega
  obtain ⟨m, hm⟩ := f.multiple_of_grain hexp (f.outFrac x)
  exact ⟨m, by rw [RFmt.outVal, ← hm]; push_cast; rfl⟩

/-- A number is nearest to what a fraction rounds to where no multiple of half the grain parts them. -/
theorem RFmt.nearest_of_sameSide (hf : f.Sane) (hx : x.n ≠ 0) {P : ℤ} (hP : P ≤ f.place x)
    (h : SameSide (f.grain P / 2) x.val X) {F e : ℤ} (hF : |F| ≤ f.maxF) (he : -f.lim ≤ e) :
    NearerTo X (f.outVal x) (F * 3 ^ (e - f.frac)) := by
  have near (F e : ℤ) (hF : |F| ≤ f.maxF) (he : -f.lim ≤ e) :
      NearerTo x.val (f.outVal x) (F * 3 ^ (e - f.frac)) := by
    have h := nearer_iff_nearerTo.1 (f.outVal_nearest hf hx hF he)
    push_cast at h; exact h
  obtain ⟨y, hy⟩ := f.outVal_multiple hP
  have transfer (z : ℤ) (hz : NearerTo x.val (f.outVal x) (z * f.grain P)) : NearerTo X (f.outVal x) (z * f.grain P) := by
    have hsum : (f.outVal x : ℝ) + z * f.grain P = ((y + z : ℤ) : ℝ) * f.grain P := by rw [hy]; push_cast; ring
    exact hz.congr (by rw [hsum]; exact (h.two_mul _).1) (by rw [hsum]; exact (h.two_mul _).2)
  by_cases hlow : P - 2 ≤ e
  · obtain ⟨z, hz⟩ := f.multiple_of_grain hlow F
    rw [hz]
    exact transfer z (hz ▸ near F e hF he)
  · have hfar := abs_lt.1 (f.abs_lt_of_far_below hf hF (not_le.1 hlow))
    have hlarge := f.lt_abs_outVal hf hx hP (by omega)
    have hmin := f.minF_le_maxF hf
    have hbetween (σ : ℤ) (hσ : |σ| = 1) : NearerTo X (f.outVal x) ((σ * f.minF : ℤ) * f.grain P) :=
      transfer _ (near (σ * f.minF) (P - 2) (by rwa [abs_mul, hσ, one_mul, abs_of_pos f.minF_pos]) (by omega))
    refine .inl (abs_sub_lt_abs_sub_iff.2 ?_)
    obtain hpos | hneg := lt_abs.1 hlarge
    · have h1 := hbetween 1 rfl
      rw [one_mul] at h1
      refine .inr ⟨by linarith, ?_⟩
      obtain h1 | ⟨h1, -⟩ := h1
      · obtain ⟨h2, -⟩ | ⟨-, h2⟩ := abs_sub_lt_abs_sub_iff.1 h1 <;> linarith
      · obtain h2 | h2 := abs_sub_eq_abs_sub_iff.1 h1 <;> linarith
    · have h1 := hbetween (-1) rfl
      rw [show (((-1 * f.minF : ℤ) : ℝ)) * f.grain P = -(f.minF * f.grain P) by push_cast; ring] at h1
      refine .inl ⟨by linarith, ?_⟩
      obtain h1 | ⟨h1, -⟩ := h1
      · obtain ⟨-, h2⟩ | ⟨h2, -⟩ := abs_sub_lt_abs_sub_iff.1 h1 <;> linarith
      · obtain h2 | h2 := abs_sub_eq_abs_sub_iff.1 h1 <;> linarith

/-- The magnitudes of two numbers that no multiple of g parts lie on the same side of a multiple. -/
theorem SameSide.abs_lt_iff {g a X : ℝ} (h : SameSide (g / 2) a X) (m : ℤ) : |a| < m * g ↔ |X| < m * g := by
  have hneg := h.multiple (-m)
  rw [show ((-m : ℤ) : ℝ) * g = -(m * g) by push_cast; ring] at hneg
  rw [abs_lt, abs_lt, hneg.1, (h.multiple m).2]

/-- A real number rounds as a fraction where no multiple of half the grain parts them. -/
theorem RFmt.roundsTo_of_sameSide (hf : f.Sane) (hx : x.n ≠ 0) {P : ℤ} (hP : P ≤ f.place x)
    (h : SameSide (f.grain P / 2) x.val X) : f.RoundsTo X (f.rounded x) := by
  refine f.roundsTo_of_nearest hf hx (fun F e hF he => f.nearest_of_sameSide hf hx hP h hF he) ?exact ?tiny ?neg
  case exact =>
    obtain ⟨y, hy⟩ := f.outVal_multiple hP
    have hm := h.multiple y
    rw [← hy] at hm
    rw [← Rat.cast_inj (α := ℝ), eq_iff_le_not_lt, eq_iff_le_not_lt, ← not_lt, ← not_lt, hm.1, hm.2]
  case tiny =>
    have hcast : |x.val| < f.least ↔ |(x.val : ℝ)| < (f.least : ℚ) := by exact_mod_cast Iff.rfl
    have hleast : ((f.least : ℚ) : ℝ) = f.minF * 3 ^ (-f.lim - f.frac) := by rw [RFmt.least]; push_cast; rfl
    rw [hcast]
    by_cases hlow : P - 2 ≤ -f.lim
    · obtain ⟨m, hm⟩ := f.multiple_of_grain hlow f.minF
      rw [hleast, hm]
      exact h.abs_lt_iff m
    · have hx' := f.lt_abs_val hf hx hP (not_le.1 hlow)
      have hX : f.minF * f.grain P ≤ |X| := not_lt.1 ((h.abs_lt_iff f.minF).not.1 (not_lt.2 hx'.le))
      have hmin : (0 : ℝ) < f.minF := by exact_mod_cast f.minF_pos
      have hle : ((f.least : ℚ) : ℝ) ≤ f.minF * f.grain P := by
        rw [hleast]
        exact mul_le_mul_of_nonneg_left (zpow_le_zpow_right₀ (by norm_num) (by omega)) hmin.le
      exact iff_of_false (not_lt.2 (hle.trans hx'.le)) (not_lt.2 (hle.trans hX))
  case neg =>
    have h0 := (h 0).2
    rw [Int.cast_zero, zero_mul] at h0
    rw [← h0]; exact_mod_cast Iff.rfl

end Round

end Sys2Proof.Machine

/-!
SUPPORT. FRCP and FRSQ: the quotient and the root of integers stand for 1/x and 1/√x, since both values lie on one side of
every value at which rounding parts, or are half of a power of three (R152, R158).
-/

namespace Sys2Proof.Machine

/-! ### Halves of a power of three -/

section HalfPower

variable {f : RFmt} {x : TFrac} {X : ℝ} {J : ℤ}

theorem RFmt.maxF_nonneg (f : RFmt) : 0 ≤ f.maxF := maxTrits_nonneg f.frac

theorem RFmt.half_odd (f : RFmt) (m : ℤ) : 2 * m ≠ f.half := by
  have := two_maxTrits (f.frac - 1)
  unfold RFmt.half; omega

/-- A power of three by the units of the fraction at its exponent. -/
theorem RFmt.three_pow_eq (hf : f.Sane) (J : ℤ) : (3 : ℝ) ^ J = 3 * f.half * 3 ^ (J - f.frac) := by
  have h : (((3 * f.half * 3 ^ (J - f.frac) : ℚ)) : ℝ) = ((3 ^ J : ℚ) : ℝ) := congrArg _ (f.three_mul_half_mul hf J)
  push_cast at h
  exact h.symm

/-- Half of a power of three lies half a unit above the largest fraction at its exponent, and a unit or more from every other
grid value. -/
theorem RFmt.far_from_half_power (hf : f.Sane) (J : ℤ) {F e : ℤ} (hF : |F| ≤ f.maxF) :
    (F : ℝ) * 3 ^ (e - f.frac) = f.maxF * 3 ^ (J - f.frac) ∨
      3 ^ (J - f.frac) ≤ |(F : ℝ) * 3 ^ (e - f.frac) - 3 ^ J / 2| := by
  have hv : (0 : ℝ) < 3 ^ (J - f.frac) := by positivity
  have hmax : (2 * f.maxF : ℝ) = 3 * f.half - 1 := by exact_mod_cast f.two_maxF hf
  have hhalf : (1 : ℝ) ≤ f.half := by exact_mod_cast f.half_pos
  rw [f.three_pow_eq hf J]
  obtain he | rfl | he := lt_trichotomy e J
  · right
    have hpos : (0 : ℝ) < 3 ^ (e - f.frac) := by positivity
    have hF : (F : ℝ) ≤ f.maxF := by exact_mod_cast (le_abs_self F).trans hF
    have hexp : 3 * (3 : ℝ) ^ (e - f.frac) ≤ 3 ^ (J - f.frac) := by
      rw [mul_comm, ← zpow_add_one₀ (by norm_num)]
      exact zpow_le_zpow_right₀ (by norm_num) (by omega)
    have hz : (F : ℝ) * 3 ^ (e - f.frac) ≤ f.maxF * 3 ^ (e - f.frac) := by gcongr
    rw [abs_sub_comm]
    refine le_trans ?_ (le_abs_self _)
    nlinarith
  · by_cases hFm : F = f.maxF
    · left; rw [hFm]
    · right
      have hF : F ≤ f.maxF - 1 := by have := le_abs_self F; omega
      have hF : (F : ℝ) ≤ f.maxF - 1 := by exact_mod_cast hF
      rw [abs_sub_comm]
      refine le_trans ?_ (le_abs_self _)
      nlinarith
  · right
    obtain ⟨j, hj⟩ : ∃ j : ℕ, e - f.frac = (J - f.frac) + 1 + j := ⟨(e - J - 1).toNat, by omega⟩
    have hodd : 1 ≤ |2 * (F * 3 ^ j) - f.half| := Int.one_le_abs (sub_ne_zero.2 (f.half_odd _))
    have hodd : (1 : ℝ) ≤ |2 * ((F : ℝ) * 3 ^ j) - f.half| := by exact_mod_cast hodd
    have hsplit : (F : ℝ) * 3 ^ (e - f.frac) - 3 * f.half * 3 ^ (J - f.frac) / 2 =
        (2 * (F * 3 ^ j) - f.half) * (3 / 2 * 3 ^ (J - f.frac)) := by
      rw [hj, zpow_add₀ (by norm_num), zpow_add₀ (by norm_num), zpow_natCast, zpow_one]; ring
    rw [hsplit, abs_mul, abs_of_pos (by positivity : (0 : ℝ) < 3 / 2 * 3 ^ (J - f.frac))]
    nlinarith

/-- Half of a power of three rounds as every fraction that is near to it. -/
theorem RFmt.roundsTo_half_power (hf : f.Sane) (hx : x.n ≠ 0) {σ : ℤ} (hσ : σ = 1 ∨ σ = -1) (hJ : -f.lim < J)
    (hX : X = σ * (3 ^ J / 2)) (hnear : |X - x.val| < 3 ^ (J - f.frac) / 8) : f.RoundsTo X (f.rounded x) := by
  have hv : (0 : ℝ) < 3 ^ (J - f.frac) := by positivity
  have hmax : (2 * f.maxF : ℝ) = 3 * f.half - 1 := by exact_mod_cast f.two_maxF hf
  have hhalf : (1 : ℝ) ≤ f.half := by exact_mod_cast f.half_pos
  have habs : |σ| = 1 := by obtain rfl | rfl := hσ <;> rfl
  have hmaxF : |σ * f.maxF| ≤ f.maxF := by
    rw [abs_mul, habs, one_mul, abs_of_nonneg f.maxF_nonneg]
  have hdist (z : ℝ) : |z - X| = |σ * z - 3 ^ J / 2| := by
    obtain rfl | rfl := hσ
    · rw [hX]; norm_num
    · rw [hX, ← abs_neg]; congr 1; push_cast; ring
  have hsq : (σ : ℝ) * σ = 1 := by obtain rfl | rfl := hσ <;> norm_num
  have htop : |σ * f.maxF * 3 ^ (J - f.frac) - X| = 3 ^ (J - f.frac) / 2 := by
    rw [hdist, show (σ : ℝ) * (σ * f.maxF * 3 ^ (J - f.frac)) = f.maxF * 3 ^ (J - f.frac) by
      rw [mul_assoc, ← mul_assoc, hsq, one_mul], f.three_pow_eq hf J, ← abs_neg, abs_of_pos]
    · linear_combination (-(3 : ℝ) ^ (J - f.frac) / 2) * hmax
    · nlinarith
  have hgrid {F e : ℤ} (hF : |F| ≤ f.maxF) : (F : ℝ) * 3 ^ (e - f.frac) = σ * f.maxF * 3 ^ (J - f.frac) ∨
      3 ^ (J - f.frac) ≤ |(F : ℝ) * 3 ^ (e - f.frac) - X| := by
    have hσF : |σ * F| ≤ f.maxF := by rwa [abs_mul, habs, one_mul]
    refine (f.far_from_half_power hf J (e := e) hσF).imp (fun h => ?_) fun h => ?_
    · rw [Int.cast_mul] at h
      linear_combination (σ : ℝ) * h - (F : ℝ) * 3 ^ (e - f.frac) * hsq
    · rwa [hdist, ← mul_assoc, ← Int.cast_mul]
  have hout : (f.outVal x : ℝ) = σ * f.maxF * 3 ^ (J - f.frac) := by
    obtain ⟨-, hF, -⟩ := f.out_onGrid hf hx
    have hval : (f.outVal x : ℝ) = f.outFrac x * 3 ^ (f.outExp x - f.frac) := by rw [RFmt.outVal]; push_cast; rfl
    refine (hval ▸ hgrid hF).resolve_right fun hfar => ?_
    have hle : |(f.outVal x : ℝ) - x.val| ≤ |(σ : ℝ) * f.maxF * 3 ^ (J - f.frac) - x.val| := by
      have h := nearer_iff_nearerTo.1 (f.outVal_nearest hf hx hmaxF hJ.le)
      push_cast at h
      exact h.elim le_of_lt fun h => h.1.le
    have h1 := abs_sub_le (f.outVal x : ℝ) x.val X
    have h2 := abs_sub_le ((σ : ℝ) * f.maxF * 3 ^ (J - f.frac)) X x.val
    rw [abs_sub_comm (x.val : ℝ) X] at h1
    linarith
  have hne : (f.outVal x : ℝ) ≠ X := by
    intro h
    rw [← hout, h, sub_self, abs_zero] at htop
    linarith
  have hneval : f.outVal x ≠ x.val := by
    intro h
    rw [← hout, h, abs_sub_comm] at htop
    linarith
  have hsize : |X| = 3 * f.half * 3 ^ (J - f.frac) / 2 := by
    rw [hX, abs_mul, show |(σ : ℝ)| = 1 by exact_mod_cast habs, one_mul, abs_of_pos (by positivity), f.three_pow_eq hf J]
  have hleast : (f.least : ℝ) ≤ 3 * f.half * 3 ^ (J - f.frac) / 2 - 3 ^ (J - f.frac) / 8 := by
    have hmin : (2 * f.minF : ℝ) = f.half + 1 := by exact_mod_cast f.two_minF
    have hexp : (3 : ℝ) * 3 ^ (-f.lim - f.frac : ℤ) ≤ 3 ^ (J - f.frac) := by
      rw [mul_comm, ← zpow_add_one₀ (by norm_num)]
      exact zpow_le_zpow_right₀ (by norm_num) (by omega)
    have hw : (0 : ℝ) < 3 ^ (-f.lim - f.frac : ℤ) := by positivity
    rw [RFmt.least]; push_cast
    nlinarith
  have hbig := abs_sub_abs_le_abs_sub X (x.val : ℝ)
  refine f.roundsTo_of_nearest hf hx (fun F e hF _ => ?near) (iff_of_false hneval hne) (iff_of_false ?tiny ?_) ?neg
  case near =>
    rw [hout]
    obtain h | h := hgrid (e := e) hF
    · rw [h]; exact .inr ⟨rfl, le_rfl⟩
    · exact .inl (by linarith)
  case tiny =>
    rw [← Rat.cast_lt (K := ℝ), Rat.cast_abs]; linarith
  case neg =>
    have hcast : x.val < 0 ↔ (x.val : ℝ) < 0 := by exact_mod_cast Iff.rfl
    have hlt := abs_lt.1 hnear
    rw [hcast]
    have hpos : (3 : ℝ) ^ (J - f.frac) / 8 < 3 ^ J / 2 := by rw [f.three_pow_eq hf J]; nlinarith
    obtain rfl | rfl := hσ
    · rw [Int.cast_one, one_mul] at hX
      exact iff_of_false (by linarith) (by linarith)
    · rw [Int.cast_neg, Int.cast_one, neg_one_mul] at hX
      exact iff_of_true (by linarith) (by linarith)
  · linarith

end HalfPower

/-! ### Values that no multiple of the grain parts -/

theorem sameSide_of_far {g a X : ℝ} (h : ∀ m : ℤ, |a - X| < |m * g - X|) : SameSide g a X := by
  intro m
  have hm := h m
  have h1 := neg_abs_le (a - X)
  have h2 := le_abs_self (a - X)
  obtain ⟨hs, e⟩ | ⟨hs, e⟩ := abs_cases ((m : ℝ) * g - X)
  · exact ⟨iff_of_false (by linarith) (by linarith), iff_of_true (by linarith) (by linarith)⟩
  · exact ⟨iff_of_true (by linarith) (by linarith), iff_of_false (by linarith) (by linarith)⟩

theorem lt_tritLen {j : ℕ} {n : ℤ} (h : 3 ^ j ≤ 2 * |n|) : j < tritLen n :=
  (Nat.pow_lt_pow_iff_right (by norm_num : 1 < 3)).1 (by exact_mod_cast h.trans_lt (two_abs_lt_tritLen n))

theorem RFmt.tritLen_le_place (f : RFmt) (x : TFrac) : x.k + tritLen x.n ≤ f.place x := le_max_left _ _

/-- A multiple of half the grain, in units of a fraction of many trits. -/
theorem RFmt.grain_in_units {f : RFmt} {x : TFrac} {s : ℕ} (h : (f.place x - 2 - f.frac : ℤ) = x.k + s) (m : ℤ) :
    (m : ℝ) * (f.grain (f.place x) / 2) = m * 3 ^ s / 2 * 3 ^ x.k := by
  rw [RFmt.grain, h, zpow_add₀ (by norm_num), zpow_natCast]; ring

/-! ### FRCP -/

section Reciprocal

variable {f : RFmt} {x : TFrac}

/-- Twice the largest fraction of a format is below a power of three. -/
theorem RFmt.two_abs_lt (f : RFmt) {n : ℤ} (h : |n| ≤ f.maxF) : 2 * |n| < 3 ^ f.frac := by
  have := two_maxTrits f.frac
  unfold RFmt.maxF at h; unfold p3 at this; omega

theorem recipOf_spec (hx : x.n ≠ 0) : 2 * |3 ^ 100 - x.n * (recipOf x).n| ≤ |x.n| := (divq_spec (p3 100) hx).1

/-- 1/x in the units of its quotient. -/
theorem one_div_val (x : TFrac) : (1 : ℝ) / (x.val : ℚ) = 3 ^ 100 / x.n * 3 ^ (recipOf x).k := by
  have hk : (recipOf x).k = -(100 : ℕ) + -x.k := by simp only [recipOf]; omega
  rw [hk, zpow_add₀ (by norm_num), zpow_neg, zpow_neg, zpow_natCast, TFrac.val]
  push_cast
  field_simp

theorem recipOf_val (x : TFrac) : ((recipOf x).val : ℝ) = (recipOf x).n * 3 ^ (recipOf x).k := by
  rw [TFrac.val]; push_cast; rfl

theorem abs_recipOf_sub_le (hx : x.n ≠ 0) : |((recipOf x).val : ℝ) - 1 / (x.val : ℚ)| ≤ 3 ^ (recipOf x).k / 2 := by
  have h : 2 * |(3 : ℝ) ^ 100 - x.n * (recipOf x).n| ≤ |(x.n : ℝ)| := by exact_mod_cast recipOf_spec hx
  have hn : (0 : ℝ) < |(x.n : ℝ)| := by positivity
  have hg : (0 : ℝ) < 3 ^ (recipOf x).k := by positivity
  have hsplit : ((recipOf x).val : ℝ) - 1 / (x.val : ℚ) =
      -((3 : ℝ) ^ 100 - x.n * (recipOf x).n) / x.n * 3 ^ (recipOf x).k := by
    rw [recipOf_val, one_div_val]; field_simp; ring
  rw [hsplit, abs_mul, abs_div, abs_neg, abs_of_pos hg, div_mul_eq_mul_div, div_le_div_iff₀ hn two_pos]
  nlinarith

/-- The quotient has as many trits as the divisor leaves of 100. -/
theorem lt_tritLen_recipOf (hfrac : f.frac ≤ 21) (hx : x.n ≠ 0) (hn : |x.n| ≤ f.maxF) : 78 < tritLen (recipOf x).n := by
  have hn' := f.two_abs_lt hn
  have hpow : (3 : ℤ) ^ f.frac ≤ 3 ^ 21 := pow_le_pow_right₀ (by norm_num) hfrac
  have hq := recipOf_spec hx
  have htri := abs_sub_abs_le_abs_sub ((3 : ℤ) ^ 100) (x.n * (recipOf x).n)
  rw [abs_mul, abs_of_pos (by positivity : (0 : ℤ) < 3 ^ 100)] at htri
  refine lt_tritLen ?_
  by_contra hlt
  nlinarith [abs_nonneg x.n, abs_nonneg (recipOf x).n]

/-- FRCP of a divisor of a power of three is exact. -/
theorem recipOf_exact (hx : x.n ≠ 0) (h : x.n ∣ 3 ^ 100) : ((recipOf x).val : ℝ) = 1 / (x.val : ℚ) := by
  have hq := recipOf_spec hx
  have hpos := abs_pos.2 hx
  have h0 : 3 ^ 100 - x.n * (recipOf x).n = 0 :=
    Int.eq_zero_of_abs_lt_dvd ((abs_dvd _ _).2 (dvd_sub h (dvd_mul_right _ _))) (by omega)
  have h0 : (3 : ℝ) ^ 100 = x.n * (recipOf x).n := by exact_mod_cast sub_eq_zero.1 h0
  have hn : (x.n : ℝ) ≠ 0 := by exact_mod_cast hx
  rw [recipOf_val, one_div_val, h0, mul_div_cancel_left₀ _ hn]

/-- An odd divisor of twice a power of three is a power of three but for its sign. -/
theorem eq_three_pow_of_odd {M : ℤ} {N : ℕ} (hodd : ¬ 2 ∣ M) (h : M ∣ 2 * 3 ^ N) :
    ∃ (σ : ℤ) (i : ℕ), (σ = 1 ∨ σ = -1) ∧ M = σ * 3 ^ i := by
  have hdvd : M.natAbs ∣ 2 * 3 ^ N := by simpa [Int.natAbs_mul, Int.natAbs_pow] using Int.natAbs_dvd_natAbs.2 h
  have hcop : M.natAbs.Coprime 2 :=
    (Nat.Prime.coprime_iff_not_dvd Nat.prime_two).2 (fun h2 => hodd (Int.natCast_dvd.2 h2)) |>.symm
  obtain ⟨i, -, hi⟩ := (Nat.dvd_prime_pow Nat.prime_three).1 (hcop.dvd_of_dvd_mul_left hdvd)
  obtain hM | hM := Int.natAbs_eq M
  · exact ⟨1, i, .inl rfl, by rw [hM, hi]; push_cast; ring⟩
  · exact ⟨-1, i, .inr rfl, by rw [hM, hi]; push_cast; ring⟩

/-- FRCP where 1/x is half of a power of three. -/
theorem RFmt.roundsTo_recipOf_half_power (hf : f.Sane) (hfrac : f.frac ≤ 21) (hx : x.n ≠ 0) (hn : |x.n| ≤ f.maxF)
    (hk : x.k ≤ f.lim - 1 - f.frac) (h : x.n ∣ 2 * 3 ^ 100) (h3 : ¬ x.n ∣ 3 ^ 100) :
    f.RoundsTo (1 / (x.val : ℚ)) (f.rounded (recipOf x)) := by
  obtain ⟨M, hM⟩ := h
  have hodd : ¬ 2 ∣ M := by
    rintro ⟨c, rfl⟩
    exact h3 ⟨c, by linarith⟩
  obtain ⟨σ, i, hσ, rfl⟩ := eq_three_pow_of_odd hodd ⟨x.n, by rw [hM]; ring⟩
  have habs : |σ| = 1 := by obtain rfl | rfl := hσ <;> rfl
  have hi : 101 < i + f.frac := by
    have h1 : 2 * 3 ^ 100 = |x.n| * 3 ^ i := by
      rw [← abs_of_pos (by positivity : (0 : ℤ) < 2 * 3 ^ 100), hM, abs_mul, abs_mul, habs, one_mul,
        abs_of_pos (by positivity : (0 : ℤ) < 3 ^ i)]
    have h2 := mul_lt_mul_of_pos_right (f.two_abs_lt hn) (by positivity : (0 : ℤ) < 3 ^ i)
    rw [← pow_add] at h2
    have h3 : (3 : ℤ) ^ 101 < 3 ^ (f.frac + i) := by
      calc (3 : ℤ) ^ 101 < 2 * (2 * 3 ^ 100) := by norm_num
        _ < _ := by rw [h1]; linarith
    have := (pow_lt_pow_iff_right₀ (by norm_num : (1 : ℤ) < 3)).1 h3
    omega
  have hXn : (3 : ℝ) ^ 100 / x.n = σ * (3 ^ i / 2) := by
    have hx' : (x.n : ℝ) ≠ 0 := by exact_mod_cast hx
    have hM' : (2 : ℝ) * 3 ^ 100 = x.n * (σ * 3 ^ i) := by exact_mod_cast hM
    rw [div_eq_iff hx']; linarith
  have hXJ : (1 : ℝ) / (x.val : ℚ) = σ * (3 ^ (i + (recipOf x).k) / 2) := by
    rw [one_div_val, hXn, zpow_add₀ (by norm_num), zpow_natCast]; ring
  have hkey : (recipOf x).k = -100 - x.k := rfl
  refine f.roundsTo_half_power hf ?_ hσ (by rw [hkey]; omega) hXJ ?_
  · intro h0
    have := lt_tritLen_recipOf hfrac hx hn
    rw [h0] at this
    exact absurd this (by decide)
  · rw [abs_sub_comm]
    refine (abs_recipOf_sub_le hx).trans_lt ?_
    have h9 : (9 : ℝ) * 3 ^ (recipOf x).k ≤ 3 ^ (i + (recipOf x).k - f.frac : ℤ) := by
      rw [show (9 : ℝ) = 3 ^ (2 : ℤ) by norm_num, ← zpow_add₀ (by norm_num)]
      exact zpow_le_zpow_right₀ (by norm_num) (by omega)
    have hg : (0 : ℝ) < 3 ^ (recipOf x).k := by positivity
    linarith

/-- FRCP where 1/x is no half of a ternary fraction: no multiple of half the grain is near to it. -/
theorem RFmt.recipOf_far (hfrac : f.frac ≤ 21) (hx : x.n ≠ 0) (hn : |x.n| ≤ f.maxF) (h : ¬ x.n ∣ 2 * 3 ^ 100) (m : ℤ) :
    |((recipOf x).val : ℝ) - 1 / (x.val : ℚ)| < |m * (f.grain (f.place (recipOf x)) / 2) - 1 / (x.val : ℚ)| := by
  have hplace := f.tritLen_le_place (recipOf x)
  have hlen := lt_tritLen_recipOf hfrac hx hn
  obtain ⟨s, hs⟩ : ∃ s : ℕ, f.place (recipOf x) - 2 - f.frac = (recipOf x).k + s :=
    ⟨(f.place (recipOf x) - 2 - f.frac - (recipOf x).k).toNat, by omega⟩
  have hs22 : 22 ≤ s := by omega
  have hint : 3 ^ 22 ≤ |m * 3 ^ s * x.n - 2 * 3 ^ 100| := by
    refine Int.le_of_dvd (abs_pos.2 fun h0 => h ⟨m * 3 ^ s, by linarith⟩) ((dvd_abs _ _).2 (dvd_sub ?_ ?_))
    · exact ((pow_dvd_pow 3 hs22).mul_left m).mul_right x.n
    · exact (pow_dvd_pow 3 (by norm_num)).mul_left 2
  have hsmall : |x.n| < 3 ^ 22 := by
    have := f.two_abs_lt hn
    have hpow : (3 : ℤ) ^ f.frac ≤ 3 ^ 21 := pow_le_pow_right₀ (by norm_num) hfrac
    omega
  have hint : |(x.n : ℝ)| < |(m : ℝ) * 3 ^ s * x.n - 2 * 3 ^ 100| := by exact_mod_cast hsmall.trans_le hint
  have hnpos : (0 : ℝ) < |(x.n : ℝ)| := by positivity
  have hg : (0 : ℝ) < 3 ^ (recipOf x).k := by positivity
  have hsplit : (m : ℝ) * (f.grain (f.place (recipOf x)) / 2) - 1 / (x.val : ℚ) =
      ((m : ℝ) * 3 ^ s * x.n - 2 * 3 ^ 100) / (2 * x.n) * 3 ^ (recipOf x).k := by
    rw [f.grain_in_units hs, one_div_val]; field_simp
  refine (abs_recipOf_sub_le hx).trans_lt ?_
  rw [hsplit, abs_mul, abs_div, abs_of_pos hg, abs_mul, abs_two, div_mul_eq_mul_div, div_lt_div_iff₀ two_pos (by positivity)]
  nlinarith

/-- FRCP of a finite fraction rounds 1/x once (R152, R158). -/
theorem RFmt.roundsTo_recipOf (hf : f.Sane) (hfrac : f.frac ≤ 21) (hx : x.n ≠ 0) (hn : |x.n| ≤ f.maxF)
    (hk : x.k ≤ f.lim - 1 - f.frac) : f.RoundsTo (1 / (x.val : ℚ)) (f.rounded (recipOf x)) := by
  by_cases h3 : x.n ∣ 3 ^ 100
  · rw [← recipOf_exact hx h3]; exact f.roundsTo_rounded hf (recipOf x)
  by_cases h2 : x.n ∣ 2 * 3 ^ 100
  · exact f.roundsTo_recipOf_half_power hf hfrac hx hn hk h2 h3
  · refine f.roundsTo_of_sameSide hf ?_ le_rfl (sameSide_of_far (f.recipOf_far hfrac hx hn h2))
    intro h0
    have := lt_tritLen_recipOf hfrac hx hn
    rw [h0] at this
    exact absurd this (by decide)

end Reciprocal

/-! ### FRSQ -/

/-- The search for a root by its bits: what it finds is the root, where the bits above are its own. -/
theorem sqrtFrom_spec (n : ℕ) {b r : ℕ} (hlo : r * r ≤ n) (hhi : n < (r + 2 ^ b) * (r + 2 ^ b)) :
    sqrtFrom n b r * sqrtFrom n b r ≤ n ∧ n < (sqrtFrom n b r + 1) * (sqrtFrom n b r + 1) := by
  induction b generalizing r with
  | zero => exact ⟨hlo, by simpa [sqrtFrom] using hhi⟩
  | succ b ih =>
    rw [sqrtFrom]
    split
    · next h => exact ih h (by rw [add_assoc, ← two_mul, ← pow_succ']; exact hhi)
    · next h => exact ih hlo (not_le.1 h)

theorem isqrt_spec (n : ℕ) : isqrt n * isqrt n ≤ n ∧ n < (isqrt n + 1) * (isqrt n + 1) := by
  refine sqrtFrom_spec n (by simp) ?_
  calc n < 2 ^ (Nat.log2 n + 1) := Nat.lt_log2_self
    _ ≤ 2 ^ (2 * (Nat.log2 n / 2 + 1)) := Nat.pow_le_pow_right (by norm_num) (by omega)
    _ = _ := by rw [zero_add, two_mul, pow_add]

/-- A positive fraction as a whole number times an even power of three, and its root in units of that power. -/
theorem rsqrtOf_eq {x : TFrac} (hx : 0 < x.n) : ∃ (N : ℕ) (h : ℤ), 0 < N ∧ N ≤ 3 * x.n.natAbs ∧ 2 * h ≤ x.k ∧
    x.val = N * (3 ^ h * 3 ^ h) ∧ rsqrtOf x = ⟨isqrt (3 ^ 140 * 3 ^ 140 / N), -140 - h⟩ := by
  have hp : (p3 280).toNat = 3 ^ 140 * 3 ^ 140 := by
    rw [show (280 : ℕ) = 140 + 140 from rfl, p3_add]
    rfl
  have hcast : ((x.n.toNat : ℕ) : ℚ) = x.n := by exact_mod_cast Int.toNat_of_nonneg hx.le
  unfold rsqrtOf
  by_cases he : x.k % 2 = 0
  · refine ⟨x.n.toNat, x.k / 2, by omega, by omega, by omega, ?_, by simp only [if_pos he, hp]⟩
    rw [hcast, ← zpow_add₀ (by norm_num), TFrac.val, show x.k / 2 + x.k / 2 = x.k by omega]
  · refine ⟨(3 * x.n).toNat, (x.k - 1) / 2, by omega, by omega, by omega, ?_, by simp only [if_neg he, hp]⟩
    have h3 : (((3 * x.n).toNat : ℕ) : ℚ) = 3 * x.n := by exact_mod_cast Int.toNat_of_nonneg (by omega : 0 ≤ 3 * x.n)
    rw [h3, ← zpow_add₀ (by norm_num), TFrac.val, show (x.k - 1) / 2 + (x.k - 1) / 2 = x.k - 1 by omega,
      zpow_sub_one₀ (by norm_num)]
    field_simp

section Root

variable {f : RFmt} {N q : ℕ} {h : ℤ}

/-- 3^140 by the root of a whole number. -/
noncomputable def rootOf (N : ℕ) : ℝ := 3 ^ 140 / Real.sqrt N

theorem rootOf_pos (hN : 0 < N) : 0 < rootOf N := by
  have : (0 : ℝ) < N := by exact_mod_cast hN
  unfold rootOf; positivity

theorem rootOf_sq (hN : 0 < N) : rootOf N * rootOf N * N = 3 ^ 140 * 3 ^ 140 := by
  have hpos : (0 : ℝ) < N := by exact_mod_cast hN
  rw [rootOf, div_mul_div_comm, Real.mul_self_sqrt hpos.le, div_mul_cancel₀ _ hpos.ne']

/-- A number whose square times N is that of the root is the root. -/
theorem eq_rootOf (hN : 0 < N) {y : ℝ} (hy : 0 ≤ y) (h : y * y * N = 3 ^ 140 * 3 ^ 140) : y = rootOf N := by
  have hpos : (N : ℝ) ≠ 0 := by exact_mod_cast hN.ne'
  rw [← rootOf_sq hN] at h
  exact (mul_self_inj hy (rootOf_pos hN).le).1 (mul_right_cancel₀ hpos h)

theorem one_div_sqrt (N : ℕ) (h : ℤ) : 1 / Real.sqrt (N * (3 ^ h * 3 ^ h)) = rootOf N * 3 ^ (-140 - h) := by
  rw [Real.sqrt_mul (Nat.cast_nonneg N), Real.sqrt_mul_self (by positivity), rootOf, show -140 - h = -(140 : ℕ) + -h by
    push_cast; ring, zpow_add₀ (by norm_num), zpow_neg, zpow_neg, zpow_natCast]
  field_simp

variable (hN : 0 < N) (hlo : q * q * N ≤ 3 ^ 140 * 3 ^ 140) (hhi : 3 ^ 140 * 3 ^ 140 < (q + 1) * (q + 1) * N)
include hN hlo hhi

theorem rootOf_bounds : (q : ℝ) ≤ rootOf N ∧ rootOf N < q + 1 := by
  have hpos : (0 : ℝ) < N := by exact_mod_cast hN
  have hT := rootOf_pos hN
  have hlo' : (q * q * N : ℝ) ≤ 3 ^ 140 * 3 ^ 140 := by exact_mod_cast hlo
  have hhi' : (3 ^ 140 * 3 ^ 140 : ℝ) < (q + 1) * (q + 1) * N := by exact_mod_cast hhi
  rw [← rootOf_sq hN] at hlo' hhi'
  exact ⟨(mul_self_le_mul_self_iff (by positivity) hT.le).2 (le_of_mul_le_mul_right hlo' hpos),
    lt_of_mul_self_lt_mul_self₀ (by positivity) (lt_of_mul_lt_mul_right hhi' hpos.le)⟩

theorem abs_root_sub_lt : |((TFrac.mk q (-140 - h)).val : ℝ) - rootOf N * 3 ^ (-140 - h)| < 3 ^ (-140 - h) := by
  obtain ⟨h1, h2⟩ := rootOf_bounds hN hlo hhi
  have hg : (0 : ℝ) < 3 ^ (-140 - h) := by positivity
  have hsplit : ((TFrac.mk q (-140 - h)).val : ℝ) - rootOf N * 3 ^ (-140 - h) = (q - rootOf N) * 3 ^ (-140 - h) := by
    rw [TFrac.val]; push_cast; ring
  rw [hsplit, abs_mul, abs_of_pos hg]
  exact mul_lt_of_lt_one_left hg (abs_lt.2 ⟨by linarith, by linarith⟩)

omit hlo in
theorem lt_tritLen_root (hsmall : 2 * N < 3 ^ 22) : 129 < tritLen (q : ℤ) := by
  refine lt_tritLen ?_
  rw [Nat.abs_cast]
  by_contra hlt
  have hq : q + 1 ≤ 3 ^ 129 := by
    have : 2 * q < 3 ^ 129 := by exact_mod_cast not_le.1 hlt
    omega
  have hle : (q + 1) * (q + 1) * N ≤ 3 ^ 129 * 3 ^ 129 * 3 ^ 22 := by gcongr; omega
  exact absurd (hhi.trans_le hle) (by norm_num)

/-- FRSQ where 1/√x is half of a power of three. -/
theorem RFmt.roundsTo_root_half_power (hf : f.Sane) (hfrac : f.frac ≤ 21) (hsmall : 2 * N < 3 ^ (f.frac + 1))
    (hh : 2 * h ≤ f.lim - 1 - f.frac) {M : ℕ} (hM : M * M * N = 4 * (3 ^ 140 * 3 ^ 140)) (hodd : ¬ 2 ∣ M) :
    f.RoundsTo (rootOf N * 3 ^ (-140 - h)) (f.rounded ⟨q, -140 - h⟩) := by
  have hdvd : M ∣ 2 * 3 ^ 140 := by
    rw [← Nat.pow_dvd_pow_iff two_ne_zero, sq, sq]
    exact ⟨N, by rw [hM]; ring⟩
  obtain ⟨σ, i, hσ, hi⟩ := eq_three_pow_of_odd (M := M) (N := 140) (by exact_mod_cast hodd) (by exact_mod_cast hdvd)
  have hlim := hf.lim_pos
  have hsq : (3 : ℤ) ^ i * 3 ^ i * N = 4 * (3 ^ 140 * 3 ^ 140) := by
    have hM' : (M : ℤ) * M * N = 4 * (3 ^ 140 * 3 ^ 140) := by exact_mod_cast hM
    have hone : σ * σ = 1 := by obtain rfl | rfl := hσ <;> rfl
    rw [hi] at hM'
    linear_combination hM' - 3 ^ i * 3 ^ i * (N : ℤ) * hone
  have hbits : 281 < i + i + (f.frac + 1) := by
    refine (pow_lt_pow_iff_right₀ (by norm_num : (1 : ℤ) < 3)).1 ?_
    have hsmall' : 2 * (N : ℤ) < 3 ^ (f.frac + 1) := by exact_mod_cast hsmall
    have h1 := mul_lt_mul_of_pos_left hsmall' (by positivity : (0 : ℤ) < 3 ^ i * 3 ^ i)
    calc (3 : ℤ) ^ 281 = 3 * (3 ^ 140 * 3 ^ 140) := by rw [← pow_add, ← pow_succ']
      _ < 2 * (4 * (3 ^ 140 * 3 ^ 140)) := by norm_num
      _ = 3 ^ i * 3 ^ i * (2 * (N : ℤ)) := by rw [← hsq]; ring
      _ < _ := by rw [pow_add, pow_add]; exact h1
  have hroot : (M : ℝ) / 2 = rootOf N := by
    refine eq_rootOf hN (by positivity) ?_
    have hM' : (M : ℝ) * M * N = 4 * (3 ^ 140 * 3 ^ 140) := by exact_mod_cast hM
    linarith
  have hMr : (M : ℝ) = σ * 3 ^ i := by exact_mod_cast hi
  refine f.roundsTo_half_power hf ?_ hσ (J := i + (-140 - h)) (by omega) ?_ ?_
  · rintro (h0 : (q : ℤ) = 0)
    have := lt_tritLen_root hN hhi (hsmall.trans_le (pow_le_pow_right₀ (by norm_num) (by omega)))
    rw [h0] at this
    exact absurd this (by decide)
  · rw [← hroot, hMr, zpow_add₀ (by norm_num), zpow_natCast]; ring
  · rw [abs_sub_comm]
    refine (abs_root_sub_lt hN hlo hhi).trans_le ?_
    have h9 : (9 : ℝ) * 3 ^ (-140 - h) ≤ 3 ^ (i + (-140 - h) - f.frac : ℤ) := by
      rw [show (9 : ℝ) = 3 ^ (2 : ℤ) by norm_num, ← zpow_add₀ (by norm_num)]
      exact zpow_le_zpow_right₀ (by norm_num) (by omega)
    have hg : (0 : ℝ) < 3 ^ (-140 - h) := by positivity
    linarith

/-- FRSQ where 1/√x is no half of a ternary fraction: no multiple of half the grain is near to it. -/
theorem RFmt.root_far (hfrac : f.frac ≤ 21) (hsmall : 2 * N < 3 ^ 22) (hne : ∀ M : ℕ, M * M * N ≠ 4 * (3 ^ 140 * 3 ^ 140)) (m : ℤ) :
    |((TFrac.mk q (-140 - h)).val : ℝ) - rootOf N * 3 ^ (-140 - h)| <
      |m * (f.grain (f.place ⟨q, -140 - h⟩) / 2) - rootOf N * 3 ^ (-140 - h)| := by
  have hplace := f.tritLen_le_place ⟨q, -140 - h⟩
  have hlen := lt_tritLen_root hN hhi hsmall
  obtain ⟨s, hs⟩ : ∃ s : ℕ, f.place ⟨q, -140 - h⟩ - 2 - f.frac = (TFrac.mk q (-140 - h)).k + s :=
    ⟨(f.place ⟨q, -140 - h⟩ - 2 - f.frac - (-140 - h)).toNat, by dsimp only at hplace ⊢; omega⟩
  have hs100 : 100 ≤ s := by dsimp only at hplace hs; omega
  have hint : (3 : ℤ) ^ 200 ≤ |m * 3 ^ s * (m * 3 ^ s) * N - 4 * (3 ^ 140 * 3 ^ 140)| := by
    refine Int.le_of_dvd (abs_pos.2 fun h0 => hne (m * 3 ^ s).natAbs ?_) ((dvd_abs _ _).2 (dvd_sub ?_ ?_))
    · zify
      rw [abs_mul_abs_self]; linarith
    · rw [show (200 : ℕ) = 100 + 100 by rfl, pow_add]
      exact (mul_dvd_mul ((pow_dvd_pow 3 hs100).mul_left m) ((pow_dvd_pow 3 hs100).mul_left m)).mul_right _
    · refine Dvd.dvd.mul_left ?_ 4
      rw [← pow_add]; exact pow_dvd_pow 3 (by norm_num)
  have hint : (3 : ℝ) ^ 200 ≤ |(m : ℝ) * 3 ^ s * (m * 3 ^ s) * N - 4 * (3 ^ 140 * 3 ^ 140)| := by exact_mod_cast hint
  have hT := rootOf_pos hN
  have hNr : (2 * N : ℝ) < 3 ^ 22 := by exact_mod_cast hsmall
  have hN1 : (1 : ℝ) ≤ N := by exact_mod_cast hN
  have hTle : rootOf N ≤ 3 ^ 140 := by
    refine (mul_self_le_mul_self_iff hT.le (by positivity)).2 ?_
    rw [← rootOf_sq hN]
    exact le_mul_of_one_le_right (by positivity) hN1
  have hg : (0 : ℝ) < 3 ^ (-140 - h) := by positivity
  have hsplit : (m : ℝ) * (f.grain (f.place ⟨q, -140 - h⟩) / 2) - rootOf N * 3 ^ (-140 - h) =
      (m * 3 ^ s - 2 * rootOf N) / 2 * 3 ^ (-140 - h) := by
    rw [f.grain_in_units hs]; ring
  refine (abs_root_sub_lt hN hlo hhi).trans_le ?_
  rw [hsplit, abs_mul, abs_of_pos hg]
  refine le_mul_of_one_le_left hg.le ?_
  rw [abs_div, abs_two, one_le_div two_pos]
  by_contra hlt
  obtain ⟨h1, h2⟩ := abs_lt.1 (not_le.1 hlt)
  have hfactor : (m : ℝ) * 3 ^ s * (m * 3 ^ s) * N - 4 * (3 ^ 140 * 3 ^ 140) =
      (m * 3 ^ s - 2 * rootOf N) * ((m * 3 ^ s + 2 * rootOf N) * N) := by
    rw [← rootOf_sq hN]; ring
  have hsum : |(m : ℝ) * 3 ^ s + 2 * rootOf N| ≤ 3 ^ 142 :=
    abs_le.2 ⟨by linarith, by linarith⟩
  rw [hfactor, abs_mul, abs_mul, abs_of_nonneg (by linarith : (0 : ℝ) ≤ N)] at hint
  have hbound : |(m : ℝ) * 3 ^ s - 2 * rootOf N| * (|(m : ℝ) * 3 ^ s + 2 * rootOf N| * N) ≤ 2 * (3 ^ 142 * 3 ^ 22) := by
    gcongr
    · exact (not_le.1 hlt).le
    · linarith
  exact absurd (hint.trans hbound) (by norm_num)

/-- The root of a whole number that the search finds rounds as 1/√x does (R152, R158). -/
theorem RFmt.roundsTo_root (hf : f.Sane) (hfrac : f.frac ≤ 21) (hsmall : 2 * N < 3 ^ (f.frac + 1))
    (hh : 2 * h ≤ f.lim - 1 - f.frac) : f.RoundsTo (rootOf N * 3 ^ (-140 - h)) (f.rounded ⟨q, -140 - h⟩) := by
  have hsmall' : 2 * N < 3 ^ 22 := hsmall.trans_le (pow_le_pow_right₀ (by norm_num) (by omega))
  by_cases hex : ∃ b : ℕ, b * b * N = 3 ^ 140 * 3 ^ 140
  · obtain ⟨b, hb⟩ := hex
    have hroot : (b : ℝ) = rootOf N := eq_rootOf hN (by positivity) (by exact_mod_cast hb)
    obtain ⟨h1, h2⟩ := rootOf_bounds hN hlo hhi
    rw [← hroot] at h1 h2
    have hqb : q = b := by
      have h1 : q ≤ b := by exact_mod_cast h1
      have h2 : b < q + 1 := by exact_mod_cast h2
      omega
    have hval : rootOf N * 3 ^ (-140 - h) = ((TFrac.mk q (-140 - h)).val : ℝ) := by
      rw [← hroot, hqb, TFrac.val]; push_cast; rfl
    rw [hval]
    exact f.roundsTo_rounded hf _
  by_cases hhalf : ∃ M : ℕ, M * M * N = 4 * (3 ^ 140 * 3 ^ 140)
  · obtain ⟨M, hM⟩ := hhalf
    refine f.roundsTo_root_half_power hN hlo hhi hf hfrac hsmall hh hM ?_
    rintro ⟨c, rfl⟩
    exact hex ⟨c, by linarith⟩
  · refine f.roundsTo_of_sameSide hf ?_ le_rfl
      (sameSide_of_far (f.root_far hN hlo hhi hfrac hsmall' fun M hM => hhalf ⟨M, hM⟩))
    rintro (h0 : (q : ℤ) = 0)
    have := lt_tritLen_root hN hhi hsmall'
    rw [h0] at this
    exact absurd this (by decide)

end Root

/-- FRSQ of a positive fraction rounds 1/√x once (R152, R158). -/
theorem RFmt.roundsTo_rsqrtOf {f : RFmt} (hf : f.Sane) (hfrac : f.frac ≤ 21) {x : TFrac} (hx : 0 < x.n)
    (hn : |x.n| ≤ f.maxF) (hk : x.k ≤ f.lim - 1 - f.frac) :
    f.RoundsTo (1 / Real.sqrt (x.val : ℚ)) (f.rounded (rsqrtOf x)) := by
  obtain ⟨N, h, hN, hNle, hh, hval, hq⟩ := rsqrtOf_eq hx
  obtain ⟨hlo, hhi⟩ := isqrt_spec (3 ^ 140 * 3 ^ 140 / N)
  have hsmall : 2 * N < 3 ^ (f.frac + 1) := by
    have h1 := f.two_abs_lt hn
    have h2 : 2 * x.n.natAbs < 3 ^ f.frac := by zify; exact h1
    rw [pow_succ]; omega
  have hcast : ((x.val : ℚ) : ℝ) = N * (3 ^ h * 3 ^ h) := by rw [hval]; push_cast; rfl
  rw [hq, hcast, one_div_sqrt]
  exact f.roundsTo_root hN ((Nat.le_div_iff_mul_le hN).1 hlo) ((Nat.div_lt_iff_lt_mul hN).1 hhi) hf hfrac hsmall
    (hh.trans hk)

end Sys2Proof.Machine

/-!
SUPPORT. `RFmt.between` rounds an irrational number between two fractions: where their roundings do not agree, `RFmt.parting`
is twice the one value between them at which rounding parts (R135, R136, R152).
-/

namespace Sys2Proof.Machine

section Between

variable {f : RFmt} {x y : TFrac}

/-! ### The value that stands for a rounded word -/

/-- The grid value above the largest finite one. -/
def RFmt.top (f : RFmt) : ℚ := f.minF * 3 ^ (f.lim - f.frac)

theorem RFmt.top_eq (hf : f.Sane) : f.top = (f.maxF + 2) * 3 ^ (f.lim - 1 - f.frac) := by
  have hmax := f.two_maxF hf
  have hmin := f.two_minF
  have h : (3 * f.minF : ℚ) = f.maxF + 2 := by exact_mod_cast (by omega : 3 * f.minF = f.maxF + 2)
  rw [RFmt.top, show f.lim - f.frac = f.lim - 1 - f.frac + 1 by ring, zpow_add_one₀ (by norm_num), ← h]; ring

theorem RFmt.top_pos (f : RFmt) : 0 < f.top := by
  have hmin : (0 : ℚ) < f.minF := by exact_mod_cast f.minF_pos
  unfold RFmt.top; positivity

/-- The grid value that rounding gives, no further out than the one above the largest finite one. -/
def RFmt.seen (f : RFmt) (x : TFrac) : ℚ := max (-f.top) (min f.top (f.outVal x))

theorem RFmt.seen_of_big (hf : f.Sane) (hx : x.n ≠ 0) (hbig : f.lim - 1 < f.outExp x) :
    f.seen x = if x.n < 0 then -f.top else f.top := by
  have hfar := f.abs_outVal_ge_of_big hf hx hbig
  have htop := f.top_pos
  have hsign := f.outVal_sign hf x
  rw [← f.top_eq hf] at hfar
  rw [RFmt.seen]
  split
  · next hneg =>
    have hval := x.val_neg_iff.2 hneg
    have hout : f.outVal x ≤ 0 := not_lt.1 fun hpos => absurd hsign (not_le.2 (mul_neg_of_pos_of_neg hpos hval))
    rw [abs_of_nonpos hout] at hfar
    rw [min_eq_right (by linarith), max_eq_left (by linarith)]
  · next hneg =>
    have hval : 0 < x.val := by
      obtain h | h := lt_or_ge x.val 0
      · exact absurd (x.val_neg_iff.1 h) hneg
      · exact lt_of_le_of_ne h fun h0 => hx (TFrac.val_eq_zero.1 h0.symm)
    have hout : 0 ≤ f.outVal x := not_lt.1 fun hlt => absurd hsign (not_le.2 (mul_neg_of_neg_of_pos hlt hval))
    rw [abs_of_nonneg hout] at hfar
    rw [min_eq_left hfar, max_eq_right (by linarith)]

theorem RFmt.abs_outVal_lt_top (hf : f.Sane) (hx : x.n ≠ 0) (hbig : ¬ f.lim - 1 < f.outExp x) :
    |f.outVal x| < f.top := by
  have hle := not_lt.1 ((f.outExp_big_iff hf hx).not.1 hbig)
  have hpos : (0 : ℚ) < 3 ^ (f.lim - 1 - f.frac) := by positivity
  rw [f.top_eq hf]; linarith

theorem RFmt.seen_of_not_big (hf : f.Sane) (hx : x.n ≠ 0) (hbig : ¬ f.lim - 1 < f.outExp x) : f.seen x = f.outVal x := by
  obtain ⟨h1, h2⟩ := abs_lt.1 (f.abs_outVal_lt_top hf hx hbig)
  rw [RFmt.seen, min_eq_right h2.le, max_eq_right h1.le]

/-- The value that a rounded word stands for where two roundings part. -/
def RFmt.wordVal (f : RFmt) (w : Int) : TFrac :=
  match f.read w with
  | .fin v => v
  | .inf neg => TFrac.mk (if neg then -f.minF else f.minF) (f.lim - f.frac)
  | .nan _ => TFrac.mk 0 0

theorem RFmt.parting_eq (f : RFmt) (a b : Rounded) : f.parting a b =
    if a.word = b.word then ⟨2 * (if (f.wordVal a.word).n < 0 then -f.minF else f.minF), -f.lim - f.frac⟩
    else (f.wordVal a.word).add (f.wordVal b.word) := rfl

theorem RFmt.wordVal_round (hf : f.Sane) (hx : x.n ≠ 0) : (f.wordVal (f.round x).word).val = f.seen x := by
  rw [f.round_of_ne_zero hf hx]
  split
  · next hbig =>
    rw [f.seen_of_big hf hx hbig, RFmt.wordVal]
    dsimp only
    rw [f.read_inf hf, TFrac.val, RFmt.top]
    by_cases hneg : x.n < 0 <;> simp [hneg]
  · next hbig =>
    obtain ⟨he, hF, hn⟩ := f.out_onGrid hf hx
    have hfin := (f.word_of_onGrid hf hF he (by omega) hn).1
    rw [f.seen_of_not_big hf hx hbig, RFmt.wordVal]
    dsimp only
    rw [RFmt.read_eq_fin hfin]
    exact (f.val_fin _).trans (f.value_round hf hx hbig)

/-- Rounding gives one exponent and one fraction for a value. -/
theorem RFmt.out_eq_of_outVal_eq (hf : f.Sane) (hx : x.n ≠ 0) (hy : y.n ≠ 0) (h : f.outVal x = f.outVal y) :
    f.outExp x = f.outExp y ∧ f.outFrac x = f.outFrac y := by
  have not_lt_of_eq {x y : TFrac} (hx : x.n ≠ 0) (hy : y.n ≠ 0) (h : f.outVal x = f.outVal y) :
      ¬ f.outExp x < f.outExp y := by
    intro hlt
    obtain ⟨hex, hFx, -⟩ := f.out_onGrid hf hx
    obtain ⟨-, -, hny⟩ := f.out_onGrid hf hy
    obtain ⟨j, hj⟩ : ∃ j : ℕ, f.outExp y - f.frac = f.outExp x - f.frac + 1 + j :=
      ⟨(f.outExp y - f.outExp x - 1).toNat, by omega⟩
    have hpos : (3 : ℚ) ^ (f.outExp x - f.frac) ≠ 0 := by positivity
    have hfrac : (f.outFrac x : ℚ) = f.outFrac y * 3 * 3 ^ j := by
      rw [RFmt.outVal, RFmt.outVal, hj, zpow_add₀ (by norm_num), zpow_add_one₀ (by norm_num), zpow_natCast] at h
      refine mul_right_cancel₀ hpos ?_
      rw [h]; ring
    have hfrac : f.outFrac x = f.outFrac y * 3 * 3 ^ j := by exact_mod_cast hfrac
    have hone : (1 : ℤ) ≤ 3 ^ j := one_le_pow₀ (by norm_num)
    have habs : |f.outFrac x| = |f.outFrac y| * 3 * 3 ^ j := by
      rw [hfrac, abs_mul, abs_mul, abs_of_pos (by positivity : (0 : ℤ) < 3 ^ j)]; norm_num
    have hmin := hny.resolve_left (by omega)
    have hmaxF := f.two_maxF hf
    have hminF := f.two_minF
    nlinarith [abs_nonneg (f.outFrac y)]
  have hexp : f.outExp x = f.outExp y := le_antisymm (not_lt.1 (not_lt_of_eq hy hx h.symm)) (not_lt.1 (not_lt_of_eq hx hy h))
  refine ⟨hexp, ?_⟩
  have hpos : (3 : ℚ) ^ (f.outExp y - f.frac) ≠ 0 := by positivity
  rw [RFmt.outVal, RFmt.outVal, hexp] at h
  exact_mod_cast mul_right_cancel₀ hpos h

/-- Fractions of one sign are rounded to one word where one value stands for their words. -/
theorem RFmt.word_eq_of_seen_eq (hf : f.Sane) (hx : x.n ≠ 0) (hy : y.n ≠ 0) (hsign : x.n < 0 ↔ y.n < 0)
    (h : f.seen x = f.seen y) : (f.round x).word = (f.round y).word := by
  have not_big {x y : TFrac} (hx : x.n ≠ 0) (hy : y.n ≠ 0) (h : f.seen x = f.seen y) (hbx : ¬ f.lim - 1 < f.outExp x) :
      ¬ f.lim - 1 < f.outExp y := by
    intro hby
    have hlt := f.abs_outVal_lt_top hf hx hbx
    rw [← f.seen_of_not_big hf hx hbx, h, f.seen_of_big hf hy hby] at hlt
    split at hlt
    · rw [abs_neg, abs_of_pos f.top_pos] at hlt
      exact lt_irrefl _ hlt
    · rw [abs_of_pos f.top_pos] at hlt
      exact lt_irrefl _ hlt
  rw [f.round_of_ne_zero hf hx, f.round_of_ne_zero hf hy]
  by_cases hbx : f.lim - 1 < f.outExp x
  · have hby : f.lim - 1 < f.outExp y := not_not.1 fun hby => not_big hy hx h.symm hby hbx
    rw [if_pos hbx, if_pos hby]
    exact congrArg f.inf (decide_eq_decide.2 hsign)
  · have hby := not_big hx hy h hbx
    rw [f.seen_of_not_big hf hx hbx, f.seen_of_not_big hf hy hby] at h
    obtain ⟨hexp, hfrac⟩ := f.out_eq_of_outVal_eq hf hx hy h
    rw [if_neg hbx, if_neg hby, hexp, hfrac]

/-- Fractions that are rounded to one word overflow together. -/
theorem RFmt.ovf_eq_of_word_eq (hf : f.Sane) (hx : x.n ≠ 0) (hy : y.n ≠ 0) (h : (f.round x).word = (f.round y).word) :
    (f.round x).ovf = (f.round y).ovf := by
  have finite {x : TFrac} (hx : x.n ≠ 0) : (f.round x).ovf = false ↔ ∃ v, f.read (f.round x).word = .fin v := by
    rw [f.round_of_ne_zero hf hx]
    split
    · simp [f.read_inf hf]
    · next hbig =>
      obtain ⟨he, hF, hn⟩ := f.out_onGrid hf hx
      exact iff_of_true rfl ⟨_, RFmt.read_eq_fin (f.word_of_onGrid hf hF he (by omega) hn).1⟩
  have hiff := finite hx
  rw [h, ← finite hy] at hiff
  rwa [Bool.eq_iff_iff, ← not_iff_not, Bool.not_eq_true, Bool.not_eq_true]

/-! ### Where two roundings part -/

theorem RFmt.abs_seen_le (f : RFmt) (x : TFrac) : |f.seen x| ≤ f.top := by
  have htop := f.top_pos
  exact abs_le.2 ⟨le_max_left _ _, max_le (by linarith) (min_le_left _ _)⟩

/-- No grid value up to the one above the largest finite one is nearer. -/
theorem RFmt.seen_nearest (hf : f.Sane) (hx : x.n ≠ 0) {F e : ℤ} (hF : |F| ≤ f.maxF) (he : -f.lim ≤ e)
    (htop : |(F : ℚ) * 3 ^ (e - f.frac)| ≤ f.top) : |f.seen x - x.val| ≤ |(F : ℚ) * 3 ^ (e - f.frac) - x.val| := by
  have hlim := hf.lim_pos
  have hmin : |f.minF| ≤ f.maxF := by rw [abs_of_pos f.minF_pos]; exact f.minF_le_maxF hf
  have near {F e : ℤ} (hF : |F| ≤ f.maxF) (he : -f.lim ≤ e) :
      |f.outVal x - x.val| ≤ |(F : ℚ) * 3 ^ (e - f.frac) - x.val| :=
    (f.outVal_nearest hf hx hF he).elim le_of_lt fun h => h.1.le
  have habove : |f.outVal x - x.val| ≤ |f.top - x.val| := near hmin (by omega : -f.lim ≤ f.lim)
  have hbelow : |f.outVal x - x.val| ≤ |-f.top - x.val| := by
    have h := near (F := -f.minF) (by rwa [abs_neg]) (by omega : -f.lim ≤ f.lim)
    rwa [Int.cast_neg, neg_mul] at h
  have hz := near hF he
  obtain ⟨hz1, hz2⟩ := abs_le.1 htop
  have hpos := f.top_pos
  rw [RFmt.seen]
  rcases le_or_gt f.top (f.outVal x) with h | h
  · rw [min_eq_left h, max_eq_right (by linarith)]
    obtain h | h := h.eq_or_lt
    · rwa [← h] at hz
    · have hhalf : f.top + f.outVal x ≤ 2 * x.val := by
        by_contra hlt
        exact absurd habove (not_le.2 (by
          rw [← Rat.cast_lt (K := ℝ)]; push_cast
          exact abs_sub_lt_abs_sub_iff.2 (.inl ⟨by exact_mod_cast h, by exact_mod_cast not_le.1 hlt⟩)))
      rw [abs_of_nonpos (by linarith), abs_of_nonpos (by linarith)]; linarith
  · rw [min_eq_right h.le]
    rcases le_or_gt (-f.top) (f.outVal x) with h' | h'
    · rwa [max_eq_right h']
    · rw [max_eq_left h'.le]
      have hhalf : 2 * x.val ≤ f.outVal x + -f.top := by
        by_contra hlt
        exact absurd hbelow (not_le.2 (by
          rw [← Rat.cast_lt (K := ℝ)]; push_cast
          exact abs_sub_lt_abs_sub_iff.2 (.inr ⟨by exact_mod_cast h', by rw [add_comm]; exact_mod_cast not_le.1 hlt⟩)))
      rw [abs_of_nonneg (by linarith), abs_of_nonneg (by linarith)]; linarith

/-- The value that stands for a word is on the grid. -/
theorem RFmt.seen_onGrid (hf : f.Sane) (hx : x.n ≠ 0) :
    ∃ F e : ℤ, |F| ≤ f.maxF ∧ -f.lim ≤ e ∧ f.seen x = F * 3 ^ (e - f.frac) := by
  by_cases hbig : f.lim - 1 < f.outExp x
  · have hlim := hf.lim_pos
    have hmin := f.minF_le_maxF hf
    refine ⟨if x.n < 0 then -f.minF else f.minF, f.lim, ?_, by omega, ?_⟩
    · split
      · rwa [abs_neg, abs_of_pos f.minF_pos]
      · rwa [abs_of_pos f.minF_pos]
    · rw [f.seen_of_big hf hx hbig, RFmt.top]
      split <;> push_cast <;> ring
  · obtain ⟨he, hF, -⟩ := f.out_onGrid hf hx
    exact ⟨_, _, hF, he, f.seen_of_not_big hf hx hbig⟩

theorem RFmt.seen_nearest_seen (hf : f.Sane) (hx : x.n ≠ 0) (hy : y.n ≠ 0) :
    |f.seen x - x.val| ≤ |f.seen y - x.val| := by
  obtain ⟨F, e, hF, he, h⟩ := f.seen_onGrid hf hy
  rw [h]
  exact f.seen_nearest hf hx hF he (h ▸ f.abs_seen_le y)

/-- Half way between the words of two fractions lies between the fractions. -/
theorem RFmt.seen_half_way (hf : f.Sane) (hx : x.n ≠ 0) (hy : y.n ≠ 0) (hxy : x.val < y.val) (hne : f.seen x ≠ f.seen y) :
    2 * x.val ≤ f.seen x + f.seen y ∧ f.seen x + f.seen y ≤ 2 * y.val := by
  have sq_le {a b c : ℚ} (h : |a - c| ≤ |b - c|) : 0 ≤ (b - a) * (a + b - 2 * c) := by
    have := sq_le_sq.2 h
    linear_combination this
  have hxs := sq_le (f.seen_nearest_seen hf hx hy)
  have hys := sq_le (f.seen_nearest_seen hf hy hx)
  obtain h | h := hne.lt_or_gt
  · constructor <;> nlinarith
  · nlinarith

theorem RFmt.seen_multiple (hf : f.Sane) (hx : x.n ≠ 0) {P : ℤ} (hP : P ≤ f.place x) (hlim : P ≤ f.lim) :
    ∃ m : ℤ, (f.seen x : ℝ) = m * f.grain P := by
  by_cases hbig : f.lim - 1 < f.outExp x
  · obtain ⟨m, hm⟩ := f.multiple_of_grain (by omega : P - 2 ≤ f.lim) (if x.n < 0 then -f.minF else f.minF)
    refine ⟨m, ?_⟩
    rw [← hm, f.seen_of_big hf hx hbig, RFmt.top]
    split <;> push_cast <;> ring
  · rw [f.seen_of_not_big hf hx hbig]
    exact f.outVal_multiple hP

theorem RFmt.least_pos (f : RFmt) : 0 < f.least := by
  have hmin : (0 : ℚ) < f.minF := by exact_mod_cast f.minF_pos
  unfold RFmt.least; positivity

/-- What stands for the word of a fraction that is not tiny has its sign. -/
theorem RFmt.seen_neg_iff (hf : f.Sane) (hx : x.n ≠ 0) (h : f.least ≤ |x.val|) : f.seen x < 0 ↔ x.n < 0 := by
  have hlim := hf.lim_pos
  have hmin : |f.minF| ≤ f.maxF := by rw [abs_of_pos f.minF_pos]; exact f.minF_le_maxF hf
  have hpos := f.least_pos
  have htop : f.least ≤ f.top := by
    have : (0 : ℚ) < f.minF := by exact_mod_cast f.minF_pos
    unfold RFmt.least RFmt.top
    gcongr
    · norm_num
    · omega
  have habove : |f.seen x - x.val| ≤ |f.least - x.val| :=
    f.seen_nearest hf hx hmin le_rfl (by rw [← RFmt.least, abs_of_pos hpos]; exact htop)
  have hbelow : |f.seen x - x.val| ≤ |-f.least - x.val| := by
    have h := f.seen_nearest hf hx (F := -f.minF) (by rwa [abs_neg]) le_rfl
      (by rw [Int.cast_neg, neg_mul, abs_neg, ← RFmt.least, abs_of_pos hpos]; exact htop)
    rwa [Int.cast_neg, neg_mul, ← RFmt.least] at h
  have h1 := le_abs_self (f.seen x - x.val)
  have h2 := neg_abs_le (f.seen x - x.val)
  rw [← x.val_neg_iff]
  obtain hneg | hneg := lt_or_ge x.val 0
  · rw [abs_of_neg hneg] at h
    rw [abs_of_nonneg (by linarith : 0 ≤ -f.least - x.val)] at hbelow
    exact iff_of_true (by linarith) hneg
  · rw [abs_of_nonneg hneg] at h
    rw [abs_of_nonpos (by linarith : f.least - x.val ≤ 0)] at habove
    exact iff_of_false (by linarith) (not_lt.2 hneg)

theorem RFmt.round_tiny (hf : f.Sane) (hx : x.n ≠ 0) : (f.round x).tiny = true ↔ |x.val| < f.least := by
  rw [RFmt.least, ← f.tiny_iff hf hx, f.round_of_ne_zero hf hx]
  split <;> rfl

theorem RFmt.place_of_tiny (hf : f.Sane) (hx : x.n ≠ 0) (h : |x.val| < f.least) : f.place x = -f.lim := by
  refine le_antisymm (not_lt.1 fun hlt => ?_) (le_max_right _ _)
  have hval := f.ulp_lt_two_abs_val hf hx hlt
  have hmin : (2 * f.minF : ℚ) = f.half + 1 := by exact_mod_cast f.two_minF
  have hhalf : (1 : ℚ) ≤ f.half := by exact_mod_cast f.half_pos
  have hpos : (0 : ℚ) < 3 ^ (-f.lim - f.frac : ℤ) := by positivity
  have hulp : 3 * (3 : ℚ) ^ (-f.lim - f.frac : ℤ) ≤ f.ulp x := by
    rw [mul_comm, ← zpow_add_one₀ (by norm_num), RFmt.ulp]
    exact zpow_le_zpow_right₀ (by norm_num) (by omega)
  rw [RFmt.least] at h
  nlinarith

/-- Where two roundings differ only in that one of them is tiny, they part at the smallest normal. -/
theorem RFmt.parting_of_word_eq (hf : f.Sane) (hx : x.n ≠ 0) (hy : y.n ≠ 0) (hsign : x.n < 0 ↔ y.n < 0)
    (hxy : x.val < y.val) {P : ℤ} (hPx : P ≤ f.place x) (hPy : P ≤ f.place y)
    (hword : (f.round x).word = (f.round y).word) (htiny : (f.round x).tiny ≠ (f.round y).tiny) :
    ∃ T : ℚ, (f.parting (f.round x) (f.round y)).val = 2 * T ∧ x.val ≤ T ∧ T ≤ y.val ∧
      ∃ m : ℤ, (T : ℝ) = m * (f.grain P / 2) := by
  have hseen : f.seen x = f.seen y := by rw [← f.wordVal_round hf hx, hword, f.wordVal_round hf hy]
  have htx := f.round_tiny hf hx
  have hty := f.round_tiny hf hy
  have hdiff : |x.val| < f.least ↔ ¬ |y.val| < f.least := by
    rw [← htx, ← hty, Bool.eq_not.2 htiny, Bool.not_eq_true', Bool.not_eq_true]
  have hlow : P ≤ -f.lim := by
    by_cases h : |x.val| < f.least
    · exact hPx.trans (f.place_of_tiny hf hx h).le
    · exact hPy.trans (f.place_of_tiny hf hy (not_not.1 (hdiff.not.1 h))).le
  have hneg : (f.wordVal (f.round x).word).n < 0 ↔ x.n < 0 := by
    rw [← TFrac.val_neg_iff, f.wordVal_round hf hx]
    by_cases h : |x.val| < f.least
    · rw [hseen, hsign]; exact f.seen_neg_iff hf hy (not_lt.1 (hdiff.1 h))
    · exact f.seen_neg_iff hf hx (not_lt.1 h)
  have hval : (f.parting (f.round x) (f.round y)).val = 2 * if x.n < 0 then -f.least else f.least := by
    rw [f.parting_eq, if_pos hword, TFrac.val, RFmt.least]
    simp only [hneg]
    split <;> push_cast <;> ring
  obtain ⟨m, hm⟩ := f.multiple_of_grain (by omega : P - 2 ≤ -f.lim) f.minF
  have hleast : (f.least : ℝ) = m * f.grain P := by rw [← hm, RFmt.least]; push_cast; rfl
  refine ⟨_, hval, ?_⟩
  by_cases h : x.n < 0
  · have hxv := x.val_neg_iff.2 h
    have hyv := y.val_neg_iff.2 (hsign.1 h)
    rw [abs_of_neg hxv, abs_of_neg hyv] at hdiff
    have hnx : ¬ -x.val < f.least := fun hx => hdiff.1 hx (by linarith)
    have hny : -y.val < f.least := not_not.1 (hdiff.not.1 hnx)
    rw [if_pos h]
    exact ⟨by linarith, by linarith, -2 * m, by push_cast; rw [hleast]; ring⟩
  · have hxv := not_lt.1 (x.val_neg_iff.not.2 h)
    have hyv := not_lt.1 (y.val_neg_iff.not.2 (hsign.not.1 h))
    rw [abs_of_nonneg hxv, abs_of_nonneg hyv] at hdiff
    have hlx : x.val < f.least := by
      by_contra hnx
      exact hnx (hxy.trans (not_not.1 (hdiff.not.1 hnx)))
    have hly := not_lt.1 (hdiff.1 hlx)
    rw [if_neg h]
    exact ⟨hlx.le, hly, 2 * m, by push_cast; rw [hleast]; ring⟩

/-- Where two roundings give different words, they part half way between them. -/
theorem RFmt.parting_of_word_ne (hf : f.Sane) (hx : x.n ≠ 0) (hy : y.n ≠ 0) (hsign : x.n < 0 ↔ y.n < 0)
    (hxy : x.val < y.val) {P : ℤ} (hPx : P ≤ f.place x) (hPy : P ≤ f.place y)
    (hword : (f.round x).word ≠ (f.round y).word) :
    ∃ T : ℚ, (f.parting (f.round x) (f.round y)).val = 2 * T ∧ x.val ≤ T ∧ T ≤ y.val ∧
      ∃ m : ℤ, (T : ℝ) = m * (f.grain P / 2) := by
  have hne : f.seen x ≠ f.seen y := fun h => hword (f.word_eq_of_seen_eq hf hx hy hsign h)
  have place_le {z : TFrac} (hPz : P ≤ f.place z) (hbig : ¬ f.lim - 1 < f.outExp z) : P ≤ f.lim := by
    unfold RFmt.outExp at hbig; split at hbig <;> omega
  have hlim : P ≤ f.lim := by
    by_cases hbx : f.lim - 1 < f.outExp x
    · by_cases hby : f.lim - 1 < f.outExp y
      · refine absurd ?_ hne
        rw [f.seen_of_big hf hx hbx, f.seen_of_big hf hy hby]
        simp only [hsign]
      · exact place_le hPy hby
    · exact place_le hPx hbx
  obtain ⟨a, ha⟩ := f.seen_multiple hf hx hPx hlim
  obtain ⟨b, hb⟩ := f.seen_multiple hf hy hPy hlim
  obtain ⟨hlo, hhi⟩ := f.seen_half_way hf hx hy hxy hne
  refine ⟨(f.seen x + f.seen y) / 2, ?_, by linarith, by linarith, a + b, by push_cast; rw [ha, hb]; ring⟩
  rw [f.parting_eq, if_neg hword, TFrac.val_add, f.wordVal_round hf hx, f.wordVal_round hf hy]; ring

/-! ### Rounding a number between two fractions -/

/-- A number that is no multiple of g lies with one of two fractions around it that are near to each other. -/
theorem sameSide_left_or_right {g a b X : ℝ} (hg : 0 < g) (ha : a < X) (hb : X < b) (hgap : b - a < g)
    (hX : ∀ m : ℤ, m * g ≠ X) : SameSide g a X ∨ SameSide g b X := by
  by_contra hno
  rw [not_or] at hno
  obtain ⟨hl, hr⟩ := hno
  have crossing {c : ℝ} (h : ¬ SameSide g c X) : ∃ m : ℤ, (c ≤ m * g ∧ m * g < X) ∨ (X < m * g ∧ m * g ≤ c) := by
    by_contra hc
    push Not at hc
    refine h fun m => ⟨⟨fun h1 => ?_, fun h1 => ?_⟩, ⟨fun h1 => ?_, fun h1 => ?_⟩⟩
    · exact lt_of_le_of_ne (not_lt.1 fun h2 => absurd ((hc m).2 h2) (not_lt.2 h1.le)) (hX m)
    · exact not_le.1 fun h2 => absurd ((hc m).1 h2) (not_le.2 h1)
    · exact lt_of_le_of_ne (not_lt.1 fun h2 => absurd ((hc m).1 h1.le) (not_le.2 h2)) (hX m).symm
    · exact not_le.1 fun h2 => absurd ((hc m).2 h1) (not_lt.2 h2)
  obtain ⟨m, hm⟩ := crossing hl
  obtain ⟨n, hn⟩ := crossing hr
  have hm : a ≤ m * g ∧ m * g < X := hm.resolve_right fun h => absurd (h.1.trans_le h.2) (not_lt.2 ha.le)
  have hn : X < n * g ∧ n * g ≤ b := hn.resolve_left fun h => absurd (h.1.trans_lt h.2) (not_lt.2 hb.le)
  have hlt : (m : ℝ) < n := lt_of_mul_lt_mul_right (hm.2.trans hn.1) hg.le
  have hone : (m : ℝ) + 1 ≤ n := by exact_mod_cast Int.add_one_le_of_lt (by exact_mod_cast hlt)
  nlinarith

/-- An irrational number rounds as a fraction on its side, marked inexact. -/
theorem RFmt.roundsTo_inexact (hf : f.Sane) (hx : x.n ≠ 0) {X : ℝ} (hX : ∀ q : ℚ, (q : ℝ) ≠ X) {P : ℤ}
    (hP : P ≤ f.place x) (h : SameSide (f.grain P / 2) x.val X) :
    f.RoundsTo X ((f.round x).word, ⟨false, (f.round x).ovf, (f.round x).tiny, true⟩) := by
  have hround := f.roundsTo_of_sameSide hf hx hP h
  have hinx : (f.round x).inexact = true := by
    obtain ⟨y, ⟨F, e, -, -, hy⟩, -, -, hinx, -⟩ := hround
    refine hinx.2 (.inl fun heq => hX (F * 3 ^ (e - f.frac)) ?_)
    rw [← heq, hy]; push_cast; rfl
  have hres : f.rounded x = ((f.round x).word, ⟨false, (f.round x).ovf, (f.round x).tiny, true⟩) := by
    rw [RFmt.rounded, Rounded.flags, hinx, Bool.and_true]
  rwa [← hres]

/-- An irrational number between two near fractions rounds as `RFmt.between` says. -/
theorem RFmt.roundsTo_between (hf : f.Sane) (hx : x.n ≠ 0) (hy : y.n ≠ 0) (hsign : x.n < 0 ↔ y.n < 0) {X : ℝ}
    (hX : ∀ q : ℚ, (q : ℝ) ≠ X) (hlo : (x.val : ℝ) < X) (hhi : X < y.val) {P : ℤ} (hPx : P ≤ f.place x)
    (hPy : P ≤ f.place y) (hgap : (y.val - x.val : ℝ) < f.grain P / 2) {below : TFrac → Bool}
    (hbelow : ∀ c, below c = true ↔ X < c.val / 2) : f.RoundsTo X (f.between x y below) := by
  have hxy : x.val < y.val := by exact_mod_cast hlo.trans hhi
  have hmul (m : ℤ) : m * (f.grain P / 2) ≠ X := by
    intro h
    refine hX (m * (3 ^ (P - 2 - f.frac) / 2)) ?_
    rw [← h, RFmt.grain]; push_cast; rfl
  have hleft := f.roundsTo_inexact hf hx hX hPx
  have hright := f.roundsTo_inexact hf hy hX hPy
  have hside := sameSide_left_or_right (by have := f.grain_pos P; positivity) hlo hhi hgap hmul
  rw [RFmt.between]
  split
  · next hagree =>
    obtain ⟨hword, htiny⟩ := hagree
    rw [← hword, ← htiny, ← f.ovf_eq_of_word_eq hf hx hy hword] at hright
    exact hside.elim hleft hright
  · next hdiffer =>
    obtain ⟨T, hT, hxT, hTy, m, hm⟩ : ∃ T : ℚ, (f.parting (f.round x) (f.round y)).val = 2 * T ∧ x.val ≤ T ∧
        T ≤ y.val ∧ ∃ m : ℤ, (T : ℝ) = m * (f.grain P / 2) := by
      by_cases hword : (f.round x).word = (f.round y).word
      · exact f.parting_of_word_eq hf hx hy hsign hxy hPx hPy hword fun htiny => hdiffer ⟨hword, htiny⟩
      · exact f.parting_of_word_ne hf hx hy hsign hxy hPx hPy hword
    have hxT : (x.val : ℝ) ≤ T := by exact_mod_cast hxT
    have hTy : (T : ℝ) ≤ y.val := by exact_mod_cast hTy
    have hcut : below (f.parting (f.round x) (f.round y)) = true ↔ X < T := by
      rw [hbelow, hT]; push_cast; rw [mul_div_cancel_left₀ _ two_ne_zero]
    split
    · next hb =>
      exact hleft (hside.resolve_right fun h => not_lt.2 hTy (hm ▸ (h m).2.2 (hm ▸ hcut.1 hb)))
    · next hb =>
      have hTX : (T : ℝ) < X := lt_of_le_of_ne (not_lt.1 (hcut.not.1 hb)) (hX T)
      exact hright (hside.resolve_left fun h => not_lt.2 hxT (hm ▸ (h m).1.2 (hm ▸ hTX)))

end Between

end Sys2Proof.Machine

/-!
SUPPORT. The series of FEXP3 and FLOG3 in units of 3^-150, with the sum of their rounding errors (R152, R158).
-/

namespace Sys2Proof.Machine

open Finset (range sum_range_succ sum_range_succ')

/-! ### Products in fixed point -/

theorem unit_eq : unit = 3 ^ 150 := rfl

theorem cast_unit : ((unit : ℤ) : ℝ) = 3 ^ 150 := by rw [unit_eq]; norm_cast

theorem cast_unit_pos : (0 : ℝ) < (unit : ℤ) := by rw [cast_unit]; positivity

theorem abs_mul_unit_le {x : ℝ} (h : |x| ≤ 1 / unit) : |x * unit| ≤ 1 := by
  rwa [abs_mul, abs_of_pos cast_unit_pos, ← le_div_iff₀ cast_unit_pos]

theorem abs_divq_sub_le (a : ℤ) {b : ℤ} (hb : b ≠ 0) : |(divq a b : ℝ) - a / b| ≤ 1 / 2 := by
  have h : 2 * |(a : ℝ) - b * divq a b| ≤ |(b : ℝ)| := by exact_mod_cast (divq_spec a hb).1
  have hb' : (b : ℝ) ≠ 0 := by exact_mod_cast hb
  have hpos : 0 < |(b : ℝ)| := abs_pos.2 hb'
  have hsplit : (divq a b : ℝ) - a / b = -(a - b * divq a b) / b := by field_simp; ring
  rw [hsplit, abs_div, abs_neg, div_le_iff₀ hpos]
  linarith

/-- The error of a product in fixed point, divided by a whole number. -/
theorem abs_divq_mul_sub_le {p q i : ℤ} (hi : 0 < i) {P Q E D : ℝ} (hE : 0 ≤ E) (hD : D ≤ 1000)
    (hp : |(p : ℝ) - P * unit| ≤ E) (hq : |(q : ℝ) - Q * unit| ≤ D) :
    |(divq (p * q) (unit * i) : ℝ) - P * Q / i * unit| ≤ 1 / 2 + (E * (|Q| + 1 / 100) + |P| * D) := by
  have hU : (100000 : ℝ) ≤ unit := by rw [cast_unit]; norm_num
  have hUpos := cast_unit_pos
  have hi' : (1 : ℝ) ≤ i := by exact_mod_cast hi
  have hdiv := abs_divq_sub_le (p * q) (mul_ne_zero (by rw [unit_eq]; positivity) hi.ne' : unit * i ≠ 0)
  push_cast at hdiv
  have hqle : |(q : ℝ)| / unit ≤ |Q| + 1 / 100 := by
    have h := abs_sub_abs_le_abs_sub (q : ℝ) (Q * unit)
    rw [abs_mul, abs_of_pos hUpos] at h
    rw [div_le_iff₀ hUpos]
    linarith
  have hsplit : (p * q / (unit * i) : ℝ) - P * Q / i * unit =
      ((p - P * unit) * (q / unit) + P * (q - Q * unit)) / i := by field_simp; ring
  have hprod : |((p : ℝ) - P * unit) * (q / unit) + P * (q - Q * unit)| ≤ E * (|Q| + 1 / 100) + |P| * D := by
    refine (abs_add_le _ _).trans (add_le_add ?_ ?_)
    · rw [abs_mul, abs_div, abs_of_pos hUpos]
      gcongr
    · rw [abs_mul]
      gcongr
  have hquot : |(p * q / (unit * i) : ℝ) - P * Q / i * unit| ≤ E * (|Q| + 1 / 100) + |P| * D := by
    rw [hsplit, abs_div, abs_of_pos (by linarith : (0 : ℝ) < i)]
    exact (div_le_self (abs_nonneg _) hi').trans hprod
  linarith [abs_sub_le (divq (p * q) (unit * i) : ℝ) (p * q / (unit * i)) (P * Q / i * unit)]

/-! ### The series of 2·atanh -/

/-- The partial sums of the series of ln((1 + z)/(1 - z)) are those of two series of ln. -/
theorem sum_odd_powers (z : ℝ) (m : ℕ) : ∑ j ∈ range m, 2 * z * (z ^ 2) ^ j / (1 + 2 * j) =
    (∑ i ∈ range (2 * m), z ^ (i + 1) / (i + 1)) - ∑ i ∈ range (2 * m), (-z) ^ (i + 1) / (i + 1) := by
  induction m with
  | zero => simp
  | succ m ih =>
    have hodd : (-z) ^ (2 * m + 1) = -(z * (z ^ 2) ^ m) := by rw [pow_succ, pow_mul, neg_sq]; ring
    have heven : (-z) ^ (2 * m + 1 + 1) = z ^ (2 * m + 1 + 1) := by
      rw [show 2 * m + 1 + 1 = 2 * (m + 1) by ring, pow_mul, pow_mul, neg_sq]
    have hz : z ^ (2 * m + 1) = z * (z ^ 2) ^ m := by rw [pow_succ, pow_mul]; ring
    have hpos : (1 + 2 * m : ℝ) ≠ 0 := by positivity
    rw [sum_range_succ, ih, show 2 * (m + 1) = 2 * m + 1 + 1 by ring, sum_range_succ, sum_range_succ, sum_range_succ _ (2 * m + 1),
      sum_range_succ _ (2 * m), hodd, heven, hz]
    push_cast
    rw [add_comm (2 * (m : ℝ)) 1]
    field_simp
    ring

/-- What 130 terms of the series leave out. -/
theorem abs_sum_odd_powers_sub_log_le {z : ℝ} (hz : |z| ≤ 1 / 2) :
    |(∑ j ∈ range 130, 2 * z * (z ^ 2) ^ j / (1 + 2 * j)) - (Real.log (1 + z) - Real.log (1 - z))| ≤ 1 / unit := by
  have h1 := Real.abs_log_sub_add_sum_range_le (by linarith : |z| < 1) 260
  have h2 := Real.abs_log_sub_add_sum_range_le (by rw [abs_neg]; linarith : |-z| < 1) 260
  rw [abs_neg, sub_neg_eq_add] at h2
  have htail : |z| ^ (260 + 1) / (1 - |z|) ≤ 1 / unit / 2 := by
    calc |z| ^ (260 + 1) / (1 - |z|) ≤ (1 / 2 : ℝ) ^ (260 + 1) / (1 / 2) := by gcongr; linarith
      _ ≤ 1 / (unit : ℝ) / 2 := by
        rw [cast_unit, pow_succ, mul_div_assoc, div_self (by norm_num), mul_one,
          show 260 = 130 + 130 by rfl, pow_add]
        norm_num
  rw [sum_odd_powers]
  calc _ = |((∑ i ∈ range 260, z ^ (i + 1) / (i + 1)) + Real.log (1 - z)) -
        ((∑ i ∈ range 260, (-z) ^ (i + 1) / (i + 1)) + Real.log (1 + z))| := by congr 1; ring
    _ ≤ _ := abs_sub _ _
    _ ≤ 1 / unit := by linarith

/-- Each term of the series is within 7 units of its value. -/
theorem abs_atanh2From_sub_le {zz : ℤ} {Q : ℝ} (hQ : |Q| ≤ 1 / 4) (hzz : |(zz : ℝ) - Q * unit| ≤ 2) (m : ℕ) {pow i : ℤ}
    {P : ℝ} (hi : 0 < i) (hP : |P| ≤ 1 / 2) (hpow : |(pow : ℝ) - P * unit| ≤ 3) :
    |(atanh2From zz m pow i : ℝ) - (∑ j ∈ range m, 2 * P * Q ^ j / (i + 2 * j)) * unit| ≤ 7 * m := by
  induction m generalizing pow i P with
  | zero => simp [atanh2From]
  | succ m ih =>
    have hi' : (1 : ℝ) ≤ i := by exact_mod_cast hi
    have hPQ : |P * Q| ≤ 1 / 2 := by
      rw [abs_mul]; nlinarith [abs_nonneg P, abs_nonneg Q]
    have hnext : |(divq (pow * zz) unit : ℝ) - P * Q * unit| ≤ 3 := by
      have h := abs_divq_mul_sub_le one_pos (by norm_num) (by norm_num) hpow hzz
      rw [mul_one, Int.cast_one, div_one] at h
      linarith
    have hterm : |(divq (2 * pow) i : ℝ) - 2 * P / i * unit| ≤ 7 := by
      have h := abs_divq_sub_le (2 * pow) hi.ne'
      have hsplit : ((2 * pow : ℤ) / i : ℝ) - 2 * P / i * unit = 2 * (pow - P * unit) / i := by
        push_cast; field_simp
      have hclose : |((2 * pow : ℤ) / i : ℝ) - 2 * P / i * unit| ≤ 6 := by
        rw [hsplit, abs_div, abs_mul, abs_two, abs_of_pos (by linarith : (0 : ℝ) < i)]
        exact (div_le_self (by positivity) hi').trans (by linarith)
      linarith [abs_sub_le (divq (2 * pow) i : ℝ) ((2 * pow : ℤ) / i) (2 * P / i * unit)]
    have hrest := ih (by omega : 0 < i + 2) hPQ hnext
    have hshift : ∑ j ∈ range m, 2 * P * Q ^ (j + 1) / (i + 2 * (j + 1 : ℕ)) =
        ∑ j ∈ range m, 2 * (P * Q) * Q ^ j / ((i + 2 : ℤ) + 2 * j) := by
      refine Finset.sum_congr rfl fun j _ => ?_
      push_cast
      rw [pow_succ]; congr 1 <;> ring
    rw [sum_range_succ', hshift, pow_zero, mul_one, Nat.cast_zero, mul_zero, add_zero, atanh2From]
    push_cast at hrest ⊢
    calc _ = |((divq (2 * pow) i : ℝ) - 2 * P / i * unit) + ((atanh2From zz m (divq (pow * zz) unit) (i + 2) : ℝ) -
          (∑ j ∈ range m, 2 * (P * Q) * Q ^ j / ((i : ℝ) + 2 + 2 * j)) * unit)| := by congr 1; ring
      _ ≤ _ := abs_add_le _ _
      _ ≤ 7 * (m + 1) := by linarith

/-- 2·atanh of a quotient is within 1000 units of its value. -/
theorem abs_atanh2_sub_le {a b : ℤ} (hb : b ≠ 0) (h : |(a / b : ℝ)| ≤ 1 / 2) :
    |(atanh2 a b : ℝ) - (Real.log (1 + a / b) - Real.log (1 - a / b)) * unit| ≤ 1000 := by
  set z : ℝ := a / b with hz
  have hzq : |(divq (a * unit) b : ℝ) - z * unit| ≤ 1 / 2 := by
    have h := abs_divq_sub_le (a * unit) hb
    rwa [Int.cast_mul, mul_div_right_comm] at h
  have hzz : |(divq (divq (a * unit) b * divq (a * unit) b) unit : ℝ) - z ^ 2 * unit| ≤ 2 := by
    have h' := abs_divq_mul_sub_le one_pos (by norm_num) (by norm_num) hzq hzq
    rw [mul_one, Int.cast_one, div_one, ← sq z] at h'
    linarith
  have hQ : |z ^ 2| ≤ 1 / 4 := by
    rw [abs_pow]; nlinarith [abs_nonneg z]
  have hsum := abs_atanh2From_sub_le hQ hzz 130 one_pos h (hzq.trans (by norm_num))
  rw [Int.cast_one] at hsum
  have htail := abs_mul_unit_le (abs_sum_odd_powers_sub_log_le h)
  rw [sub_mul] at htail
  have htri := abs_sub_le (atanh2 a b : ℝ) ((∑ j ∈ range 130, 2 * z * (z ^ 2) ^ j / (1 + 2 * j)) * unit)
    ((Real.log (1 + z) - Real.log (1 - z)) * unit)
  norm_num at hsum
  exact htri.trans (by unfold atanh2; linarith)

theorem abs_ln3_sub_le : |(ln3 : ℝ) - Real.log 3 * unit| ≤ 1000 := by
  have h := abs_atanh2_sub_le (a := 1) (b := 2) (by norm_num) (by norm_num)
  have hlog : Real.log (1 + (1 : ℤ) / (2 : ℤ)) - Real.log (1 - (1 : ℤ) / (2 : ℤ)) = Real.log 3 := by
    rw [← Real.log_div (by norm_num) (by norm_num)]; norm_num
  rwa [hlog] at h

/-! ### The series of e^y -/

/-- Each term of the series is within 1505 units of its value. -/
theorem abs_expFrom_sub_le {y : ℤ} {h : ℝ} (hh : |h| ≤ 3 / 5) (hy : |(y : ℝ) - h * unit| ≤ 501) (m : ℕ) {term : ℤ} {i : ℕ}
    {T : ℝ} (hi : 0 < i) (hT : |T| ≤ 1) (hterm : |(term : ℝ) - T * unit| ≤ 1505) :
    |(expFrom y m term i : ℝ) - (∑ j ∈ range m, T * h ^ j / i.ascFactorial j) * unit| ≤ 1505 * m := by
  induction m generalizing term i T with
  | zero => simp [expFrom]
  | succ m ih =>
    have hi' : (1 : ℝ) ≤ i := by exact_mod_cast hi
    have hTh : |T * h| ≤ 1 := by
      rw [abs_mul]; nlinarith [abs_nonneg T, abs_nonneg h]
    have hTi : |T * h / i| ≤ 1 := by
      rw [abs_div, abs_of_pos (by linarith : (0 : ℝ) < i)]
      exact (div_le_self (abs_nonneg _) hi').trans hTh
    have hnext : |(divq (term * y) (unit * i) : ℝ) - T * h / i * unit| ≤ 1505 := by
      have h' := abs_divq_mul_sub_le (i := (i : ℤ)) (by omega) (by norm_num) (by norm_num) hterm hy
      rw [Int.cast_natCast] at h'
      linarith
    have hrest := ih (by omega : 0 < i + 1) hTi hnext
    have hshift : ∑ j ∈ range m, T * h ^ (j + 1) / i.ascFactorial (j + 1) =
        ∑ j ∈ range m, T * h / i * h ^ j / (i + 1).ascFactorial j := by
      refine Finset.sum_congr rfl fun j _ => ?_
      rw [Nat.ascFactorial_succ, ← Nat.succ_ascFactorial, pow_succ, Nat.cast_mul]
      field_simp
    rw [sum_range_succ', hshift, pow_zero, mul_one, Nat.ascFactorial_zero, Nat.cast_one, div_one, expFrom]
    push_cast at hrest ⊢
    calc _ = |((term : ℝ) - T * unit) + ((expFrom y m (divq (term * y) (unit * i)) (i + 1) : ℝ) -
          (∑ j ∈ range m, T * h / i * h ^ j / (i + 1).ascFactorial j) * unit)| := by congr 1; ring
      _ ≤ _ := abs_add_le _ _
      _ ≤ 1505 * (m + 1) := by linarith

/-- The series is within its slack of e^h, for an argument within 501 units of h. -/
theorem abs_expFrom_sub_exp_lt {y : ℤ} {h : ℝ} (hh : |h| ≤ 3 / 5) (hy : |(y : ℝ) - h * unit| ≤ 501) :
    |(expFrom y 120 unit 1 : ℝ) - Real.exp h * unit| < slack := by
  have hsum := abs_expFrom_sub_le hh hy 120 one_pos (T := 1) (by norm_num) (term := unit) (by norm_num)
  simp only [one_mul, Nat.one_ascFactorial, Nat.cast_one] at hsum
  have hexp := Real.exp_bound (by linarith : |h| ≤ 1) (by norm_num : 0 < 120)
  have hsmall : |h| ^ 120 * ((Nat.succ 120 : ℕ) / (Nat.factorial 120 * (120 : ℕ))) ≤ 1 / unit := by
    have hpow : |h| ^ 120 ≤ 1 := pow_le_one₀ (abs_nonneg _) (by linarith)
    have hfact : (Nat.succ 120 : ℝ) / (Nat.factorial 120 * 120) ≤ 1 / unit := by
      rw [cast_unit, div_le_div_iff₀ (by positivity) (by positivity)]
      norm_num [Nat.factorial]
    exact (mul_le_of_le_one_left (by positivity) hpow).trans (by exact_mod_cast hfact)
  have htail := abs_mul_unit_le (hexp.trans hsmall)
  rw [sub_mul, abs_sub_comm] at htail
  have htri := abs_sub_le (expFrom y 120 unit 1 : ℝ) ((∑ j ∈ range 120, h ^ j / (Nat.factorial j : ℝ)) * unit)
    (Real.exp h * unit)
  have hslack : (slack : ℝ) = 531441 := by norm_num [slack, p3]
  rw [hslack]
  norm_num at hsum
  linarith

end Sys2Proof.Machine

/-!
SUPPORT. FEXP3 and FLOG3: what `powBelow` and `logBelow` compare, that the results are irrational where they are no exact
powers, and the rounding of results out of the range of a format or within the slack of a series (R135, R152, R158).
-/

namespace Sys2Proof.Machine

/-! ### Comparisons -/

theorem cast_p3z_real {j : ℤ} (h : 0 ≤ j) : ((p3z j : ℤ) : ℝ) = 3 ^ j := by
  obtain ⟨m, rfl⟩ := Int.eq_ofNat_of_zero_le h
  simp [p3z, p3]

/-- The value of a fraction as a real power. -/
theorem TFrac.cast_val (x : TFrac) : (x.val : ℝ) = x.n * 3 ^ x.k := by rw [TFrac.val]; push_cast; rfl

/-- 3^x, with a whole exponent once raised to the power of the denominator of x. -/
theorem three_rpow_pow (v : TFrac) (hk : v.k ≤ 0) : ((3 : ℝ) ^ (v.val : ℝ)) ^ (3 ^ (-v.k).toNat) = 3 ^ v.n := by
  obtain ⟨j, hj⟩ : ∃ j : ℕ, v.k = -j := ⟨(-v.k).toNat, by omega⟩
  rw [← Real.rpow_natCast, ← Real.rpow_mul (by norm_num), ← Real.rpow_intCast, v.cast_val, hj, neg_neg, Int.toNat_natCast]
  congr 1
  push_cast
  rw [mul_assoc, ← zpow_natCast (3 : ℝ) j, ← zpow_add₀ (by norm_num), neg_add_cancel, zpow_zero, mul_one]

/-- `powBelow` tells whether 3^v lies below c/2. -/
theorem powBelow_iff {v : TFrac} (hk : v.k ≤ 0) (c : TFrac) :
    powBelow v c = true ↔ (3 : ℝ) ^ (v.val : ℝ) < c.val / 2 := by
  have hX : (0 : ℝ) < 3 ^ (v.val : ℝ) := by positivity
  set d : ℕ := 3 ^ (-v.k).toNat with hd
  have hd0 : d ≠ 0 := by positivity
  have hpow := three_rpow_pow v hk
  rw [powBelow, Bool.and_eq_true, decide_eq_true_eq]
  rw [← hd] at hpow ⊢
  have hck : (0 : ℝ) < 3 ^ c.k := by positivity
  by_cases hc : 0 < c.n
  · have hcn : (0 : ℝ) < c.n := by exact_mod_cast hc
    have hpos : (0 : ℝ) ≤ c.val / 2 := by rw [c.cast_val]; positivity
    have hraise : (3 : ℝ) ^ (v.val : ℝ) < c.val / 2 ↔ (2 : ℝ) ^ d * 3 ^ (v.n - c.k * d) < c.n ^ d := by
      have hexp : (3 : ℝ) ^ (v.n - c.k * d) = 3 ^ v.n / (3 ^ c.k) ^ d := by
        rw [zpow_sub₀ (by norm_num), zpow_mul, zpow_natCast]
      rw [← pow_lt_pow_iff_left₀ hX.le hpos hd0, hpow, c.cast_val, div_pow, mul_pow, hexp, ← mul_div_assoc,
        div_lt_iff₀ (by positivity), lt_div_iff₀ (by positivity), mul_comm]
    rw [hraise, and_iff_right hc]
    split
    · next he =>
      rw [decide_eq_true_eq, ← cast_p3z_real he]
      exact_mod_cast Iff.rfl
    · next he =>
      have hneg : (3 : ℝ) ^ (v.n - c.k * d) = (3 ^ (-(v.n - c.k * d)))⁻¹ := by rw [zpow_neg, inv_inv]
      rw [decide_eq_true_eq, hneg, mul_inv_lt_iff₀ (by positivity), ← cast_p3z_real (by omega)]
      exact_mod_cast Iff.rfl
  · have hcn : (c.n : ℝ) ≤ 0 := by exact_mod_cast not_lt.1 hc
    have hle : (c.val : ℝ) / 2 ≤ 0 := by
      rw [c.cast_val]; linarith [mul_nonpos_of_nonpos_of_nonneg hcn hck.le]
    exact iff_of_false (fun h => hc h.1) (not_lt.2 (hle.trans hX.le))

/-- `logBelow` tells whether log₃ of a positive fraction lies below c/2. -/
theorem logBelow_iff {v : TFrac} (hn : 0 < v.n) (c : TFrac) :
    logBelow v c = true ↔ Real.logb 3 (v.val : ℝ) < c.val / 2 := by
  have hnr : (1 : ℝ) ≤ v.n := by exact_mod_cast hn
  have hd : (0 : ℝ) < ((2 * 3 ^ (-c.k).toNat : ℕ) : ℝ) := by positivity
  have hpart : (c.n * p3z c.k : ℝ) = c.val / 2 * ((2 * 3 ^ (-c.k).toNat : ℕ) : ℝ) := by
    rw [c.cast_val]
    push_cast
    rcases le_total 0 c.k with hk | hk
    · rw [cast_p3z_real hk, Int.toNat_of_nonpos (by omega)]; ring
    · have h0 : p3z c.k = 1 := by rw [p3z, Int.toNat_of_nonpos hk]; rfl
      obtain ⟨j, hj⟩ : ∃ j : ℕ, c.k = -j := ⟨(-c.k).toNat, by omega⟩
      rw [h0, hj, neg_neg, Int.toNat_natCast, zpow_neg, zpow_natCast]
      field_simp; norm_num
  set d : ℕ := 2 * 3 ^ (-c.k).toNat with hdef
  have hlog : Real.logb 3 (v.val : ℝ) = Real.logb 3 v.n + v.k := by
    rw [v.cast_val, Real.logb_mul (by positivity) (by positivity), ← Real.rpow_intCast,
      Real.logb_rpow (by norm_num) (by norm_num)]
  have hraise : Real.logb 3 (v.val : ℝ) < c.val / 2 ↔ (v.n : ℝ) ^ d < 3 ^ (c.n * p3z c.k - v.k * (d : ℤ)) := by
    rw [← mul_lt_mul_iff_left₀ hd, ← hpart, hlog, ← Real.rpow_intCast, ← Real.logb_lt_iff_lt_rpow (by norm_num) (by positivity),
      Real.logb_pow, ← sub_pos, ← sub_pos (b := (d : ℝ) * _)]
    push_cast
    rw [show (c.n * p3z c.k - (Real.logb 3 v.n + v.k) * d : ℝ) = c.n * p3z c.k - v.k * d - d * Real.logb 3 v.n by ring]
  rw [hraise, logBelow, Bool.and_eq_true, decide_eq_true_eq, decide_eq_true_eq]
  rw [← hdef]
  by_cases he : 0 ≤ c.n * p3z c.k - v.k * (d : ℤ)
  · rw [and_iff_right he, ← cast_p3z_real he]
    exact_mod_cast Iff.rfl
  · refine iff_of_false (fun h => he h.1) (not_lt.2 ?_)
    exact (zpow_le_one_of_nonpos₀ (by norm_num) (not_le.1 he).le).trans (one_le_pow₀ hnr)

/-! ### Irrational results -/

/-- A fraction that is no whole number has no positive exponent. -/
theorem TFrac.k_nonpos (v : TFrac) (hv : ∀ i : ℤ, (i : ℚ) ≠ v.val) : v.k ≤ 0 := by
  by_contra hk
  refine hv (v.n * p3z v.k) ?_
  rw [Int.cast_mul, cast_p3z (by omega), TFrac.val]

/-- 3^v is rational only for a whole number v. -/
theorem three_rpow_irrational {v : TFrac} (hv : ∀ i : ℤ, (i : ℚ) ≠ v.val) (q : ℚ) : (q : ℝ) ≠ 3 ^ (v.val : ℝ) := by
  intro hq
  have hk := v.k_nonpos hv
  have hpow : q ^ (3 ^ (-v.k).toNat) = 3 ^ v.n := by
    have h := three_rpow_pow v hk
    rw [← hq] at h
    rw [← Rat.cast_inj (α := ℝ)]
    push_cast; exact h
  have : Fact (Nat.Prime 3) := ⟨Nat.prime_three⟩
  have hval := congrArg (padicValRat 3) hpow
  rw [padicValRat.pow, padicValRat.zpow, show padicValRat 3 (3 : ℚ) = 1 from padicValRat.self (by norm_num),
    mul_one] at hval
  refine hv (padicValRat 3 q) ?_
  have hcast : ((3 ^ (-v.k).toNat : ℕ) : ℚ) * padicValRat 3 q = v.n := by exact_mod_cast hval
  obtain ⟨j, hj⟩ : ∃ j : ℕ, v.k = -j := ⟨(-v.k).toNat, by omega⟩
  rw [TFrac.val, ← hcast, hj, neg_neg, Int.toNat_natCast, zpow_neg, zpow_natCast]
  push_cast
  field_simp

/-- log₃ of a fraction is rational only for a power of three. -/
theorem logb_irrational {v : TFrac} (hn : 0 < v.n) (hv : ∀ r : ℕ, v.n ≠ 3 ^ r) (q : ℚ) :
    (q : ℝ) ≠ Real.logb 3 (v.val : ℝ) := by
  intro hq
  have hnr : (0 : ℝ) < v.n := by exact_mod_cast hn
  have hpos : (0 : ℝ) < v.val := by rw [v.cast_val]; positivity
  have hden : (0 : ℝ) < q.den := by exact_mod_cast q.den_pos
  have hx : (v.val : ℝ) ^ q.den = 3 ^ q.num := by
    rw [← Real.rpow_logb (b := 3) (by norm_num) (by norm_num) hpos, ← hq, ← Real.rpow_natCast, ← Real.rpow_mul (by norm_num),
      ← Real.rpow_intCast]
    congr 1
    exact_mod_cast q.mul_den_eq_num
  have hpow : (v.n : ℝ) ^ q.den = 3 ^ (q.num - v.k * q.den) := by
    rw [zpow_sub₀ (by norm_num), ← hx, v.cast_val, mul_pow, zpow_mul, zpow_natCast, mul_div_cancel_right₀ _ (by positivity)]
  have hone : (1 : ℝ) ≤ (v.n : ℝ) ^ q.den := one_le_pow₀ (by exact_mod_cast hn)
  obtain ⟨r, hr⟩ : ∃ r : ℕ, q.num - v.k * q.den = r := by
    refine Int.eq_ofNat_of_zero_le (not_lt.1 fun hlt => ?_)
    rw [hpow] at hone
    exact absurd hone (not_le.2 (zpow_lt_one_of_neg₀ (by norm_num) hlt))
  rw [hr, zpow_natCast] at hpow
  have hnat : v.n.toNat ^ q.den = 3 ^ r := by
    have h : v.n ^ q.den = 3 ^ r := by exact_mod_cast hpow
    rw [← Int.toNat_of_nonneg hn.le] at h
    exact_mod_cast h
  obtain ⟨s, -, hs⟩ := (Nat.dvd_prime_pow Nat.prime_three).1 (hnat ▸ dvd_pow_self v.n.toNat q.den_pos.ne')
  refine hv s ?_
  rw [← Int.toNat_of_nonneg hn.le, hs]; push_cast; rfl

/-! ### Results out of range -/

section Range

variable {f : RFmt} {x : TFrac} {X : ℝ}

theorem sameSide_of_interval {g a X : ℝ} (hg : 0 < g) {j : ℤ} (ha : j * g < a) (ha' : a < (j + 1) * g) (hX : j * g < X)
    (hX' : X < (j + 1) * g) : SameSide g a X := by
  have side {b : ℝ} (h : j * g < b) (h' : b < (j + 1) * g) (m : ℤ) : (m * g < b ↔ m ≤ j) ∧ (b < m * g ↔ j < m) := by
    by_cases hm : m ≤ j
    · have hle : (m : ℝ) * g ≤ j * g := mul_le_mul_of_nonneg_right (by exact_mod_cast hm) hg.le
      exact ⟨iff_of_true (hle.trans_lt h) hm, iff_of_false (not_lt.2 (hle.trans h.le)) (not_lt.2 hm)⟩
    · have hle : (j + 1 : ℝ) * g ≤ m * g :=
        mul_le_mul_of_nonneg_right (by exact_mod_cast Int.add_one_le_of_lt (not_le.1 hm)) hg.le
      exact ⟨iff_of_false (not_lt.2 (h'.le.trans hle)) hm, iff_of_true (h'.trans_le hle) (not_le.1 hm)⟩
  intro m
  obtain ⟨h1, h2⟩ := side ha ha' m
  obtain ⟨h3, h4⟩ := side hX hX' m
  exact ⟨h1.trans h3.symm, h2.trans h4.symm⟩

/-- A positive number below every value at which rounding parts. -/
theorem RFmt.roundsTo_of_small (hf : f.Sane) (hx : 0 < x.n) (hxs : (x.val : ℝ) < f.grain (-f.lim) / 2) (hX : 0 < X)
    (hXs : X < f.grain (-f.lim) / 2) : f.RoundsTo X (f.rounded x) := by
  have hpos : (0 : ℝ) < x.val := by
    have : (0 : ℝ) < x.n := by exact_mod_cast hx
    rw [x.cast_val]; positivity
  have hg := f.grain_pos (-f.lim)
  refine f.roundsTo_of_sameSide hf hx.ne' (le_max_right _ _) (sameSide_of_interval (j := 0) (by positivity) ?_ ?_ ?_ ?_)
  all_goals simpa only [Int.cast_zero, zero_mul, zero_add, one_mul]

/-- From the power of three of the infinities on, a fraction overflows. -/
theorem RFmt.rounded_of_large (hf : f.Sane) (hx : x.n ≠ 0) (h : 3 ^ f.lim ≤ x.val) :
    f.rounded x = (f.inf false, ⟨false, true, false, true⟩) := by
  have hmax : (2 * f.maxF : ℚ) = 3 * f.half - 1 := by exact_mod_cast f.two_maxF hf
  have hhalf : (1 : ℚ) ≤ f.half := by exact_mod_cast f.half_pos
  have hpos : (0 : ℚ) < 3 ^ (f.lim - 1 - f.frac) := by positivity
  have hval : 0 < x.val := lt_of_lt_of_le (by positivity) h
  have hunit : 3 * (f.half : ℚ) * 3 ^ (f.lim - 1 - f.frac) ≤ 3 ^ f.lim := by
    rw [f.three_mul_half_mul hf]
    exact zpow_le_zpow_right₀ (by norm_num) (by omega)
  have hlarge : (f.maxF + 1 : ℚ) * 3 ^ (f.lim - 1 - f.frac) ≤ |x.val| := by
    rw [abs_of_pos hval]; nlinarith
  have hbig := (f.big_iff_half_way hf hx).2 hlarge
  have htiny : f.tiny x.n x.k (x.k + tritLen x.n) = false := by
    rw [← Bool.not_eq_true, f.tiny_iff hf hx, not_lt]
    exact (f.minF_bound_le_maxF_bound hf).trans (by linarith)
  have hneg : ¬ x.n < 0 := fun hn => absurd (x.val_neg_iff.2 hn) (not_lt.2 hval.le)
  rw [f.rounded_eq hf hx, if_pos hbig, htiny, decide_eq_false hneg]

/-- So does an irrational number: a fraction lies on the same side of every value at which rounding parts. -/
theorem RFmt.roundsTo_of_large (hf : f.Sane) (hirr : ∀ q : ℚ, (q : ℝ) ≠ X) (h : 3 ^ f.lim ≤ X) :
    f.RoundsTo X (f.inf false, ⟨false, true, false, true⟩) := by
  set k : ℤ := f.lim - 3 - f.frac with hk
  have hunit : (0 : ℝ) < 3 ^ k := by positivity
  have hg : f.grain f.lim / 2 = 3 * 3 ^ k / 2 := by
    rw [RFmt.grain, show f.lim - 2 - f.frac = k + 1 by omega, zpow_add_one₀ (by norm_num)]; ring
  have hgpos : (0 : ℝ) < f.grain f.lim / 2 := by rw [hg]; positivity
  set j : ℤ := ⌊X / (f.grain f.lim / 2)⌋ with hj
  have hjlo : (j : ℝ) * (f.grain f.lim / 2) ≤ X := by rw [← le_div_iff₀ hgpos]; exact Int.floor_le _
  have hjhi : X < (j + 1) * (f.grain f.lim / 2) := by rw [← div_lt_iff₀ hgpos]; exact Int.lt_floor_add_one _
  have hjne : (j : ℝ) * (f.grain f.lim / 2) ≠ X := by
    intro heq
    refine hirr (j * (3 * 3 ^ k / 2)) ?_
    rw [← heq, hg]; push_cast; rfl
  have hlim : (3 : ℝ) ^ f.lim = ((2 * 3 ^ (f.frac + 2) : ℤ) : ℝ) * (f.grain f.lim / 2) := by
    rw [hg, show f.lim = (f.frac + 2 : ℕ) + (1 + k) by push_cast; omega, zpow_add₀ (by norm_num), zpow_natCast,
      zpow_add₀ (by norm_num), zpow_one]
    push_cast; ring
  have hjbig : 2 * 3 ^ (f.frac + 2) ≤ j := by
    rw [hj, Int.le_floor, le_div_iff₀ hgpos, ← hlim]; exact h
  set n : ℤ := (3 * j + 2) / 2 with hn
  have hnlo : (3 * j : ℝ) < 2 * n := by exact_mod_cast (by omega : 3 * j < 2 * n)
  have hnhi : (2 * n : ℝ) < 3 * (j + 1) := by exact_mod_cast (by omega : 2 * n < 3 * (j + 1))
  have hval : ((TFrac.mk n k).val : ℝ) = n * 3 ^ k := TFrac.cast_val _
  have hlo : (j : ℝ) * (f.grain f.lim / 2) < (TFrac.mk n k).val := by rw [hval, hg]; nlinarith
  have hhi : ((TFrac.mk n k).val : ℝ) < (j + 1) * (f.grain f.lim / 2) := by rw [hval, hg]; nlinarith
  have hlarge : 3 ^ f.lim ≤ (TFrac.mk n k).val := by
    have hle : (3 : ℝ) ^ f.lim ≤ (TFrac.mk n k).val := by
      rw [hlim]
      exact (mul_le_mul_of_nonneg_right (by exact_mod_cast hjbig) hgpos.le).trans hlo.le
    rw [← Rat.cast_le (K := ℝ)]
    push_cast; exact hle
  have hnpos : n ≠ 0 := by
    have : (0 : ℤ) < 3 ^ (f.frac + 2) := by positivity
    omega
  have hplace : f.lim ≤ f.place ⟨n, k⟩ := by
    have hlt := hlarge.trans_lt (lt_of_le_of_lt (le_abs_self _) (lt_of_le_of_lt (by linarith [abs_nonneg (TFrac.mk n k).val])
      (TFrac.two_abs_val_lt ⟨n, k⟩)))
    exact ((zpow_lt_zpow_iff_right₀ (by norm_num)).1 hlt).le.trans (f.tritLen_le_place _)
  rw [← f.rounded_of_large hf hnpos hlarge]
  exact f.roundsTo_of_sameSide hf hnpos hplace
    (sameSide_of_interval hgpos hlo hhi (lt_of_le_of_ne hjlo hjne) hjhi)

/-- An irrational number within the slack of a whole number of units. -/
theorem RFmt.roundsTo_between_of_near (hf : f.Sane) (hfrac : f.frac ≤ 21) {c k : ℤ} {Y : ℝ}
    (hirr : ∀ q : ℚ, (q : ℝ) ≠ Y * 3 ^ k) (hnear : |(c : ℝ) - Y| < slack) (hY : 3 ^ 60 ≤ |Y|) {below : TFrac → Bool}
    (hbelow : ∀ c, below c = true ↔ Y * 3 ^ k < c.val / 2) :
    f.RoundsTo (Y * 3 ^ k) (f.between ⟨c - slack, k⟩ ⟨c + slack, k⟩ below) := by
  have hk : (0 : ℝ) < 3 ^ k := by positivity
  have hs : (slack : ℝ) = 531441 := by norm_num [slack, p3]
  have hs' : slack = 531441 := by norm_num [slack, p3]
  obtain ⟨h1, h2⟩ := abs_lt.1 hnear
  have hsides : (0 < Y ∧ (3 : ℤ) ^ 59 ≤ c - slack) ∨ (Y < 0 ∧ c + slack ≤ -3 ^ 59) := by
    obtain ⟨ha, hy⟩ | ⟨ha, hy⟩ := abs_cases Y
    · refine .inl ⟨by linarith, ?_⟩
      have : (3 : ℝ) ^ 59 ≤ c - slack := by linarith
      exact_mod_cast this
    · refine .inr ⟨hy, ?_⟩
      have : (c + slack : ℝ) ≤ -3 ^ 59 := by linarith
      exact_mod_cast this
  have place {n : ℤ} (hn : 3 ^ 59 ≤ |n|) : k + 60 ≤ f.place ⟨n, k⟩ := by
    have hlen := lt_tritLen (j := 59) (n := n) (by omega)
    have := f.tritLen_le_place ⟨n, k⟩
    dsimp only at this
    omega
  have hlo : 3 ^ 59 ≤ |c - slack| := by
    obtain ⟨-, h⟩ | ⟨-, h⟩ := hsides
    · exact h.trans (le_abs_self _)
    · exact le_trans (by omega) (neg_le_abs _)
  have hhi : 3 ^ 59 ≤ |c + slack| := by
    obtain ⟨-, h⟩ | ⟨-, h⟩ := hsides
    · exact le_trans (by omega) (le_abs_self _)
    · exact le_trans (by omega) (neg_le_abs _)
  refine f.roundsTo_between hf (P := k + 60) (abs_pos.1 (lt_of_lt_of_le (by norm_num) hlo))
    (abs_pos.1 (lt_of_lt_of_le (by norm_num) hhi)) ?sign hirr ?lo ?hi (place hlo)
    (place hhi) ?gap hbelow
  case sign =>
    dsimp only
    obtain ⟨-, h⟩ | ⟨-, h⟩ := hsides
    · exact iff_of_false (by omega) (by omega)
    · exact iff_of_true (by omega) (by omega)
  case lo =>
    rw [TFrac.cast_val]; push_cast
    exact mul_lt_mul_of_pos_right (by linarith) hk
  case hi =>
    rw [TFrac.cast_val]; push_cast
    exact mul_lt_mul_of_pos_right (by linarith) hk
  case gap =>
    have hgrain : (3 : ℝ) ^ 37 * 3 ^ k ≤ f.grain (k + 60) := by
      rw [RFmt.grain, ← zpow_natCast, ← zpow_add₀ (by norm_num)]
      exact zpow_le_zpow_right₀ (by norm_num) (by push_cast; omega)
    rw [TFrac.cast_val, TFrac.cast_val]; push_cast
    rw [hs]
    linarith

end Range

end Sys2Proof.Machine

/-!
SUPPORT. FEXP3 and FLOG3 of finite operands give the exact value rounded once (R152, R158), and O17.
-/

namespace Sys2Proof.Machine

/-! ### ln 3 -/

theorem one_add_lt_log_three : (1.02 : ℝ) < Real.log 3 := by
  have h2 := Real.log_two_gt_d9
  have h3 := Real.one_sub_inv_le_log_of_pos (by norm_num : (0 : ℝ) < 3 / 2)
  have hsum : Real.log 3 = Real.log 2 + Real.log (3 / 2) := by
    rw [← Real.log_mul (by norm_num) (by norm_num)]; norm_num
  norm_num at h2 h3 ⊢
  linarith

theorem log_three_lt : Real.log 3 < 1.2 := by
  have h2 := Real.log_two_lt_d9
  have h3 := Real.log_le_sub_one_of_pos (by norm_num : (0 : ℝ) < 3 / 2)
  have hsum : Real.log 3 = Real.log 2 + Real.log (3 / 2) := by
    rw [← Real.log_mul (by norm_num) (by norm_num)]; norm_num
  norm_num at h2 h3 ⊢
  linarith

/-! ### 3^x -/

section Exp

variable {f : RFmt} {v : TFrac}

/-- The exponent that FEXP3 takes for a fraction out of range keeps it out of range. -/
theorem RFmt.roundsTo_exp3_large (hf : f.Sane) (hlim : f.lim ≤ 364) {i : ℤ} (hi : 2000 < i) (hv : (i : ℝ) - 1 < v.val)
    (hint : ∀ j : ℤ, (j : ℚ) = v.val → j = i) :
    f.RoundsTo ((3 : ℝ) ^ (v.val : ℝ)) (f.rounded ⟨1, max (-3000) (min 3000 i)⟩) := by
  have large {m : ℤ} (hm : f.lim ≤ m) : f.rounded ⟨1, m⟩ = (f.inf false, ⟨false, true, false, true⟩) :=
    f.rounded_of_large hf one_ne_zero
      (by rw [TFrac.val, Int.cast_one, one_mul]; exact zpow_le_zpow_right₀ (by norm_num) hm)
  rw [large (by omega)]
  by_cases hirr : ∀ j : ℤ, (j : ℚ) ≠ v.val
  · refine f.roundsTo_of_large hf (three_rpow_irrational hirr) ?_
    have hir : (2000 : ℝ) < i := by exact_mod_cast hi
    have hlr : (f.lim : ℝ) ≤ 364 := by exact_mod_cast hlim
    rw [← Real.rpow_intCast]
    exact Real.rpow_le_rpow_of_exponent_le (by norm_num) (by linarith)
  · push Not at hirr
    obtain ⟨j, hj⟩ := hirr
    rw [hint j hj] at hj
    have h := f.roundsTo_rounded hf ⟨1, i⟩
    rw [large (by omega), TFrac.cast_val, Int.cast_one, one_mul] at h
    rwa [← hj, Rat.cast_intCast, Real.rpow_intCast]

theorem RFmt.roundsTo_exp3_small (hf : f.Sane) (hlim : f.lim ≤ 364) (hfrac : f.frac ≤ 21) {i : ℤ} (hi : i < -2000)
    (hv : (v.val : ℝ) < i + 1) : f.RoundsTo ((3 : ℝ) ^ (v.val : ℝ)) (f.rounded ⟨1, max (-3000) (min 3000 i)⟩) := by
  have small : (3 : ℝ) ^ (-1000 : ℤ) < f.grain (-f.lim) / 2 := by
    have h : (3 : ℝ) * 3 ^ (-1000 : ℤ) ≤ f.grain (-f.lim) := by
      rw [RFmt.grain, mul_comm, ← zpow_add_one₀ (by norm_num)]
      exact zpow_le_zpow_right₀ (by norm_num) (by omega)
    have hpos : (0 : ℝ) < 3 ^ (-1000 : ℤ) := by positivity
    linarith
  refine f.roundsTo_of_small hf one_pos ?_ (by positivity) ?_
  · rw [TFrac.cast_val, Int.cast_one, one_mul]
    exact (zpow_le_zpow_right₀ (by norm_num) (by dsimp only; omega)).trans_lt small
  · refine lt_of_le_of_lt ?_ small
    have hir : (i : ℝ) < -2000 := by exact_mod_cast hi
    rw [← Real.rpow_intCast]
    exact Real.rpow_le_rpow_of_exponent_le (by norm_num) (by push_cast; linarith)

/-- The argument of the series is within 501 units of its value. -/
theorem abs_expArg_sub_le (d : TFrac) (hd : |(d.val : ℝ)| ≤ 1 / 2) :
    |((TFrac.mk (d.n * ln3) d.k).nearest : ℝ) - d.val * Real.log 3 * unit| ≤ 501 := by
  have hnear := (TFrac.mk (d.n * ln3) d.k).two_abs_nearest_sub_lt
  have hval : (TFrac.mk (d.n * ln3) d.k).val = d.val * ln3 := by rw [TFrac.val, TFrac.val]; push_cast; ring
  rw [hval] at hnear
  have hnear : 2 * |((TFrac.mk (d.n * ln3) d.k).nearest : ℝ) - d.val * ln3| < 1 := by exact_mod_cast hnear
  have hln : |(d.val : ℝ) * ln3 - d.val * Real.log 3 * unit| ≤ 500 := by
    rw [mul_assoc, ← mul_sub, abs_mul]
    nlinarith [abs_ln3_sub_le, abs_nonneg (d.val : ℝ), abs_nonneg ((ln3 : ℝ) - Real.log 3 * unit)]
  linarith [abs_sub_le ((TFrac.mk (d.n * ln3) d.k).nearest : ℝ) (d.val * ln3) (d.val * Real.log 3 * unit)]

/-- 3^x by its series, for an x that is no whole number. -/
theorem RFmt.roundsTo_exp3_between (hf : f.Sane) (hfrac : f.frac ≤ 21) (hirr : ∀ j : ℤ, (j : ℚ) ≠ v.val) :
    let d := v.add ⟨-v.nearest, 0⟩
    let e := expFrom (TFrac.mk (d.n * ln3) d.k).nearest 120 unit 1
    f.RoundsTo ((3 : ℝ) ^ (v.val : ℝ))
      (f.between ⟨e - slack, v.nearest - places⟩ ⟨e + slack, v.nearest - places⟩ (powBelow v)) := by
  intro d e
  have hdval : d.val = v.val - v.nearest := by
    rw [TFrac.val_add, sub_eq_add_neg, add_right_inj, TFrac.val, Int.cast_neg, zpow_zero, mul_one]
  have hd : |(d.val : ℝ)| ≤ 1 / 2 := by
    have h : |d.val| ≤ 1 / 2 := by rw [hdval, abs_sub_comm]; linarith [v.two_abs_nearest_sub_lt]
    have := (Rat.cast_le (K := ℝ)).2 h
    push_cast at this; exact this
  have hlog := log_three_lt
  have hlog1 := one_add_lt_log_three
  have hh : |(d.val : ℝ) * Real.log 3| ≤ 3 / 5 := by
    rw [abs_mul, abs_of_pos (by linarith : (0 : ℝ) < Real.log 3)]
    nlinarith [abs_nonneg (d.val : ℝ)]
  have hnear : |(e : ℝ) - Real.exp (d.val * Real.log 3) * unit| < slack :=
    abs_expFrom_sub_exp_lt hh (abs_expArg_sub_le d hd)
  have hX : (3 : ℝ) ^ (v.val : ℝ) = Real.exp (d.val * Real.log 3) * unit * 3 ^ (v.nearest - places) := by
    have hv : (v.val : ℝ) = d.val + v.nearest := by rw [hdval]; push_cast; ring
    rw [hv, Real.rpow_add (by norm_num), Real.rpow_intCast, Real.rpow_def_of_pos (by norm_num), mul_comm (Real.log 3),
      mul_assoc, cast_unit, ← zpow_natCast, ← zpow_add₀ (by norm_num)]
    congr 2
    rw [places]; push_cast; ring
  have hY : (3 : ℝ) ^ 60 ≤ |Real.exp (d.val * Real.log 3) * unit| := by
    have hexp := Real.add_one_le_exp ((d.val : ℝ) * Real.log 3)
    have hlow := (abs_le.1 hh).1
    rw [abs_of_pos (by rw [cast_unit]; positivity), cast_unit]
    nlinarith
  have hirr' := three_rpow_irrational hirr
  have hbelow := powBelow_iff (v.k_nonpos hirr)
  rw [hX] at hirr' hbelow ⊢
  exact f.roundsTo_between_of_near hf hfrac hirr' hnear hY hbelow

theorem RFmt.roundsTo_exp3Fin (hf : f.Sane) (hfrac : f.frac ≤ 21) (hlim : f.lim ≤ 364) (v : TFrac) :
    f.RoundsTo ((3 : ℝ) ^ (v.val : ℝ)) (f.exp3Fin v) := by
  have hnear : 2 * |(v.nearest : ℝ) - v.val| < 1 := by exact_mod_cast v.two_abs_nearest_sub_lt
  have h1 := le_abs_self ((v.nearest : ℝ) - v.val)
  have h2 := neg_abs_le ((v.nearest : ℝ) - v.val)
  have hint (j : ℤ) (hj : (j : ℚ) = v.val) : j = v.nearest := by
    have h := v.two_abs_nearest_sub_lt
    rw [← hj] at h
    have h : 2 * |v.nearest - j| < 1 := by exact_mod_cast h
    have := abs_eq_zero.1 (by have := abs_nonneg (v.nearest - j); omega : |v.nearest - j| = 0)
    omega
  rw [RFmt.exp3Fin]
  split
  · next hout =>
    by_cases hlarge : 2000 < v.nearest
    · exact f.roundsTo_exp3_large hf hlim hlarge (by linarith) hint
    by_cases hsmall : v.nearest < -2000
    · exact f.roundsTo_exp3_small hf hlim hfrac hsmall (by linarith)
    · have hi := (v.isInt_iff _).1 (hout.resolve_right (by omega))
      have h := f.roundsTo_rounded hf ⟨1, v.nearest⟩
      rw [TFrac.cast_val, Int.cast_one, one_mul] at h
      rw [min_eq_right (by omega), max_eq_right (by omega), ← hi, Rat.cast_intCast, Real.rpow_intCast]
      exact h
  · next hin =>
    refine f.roundsTo_exp3_between hf hfrac fun j hj => hin (.inl ((v.isInt_iff _).2 ?_))
    rw [← hint j hj]; exact hj

end Exp

/-! ### log₃ x -/

section Log

variable {f : RFmt} {v : TFrac}

/-- n = m·3^a with m between 1/2 and 3/2: the argument of the series. -/
theorem abs_lnm_sub_le {n : ℤ} {a : ℕ} (hlo : 3 ^ a < 2 * n) (hhi : 2 * n < 3 * 3 ^ a) :
    |(atanh2 (n - p3 a) (n + p3 a) : ℝ) - Real.log (n / 3 ^ a) * unit| ≤ 1000 := by
  have hp : (0 : ℝ) < 3 ^ a := by positivity
  have hlo' : (3 : ℝ) ^ a < 2 * n := by exact_mod_cast hlo
  have hhi' : (2 * n : ℝ) < 3 * 3 ^ a := by exact_mod_cast hhi
  have hn : (0 : ℝ) < n := by linarith
  have hsum : (0 : ℝ) < n + 3 ^ a := by linarith
  have hz : (((n - p3 a : ℤ) : ℝ) / ((n + p3 a : ℤ) : ℝ)) = (n - 3 ^ a) / (n + 3 ^ a) := by
    rw [p3]; push_cast; rfl
  have hpz : (0 : ℤ) < 3 ^ a := by positivity
  have h := abs_atanh2_sub_le (a := n - p3 a) (b := n + p3 a) (by rw [p3]; omega) (by
    rw [hz, abs_le, div_le_iff₀ hsum, le_div_iff₀ hsum]; constructor <;> linarith)
  have hlog : Real.log (1 + (n - 3 ^ a) / (n + 3 ^ a)) - Real.log (1 - (n - 3 ^ a) / (n + 3 ^ a)) =
      Real.log (n / 3 ^ a) := by
    have h1 : (1 + (n - 3 ^ a) / (n + 3 ^ a) : ℝ) = 2 * n / (n + 3 ^ a) := by field_simp; ring
    have h2 : (1 - (n - 3 ^ a) / (n + 3 ^ a) : ℝ) = 2 * 3 ^ a / (n + 3 ^ a) := by field_simp; ring
    rw [h1, h2, ← Real.log_div (by positivity) (by positivity)]
    congr 1
    field_simp
  rwa [hz, hlog] at h

/-- The size of log₃ m: away from 0, since m is a quotient, and away from every other whole number. -/
theorem logb_bounds {n : ℤ} {a : ℕ} (hlo : 3 ^ a < 2 * n) (hhi : 2 * n < 3 * 3 ^ a) (hne : n ≠ 3 ^ a) :
    1 / (4 * 3 ^ a) ≤ |Real.logb 3 (n / 3 ^ a)| ∧ |Real.logb 3 (n / 3 ^ a)| ≤ 7 / 10 := by
  have hp : (1 : ℝ) ≤ 3 ^ a := one_le_pow₀ (by norm_num)
  have hlo' : (3 : ℝ) ^ a < 2 * n := by exact_mod_cast hlo
  have hhi' : (2 * n : ℝ) < 3 * 3 ^ a := by exact_mod_cast hhi
  have hm : (0 : ℝ) < n / 3 ^ a := div_pos (by linarith) (by linarith)
  have hlog := log_three_lt
  have hlog1 := one_add_lt_log_three
  have h2 : Real.log 2 < 7 / 10 := by have := Real.log_two_lt_d9; norm_num at this ⊢; linarith
  rw [Real.logb, abs_div, abs_of_pos (by linarith : 0 < Real.log 3)]
  constructor
  · rw [div_le_div_iff₀ (by positivity) (by linarith)]
    have hgap : 1 ≤ 2 * 3 ^ a * |Real.log (n / 3 ^ a)| := by
      obtain hlt | hgt := hne.lt_or_gt
      · have hd : (n : ℝ) + 1 ≤ 3 ^ a := by exact_mod_cast hlt
        have h := Real.log_le_sub_one_of_pos hm
        have hmul : (n / 3 ^ a - 1 : ℝ) * 3 ^ a ≤ -1 := by
          rw [sub_mul, div_mul_cancel₀ _ (by positivity)]; linarith
        have habs := neg_le_abs (Real.log (n / 3 ^ a))
        nlinarith
      · have hd : (3 : ℝ) ^ a + 1 ≤ n := by exact_mod_cast hgt
        have h := Real.one_sub_inv_le_log_of_pos hm
        have hmul : 1 ≤ 2 * 3 ^ a * (1 - (n / 3 ^ a : ℝ)⁻¹) := by
          rw [inv_div, one_sub_div (by linarith), ← mul_div_assoc, one_le_div (by linarith)]
          nlinarith
        have habs := le_abs_self (Real.log (n / 3 ^ a))
        nlinarith
    nlinarith
  · have habs : |Real.log (n / 3 ^ a)| ≤ Real.log 2 := by
      rw [abs_le, ← Real.log_inv]
      constructor
      · refine Real.log_le_log (by norm_num) ?_
        rw [le_div_iff₀ (by linarith)]; linarith
      · refine Real.log_le_log hm ?_
        rw [div_le_iff₀ (by linarith)]; linarith
    rw [div_le_iff₀ (by linarith)]
    linarith

/-- log₃ m by the quotient of two series. -/
theorem abs_logQuot_sub_le {n : ℤ} {a : ℕ} (hlo : 3 ^ a < 2 * n) (hhi : 2 * n < 3 * 3 ^ a) (hne : n ≠ 3 ^ a) :
    |(divq (atanh2 (n - p3 a) (n + p3 a) * unit) ln3 : ℝ) - Real.logb 3 (n / 3 ^ a) * unit| ≤ 2001 := by
  have hU := cast_unit_pos
  have hUbig : (100000 : ℝ) ≤ unit := by rw [cast_unit]; norm_num
  have hlog1 := one_add_lt_log_three
  have hln := abs_le.1 abs_ln3_sub_le
  have hln3 : (unit : ℝ) ≤ ln3 := by norm_num at hlog1; nlinarith
  have hln3ne : ln3 ≠ 0 := by
    intro h
    rw [h, Int.cast_zero] at hln3
    linarith
  set t := Real.logb 3 (n / 3 ^ a) with ht
  have htle : |t| ≤ 7 / 10 := (logb_bounds hlo hhi hne).2
  have hlog : Real.log (n / 3 ^ a) = t * Real.log 3 := by
    rw [ht, Real.logb, div_mul_cancel₀ _ (by linarith)]
  have hlnm := abs_lnm_sub_le hlo hhi
  rw [hlog] at hlnm
  have hdiff : |(atanh2 (n - p3 a) (n + p3 a) : ℝ) - t * ln3| ≤ 2000 := by
    have hprod : |t * ((ln3 : ℝ) - Real.log 3 * unit)| ≤ 1000 := by
      rw [abs_mul]
      nlinarith [abs_ln3_sub_le, abs_nonneg t, abs_nonneg ((ln3 : ℝ) - Real.log 3 * unit)]
    calc _ = |((atanh2 (n - p3 a) (n + p3 a) : ℝ) - t * Real.log 3 * unit) - t * ((ln3 : ℝ) - Real.log 3 * unit)| := by
          congr 1; ring
      _ ≤ _ := abs_sub _ _
      _ ≤ 2000 := by linarith
  have hquot : |((atanh2 (n - p3 a) (n + p3 a) * unit : ℤ) : ℝ) / ln3 - t * unit| ≤ 2000 := by
    have hsplit : ((atanh2 (n - p3 a) (n + p3 a) * unit : ℤ) : ℝ) / ln3 - t * unit =
        (atanh2 (n - p3 a) (n + p3 a) - t * ln3) * (unit / ln3) := by
      have : (ln3 : ℝ) ≠ 0 := by exact_mod_cast hln3ne
      push_cast; field_simp
    rw [hsplit, abs_mul, abs_of_pos (div_pos hU (hU.trans_le hln3))]
    exact (mul_le_of_le_one_right (abs_nonneg _) ((div_le_one (by linarith)).2 hln3)).trans hdiff
  have h := abs_divq_sub_le (atanh2 (n - p3 a) (n + p3 a) * unit) hln3ne
  linarith [abs_sub_le (divq (atanh2 (n - p3 a) (n + p3 a) * unit) ln3 : ℝ)
    (((atanh2 (n - p3 a) (n + p3 a) * unit : ℤ) : ℝ) / ln3) (t * unit)]

theorem RFmt.roundsTo_log3Fin (hf : f.Sane) (hfrac : f.frac ≤ 21) (hn : 0 < v.n) (hmax : v.n ≤ f.maxF) :
    f.RoundsTo (Real.logb 3 (v.val : ℝ)) (f.log3Fin v) := by
  obtain ⟨a, ha, hlo⟩ := tritLen_lt_two_abs hn.ne'
  have hhi := two_abs_lt_tritLen v.n
  rw [abs_of_pos hn] at hlo hhi
  rw [ha, pow_succ, mul_comm] at hhi
  have hhi : 2 * v.n < 3 * 3 ^ a := by linarith
  have hlog : Real.logb 3 (v.val : ℝ) = Real.logb 3 (v.n / 3 ^ a) + (v.k + a : ℤ) := by
    have hnr : (0 : ℝ) < v.n := by exact_mod_cast hn
    have hval : (v.val : ℝ) = v.n / 3 ^ a * 3 ^ (v.k + a) := by
      rw [v.cast_val, zpow_add₀ (by norm_num), zpow_natCast]; field_simp
    rw [hval, Real.logb_mul (by positivity) (by positivity), ← Real.rpow_intCast (3 : ℝ) (v.k + a),
      Real.logb_rpow (by norm_num) (by norm_num)]
  rw [RFmt.log3Fin, ha, Nat.add_sub_cancel]
  dsimp only
  split
  · next hpow =>
    have h := f.roundsTo_rounded hf ⟨v.k + a, 0⟩
    rw [TFrac.cast_val, zpow_zero, mul_one] at h
    have hone : (v.n / 3 ^ a : ℝ) = 1 := by
      rw [hpow, p3]; push_cast; exact div_self (by positivity)
    rwa [hlog, hone, Real.logb_one, zero_add]
  · next hpow =>
    have hne : v.n ≠ 3 ^ a := hpow
    have hnotpow (r : ℕ) : v.n ≠ 3 ^ r := by
      intro hr
      rw [hr] at hlo hhi
      have hra : r < a + 1 := (pow_lt_pow_iff_right₀ (by norm_num : (1 : ℤ) < 3)).1 (by rw [pow_succ]; linarith)
      have har : a < r + 1 := (pow_lt_pow_iff_right₀ (by norm_num : (1 : ℤ) < 3)).1 (by rw [pow_succ]; linarith)
      exact hne (by rw [hr, show r = a by omega])
    obtain ⟨hfar, hnear0⟩ := logb_bounds hlo hhi hne
    have hquot := abs_logQuot_sub_le hlo hhi hne
    set t := Real.logb 3 (v.n / 3 ^ a) with ht
    have hX : Real.logb 3 (v.val : ℝ) = (t + (v.k + a : ℤ)) * unit * 3 ^ (-places : ℤ) := by
      rw [hlog, cast_unit, ← zpow_natCast, mul_assoc, ← zpow_add₀ (by norm_num)]
      norm_num [places]
    have hnear : |((divq (atanh2 (v.n - p3 a) (v.n + p3 a) * unit) ln3 + (v.k + a) * unit : ℤ) : ℝ) -
        (t + (v.k + a : ℤ)) * unit| < slack := by
      have hs : (slack : ℝ) = 531441 := by norm_num [slack, p3]
      rw [hs]
      calc _ = |(divq (atanh2 (v.n - p3 a) (v.n + p3 a) * unit) ln3 : ℝ) - t * unit| := by
            congr 1; push_cast; ring
        _ < _ := by linarith
    have hsize : 1 / (4 * 3 ^ 21) ≤ |t + (v.k + a : ℤ)| := by
      by_cases h0 : v.k + a = 0
      · rw [h0, Int.cast_zero, add_zero]
        refine le_trans ?_ hfar
        have ha21 : a ≤ 21 := by
          have h2 := f.two_abs_lt (n := v.n) (by rwa [abs_of_pos hn])
          rw [abs_of_pos hn] at h2
          have := (pow_lt_pow_iff_right₀ (by norm_num : (1 : ℤ) < 3)).1 (hlo.trans h2)
          omega
        gcongr
        norm_num
      · have hone : (1 : ℝ) ≤ |((v.k + a : ℤ) : ℝ)| := by exact_mod_cast Int.one_le_abs h0
        have htri := abs_sub_abs_le_abs_sub ((v.k + a : ℤ) : ℝ) (-t)
        rw [abs_neg, sub_neg_eq_add, add_comm _ t] at htri
        have : (1 / (4 * 3 ^ 21) : ℝ) ≤ 3 / 10 := by norm_num
        linarith
    have hY : (3 : ℝ) ^ 60 ≤ |(t + (v.k + a : ℤ)) * unit| := by
      rw [abs_mul, abs_of_pos cast_unit_pos]
      calc (3 : ℝ) ^ 60 ≤ 1 / (4 * 3 ^ 21) * unit := by rw [cast_unit]; norm_num
        _ ≤ _ := mul_le_mul_of_nonneg_right hsize cast_unit_pos.le
    have hirr := logb_irrational hn hnotpow
    have hbelow := logBelow_iff hn
    rw [hX] at hirr hbelow ⊢
    exact f.roundsTo_between_of_near hf hfrac hirr hnear hY hbelow

end Log

/-! ### The special functions of a finite word (R158) -/

section Word

variable {f : RFmt} {w : ℤ}

theorem RFmt.expOf_le_lim (hf : f.Sane) (w : ℤ) : f.expOf w ≤ f.lim := by
  have hexp := hf.exp
  have h := fits_wrap f.exp (trunc f.frac w)
  rw [RFmt.expOf, trits, show f.frac + f.exp - 1 + 1 - f.frac = f.exp by omega, hf.lim]
  exact (fits_iff.1 h).2

theorem RFmt.fin_k_le (hf : f.Sane) (h : f.Finite w) : (f.fin w).k ≤ f.lim - 1 - f.frac := by
  have := f.expOf_le_lim hf w
  have : f.expOf w ≠ f.lim := h
  change f.expOf w - f.frac ≤ _
  omega

theorem RFmt.fin_pos_iff : 0 < f.value w ↔ 0 < (f.fin w).n := by
  have hp : (0 : ℚ) < 3 ^ (f.expOf w - f.frac) := by positivity
  change 0 < (f.fracOf w : ℚ) * 3 ^ (f.expOf w - f.frac) ↔ 0 < f.fracOf w
  rw [mul_pos_iff_of_pos_right hp, Int.cast_pos]

theorem RFmt.rcpOf_of_finite (h : f.Finite w) (h0 : (f.fin w).n ≠ 0) : f.rcpOf w = f.rounded (recipOf (f.fin w)) := by
  simp only [RFmt.rcpOf, RFmt.read_eq_fin h, if_neg h0]

theorem RFmt.rsqOf_of_pos (h : f.Finite w) (h0 : 0 < (f.fin w).n) : f.rsqOf w = f.rounded (rsqrtOf (f.fin w)) := by
  simp only [RFmt.rsqOf, RFmt.read_eq_fin h, if_neg h0.ne', if_neg (not_lt.2 h0.le)]

theorem RFmt.log3Of_of_pos (h : f.Finite w) (h0 : 0 < (f.fin w).n) : f.log3Of w = f.log3Fin (f.fin w) := by
  simp only [RFmt.log3Of, RFmt.read_eq_fin h, if_neg h0.ne', if_neg (not_lt.2 h0.le)]

theorem RFmt.rsqOf_of_neg (h : f.Finite w) (h0 : (f.fin w).n < 0) : f.rsqOf w = invalid f.nan := by
  simp only [RFmt.rsqOf, RFmt.read_eq_fin h, if_neg h0.ne, if_pos h0]

theorem RFmt.log3Of_of_neg (h : f.Finite w) (h0 : (f.fin w).n < 0) : f.log3Of w = invalid f.nan := by
  simp only [RFmt.log3Of, RFmt.read_eq_fin h, if_neg h0.ne, if_pos h0]

theorem RFmt.exp3Of_of_finite (h : f.Finite w) : f.exp3Of w =
    if (f.fin w).n = 0 then f.norm ⟨1, 0⟩ else f.exp3Fin (f.fin w) := by
  simp only [RFmt.exp3Of, RFmt.read_eq_fin h]

end Word

theorem norm_one_of_mem {f : RFmt} (hf : f ∈ [tf27, tf9]) : f.norm ⟨1, 0⟩ = f.rounded ⟨1, 0⟩ := by
  obtain rfl | rfl := List.mem_pair.1 hf <;> decide

theorem frac_le_of_mem {f : RFmt} (hf : f ∈ [tf27, tf9]) : f.frac ≤ 21 ∧ f.lim ≤ 364 := by
  obtain rfl | rfl := List.mem_pair.1 hf <;> decide

/-- Settles O17: each function stands for its exact value, from which no value at which rounding parts separates it. -/
theorem specialFunctionResults : Obligations.SpecialFunctionResults := by
  unfold Obligations.SpecialFunctionResults
  intro f hmem w hw x
  have hf := sane_of_mem hmem
  obtain ⟨hfrac, hlim⟩ := frac_le_of_mem hmem
  have hx : x = ((f.fin w).val : ℚ) := rfl
  have hn : |(f.fin w).n| ≤ f.maxF := f.abs_fracOf_le hf w
  have hk := f.fin_k_le hf hw
  have hzero : (f.fin w).n = 0 ↔ x = 0 := by rw [hx, Rat.cast_eq_zero, TFrac.val_eq_zero]
  have hneg : (f.fin w).n < 0 ↔ x < 0 := by rw [hx, Rat.cast_lt_zero, TFrac.val_neg_iff]
  have hpos : 0 < (f.fin w).n ↔ 0 < x := by rw [← RFmt.fin_pos_iff, ← RFmt.val_fin, hx, Rat.cast_pos]
  clear_value x
  subst hx
  refine ⟨fun h0 => ?rcp, fun h0 => ?rsq, ?exp, fun h0 => ?log, fun h0 => ?neg⟩
  case rcp =>
    have h0 := hzero.not.2 h0
    rw [RFmt.rcpOf_of_finite hw h0]
    exact f.roundsTo_recipOf hf hfrac h0 hn hk
  case rsq =>
    have h0 := hpos.2 h0
    rw [RFmt.rsqOf_of_pos hw h0]
    exact f.roundsTo_rsqrtOf hf hfrac h0 hn hk
  case exp =>
    rw [RFmt.exp3Of_of_finite hw]
    split
    · next h0 =>
      have h := f.roundsTo_rounded hf ⟨1, 0⟩
      rw [TFrac.cast_val, Int.cast_one, zpow_zero, mul_one] at h
      rwa [hzero.1 h0, Real.rpow_zero, norm_one_of_mem hmem]
    · exact f.roundsTo_exp3Fin hf hfrac hlim (f.fin w)
  case log =>
    have h0 := hpos.2 h0
    rw [RFmt.log3Of_of_pos hw h0]
    exact f.roundsTo_log3Fin hf hfrac h0 (by rwa [abs_of_pos h0] at hn)
  case neg =>
    have h0 := hneg.2 h0
    exact ⟨RFmt.rsqOf_of_neg hw h0, RFmt.log3Of_of_neg hw h0⟩

end Sys2Proof.Machine

/-!
SUPPORT. The real operations by the classes of their operands: finite ones by their exact values, and NaNs, infinities and 0
by the rows of R153 to R156 and R158 to R160.
-/

namespace Sys2Proof.Machine

/-! ### Rounding of one value (R135) -/

section Value

variable {f : RFmt} {x y : TFrac}

/-- Of two values on the side of v that are each no farther from v than the other there is but one. -/
theorem eq_of_nearer_of_nearer {v y z : ℚ} (hv : v ≠ 0) (hy : 0 ≤ y * v) (hz : 0 ≤ z * v) (hyz : Nearer v y z)
    (hzy : Nearer v z y) : y = z := by
  have habs : |y| = |z| := by
    obtain h | ⟨h, hle⟩ := hyz <;> obtain h' | ⟨h', hle'⟩ := hzy
    · exact absurd h h'.not_gt
    · exact absurd h h'.not_gt
    · exact absurd h' h.not_gt
    · exact le_antisymm hle' hle
  obtain hv | hv := hv.lt_or_gt
  · rwa [abs_of_nonpos (nonpos_of_mul_nonneg_left hy hv), abs_of_nonpos (nonpos_of_mul_nonneg_left hz hv),
      neg_inj] at habs
  · rwa [abs_of_nonneg (nonneg_of_mul_nonneg_left hy hv), abs_of_nonneg (nonneg_of_mul_nonneg_left hz hv)] at habs

theorem RFmt.outVal_eq_of_val_eq (hf : f.Sane) (hx : x.n ≠ 0) (h : x.val = y.val) : f.outVal x = f.outVal y := by
  have hy : y.n ≠ 0 := by rwa [Ne, ← TFrac.val_eq_zero, ← h, TFrac.val_eq_zero]
  obtain ⟨hex, hFx, -⟩ := f.out_onGrid hf hx
  obtain ⟨hey, hFy, -⟩ := f.out_onGrid hf hy
  have hxy : Nearer x.val (f.outVal x) (f.outVal y) := f.outVal_nearest hf hx hFy hey
  have hyx : Nearer x.val (f.outVal y) (f.outVal x) := h ▸ f.outVal_nearest hf hy hFx hex
  exact eq_of_nearer_of_nearer (TFrac.val_eq_zero.not.2 hx) (f.outVal_sign hf x) (h ▸ f.outVal_sign hf y) hxy hyx

/-- Rounding depends on the value alone, not on the fraction that stands for it. -/
theorem RFmt.rounded_eq_of_val_eq (hf : f.Sane) (h : x.val = y.val) : f.rounded x = f.rounded y := by
  have hzero : x.n = 0 ↔ y.n = 0 := by rw [← TFrac.val_eq_zero, h, TFrac.val_eq_zero]
  by_cases hx : x.n = 0
  · rw [RFmt.rounded_of_zero hx, RFmt.rounded_of_zero (hzero.1 hx)]
  · have hy := hzero.not.1 hx
    have hout := f.outVal_eq_of_val_eq hf hx h
    obtain ⟨hexp, hfrac⟩ := f.out_eq_of_outVal_eq hf hx hy hout
    have hneg : decide (x.n < 0) = decide (y.n < 0) :=
      decide_eq_decide.2 (by rw [← x.val_neg_iff, h, y.val_neg_iff])
    have htiny : f.tiny x.n x.k (x.k + tritLen x.n) = f.tiny y.n y.k (y.k + tritLen y.n) := by
      rw [Bool.eq_iff_iff, f.tiny_iff hf hx, h, f.tiny_iff hf hy]
    have hcuts : f.cuts x = f.cuts y := by
      rw [Bool.eq_iff_iff, f.cuts_iff_outVal_ne hf hx, hout, h, f.cuts_iff_outVal_ne hf hy]
    rw [f.rounded_eq hf hx, f.rounded_eq hf hy, hexp, hfrac, hneg, htiny, hcuts]

/-- A fraction that has a finite word is its own rounding: norm is exact (R151). -/
theorem RFmt.norm_eq_rounded (hf : f.Sane) (hn : |x.n| ≤ f.maxF) (hlow : -f.lim ≤ x.k + f.frac)
    (hhigh : x.k ≤ f.lim - 1 - f.frac) : f.norm x = f.rounded x := by
  by_cases hx : x.n = 0
  · rw [RFmt.rounded_of_zero hx, RFmt.norm, f.round_of_zero hx]
  · have hnear := f.outVal_nearest hf hx hn hlow
    rw [add_sub_cancel_right, ← TFrac.val, Nearer, sub_self, abs_zero] at hnear
    have hval : f.outVal x = x.val := by
      obtain h | ⟨h, -⟩ := hnear
      · exact absurd (abs_nonneg _) h.not_ge
      · exact sub_eq_zero.1 (abs_eq_zero.1 h)
    have hcuts : f.cuts x = false := by rw [← Bool.not_eq_true, f.cuts_iff_outVal_ne hf hx, not_not, hval]
    have hfits : ¬ f.lim - 1 < f.outExp x := by
      have hpos : (0 : ℚ) < 3 ^ x.k := by positivity
      have hn : |(x.n : ℚ)| ≤ f.maxF := by exact_mod_cast hn
      have hk : (3 : ℚ) ^ x.k ≤ 3 ^ (f.lim - 1 - f.frac) := zpow_le_zpow_right₀ (by norm_num) hhigh
      rw [f.outExp_big_iff hf hx, hval, TFrac.val, abs_mul, abs_of_pos hpos, not_lt]
      gcongr
      exact (abs_nonneg _).trans hn
    rw [RFmt.norm, RFmt.rounded, f.round_of_ne_zero hf hx, if_neg hfits, hcuts]
    simp [quiet, Rounded.flags, RealFlags.clear]

theorem sgn_nonpos_iff {n : Int} : sgn n ≤ 0 ↔ n ≤ 0 := by
  unfold sgn; split_ifs <;> omega

theorem TFrac.val_pos_iff (x : TFrac) : 0 < x.val ↔ 0 < x.n := by
  have h := x.neg.val_neg_iff
  rwa [TFrac.val_neg, Left.neg_neg_iff, TFrac.neg, Left.neg_neg_iff] at h

theorem TFrac.cmp_nonpos_iff (x y : TFrac) : x.cmp y ≤ 0 ↔ x.val ≤ y.val := by
  rw [TFrac.cmp, sgn_nonpos_iff, ← not_lt, ← TFrac.val_pos_iff, TFrac.val_add, TFrac.val_neg, not_lt]
  constructor <;> intro h <;> linarith

end Value

/-! ### A sum by the classes of its terms (R153, R154) -/

section Sum

variable {f : RFmt} {p u : RVal} {a a' v v' : TFrac} {ops ops' : List RVal} {w : Int} {b : Bool}

theorem firstNan_cons_congr (p : RVal) (h : firstNan ops = firstNan ops') : firstNan (p :: ops) = firstNan (p :: ops') := by
  cases p with
  | nan w => rfl
  | inf b => exact h
  | fin v => exact h

theorem firstNan_cons_of_not_nan (h : p.isNan = false) : firstNan (p :: ops) = firstNan ops := by
  cases p with
  | nan w => simp [RVal.isNan] at h
  | inf b => rfl
  | fin v => rfl

theorem exists_nan_of_firstNan (h : firstNan ops = some w) : ∃ p ∈ ops, p.isNan = true := by
  by_contra hnone
  push Not at hnone
  induction ops with
  | nil => simp [firstNan] at h
  | cons p ops ih =>
    obtain ⟨hp, hops⟩ := List.forall_mem_cons.1 hnone
    rw [firstNan_cons_of_not_nan (by simpa using hp)] at h
    exact ih h hops

@[simp] theorem RVal.isNan_neg (p : RVal) : p.neg.isNan = p.isNan := by cases p <;> rfl

@[simp] theorem RVal.isNan_times (p u : RVal) : (p.times u).isNan = (p.isNan || u.isNan) := by
  cases p <;> cases u <;> rfl

theorem RVal.isInf_of_isNan (h : p.isNan = true) : p.isInf = false := by
  cases p with
  | nan w => rfl
  | inf b => simp [RVal.isNan] at h
  | fin v => rfl

theorem RVal.isZero_of_isNan (h : p.isNan = true) : p.isZero = false := by
  cases p with
  | nan w => rfl
  | inf b => rfl
  | fin v => simp [RVal.isNan] at h

theorem zeroTimesInf_of_isNan (h : p.isNan = true ∨ u.isNan = true) : zeroTimesInf p u = false := by
  obtain h | h := h <;> simp [zeroTimesInf, RVal.isZero_of_isNan h, RVal.isInf_of_isNan h]

/-- The NaN row: a NaN among the terms is no infinity, so the invalid row does not come before it. -/
theorem RFmt.sumOf_of_nan (hp : p.isNan = true ∨ u.isNan = true) (h : firstNan ops = some w) :
    f.sumOf p u ops = quiet w := by
  have hinf : ¬ (p.isInf = true ∧ u.isInf = true ∧ p.negative ≠ u.negative) := by
    rintro ⟨hi, hi', -⟩
    obtain h | h := hp
    · simp [RVal.isInf_of_isNan h] at hi
    · simp [RVal.isInf_of_isNan h] at hi'
  unfold RFmt.sumOf
  rw [if_neg hinf, h]

theorem RFmt.sumOf_fin (h : firstNan ops = none) : f.sumOf (.fin a) (.fin v) ops = f.rounded (a.add v) := by
  simp [RFmt.sumOf, RVal.isInf, h]

theorem RFmt.sumOf_inf_fin (h : firstNan ops = none) : f.sumOf (.inf b) (.fin v) ops = quiet (f.inf b) := by
  simp [RFmt.sumOf, RVal.isInf, h]

theorem RFmt.sumOf_fin_inf (h : firstNan ops = none) : f.sumOf (.fin v) (.inf b) ops = quiet (f.inf b) := by
  simp [RFmt.sumOf, RVal.isInf, h]

theorem RFmt.sumOf_opposite : f.sumOf (.inf b) (.inf !b) ops = invalid f.nan := by
  simp [RFmt.sumOf, RVal.isInf, RVal.negative]

/-- A finite term enters a sum by its value alone. -/
theorem RFmt.sumOf_congr_left (hf : f.Sane) (ha : a.val = a'.val) (h : firstNan ops = firstNan ops') :
    f.sumOf (.fin a) u ops = f.sumOf (.fin a') u ops' := by
  cases u with
  | fin v =>
    have hsum : f.rounded (a.add v) = f.rounded (a'.add v) :=
      f.rounded_eq_of_val_eq hf (by rw [TFrac.val_add, TFrac.val_add, ha])
    simp [RFmt.sumOf, RVal.isInf, h, hsum]
  | nan w => simp [RFmt.sumOf, RVal.isInf, h]
  | inf b => simp [RFmt.sumOf, RVal.isInf, h]

theorem RFmt.sumOf_congr_right (hf : f.Sane) (hv : v.val = v'.val) (h : firstNan ops = firstNan ops') :
    f.sumOf p (.fin v) ops = f.sumOf p (.fin v') ops' := by
  cases p with
  | fin a =>
    have hsum : f.rounded (a.add v) = f.rounded (a.add v') :=
      f.rounded_eq_of_val_eq hf (by rw [TFrac.val_add, TFrac.val_add, hv])
    simp [RFmt.sumOf, RVal.isInf, h, hsum]
  | nan w => simp [RFmt.sumOf, RVal.isInf, h]
  | inf b => simp [RFmt.sumOf, RVal.isInf, h]

end Sum

/-! ### Finite operands -/

section Finite

variable {f : RFmt} {x y u : Int}

theorem RFmt.fin_n_eq_zero_iff : (f.fin x).n = 0 ↔ f.value x = 0 := TFrac.val_eq_zero.symm

theorem RFmt.fin_n_neg_iff : (f.fin x).n < 0 ↔ f.value x < 0 := (f.fin x).val_neg_iff.symm

/-- Rounding of a fraction whose value is a real number. -/
theorem RFmt.roundsTo_rounded_of_val (hf : f.Sane) {a : TFrac} {X : ℝ} (h : (a.val : ℝ) = X) : f.RoundsTo X (f.rounded a) :=
  h ▸ f.roundsTo_rounded hf a

theorem RFmt.roundsTo_addOf (hf : f.Sane) (hx : f.Finite x) (hy : f.Finite y) :
    f.RoundsTo ((f.value x : ℝ) + f.value y) (f.addOf x y) := by
  rw [RFmt.addOf, RFmt.read_eq_fin hx, RFmt.read_eq_fin hy, RFmt.sumOf_fin rfl]
  exact f.roundsTo_rounded_of_val hf (by rw [TFrac.val_add, RFmt.val_fin, RFmt.val_fin]; push_cast; rfl)

theorem RFmt.roundsTo_subOf (hf : f.Sane) (hx : f.Finite x) (hy : f.Finite y) :
    f.RoundsTo ((f.value x : ℝ) - f.value y) (f.subOf x y) := by
  rw [RFmt.subOf, RFmt.read_eq_fin hx, RFmt.read_eq_fin hy, RVal.neg, RFmt.sumOf_fin rfl]
  exact f.roundsTo_rounded_of_val hf (by
    rw [TFrac.val_add, TFrac.val_neg, RFmt.val_fin, RFmt.val_fin]; push_cast; ring)

theorem zeroTimesInf_fin (a v : TFrac) : zeroTimesInf (.fin a) (.fin v) = false := by
  simp [zeroTimesInf, RVal.isInf]

theorem RFmt.roundsTo_mulOf (hf : f.Sane) (hx : f.Finite x) (hy : f.Finite y) :
    f.RoundsTo ((f.value x : ℝ) * f.value y) (f.mulOf x y) := by
  rw [RFmt.mulOf, RFmt.read_eq_fin hx, RFmt.read_eq_fin hy, zeroTimesInf_fin, if_neg Bool.false_ne_true, RVal.times,
    RFmt.sumOf_fin rfl]
  exact f.roundsTo_rounded_of_val hf (by
    rw [TFrac.val_add, TFrac.val_mul, RFmt.val_fin, RFmt.val_fin, TFrac.val_of_zero rfl]; push_cast; ring)

theorem RFmt.roundsTo_fmaOf (hf : f.Sane) (hx : f.Finite x) (hy : f.Finite y) (hu : f.Finite u) :
    f.RoundsTo ((f.value x : ℝ) * f.value y + f.value u) (f.fmaOf x y u) := by
  rw [RFmt.fmaOf, RFmt.read_eq_fin hx, RFmt.read_eq_fin hy, RFmt.read_eq_fin hu, zeroTimesInf_fin,
    if_neg Bool.false_ne_true, RVal.times, RFmt.sumOf_fin rfl]
  exact f.roundsTo_rounded_of_val hf (by
    rw [TFrac.val_add, TFrac.val_mul, RFmt.val_fin, RFmt.val_fin, RFmt.val_fin]; push_cast; rfl)

theorem RFmt.roundsTo_sclOf (hf : f.Sane) (hx : f.Finite x) (n : Int) :
    f.RoundsTo ((f.value x : ℝ) * 3 ^ n) (f.sclOf x n) := by
  rw [RFmt.sclOf, RFmt.read_eq_fin hx]
  exact f.roundsTo_rounded_of_val hf (by rw [TFrac.val_scale, RFmt.val_fin]; push_cast; rfl)

/-- An operand in canonical form, or its negation, has its value and raises no flag (R151). -/
theorem RFmt.roundsTo_canon_of_abs_eq (hf : f.Sane) (hx : f.Finite x) {a : TFrac} (hn : |a.n| = |(f.fin x).n|)
    (hk : a.k = (f.fin x).k) : f.RoundsTo (a.val : ℝ) (f.canon (.fin a)) := by
  have hlow : -f.lim ≤ a.k + f.frac := by
    have := f.neg_lim_le_expOf hf x
    simpa [hk, RFmt.fin] using this
  rw [RFmt.canon, f.norm_eq_rounded hf (hn ▸ f.abs_fracOf_le hf x) hlow (hk ▸ f.fin_k_le hf hx)]
  exact f.roundsTo_rounded hf a

theorem RFmt.roundsTo_canon (hf : f.Sane) (hx : f.Finite x) : f.RoundsTo (f.value x) (f.canon (.fin (f.fin x))) :=
  f.roundsTo_canon_of_abs_eq hf hx rfl rfl

theorem RFmt.roundsTo_canon_neg (hf : f.Sane) (hx : f.Finite x) :
    f.RoundsTo (-(f.value x : ℝ)) (f.canon (.fin (f.fin x).neg)) := by
  have h := f.roundsTo_canon_of_abs_eq hf hx (a := (f.fin x).neg) (abs_neg _) rfl
  rwa [TFrac.val_neg, RFmt.val_fin, Rat.cast_neg] at h

theorem RFmt.cmp_fin_nonpos_iff : (RVal.fin (f.fin x)).cmp (.fin (f.fin y)) ≤ 0 ↔ (f.value x : ℝ) ≤ f.value y := by
  rw [Rat.cast_le, ← RFmt.val_fin, ← RFmt.val_fin, ← TFrac.cmp_nonpos_iff]; rfl

theorem RFmt.roundsTo_minOf (hf : f.Sane) (hx : f.Finite x) (hy : f.Finite y) :
    f.RoundsTo (min (f.value x : ℝ) (f.value y)) (f.minOf x y) := by
  simp only [RFmt.minOf, RFmt.read_eq_fin hx, RFmt.read_eq_fin hy, firstNan, RFmt.cmp_fin_nonpos_iff]
  split
  · next h => rw [min_eq_left h]; exact f.roundsTo_canon hf hx
  · next h => rw [min_eq_right (not_le.1 h).le]; exact f.roundsTo_canon hf hy

theorem RFmt.roundsTo_maxOf (hf : f.Sane) (hx : f.Finite x) (hy : f.Finite y) :
    f.RoundsTo (max (f.value x : ℝ) (f.value y)) (f.maxOf x y) := by
  simp only [RFmt.maxOf, RFmt.read_eq_fin hx, RFmt.read_eq_fin hy, firstNan, RFmt.cmp_fin_nonpos_iff]
  split
  · next h => rw [max_eq_right h]; exact f.roundsTo_canon hf hy
  · next h => rw [max_eq_left (not_le.1 h).le]; exact f.roundsTo_canon hf hx

theorem RFmt.roundsTo_negOf (hf : f.Sane) (hx : f.Finite x) : f.RoundsTo (-(f.value x : ℝ)) (f.negOf x) := by
  rw [RFmt.negOf, RFmt.read_eq_fin hx]
  exact f.roundsTo_canon_neg hf hx

theorem RFmt.negative_fin_iff : (RVal.fin (f.fin x)).negative = true ↔ (f.value x : ℝ) < 0 := by
  rw [RVal.negative, decide_eq_true_eq, RFmt.fin_n_neg_iff, Rat.cast_lt_zero]

theorem RFmt.roundsTo_absOf (hf : f.Sane) (hx : f.Finite x) : f.RoundsTo |(f.value x : ℝ)| (f.absOf x) := by
  rw [RFmt.absOf, RFmt.read_eq_fin hx]
  split
  · next h => rw [abs_of_neg (RFmt.negative_fin_iff.1 h)]; exact f.roundsTo_canon_neg hf hx
  · next h => rw [abs_of_nonneg (not_lt.1 (RFmt.negative_fin_iff.not.1 h))]; exact f.roundsTo_canon hf hx

theorem RFmt.roundsTo_nabsOf (hf : f.Sane) (hx : f.Finite x) : f.RoundsTo (-|(f.value x : ℝ)|) (f.nabsOf x) := by
  rw [RFmt.nabsOf, RFmt.read_eq_fin hx]
  split
  · next h => rw [abs_of_neg (RFmt.negative_fin_iff.1 h), neg_neg]; exact f.roundsTo_canon hf hx
  · next h => rw [abs_of_nonneg (not_lt.1 (RFmt.negative_fin_iff.not.1 h))]; exact f.roundsTo_canon_neg hf hx

/-- The class of a finite word: its sign, whether it is below the smallest normal, and whether it is unnormal (R160). -/
theorem RFmt.classOf_of_finite (hf : f.Sane) (hx : f.Finite x) : f.classOf x =
    (if (f.value x : ℝ) = 0 then 0 else (if 0 < (f.value x : ℝ) then 1 else -1) *
      if |(f.value x : ℝ)| < f.minF * 3 ^ (-f.lim - f.frac) then 2 else 3) + if f.unnormal x = true then 9 else 0 := by
  have hzero : (f.value x : ℝ) = 0 ↔ (f.fin x).n = 0 := by rw [Rat.cast_eq_zero, RFmt.fin_n_eq_zero_iff]
  have hsgn (h : (f.fin x).n ≠ 0) : sgn (f.fin x).n = if 0 < (f.value x : ℝ) then 1 else -1 := by
    simp only [Rat.cast_pos, RFmt.fin_pos_iff]; unfold sgn; split_ifs <;> omega
  have htiny (h : (f.fin x).n ≠ 0) : f.tiny (f.fin x).n (f.fin x).k ((f.fin x).k + tritLen (f.fin x).n) = true ↔
      |(f.value x : ℝ)| < f.minF * 3 ^ (-f.lim - f.frac) := by
    rw [f.tiny_iff hf h, RFmt.val_fin, ← Rat.cast_lt (K := ℝ)]; push_cast; rfl
  simp only [RFmt.classOf, RFmt.read_eq_fin hx]
  by_cases h : (f.fin x).n = 0
  · simp only [hzero, h, if_true]; split <;> rfl
  · simp only [hzero, h, if_false, hsgn h, htiny h]; split <;> simp

end Finite

/-! ### NaN operands (R153) -/

section Nan

variable {f : RFmt} {x y u w : Int}

theorem isNan_of_firstNan_pair {p u : RVal} (h : firstNan [p, u] = some w) : p.isNan = true ∨ u.isNan = true := by
  simpa using exists_nan_of_firstNan h

theorem RFmt.addOf_of_firstNan (h : firstNan [f.read x, f.read y] = some w) : f.addOf x y = quiet w :=
  f.sumOf_of_nan (isNan_of_firstNan_pair h) h

theorem RFmt.subOf_of_firstNan (h : firstNan [f.read x, f.read y] = some w) : f.subOf x y = quiet w :=
  f.sumOf_of_nan (by rw [RVal.isNan_neg]; exact isNan_of_firstNan_pair h) h

theorem RFmt.mulOf_of_firstNan (h : firstNan [f.read x, f.read y] = some w) : f.mulOf x y = quiet w := by
  have hnan := isNan_of_firstNan_pair h
  rw [RFmt.mulOf, zeroTimesInf_of_isNan hnan, if_neg Bool.false_ne_true]
  exact f.sumOf_of_nan (.inl (by rwa [RVal.isNan_times, Bool.or_eq_true])) h

/-- A NaN is passed on by FFMA where the factors are not 0 and an infinity: that row comes before (R154). -/
theorem RFmt.fmaOf_of_firstNan (hz : zeroTimesInf (f.read x) (f.read y) = false)
    (h : firstNan [f.read x, f.read y, f.read u] = some w) : f.fmaOf x y u = quiet w := by
  have hnan : ((f.read x).isNan || (f.read y).isNan) = true ∨ (f.read u).isNan = true := by
    simpa [or_assoc] using exists_nan_of_firstNan h
  rw [RFmt.fmaOf, hz, if_neg Bool.false_ne_true]
  exact f.sumOf_of_nan (by rwa [RVal.isNan_times]) h

theorem RFmt.minOf_of_firstNan (h : firstNan [f.read x, f.read y] = some w) : f.minOf x y = quiet w := by
  rw [RFmt.minOf, h]

theorem RFmt.maxOf_of_firstNan (h : firstNan [f.read x, f.read y] = some w) : f.maxOf x y = quiet w := by
  rw [RFmt.maxOf, h]

theorem RFmt.firstNan_read_of_isNan (h : (f.read x).isNan = true) (ops : List RVal) :
    firstNan (f.read x :: ops) = some x := by
  rw [RFmt.read_of_isNan h, firstNan]

theorem RFmt.firstNan_read_second (hx : (f.read x).isNan = false) (hy : (f.read y).isNan = true) (ops : List RVal) :
    firstNan (f.read x :: f.read y :: ops) = some y := by
  rw [firstNan_cons_of_not_nan hx, f.firstNan_read_of_isNan hy]

/-- What each operation gives of a NaN as its first operand. -/
theorem RFmt.results_of_nan_first (hx : (f.read x).isNan = true) (y : Int) :
    f.addOf x y = quiet x ∧ f.subOf x y = quiet x ∧ f.mulOf x y = quiet x ∧ f.minOf x y = quiet x ∧
      f.maxOf x y = quiet x ∧ f.absOf x = quiet x ∧ f.negOf x = quiet x ∧ f.rcpOf x = quiet x ∧ f.rsqOf x = quiet x ∧
      f.exp3Of x = quiet x ∧ f.log3Of x = quiet x ∧ f.sclOf x y = quiet x ∧
      f.classOf x = if x = f.nan then 1 else -1 := by
  have hfirst := f.firstNan_read_of_isNan hx [f.read y]
  have hread := RFmt.read_of_isNan hx
  refine ⟨f.addOf_of_firstNan hfirst, f.subOf_of_firstNan hfirst, f.mulOf_of_firstNan hfirst,
    f.minOf_of_firstNan hfirst, f.maxOf_of_firstNan hfirst, ?abs, ?neg, ?rcp, ?rsq, ?exp, ?log, ?scl, ?cls⟩
  case abs => rw [RFmt.absOf, hread]; rfl
  case neg => rw [RFmt.negOf, hread]; rfl
  case rcp => rw [RFmt.rcpOf, hread]
  case rsq => rw [RFmt.rsqOf, hread]
  case exp => rw [RFmt.exp3Of, hread]
  case log => rw [RFmt.log3Of, hread]
  case scl => simp only [RFmt.sclOf, hread]
  case cls => simp only [RFmt.classOf, hread]

/-- What each operation of two operands or more gives of a NaN as its second. -/
theorem RFmt.results_of_nan_second (hx : (f.read x).isNan = false) (hy : (f.read y).isNan = true) (u : Int) :
    f.addOf x y = quiet y ∧ f.subOf x y = quiet y ∧ f.mulOf x y = quiet y ∧ f.minOf x y = quiet y ∧
      f.maxOf x y = quiet y ∧ f.fmaOf x y u = quiet y :=
  have hfirst := f.firstNan_read_second hx hy []
  ⟨f.addOf_of_firstNan hfirst, f.subOf_of_firstNan hfirst, f.mulOf_of_firstNan hfirst, f.minOf_of_firstNan hfirst,
    f.maxOf_of_firstNan hfirst,
    f.fmaOf_of_firstNan (zeroTimesInf_of_isNan (.inr hy)) (f.firstNan_read_second hx hy [f.read u])⟩

theorem RFmt.fmaOf_nan_first (hx : (f.read x).isNan = true) (y u : Int) : f.fmaOf x y u = quiet x :=
  f.fmaOf_of_firstNan (zeroTimesInf_of_isNan (.inl hx)) (f.firstNan_read_of_isNan hx _)

/-- A NaN as the addend of FFMA is passed on past factors that are no NaN, and not 0 and an infinity. -/
theorem RFmt.fmaOf_nan_addend (hz : zeroTimesInf (f.read x) (f.read y) = false) (hx : (f.read x).isNan = false)
    (hy : (f.read y).isNan = false) (hu : (f.read u).isNan = true) : f.fmaOf x y u = quiet u :=
  f.fmaOf_of_firstNan hz (by rw [firstNan_cons_of_not_nan hx, f.firstNan_read_second hy hu])

end Nan

/-! ### Infinities and 0 (R154, R158, R160) -/

section Infinite

variable {f : RFmt} {x y u : Int} {b c : Bool}

theorem RFmt.read_zero (hf : f.Sane) : f.read f.zero = .fin ⟨0, -f.lim - f.frac⟩ := by
  have hlim := hf.lim_pos
  have habs : |-f.lim| ≤ f.lim := by rw [abs_neg, abs_of_pos (by omega)]
  have h0 : |(0 : Int)| ≤ f.maxF := maxTrits_nonneg f.frac
  have hexp : f.expOf f.zero = -f.lim := f.expOf_word hf habs h0
  have hfrac : f.fracOf f.zero = 0 := f.fracOf_word hf h0
  rw [RFmt.read_of_finite (by rw [RFmt.Finite, hexp]; omega), hexp, hfrac]

theorem zeroTimesInf_zero {a : TFrac} (h : a.n = 0) :
    zeroTimesInf (.fin a) (.inf b) = true ∧ zeroTimesInf (.inf b) (.fin a) = true := by
  simp [zeroTimesInf, RVal.isZero, RVal.isInf, h]

theorem zeroTimesInf_ne_zero {a : TFrac} (h : a.n ≠ 0) :
    zeroTimesInf (.fin a) (.inf b) = false ∧ zeroTimesInf (.inf b) (.fin a) = false := by
  simp [zeroTimesInf, RVal.isZero, RVal.isInf, h]

/-- The product of an infinity and a finite operand has the sign of both. -/
theorem RFmt.times_inf_fin : (RVal.inf b).times (.fin (f.fin y)) = .inf (b != decide ((f.value y : ℝ) < 0)) ∧
    (RVal.fin (f.fin y)).times (.inf b) = .inf (b != decide ((f.value y : ℝ) < 0)) := by
  have hneg : decide ((f.fin y).n < 0) = decide ((f.value y : ℝ) < 0) :=
    decide_eq_decide.2 (by rw [RFmt.fin_n_neg_iff, Rat.cast_lt_zero])
  constructor
  · simp only [RVal.times, RVal.negative, hneg]
  · simp only [RVal.times, RVal.negative, hneg, bne_comm (a := b)]

theorem RFmt.addOf_inf_left (hf : f.Sane) (hy : f.Finite y) (b : Bool) : f.addOf (f.inf b) y = quiet (f.inf b) := by
  rw [RFmt.addOf, f.read_inf hf, RFmt.read_eq_fin hy, RFmt.sumOf_inf_fin rfl]

theorem RFmt.addOf_inf_right (hf : f.Sane) (hx : f.Finite x) (b : Bool) : f.addOf x (f.inf b) = quiet (f.inf b) := by
  rw [RFmt.addOf, f.read_inf hf, RFmt.read_eq_fin hx, RFmt.sumOf_fin_inf rfl]

theorem RFmt.subOf_inf_left (hf : f.Sane) (hy : f.Finite y) (b : Bool) : f.subOf (f.inf b) y = quiet (f.inf b) := by
  rw [RFmt.subOf, f.read_inf hf, RFmt.read_eq_fin hy, RVal.neg, RFmt.sumOf_inf_fin rfl]

theorem RFmt.mulOf_inf (hf : f.Sane) (hy : f.Finite y) (h : (f.value y : ℝ) ≠ 0) (b : Bool) :
    f.mulOf (f.inf b) y = quiet (f.inf (b != decide ((f.value y : ℝ) < 0))) ∧
      f.mulOf y (f.inf b) = quiet (f.inf (b != decide ((f.value y : ℝ) < 0))) := by
  have hn : (f.fin y).n ≠ 0 := by rwa [Ne, RFmt.fin_n_eq_zero_iff, ← Rat.cast_eq_zero (α := ℝ)]
  obtain ⟨hright, hleft⟩ := zeroTimesInf_ne_zero (b := b) hn
  obtain ⟨htimes, htimes'⟩ := f.times_inf_fin (y := y) (b := b)
  constructor
  · rw [RFmt.mulOf, f.read_inf hf, RFmt.read_eq_fin hy, hleft, if_neg Bool.false_ne_true, htimes, RFmt.sumOf_inf_fin rfl]
  · rw [RFmt.mulOf, f.read_inf hf, RFmt.read_eq_fin hy, hright, if_neg Bool.false_ne_true, htimes',
      RFmt.sumOf_inf_fin rfl]

theorem RFmt.addOf_opposite (hf : f.Sane) : f.addOf (f.inf false) (f.inf true) = invalid f.nan := by
  rw [RFmt.addOf, f.read_inf hf, f.read_inf hf]
  exact f.sumOf_opposite (b := false)

theorem RFmt.subOf_self_inf (hf : f.Sane) : f.subOf (f.inf false) (f.inf false) = invalid f.nan := by
  rw [RFmt.subOf, f.read_inf hf]
  exact f.sumOf_opposite (b := false)

theorem RFmt.mulOf_zero_inf (hf : f.Sane) (b : Bool) :
    f.mulOf f.zero (f.inf b) = invalid f.nan ∧ f.mulOf (f.inf b) f.zero = invalid f.nan := by
  obtain ⟨hleft, hright⟩ := zeroTimesInf_zero (b := b) (a := ⟨0, -f.lim - f.frac⟩) rfl
  constructor
  · rw [RFmt.mulOf, f.read_inf hf, f.read_zero hf, if_pos hleft]
  · rw [RFmt.mulOf, f.read_inf hf, f.read_zero hf, if_pos hright]

theorem RFmt.fmaOf_zero_inf (hf : f.Sane) (b : Bool) (u : Int) : f.fmaOf f.zero (f.inf b) u = invalid f.nan := by
  rw [RFmt.fmaOf, f.read_inf hf, f.read_zero hf, if_pos (zeroTimesInf_zero rfl).1]

theorem RFmt.fmaOf_inf_addend (hf : f.Sane) (hx : f.Finite x) (hy : f.Finite y) (b : Bool) :
    f.fmaOf x y (f.inf b) = quiet (f.inf b) := by
  rw [RFmt.fmaOf, f.read_inf hf, RFmt.read_eq_fin hx, RFmt.read_eq_fin hy, zeroTimesInf_fin, if_neg Bool.false_ne_true,
    RVal.times, RFmt.sumOf_fin_inf rfl]

/-- A product that is an infinity, and the infinity of the other sign. -/
theorem RFmt.fmaOf_opposite (hf : f.Sane) (hy : f.Finite y) (h : f.value y ≠ 0) (b : Bool) :
    f.fmaOf (f.inf b) y (f.inf (b == decide (f.value y < 0))) = invalid f.nan := by
  have hn : (f.fin y).n ≠ 0 := RFmt.fin_n_eq_zero_iff.not.2 h
  have hneg : decide ((f.value y : ℝ) < 0) = decide (f.value y < 0) := decide_eq_decide.2 Rat.cast_lt_zero
  have hsign : (b == decide (f.value y < 0)) = !(b != decide ((f.value y : ℝ) < 0)) := by rw [hneg, bne, Bool.not_not]
  rw [RFmt.fmaOf, f.read_inf hf, f.read_inf hf, RFmt.read_eq_fin hy, (zeroTimesInf_ne_zero hn).2,
    if_neg Bool.false_ne_true, f.times_inf_fin.1, hsign]
  exact f.sumOf_opposite

/-- A NaN as the addend of FFMA, past finite factors, an infinity and a finite factor that is not 0, and two infinities. -/
theorem RFmt.fmaOf_nan_addend_cases (hf : f.Sane) (hx : f.Finite x) (hy : f.Finite y) (hu : (f.read u).isNan = true) :
    f.fmaOf x y u = quiet u ∧ ∀ b c, (f.value y ≠ 0 →
      f.fmaOf (f.inf b) y u = quiet u ∧ f.fmaOf y (f.inf b) u = quiet u) ∧ f.fmaOf (f.inf b) (f.inf c) u = quiet u := by
  have hxn : (f.read x).isNan = false := by rw [RFmt.read_eq_fin hx]; rfl
  have hyn : (f.read y).isNan = false := by rw [RFmt.read_eq_fin hy]; rfl
  have hinf (b : Bool) : (f.read (f.inf b)).isNan = false := by rw [f.read_inf hf]; rfl
  refine ⟨f.fmaOf_nan_addend ?_ hxn hyn hu, fun b c => ⟨fun h => ?_, f.fmaOf_nan_addend ?_ (hinf b) (hinf c) hu⟩⟩
  · rw [RFmt.read_eq_fin hx, RFmt.read_eq_fin hy, zeroTimesInf_fin]
  · obtain ⟨hright, hleft⟩ := zeroTimesInf_ne_zero (b := b) (RFmt.fin_n_eq_zero_iff.not.2 h)
    rw [← RFmt.read_eq_fin hy, ← f.read_inf hf] at hright hleft
    exact ⟨f.fmaOf_nan_addend hleft (hinf b) hyn hu, f.fmaOf_nan_addend hright hyn (hinf b) hu⟩
  · rw [f.read_inf hf, f.read_inf hf]; rfl

theorem RFmt.classOf_inf (hf : f.Sane) (b : Bool) : f.classOf (f.inf b) = if b then -4 else 4 := by
  simp only [RFmt.classOf, f.read_inf hf]

theorem RFmt.rcpOf_special (hf : f.Sane) : f.rcpOf f.zero = invalid f.nan ∧ ∀ b, f.rcpOf (f.inf b) = quiet f.zero := by
  refine ⟨by simp [RFmt.rcpOf, f.read_zero hf], fun b => ?_⟩
  simp only [RFmt.rcpOf, f.read_inf hf]

theorem RFmt.rsqOf_special (hf : f.Sane) : f.rsqOf f.zero = overflowTo (f.inf false) ∧
    f.rsqOf (f.inf false) = quiet f.zero ∧ f.rsqOf (f.inf true) = invalid f.nan := by
  refine ⟨by simp [RFmt.rsqOf, f.read_zero hf], ?_, ?_⟩ <;> simp [RFmt.rsqOf, f.read_inf hf]

theorem RFmt.exp3Of_inf (hf : f.Sane) : f.exp3Of (f.inf true) = quiet f.zero ∧
    f.exp3Of (f.inf false) = quiet (f.inf false) := by
  constructor <;> simp [RFmt.exp3Of, f.read_inf hf]

theorem RFmt.log3Of_special (hf : f.Sane) : f.log3Of f.zero = overflowTo (f.inf true) ∧
    f.log3Of (f.inf true) = invalid f.nan ∧ f.log3Of (f.inf false) = quiet (f.inf false) := by
  refine ⟨by simp [RFmt.log3Of, f.read_zero hf], ?_, ?_⟩ <;> simp [RFmt.log3Of, f.read_inf hf]

end Infinite

/-! ### FFMA with an addend of 0 and with a factor of 1 (R154) -/

section Fused

variable {f : RFmt}

theorem RFmt.fmaOf_zero (hf : f.Sane) (x y : Int) : f.fmaOf x y f.zero = f.mulOf x y := by
  have hops : firstNan [f.read x, f.read y, .fin ⟨0, -f.lim - f.frac⟩] = firstNan [f.read x, f.read y] :=
    firstNan_cons_congr _ (firstNan_cons_congr _ rfl)
  rw [RFmt.fmaOf, RFmt.mulOf, f.read_zero hf, f.sumOf_congr_right hf (v' := ⟨0, 0⟩) ?_ hops]
  rw [TFrac.val_of_zero rfl, TFrac.val_of_zero rfl]

theorem RFmt.read_one (hf : f.Sane) (hlim : 1 < f.lim) :
    f.read (f.word 1 (p3 (f.frac - 1))) = .fin ⟨p3 (f.frac - 1), 1 - f.frac⟩ := by
  have hexp : |(1 : Int)| ≤ f.lim := by rw [abs_one]; omega
  have hF : |p3 (f.frac - 1)| ≤ f.maxF := by
    have hpos := f.half_pos; have hmax := f.two_maxF hf
    unfold RFmt.half at hpos hmax
    rw [abs_of_pos hpos]; omega
  have he := f.expOf_word hf hexp hF
  rw [RFmt.read_of_finite (by rw [RFmt.Finite, he]; omega), he, f.fracOf_word hf hF]

theorem RFmt.val_one (hf : f.Sane) : (TFrac.mk (p3 (f.frac - 1)) (1 - f.frac)).val = 1 := by
  have hfrac := hf.frac
  rw [TFrac.val, p3, Int.cast_pow, Int.cast_ofNat, ← zpow_natCast, ← zpow_add₀ (by norm_num), Nat.cast_sub hfrac,
    Nat.cast_one, sub_add_sub_cancel, sub_self, zpow_zero]

theorem RFmt.fmaOf_one (hf : f.Sane) (hlim : 1 < f.lim) (x u : Int) :
    f.fmaOf x (f.word 1 (p3 (f.frac - 1))) u = f.addOf x u := by
  have hpos : 0 < p3 (f.frac - 1) := p3_pos _
  have hzero : zeroTimesInf (f.read x) (.fin ⟨p3 (f.frac - 1), 1 - f.frac⟩) = false := by
    simp [zeroTimesInf, RVal.isInf, RVal.isZero, hpos.ne']
  have hops : firstNan [f.read x, .fin ⟨p3 (f.frac - 1), 1 - f.frac⟩, f.read u] = firstNan [f.read x, f.read u] :=
    firstNan_cons_congr _ rfl
  rw [RFmt.fmaOf, RFmt.addOf, f.read_one hf hlim, hzero, if_neg Bool.false_ne_true]
  cases h : f.read x with
  | fin a =>
    rw [h] at hops
    exact f.sumOf_congr_left hf (by rw [TFrac.val_mul, f.val_one hf, mul_one]) hops
  | nan w => exact (f.sumOf_of_nan (.inl rfl) rfl).trans (f.sumOf_of_nan (.inl rfl) rfl).symm
  | inf b =>
    rw [h] at hops
    have htimes : (RVal.inf b).times (.fin ⟨p3 (f.frac - 1), 1 - f.frac⟩) = .inf b := by
      simp [RVal.times, RVal.negative, hpos.not_gt]
    unfold RFmt.sumOf
    rw [htimes, hops]

end Fused

theorem one_lt_lim_of_mem {f : RFmt} (hf : f ∈ [tf27, tf9]) : 1 < f.lim := by
  obtain rfl | rfl := List.mem_pair.1 hf <;> decide

/-- Settles O24: finite operands by the exact value that is rounded, the others by the row of their classes, and FFMA by
what its product and sum come to. -/
theorem realOperandLaws : Obligations.RealOperandLaws := by
  unfold Obligations.RealOperandLaws
  refine ⟨?finite, ?special, ?fused⟩
  case finite =>
    intro f hmem x y u n hx hy hu vx vy vu
    have hf := sane_of_mem hmem
    exact ⟨f.roundsTo_addOf hf hx hy, f.roundsTo_subOf hf hx hy, f.roundsTo_mulOf hf hx hy, f.roundsTo_fmaOf hf hx hy hu,
      f.roundsTo_sclOf hf hx n, f.roundsTo_minOf hf hx hy, f.roundsTo_maxOf hf hx hy, f.roundsTo_absOf hf hx,
      f.roundsTo_negOf hf hx, f.roundsTo_nabsOf hf hx, f.classOf_of_finite hf hx, fun b =>
        ⟨f.addOf_inf_left hf hy b, f.addOf_inf_right hf hx b, f.subOf_inf_left hf hy b, fun h => f.mulOf_inf hf hy h b⟩⟩
  case special =>
    intro inv ofl none f hmem pinf minf
    have hf := sane_of_mem hmem
    obtain ⟨hrcpZero, hrcpInf⟩ := f.rcpOf_special hf
    obtain ⟨hrsqZero, hrsqPos, hrsqNeg⟩ := f.rsqOf_special hf
    obtain ⟨hexpNeg, hexpPos⟩ := f.exp3Of_inf hf
    obtain ⟨hlogZero, hlogNeg, hlogPos⟩ := f.log3Of_special hf
    exact ⟨f.addOf_opposite hf, f.subOf_self_inf hf, (f.mulOf_zero_inf hf false).1, (f.mulOf_zero_inf hf true).2,
      f.fmaOf_zero_inf hf false, fun x y h => f.results_of_nan_first h y,
      fun x y u hx hy => f.results_of_nan_second hx hy u, fun x y u h => f.fmaOf_nan_first h y u,
      fun x y u hx hy => ⟨f.fmaOf_nan_addend_cases hf hx hy, fun b =>
        ⟨f.fmaOf_inf_addend hf hx hy b, fun h => f.fmaOf_opposite hf hy h b⟩⟩,
      f.classOf_inf hf, hrcpZero, hrcpInf false, hrcpInf true, hrsqZero, hrsqPos, hrsqNeg, hexpNeg, hexpPos, hlogZero,
      hlogNeg, hlogPos⟩
  case fused =>
    intro f hmem x y u
    have hf := sane_of_mem hmem
    exact ⟨f.fmaOf_zero hf x y, f.fmaOf_one hf (one_lt_lim_of_mem hmem) x u⟩

end Sys2Proof.Machine
